-- ==== Sys2Proof/Word.lean ====
section
/-! DEFINITION. The word types of ZVA and their plainest arithmetic (spec/00_scope.md R4). -/

namespace Sys2Proof

/-- A byte (R4). -/
abbrev Byte := BitVec 8

/-- A 32-bit word of the instruction stream (R4, R54). -/
abbrev Word := BitVec 32

/-- The content of a 64-bit general register (R93). -/
abbrev DWord := BitVec 64

/-- A party ID (R5). -/
abbrev Party := BitVec 24

end Sys2Proof
end

