-- ==== Sys2Proof/Config.lean ====
section
/-! DEFINITION. What the spec leaves to the part, and the free values (notes/assumptions/5.md): constants without a body. -/

namespace Sys2Proof.Config

/-- The FV-7's implementation code (R293). [DESIGN CHOICE: notes/assumptions/9.md] -/
def implCode : Nat := 1

/-- A free value: one that the spec leaves open. The argument is the counter `State.free`, so each use has a value of its
own, and nothing in Lean can evaluate it. [DESIGN CHOICE: notes/assumptions/5.md] -/
opaque freeValue : Nat → DWord

/-- A free number that says where, within the error bound of R52, the results of a special function in FP32 pass to the next
code ("the same input, format and mode give the same result on every core", so it is a function of them): function, format
tag of the source, FP32 code, rounding mode. [DESIGN CHOICE: notes/assumptions/18.md]
[DESIGN CHOICE: notes/assumptions/5.md] -/
opaque freeSpecial : Nat → Nat → Nat → Nat → Nat

/-- The 64-bit words of the parts of a task image whose contents the spec names and whose layout it leaves open (Table 10-9):
part, contents, number of the word. [DESIGN CHOICE: notes/assumptions/51.md] -/
opaque imageWord : Nat → List Nat → Nat → DWord

/-- A free choice between two k-block sums of an unordered chain that may be added next (R50): command, element, position. -/
opaque freeOrder : Nat → Nat → Nat → Bool

/-- A prediction block of a decoded picture as the standard gives it (R394): the vector of its first reference in quarter samples
with its index, of list 0 and of list 1, and its kind. -/
structure Block where
  list0 : Option (BitVec 16 × BitVec 16 × BitVec 8)
  list1 : Option (BitVec 16 × BitVec 16 × BitVec 8)
  intra : Bool
  skip : Bool
  deriving Inhabited

/-- Profiles of Table 17-2; every other profile is one thing. -/
inductive Profile where
  | constrainedBaseline | main | main10 | high | other
  deriving DecidableEq, Repr, Inhabited

/-- What the decoding process of a standard gives for one unit (R388 to R394): profile and level (in tenths), the size of the
sequence's largest picture, whether it uses field pictures, MBAFF or large-scale tile, or another tool outside the standard's
profile; whether it shows a picture, and one that exists already; the picture, whether it is monochrome, the samples of the most
recent picture of the state, the prediction block that covers a luma sample, the luma residual, the cells that are concealed; and
the decoder state after it, by offset. [DESIGN CHOICE: notes/assumptions/47.md] -/
structure Decoded where
  profile : Profile
  level : Nat
  seqWidth : Nat
  seqHeight : Nat
  fields : Bool
  mbaff : Bool
  largeScale : Bool
  outside : Bool
  shown : Bool
  existing : Bool
  width : BitVec 16
  height : BitVec 16
  ten : Bool
  mono : Bool
  poc : Word
  luma : Nat → Nat → BitVec 16
  chroma : Nat → Nat → BitVec 16 × BitVec 16
  recent : Option ((Nat → Nat → BitVec 16) × (Nat → Nat → BitVec 16 × BitVec 16))
  block : Nat → Nat → Block
  residual : Nat → Nat → Int
  concealed : Nat → Nat → Bool
  state : List (Nat × Byte)
  deriving Inhabited

/-- The decoding process of a standard, which the spec names and does not state (R388): codec, RESET, the unit's length and its
bytes by offset, the state area's bytes by offset. [DESIGN CHOICE: notes/assumptions/47.md] -/
opaque decodeUnit : Nat → Bool → Nat → List (Nat × Byte) → List (Nat × Byte) → Decoded

/-- What a coded picture depends on (R402): standard, sample depth, width, height, quantiser, and whether it is intra. -/
structure EncodeMode where
  codec : Nat
  ten : Bool
  width : Nat
  height : Nat
  qp : Nat
  intra : Bool
  deriving DecidableEq, Repr, Inhabited

/-- The coded unit of a picture and the state area after it, which the spec does not state (R402): the mode, the picture's bytes by
offset, and the state area's bytes by offset, none for an intra picture. [DESIGN CHOICE: notes/assumptions/47.md] -/
opaque encodeUnit : EncodeMode → List (Nat × Byte) → List (Nat × Byte) → List Byte × List (Nat × Byte)

/-- Where in its state area an encoder keeps the number of pictures coded since RESET (R402), as an offset below 1 MiB.
[DESIGN CHOICE: notes/assumptions/47.md] -/
opaque encodeCountAt : Nat

/-- The certificate chain of SPDM slot 0, and a measurement by its number, the two firmware images' bytes, HOFF and the device
modes (R431): the spec fixes no digest's bytes. -/
opaque certificates : List Byte
opaque measurement : Nat → List Byte → List Byte → Nat → Bool × Bool → List Byte

/-- The home die of a frame (R357): bits 38:37 of its physical address. [DEDUCED: notes/assumptions/90.md] -/
def homeDie (pa : Nat) : Nat := pa / 2 ^ 37 % 4

end Sys2Proof.Config
end

