-- ==== Sys2Proof/Syntax.lean ====
section
/-! DEFINITION. The syntax of ZVA: the fields of every instruction layout (spec/03_instruction_encoding.md) and one
constructor of Instr per row of spec/opcode_table.json. -/

namespace Sys2Proof

/-- The four strands of a task, in the order of Table 3-12. -/
inductive UnitId where
  | main | vector | copy | matrix
  deriving DecidableEq, Repr, Inhabited

/-- A strand: the number of its task in State and its unit. -/
structure StrandRef where
  task : Nat
  unit : UnitId
  deriving DecidableEq, Repr, Inhabited

/-- The guard fields PR and PN of a long form (R60). -/
structure Guard where
  pr : BitVec 7
  pn : Bool
  deriving DecidableEq, Repr, Inhabited

/-- The fields of a short form (Table 3-2). -/
structure Short where
  d : BitVec 6
  a : BitVec 6
  b : BitVec 6
  f : BitVec 4
  deriving DecidableEq, Repr, Inhabited

/-- Operand B of a layout that has the immediate flag or a literal form (R62, R63). -/
inductive Src where
  | code (c : BitVec 9)
  | imm (v : BitVec 18)
  | lit (w : Word)
  deriving DecidableEq, Repr, Inhabited

/-- The ALU layout (Table 3-8): scalar integer, scalar float, predicate, ccnt. -/
structure Alu where
  guard : Guard
  d : BitVec 9
  a : BitVec 9
  b : Src
  rnd : BitVec 3
  u : Bool
  sub : BitVec 4
  deriving DecidableEq, Repr, Inhabited

/-- The generic layout (Table 3-8). -/
structure Gen where
  guard : Guard
  d : BitVec 9
  a : BitVec 9
  b : Src
  fn : BitVec 9
  deriving DecidableEq, Repr, Inhabited

/-- The branch layout: {M, B} is the displacement (R74). -/
structure Br where
  guard : Guard
  d : BitVec 9
  a : BitVec 9
  disp : BitVec 28
  deriving DecidableEq, Repr, Inhabited

/-- The MEM layout (Table 3-9). -/
structure Mem where
  guard : Guard
  d : BitVec 9
  a : BitVec 9
  b : BitVec 9
  pol : Bool
  ord : BitVec 2
  scope : BitVec 3
  size : BitVec 2
  off : BitVec 11
  deriving DecidableEq, Repr, Inhabited

/-- The AMO layout (Table 3-9). -/
structure Amo where
  guard : Guard
  d : BitVec 9
  a : BitVec 9
  b : BitVec 9
  pol : Bool
  ord : BitVec 2
  scope : BitVec 3
  size : BitVec 2
  func : BitVec 4
  off : BitVec 7
  deriving DecidableEq, Repr, Inhabited

/-- The VEC layout (Table 3-10). -/
structure Vec where
  guard : Guard
  d : BitVec 9
  a : BitVec 9
  b : Src
  sub : BitVec 4
  toBit : Bool
  sat : Bool
  rnd : BitVec 3
  mask : BitVec 9
  deriving DecidableEq, Repr, Inhabited

/-- The MAT layout (Table 3-10, R205). -/
structure Mat where
  guard : Guard
  d : BitVec 9
  a : BitVec 9
  b : BitVec 9
  ord : Bool
  sp : Bool
  rnd : BitVec 3
  tb : BitVec 6
  ta : BitVec 6
  deriving DecidableEq, Repr, Inhabited

/-- The CPY layout (Table 3-10). -/
structure Cpy where
  guard : Guard
  d : BitVec 9
  a : BitVec 9
  b : BitVec 9
  slot : Bool
  sub : BitVec 4
  tag : BitVec 6
  rnd : BitVec 3
  ch : BitVec 2
  deriving DecidableEq, Repr, Inhabited

/-- A section header (Table 3-11a). -/
structure Header where
  sect : BitVec 12
  words : BitVec 14
  wait0 : BitVec 12
  wait1 : BitVec 12
  wait2 : BitVec 12
  deriving DecidableEq, Repr, Inhabited

/-- What a PCIe completion brings back for an outstanding access (R376, R378, R143). `served` is a successful completion
of a host access, whose data the model takes from host memory; `data` is a peer card's answer. -/
inductive LinkAnswer where
  | served
  | data (v : DWord)
  | unsupported
  | abort
  deriving DecidableEq, Repr, Inhabited

/-- The PCIe AtomicOps (R369). -/
inductive HostAtomic where
  | fetchAdd | swap | cas
  deriving DecidableEq, Repr, Inhabited

/-- What a peer request does at its target (R369, R374). -/
inductive PeerAct where
  | read (len : Nat)
  | write (bytes : List Byte)
  | atomic (f : HostAtomic) (size : Nat) (x y : DWord)
  deriving DecidableEq, Repr, Inhabited

/-- A peer request as a card receives it (R372). -/
structure PeerReq where
  port : Bool
  srcCard : BitVec 4
  srcCtx : BitVec 6
  dstCard : BitVec 4
  dstCtx : BitVec 6
  addr : BitVec 55
  act : PeerAct
  deriving DecidableEq, Repr, Inhabited

/-- A debug-unlock token as the controller finds it (R431): whether its signature and device identity hold, the nonce and
the die mask it names. -/
structure DebugToken where
  valid : Bool
  nonce : DWord
  dies : BitVec 4
  deriving DecidableEq, Repr, Inhabited

/-- What a patrol scrub finds (R19, "Soft errors"): corrected errors of the four dies, sectors with an uncorrectable one,
and hoops whose SRAMs have reached 16 uncorrectable errors. -/
structure ScrubReport where
  corrected : List Nat
  bad : List Nat
  hoops : List Nat
  deriving DecidableEq, Repr, Inhabited

/-- What the boot ROM finds (R431): image verdicts, hoops that fail their self-test, PTM time when the host gives it. -/
structure BootReport where
  mgmtA : Bool
  mgmtB : Bool
  frontA : Bool
  frontB : Bool
  failed : List Nat
  time : Option DWord
  deriving DecidableEq, Repr, Inhabited

/-- A write of the debug core block over the side band (Table 18-6) that carries a command. -/
structure DebugWrite where
  brk : Bool
  ctx : BitVec 6
  sel : Party
  regno : BitVec 16
  wr : Bool
  space : BitVec 3
  size : BitVec 2
  addr : DWord
  data : DWord
  reserved : Bool
  /-- no write: the command that is executing goes on -/
  again : Bool := false
  deriving DecidableEq, Repr, Inhabited

/-- The four kinds of front-end unit with the engine of the die (Table 17-1). -/
inductive FrontUnit where
  | decode (n : BitVec 3)
  | encode (n : BitVec 1)
  | flow (n : BitVec 1)
  | cmu
  deriving DecidableEq, Repr, Inhabited

/-- A buffer that is zeroed on change of owner (Table 5-6). -/
inductive ZeroPart where
  | granule (core n : Nat)
  | slot (hoop n : Nat)
  | acc (hoop n : Nat)
  deriving DecidableEq, Repr, Inhabited

/-- An edge record that another card's Cordonnet unit returns to a walk (R412): the ring's party and the record's four
64-bit words. -/
structure RemoteEdge where
  ring : Party
  w0 : DWord
  w1 : DWord
  w2 : DWord
  w3 : DWord
  deriving DecidableEq, Repr, Inhabited

/-- An SPDM 1.3 request (R431). -/
inductive SpdmReq where
  | certificates
  | measurement (n : BitVec 8)
  | nonce (fresh : DWord)
  deriving DecidableEq, Repr, Inhabited

/-- What names the object of a device event, and what the world outside decides in it. An event reads the fields its
docstring names and no others. -/
structure EventArg where
  /-- the task, by its number in State -/
  task : Nat := 0
  /-- the strand of the task -/
  unit : UnitId := .main
  /-- number of an outstanding access, request, launch, descriptor, frame or memory channel -/
  k : Nat := 0
  /-- copy channel -/
  ch : BitVec 2 := 0
  /-- engine beats done in this step; how far a copy or stream gets before its completion -/
  beats : Nat := 0
  ctx : BitVec 6 := 0
  queue : BitVec 10 := 0
  /-- a core, or the hoop of a hoop event -/
  core : Nat := 0
  die : BitVec 2 := 0
  /-- engine of the die -/
  eng : BitVec 3 := 0
  front : FrontUnit := .cmu
  port : BitVec 2 := 0
  width : BitVec 5 := 0
  partner : BitVec 4 := 0
  answer : LinkAnswer := .served
  /-- a verdict: self-test passed, signature valid -/
  pass : Bool := false
  samples : List (BitVec 17) := []
  layer : BitVec 3 := 0
  scrub : ScrubReport := ⟨[], [], []⟩
  boot : BootReport := ⟨true, true, true, true, [], none⟩
  token : DebugToken := ⟨false, 0, 0⟩
  dbg : DebugWrite := ⟨false, 0, 0, 0, false, 0, 0, 0, 0, false, false⟩
  mask : BitVec 4 := 0
  remote : List RemoteEdge := []
  /-- cards that can be reached through peer port 0, and through peer port 1, by number -/
  reach0 : BitVec 16 := 0
  reach1 : BitVec 16 := 0
  bar2 : Bool := false
  off : Nat := 0
  len : Nat := 0
  bytes : List Byte := []
  atomic : HostAtomic := .fetchAdd
  size : Nat := 8
  x : DWord := 0
  y : DWord := 0
  peer : PeerReq := ⟨false, 0, 0, 0, 0, 0, .read 0⟩
  src : Party := 0
  zero : ZeroPart := .granule 0 0
  time : DWord := 0
  spdm : SpdmReq := .certificates
  /-- cycles a wait of the event lasts -/
  cycles : Nat := 0
  deriving DecidableEq, Repr, Inhabited


/-- One constructor per row of spec/opcode_table.json: the instruction rows in table order with the fields of their
layout, the section header and the unassigned opcode, then the device events, which read what names their object from the
state (`EventArg`). -/
inductive Instr where
  /-- NOP (R99, opcode 0x00): Short form of nop: does nothing. -/
  | nop (x : Short)
  /-- NOP_LONG (R99, opcode 0x00): Long form of nop: does nothing, under a guard. -/
  | nopLong (x : Alu)
  /-- ADD (R99, opcode 0x01): Short form of add: writes Shape(a + b) to gD. -/
  | add (x : Short)
  /-- ADD_LONG (R99, opcode 0x01): Long or literal form of add, with guard, immediate or literal, U, W and SAT. -/
  | addLong (x : Alu)
  /-- SUB (R99, opcode 0x02): Short form of sub: writes Shape(a - b). -/
  | sub (x : Short)
  /-- SUB_LONG (R99, opcode 0x02): Long or literal form of sub. -/
  | subLong (x : Alu)
  /-- MUL (R99, opcode 0x03): Short form of mul: writes the low bits of a x b. -/
  | mul (x : Short)
  /-- MUL_LONG (R99, opcode 0x03): Long or literal form of mul. -/
  | mulLong (x : Alu)
  /-- MULH (R99, opcode 0x04): Short form of mulh: writes the high half of a x b. -/
  | mulh (x : Short)
  /-- MULH_LONG (R99, opcode 0x04): Long or literal form of mulh. -/
  | mulhLong (x : Alu)
  /-- DIV (R100, opcode 0x05): Short form of div: writes the quotient rounded toward zero, with the divide-by-zero and overflow cases. -/
  | div (x : Short)
  /-- DIV_LONG (R100, opcode 0x05): Long or literal form of div. -/
  | divLong (x : Alu)
  /-- REM (R100, opcode 0x06): Short form of rem: writes the remainder with the sign of a. -/
  | rem (x : Short)
  /-- REM_LONG (R100, opcode 0x06): Long or literal form of rem. -/
  | remLong (x : Alu)
  /-- AND (R99, opcode 0x07): Short form of and: bitwise AND. -/
  | and (x : Short)
  /-- AND_LONG (R99, opcode 0x07): Long or literal form of and. -/
  | andLong (x : Alu)
  /-- OR (R99, opcode 0x08): Short form of or: bitwise OR. -/
  | or (x : Short)
  /-- OR_LONG (R99, opcode 0x08): Long or literal form of or. -/
  | orLong (x : Alu)
  /-- XOR (R99, opcode 0x09): Short form of xor: bitwise XOR. -/
  | xor (x : Short)
  /-- XOR_LONG (R99, opcode 0x09): Long or literal form of xor. -/
  | xorLong (x : Alu)
  /-- ANDN (R99, opcode 0x0A): Short form of andn: a AND NOT b. -/
  | andn (x : Short)
  /-- ANDN_LONG (R99, opcode 0x0A): Long or literal form of andn. -/
  | andnLong (x : Alu)
  /-- SHL (R99, opcode 0x0B): Short form of shl: shifts a left. -/
  | shl (x : Short)
  /-- SHL_LONG (R99, opcode 0x0B): Long or literal form of shl. -/
  | shlLong (x : Alu)
  /-- SHR (R99, opcode 0x0C): Short form of shr: logical right shift. -/
  | shr (x : Short)
  /-- SHR_LONG (R99, opcode 0x0C): Long or literal form of shr. -/
  | shrLong (x : Alu)
  /-- SAR (R99, opcode 0x0D): Short form of sar: arithmetic right shift. -/
  | sar (x : Short)
  /-- SAR_LONG (R99, opcode 0x0D): Long or literal form of sar. -/
  | sarLong (x : Alu)
  /-- ROT (R99, opcode 0x0E): Short form of rot: rotates a left. -/
  | rot (x : Short)
  /-- ROT_LONG (R99, opcode 0x0E): Long or literal form of rot. -/
  | rotLong (x : Alu)
  /-- MIN (R99, opcode 0x0F): Short form of min: the smaller of a and b. -/
  | min (x : Short)
  /-- MIN_LONG (R99, opcode 0x0F): Long or literal form of min. -/
  | minLong (x : Alu)
  /-- MAX (R99, opcode 0x10): Short form of max: the larger of a and b. -/
  | max (x : Short)
  /-- MAX_LONG (R99, opcode 0x10): Long or literal form of max. -/
  | maxLong (x : Alu)
  /-- ABS (R99, opcode 0x11): Short form of abs: absolute value of a. -/
  | abs (x : Short)
  /-- ABS_LONG (R99, opcode 0x11): Long form of abs. -/
  | absLong (x : Alu)
  /-- CLZ (R99, opcode 0x12): Short form of clz: counts leading zeros. -/
  | clz (x : Short)
  /-- CLZ_LONG (R99, opcode 0x12): Long form of clz. -/
  | clzLong (x : Alu)
  /-- CTZ (R99, opcode 0x13): Short form of ctz: counts trailing zeros. -/
  | ctz (x : Short)
  /-- CTZ_LONG (R99, opcode 0x13): Long form of ctz. -/
  | ctzLong (x : Alu)
  /-- POPC (R99, opcode 0x14): Short form of popc: counts ones. -/
  | popc (x : Short)
  /-- POPC_LONG (R99, opcode 0x14): Long form of popc. -/
  | popcLong (x : Alu)
  /-- BFX (R101, opcode 0x15): Short form of bfx: extracts a bit field and sign-extends it. -/
  | bfx (x : Short)
  /-- BFX_LONG (R101, opcode 0x15): Long or literal form of bfx. -/
  | bfxLong (x : Alu)
  /-- BFI (R101, opcode 0x16): Short form of bfi: inserts a bit field into D. -/
  | bfi (x : Short)
  /-- BFI_LONG (R101, opcode 0x16): Long or literal form of bfi. -/
  | bfiLong (x : Alu)
  /-- SEL (R99, opcode 0x17): Short form of sel: selects A or B by predicate p0-p15. -/
  | sel (x : Short)
  /-- SEL_LONG (R99, opcode 0x17): Long form of sel. -/
  | selLong (x : Alu)
  /-- MOV (R99, opcode 0x18): Short form of mov: copies A to D. -/
  | mov (x : Short)
  /-- MOV_LONG (R99, opcode 0x18): Long form of mov. -/
  | movLong (x : Alu)
  /-- MOVI (R102, opcode 0x19): Writes an 18-bit immediate or a 32-bit literal, sign- or zero-extended, to gD. -/
  | movi (x : Alu)
  /-- MOVI_HI (R102, opcode 0x19): Literal-only movi.hi: writes the literal to bits 63:32 of gD, keeping bits 31:0. -/
  | moviHi (x : Alu)
  /-- LEA (R99, opcode 0x1A): Short form of lea: A + (B << shift). -/
  | lea (x : Short)
  /-- LEA_LONG (R99, opcode 0x1A): Long or literal form of lea. -/
  | leaLong (x : Alu)
  /-- CMP (R103, opcode 0x1B): Short form of cmp: writes a predicate with an integer comparison. -/
  | cmp (x : Short)
  /-- CMP_LONG (R103, opcode 0x1B): Long or literal form of cmp. -/
  | cmpLong (x : Alu)
  /-- FADD (R104, opcode 0x20): Short form of fadd: FP32 addition rounded by fcsr. -/
  | fadd (x : Short)
  /-- FADD_LONG (R104, opcode 0x20): Long or literal form of fadd, with FP64 and a rounding override. -/
  | faddLong (x : Alu)
  /-- FSUB (R104, opcode 0x21): Short form of fsub. -/
  | fsub (x : Short)
  /-- FSUB_LONG (R104, opcode 0x21): Long or literal form of fsub. -/
  | fsubLong (x : Alu)
  /-- FMUL (R104, opcode 0x22): Short form of fmul. -/
  | fmul (x : Short)
  /-- FMUL_LONG (R104, opcode 0x22): Long or literal form of fmul. -/
  | fmulLong (x : Alu)
  /-- FFMA (R104, opcode 0x23): Short form of ffma: fused multiply-add, rounded once. -/
  | ffma (x : Short)
  /-- FFMA_LONG (R104, opcode 0x23): Long or literal form of ffma. -/
  | ffmaLong (x : Alu)
  /-- FMIN (R105, opcode 0x24): Short form of fmin. -/
  | fmin (x : Short)
  /-- FMIN_LONG (R105, opcode 0x24): Long or literal form of fmin. -/
  | fminLong (x : Alu)
  /-- FMAX (R105, opcode 0x25): Short form of fmax. -/
  | fmax (x : Short)
  /-- FMAX_LONG (R105, opcode 0x25): Long or literal form of fmax. -/
  | fmaxLong (x : Alu)
  /-- FCMP (R103, opcode 0x26): Short form of fcmp: writes a predicate with a float comparison. -/
  | fcmp (x : Short)
  /-- FCMP_LONG (R103, opcode 0x26): Long or literal form of fcmp. -/
  | fcmpLong (x : Alu)
  /-- FCVT (R104, opcode 0x27): Short form of fcvt: converts between float precisions and 64- or 32-bit integers. -/
  | fcvt (x : Short)
  /-- FCVT_LONG (R104, opcode 0x27): Long form of fcvt. -/
  | fcvtLong (x : Alu)
  /-- FDIV (R105, opcode 0x28): Short form of fdiv. -/
  | fdiv (x : Short)
  /-- FDIV_LONG (R105, opcode 0x28): Long or literal form of fdiv. -/
  | fdivLong (x : Alu)
  /-- FSQRT (R104, opcode 0x29): Short form of fsqrt. -/
  | fsqrt (x : Short)
  /-- FSQRT_LONG (R104, opcode 0x29): Long form of fsqrt. -/
  | fsqrtLong (x : Alu)
  /-- FNEG (R105, opcode 0x2A): Short form of fneg: inverts or clears the sign. -/
  | fneg (x : Short)
  /-- FNEG_LONG (R105, opcode 0x2A): Long form of fneg. -/
  | fnegLong (x : Alu)
  /-- FCLASS (R106, opcode 0x2B): Short form of fclass: tests the class of a float into a predicate. -/
  | fclass (x : Short)
  /-- FCLASS_LONG (R106, opcode 0x2B): Long form of fclass. -/
  | fclassLong (x : Alu)
  /-- PAND (R107, opcode 0x30): Short form of pand. -/
  | pand (x : Short)
  /-- PAND_LONG (R107, opcode 0x30): Long form of pand. -/
  | pandLong (x : Alu)
  /-- POR (R107, opcode 0x31): Short form of por. -/
  | por (x : Short)
  /-- POR_LONG (R107, opcode 0x31): Long form of por. -/
  | porLong (x : Alu)
  /-- PXOR (R107, opcode 0x32): Short form of pxor. -/
  | pxor (x : Short)
  /-- PXOR_LONG (R107, opcode 0x32): Long form of pxor. -/
  | pxorLong (x : Alu)
  /-- PNOT (R107, opcode 0x33): Short form of pnot. -/
  | pnot (x : Short)
  /-- PNOT_LONG (R107, opcode 0x33): Long form of pnot. -/
  | pnotLong (x : Alu)
  /-- PMOV (R107, opcode 0x34): Short form of pmov: moves a predicate, or a 32-predicate bank to or from a g register. -/
  | pmov (x : Short)
  /-- PMOV_LONG (R107, opcode 0x34): Long form of pmov. -/
  | pmovLong (x : Alu)
  /-- PSET (R107, opcode 0x35): Short form of pset: sets a predicate to 0, to 1, or from gA being non-zero or zero. -/
  | pset (x : Short)
  /-- PSET_LONG (R107, opcode 0x35): Long form of pset. -/
  | psetLong (x : Alu)
  /-- BR (R109, opcode 0x38): Short form of br: PC-relative branch with a 22-bit displacement. -/
  | br (disp : BitVec 22)
  /-- BR_LONG (R109, opcode 0x38): Long form of br: guarded branch with a 28-bit displacement. -/
  | brLong (x : Br)
  /-- BRR (R109, opcode 0x39): Branches to gA and writes the return address to gD. -/
  | brr (x : Gen)
  /-- CALL (R109, opcode 0x3A): Short form of call: links g31 and branches. -/
  | call (disp : BitVec 22)
  /-- CALL_LONG (R109, opcode 0x3A): Long form of call: links gD and branches. -/
  | callLong (x : Br)
  /-- RET (R109, opcode 0x3B): Short form of ret: PC <- gA. -/
  | ret (x : Short)
  /-- RET_LONG (R109, opcode 0x3B): Long form of ret. -/
  | retLong (x : Gen)
  /-- LOOP (R108, opcode 0x3C): Pushes (N, 0) on the loop-index stack, or skips to the label when N = 0. -/
  | loop (x : Br)
  /-- BLOOP (R108, opcode 0x3D): Short form of bloop: increments i, rotates the bases and loops back or pops. -/
  | bloop (disp : BitVec 22)
  /-- BLOOP_LONG (R108, opcode 0x3D): Long form of bloop. -/
  | bloopLong (x : Br)
  /-- LBRK (R108, opcode 0x3E): Pops the loop-index stack and branches without rotation. -/
  | lbrk (x : Br)
  /-- RBSET (R110, opcode 0x3F): Writes the selected rotation bases. -/
  | rbset (x : Gen)
  /-- FORK (R111, opcode 0x40): Starts an Idle or Halted engine strand at an entry. -/
  | fork (x : Gen)
  /-- JOIN (R111, opcode 0x41): Waits for the named strands and their engine commands, then makes Rendezvous strands Idle. -/
  | join (x : Gen)
  /-- RDV (R111, opcode 0x42): Short form of rdv: the engine strand enters Rendezvous. -/
  | rdv (x : Short)
  /-- RDV_LONG (R111, opcode 0x42): Long form of rdv. -/
  | rdvLong (x : Gen)
  /-- HALT (R111, opcode 0x43): Short form of halt: halts an engine strand, or ends the task or makes a debug stop from the main strand. -/
  | halt (x : Short)
  /-- HALT_LONG (R111, opcode 0x43): Long form of halt. -/
  | haltLong (x : Gen)
  /-- EXIT (R112, opcode 0x44): Ends the task without a successor, after the carve stall. -/
  | exit (x : Gen)
  /-- EXIT_SUCC (R323, opcode 0x44): Ends the task and continues it as a successor code object. -/
  | exitSucc (x : Gen)
  /-- QBIND (R119, opcode 0x48): Binds an Unbound queue register with element size, producer and consumer. -/
  | qbind (x : Gen)
  /-- QFREE (R119, opcode 0x49): Stops a stream queue or discards a Bound queue's contents, making it Unbound. -/
  | qfree (x : Gen)
  /-- QSTAT (R119, opcode 0x4A): Reads a queue's status word. -/
  | qstat (x : Gen)
  /-- STBIND (R249, opcode 0x4B): Reads a stream descriptor and binds a queue as a stream fed by a copy channel. -/
  | stbind (x : Gen)
  /-- STSTOP (R119, opcode 0x4C): Stops a stream's channel after the beat in flight. -/
  | ststop (x : Gen)
  /-- LDP (R137, opcode 0x50): Loads from the private carve, or from G beyond it. -/
  | ldp (x : Mem)
  /-- STP (R137, opcode 0x51): Stores to the private carve, or to G beyond it. -/
  | stp (x : Mem)
  /-- LDS (R137, opcode 0x52): Loads from the task's own scratchpad. -/
  | lds (x : Mem)
  /-- STS (R137, opcode 0x53): Stores to the task's own scratchpad, invalidating overlapped residency entries. -/
  | sts (x : Mem)
  /-- LDN (R137, opcode 0x54): Loads from a group member's scratchpad. -/
  | ldn (x : Mem)
  /-- STN (R137, opcode 0x55): Stores to a group member's scratchpad. -/
  | stn (x : Mem)
  /-- LDG (R137, opcode 0x56): Loads from device memory through translation and the caches. -/
  | ldg (x : Mem)
  /-- STG (R137, opcode 0x57): Stores to device memory. -/
  | stg (x : Mem)
  /-- LDX (R137, opcode 0x58): Loads from a peer card through an aperture. -/
  | ldx (x : Mem)
  /-- STX (R137, opcode 0x59): Stores to a peer card through an aperture. -/
  | stx (x : Mem)
  /-- LDH (R137, opcode 0x5A): Loads from host memory. -/
  | ldh (x : Mem)
  /-- STH (R137, opcode 0x5B): Stores to host memory. -/
  | sth (x : Mem)
  /-- AMS (R141, opcode 0x5C): Atomic read-modify-write on the own scratchpad. -/
  | ams (x : Amo)
  /-- AMN (R141, opcode 0x5D): Atomic on a group member's scratchpad. -/
  | amn (x : Amo)
  /-- AMG (R141, opcode 0x5E): Atomic on device memory at the home L2. -/
  | amg (x : Amo)
  /-- AMX (R143, opcode 0x5F): Atomic on peer memory as a PCIe AtomicOp. -/
  | amx (x : Amo)
  /-- AMH (R143, opcode 0x60): Atomic on host memory as a PCIe AtomicOp. -/
  | amh (x : Amo)
  /-- QMARK (R144, opcode 0x61): Ordering marker of a scope in the load and store queues. -/
  | qmark (x : Gen)
  /-- RFENCE (R145, opcode 0x62): Waits for older stores and invalidates record-cache entries over a scope. -/
  | rfence (x : Gen)
  /-- CFLUSH (R146, opcode 0x63): Writes back and/or invalidates a G range in the caches. -/
  | cflush (x : Mem)
  /-- PFCH (R147, opcode 0x64): Prefetch hint for a G range. -/
  | pfch (x : Mem)
  /-- TLWAIT (R353, opcode 0x68): Waits until a timeline reaches a threshold, with an acquire. -/
  | tlwait (x : Gen)
  /-- TLINC (R353, opcode 0x69): Indivisibly adds to a timeline with a release. -/
  | tlinc (x : Gen)
  /-- TLREAD (R353, opcode 0x6A): Reads a timeline at its home with an acquire. -/
  | tlread (x : Gen)
  /-- TLSET (R353, opcode 0x6B): Privileged write of a timeline with a release. -/
  | tlset (x : Gen)
  /-- BAR (R345, opcode 0x6C): Arrives at a group barrier and stalls until the phase completes. -/
  | bar (x : Gen)
  /-- BARX (R345, opcode 0x6D): Arrives at a group barrier expecting posted copy bytes. -/
  | barx (x : Gen)
  /-- CWAIT (R247, opcode 0x6E): Waits for a copy channel's DONE to reach a transfer identifier. -/
  | cwait (x : Gen)
  /-- CPSTAT (R248, opcode 0x6F): Reads a copy channel's DONE, ISSUED, status word or fault address. -/
  | cpstat (x : Gen)
  /-- LAUNCH (R326, opcode 0x70): Reads a launch record and submits a device launch to a queue. -/
  | launch (x : Gen)
  /-- RSDECL (R328, opcode 0x71): Declares a residency entry for a tile in the carve. -/
  | rsdecl (x : Gen)
  /-- RSDROP (R329, opcode 0x72): Frees owned residency entries matching a key, or all. -/
  | rsdrop (x : Gen)
  /-- RSREAD (R330, opcode 0x73): Looks up an owned residency entry. -/
  | rsread (x : Gen)
  /-- TLNEXT (R327, opcode 0x74): Delivers the task's tile-list entry once. -/
  | tlnext (x : Gen)
  /-- CPMARK_BEG (R410, opcode 0x78): Opens a step with a new step ID and writes a begin mark. -/
  | cpmarkBeg (x : Gen)
  /-- CPMARK_END (R410, opcode 0x78): Writes an end mark, enqueues the step for its walk and closes it. -/
  | cpmarkEnd (x : Gen)
  /-- TMARK (R411, opcode 0x79): Posts a type-1 trace packet. -/
  | tmark (x : Gen)
  /-- BRK (R411, opcode 0x7A): Makes a debug stop when attached, else raises a breakpoint trap. -/
  | brk (x : Gen)
  /-- CCNT (R411, opcode 0x7B): Short form of ccnt: reads the cycle counter or the charged run time. -/
  | ccnt (x : Short)
  /-- CCNT_LONG (R411, opcode 0x7B): Long form of ccnt. -/
  | ccntLong (x : Alu)
  /-- SYS (R282, opcode 0x7C): Raises a system-call trap past itself. -/
  | sys (x : Gen)
  /-- TRAP (R282, opcode 0x82): Raises a software trap at itself. -/
  | trap (x : Gen)
  /-- ERET (R283, opcode 0x7D): Returns from a trap handler to tpc and restores the level. -/
  | eret (x : Gen)
  /-- CSRR (R284, opcode 0x7E): Reads a CSR. -/
  | csrr (x : Gen)
  /-- CSRW (R284, opcode 0x7F): Writes a CSR. -/
  | csrw (x : Gen)
  /-- OVTLD (R285, opcode 0x80): Loads the context's overflow table from a register pair. -/
  | ovtld (x : Gen)
  /-- TLBINV (R286, opcode 0x81): Invalidates translations of the context on every die. -/
  | tlbinv (x : Gen)
  /-- VADD (R167, opcode 0x90): Element-wise vector addition over spans. -/
  | vadd (x : Vec)
  /-- VSUB (R167, opcode 0x91): Element-wise vector subtraction. -/
  | vsub (x : Vec)
  /-- VMUL (R167, opcode 0x92): Element-wise vector multiplication. -/
  | vmul (x : Vec)
  /-- VFMA (R167, opcode 0x93): Element-wise fused multiply-add. -/
  | vfma (x : Vec)
  /-- VMIN (R162, opcode 0x94): Element-wise minimum. -/
  | vmin (x : Vec)
  /-- VMAX (R162, opcode 0x95): Element-wise maximum. -/
  | vmax (x : Vec)
  /-- VABS (R162, opcode 0x96): Element-wise absolute value. -/
  | vabs (x : Vec)
  /-- VNEG (R162, opcode 0x97): Element-wise negation. -/
  | vneg (x : Vec)
  /-- VCMP (R168, opcode 0x98): Element-wise comparison into a MASK1 span. -/
  | vcmp (x : Vec)
  /-- VSEL (R167, opcode 0x99): Selects elements of A or B by mask. -/
  | vsel (x : Vec)
  /-- VCVT (R169, opcode 0x9A): Converts elements into the destination's format. -/
  | vcvt (x : Vec)
  /-- VAND (R167, opcode 0x9B): Element-wise bitwise AND. -/
  | vand (x : Vec)
  /-- VOR (R167, opcode 0x9C): Element-wise bitwise OR. -/
  | vor (x : Vec)
  /-- VXOR (R167, opcode 0x9D): Element-wise bitwise XOR. -/
  | vxor (x : Vec)
  /-- VSHL (R167, opcode 0x9E): Element-wise left shift. -/
  | vshl (x : Vec)
  /-- VSHR (R167, opcode 0x9F): Element-wise right shift. -/
  | vshr (x : Vec)
  /-- VCLAMP (R167, opcode 0xA0): Clamps elements between B[0] and B[1]. -/
  | vclamp (x : Vec)
  /-- VEXP (R170, opcode 0xA1): Element-wise e^x. -/
  | vexp (x : Vec)
  /-- VEXP2 (R170, opcode 0xA2): Element-wise 2^x. -/
  | vexp2 (x : Vec)
  /-- VLOG (R170, opcode 0xA3): Element-wise natural logarithm. -/
  | vlog (x : Vec)
  /-- VLOG2 (R170, opcode 0xA4): Element-wise base-2 logarithm. -/
  | vlog2 (x : Vec)
  /-- VRCP (R170, opcode 0xA5): Element-wise reciprocal. -/
  | vrcp (x : Vec)
  /-- VRSQ (R170, opcode 0xA6): Element-wise reciprocal square root. -/
  | vrsq (x : Vec)
  /-- VSQRT (R170, opcode 0xA7): Element-wise square root. -/
  | vsqrt (x : Vec)
  /-- VTANH (R170, opcode 0xA8): Element-wise hyperbolic tangent. -/
  | vtanh (x : Vec)
  /-- VSIGM (R170, opcode 0xA9): Element-wise sigmoid. -/
  | vsigm (x : Vec)
  /-- VRED (R173, opcode 0xAA): Reduces contributing elements by a fixed tree into D[0]. -/
  | vred (x : Vec)
  /-- VSCAN (R174, opcode 0xAB): Inclusive scan by the fixed tree. -/
  | vscan (x : Vec)
  /-- VDOT (R175, opcode 0xAC): Dot product by the fixed tree into D[0]. -/
  | vdot (x : Vec)
  /-- VPERM (R176, opcode 0xAD): Permutes A by an index span modulo its count. -/
  | vperm (x : Vec)
  /-- VGATH (R176, opcode 0xAE): Gathers A by index, writing zero out of range. -/
  | vgath (x : Vec)
  /-- VSCAT (R176, opcode 0xAF): Scatters A into D by index. -/
  | vscat (x : Vec)
  /-- VMOV (R167, opcode 0xB0): Copies elements bit for bit, with the scale stream for block-scaled D. -/
  | vmov (x : Vec)
  /-- VFILL (R171, opcode 0xB1): Fills a span with a constant, or with an iota sequence. -/
  | vfill (x : Vec)
  /-- VISECT (R180, opcode 0xB2): Intersects two sorted lists, counting or listing common elements. -/
  | visect (x : Vec)
  /-- VHASH (R181, opcode 0xB3): Probes or inserts keys in an open-addressing table. -/
  | vhash (x : Vec)
  /-- VCNT (R178, opcode 0xB4): Counts ones or non-zero elements into D[0]. -/
  | vcnt (x : Vec)
  /-- VCMPR (R177, opcode 0xB5): Compresses the mask-selected elements of A into D. -/
  | vcmpr (x : Vec)
  /-- VSCALE (R179, opcode 0xB6): Applies explicit block scales to elements. -/
  | vscale (x : Vec)
  /-- SDEF (R183, opcode 0xB8): Writes a whole span descriptor from gA. -/
  | sdef (x : Gen)
  /-- SSET (R183, opcode 0xB9): Writes one field of a span descriptor. -/
  | sset (x : Gen)
  /-- SGET (R183, opcode 0xBA): Reads one field, or the whole, of a span descriptor. -/
  | sget (x : Gen)
  /-- SADV (R183, opcode 0xBB): Advances a span's BASE by elements or bytes. -/
  | sadv (x : Gen)
  /-- SFMT (R184, opcode 0xBC): Re-tags a span and rescales its count. -/
  | sfmt (x : Gen)
  /-- MLEASE (R207, opcode 0xC0): Requests the hoop matrix lease, or clears a release-pending mark. -/
  | mlease (x : Mat)
  /-- MFREE (R207, opcode 0xC1): Marks a lease release pending and enters the matrix queue. -/
  | mfree (x : Mat)
  /-- MCLAIM (R207, opcode 0xC2): Binds logical slots or accumulators to reserved units. -/
  | mclaim (x : Mat)
  /-- MREL (R207, opcode 0xC3): Unbinds logical slots or accumulators. -/
  | mrel (x : Mat)
  /-- MLOAD (R210, opcode 0xC4): Fills an accumulator from scratchpad. -/
  | mload (x : Mat)
  /-- MBEG (R198, opcode 0xC5): Opens a matrix chain, optionally ordered. -/
  | mbeg (x : Mat)
  /-- MEND (R198, opcode 0xC6): Closes the matrix chain. -/
  | mend (x : Mat)
  /-- MMUL (R208, opcode 0xC7): Accumulates a 128x128xK product into an accumulator. -/
  | mmul (x : Mat)
  /-- MZERO (R209, opcode 0xC8): Sets an accumulator to +0. -/
  | mzero (x : Mat)
  /-- MSTORE (R211, opcode 0xC9): Converts an accumulator into scratchpad. -/
  | mstore (x : Mat)
  /-- MBMAP (R212, opcode 0xCA): Loads a slot's bitmap store from scratchpad. -/
  | mbmap (x : Mat)
  /-- MSTAT (R207, opcode 0xCB): Reads the task's matrix status word. -/
  | mstat (x : Mat)
  /-- CPY (R240, opcode 0xD0): Copies bytes between a span or slot and memory. -/
  | cpy (x : Cpy)
  /-- CPT (R241, opcode 0xD1): Fetches or writes one tile through a layout record. -/
  | cpt (x : Cpy)
  /-- CPG (R242, opcode 0xD2): Fetches the tiles named by a tile list. -/
  | cpg (x : Cpy)
  /-- CPS (R242, opcode 0xD3): Writes the tiles named by a tile list. -/
  | cps (x : Cpy)
  /-- CPM (R243, opcode 0xD4): Fetches a tile shifted by its entry's motion vector. -/
  | cpm (x : Cpy)
  /-- CPC (R234, opcode 0xD5): Fetches or writes a tile with format conversion or codebook expansion. -/
  | cpc (x : Cpy)
  /-- CPZ (R244, opcode 0xD6): Fills a span or slot with zero or the pad element. -/
  | cpz (x : Cpy)
  /-- CPK (R245, opcode 0xD7): Pushes codebook tables into a channel's table queue. -/
  | cpk (x : Cpy)
  /-- VDEC (R383, opcode 0xE0): Enqueues a decode run. -/
  | vdec (x : Gen)
  /-- VENC (R383, opcode 0xE1): Enqueues an encode run. -/
  | venc (x : Gen)
  /-- FLOW (R383, opcode 0xE2): Enqueues a flow run. -/
  | flow (x : Gen)
  /-- CMRUN (R383, opcode 0xE3): Enqueues a change-masking run. -/
  | cmrun (x : Gen)
  /-- SECTION_HEADER (R79): A strand reaches a section header and checks SECT, updates RS and XS and applies its waits. -/
  | sectionHeader (h : Header)
  /-- UNASSIGNED_OPCODE (R84): A strand decodes a word whose opcode is unassigned, or a length form that its opcode lacks, and takes the illegal-instruction trap. -/
  | unassignedOpcode (w : Word)
  /-- SECTION_WAIT_SATISFIED (R79): The waited-on strand's RS reaches the wait and the section starts issuing. -/
  | sectionWaitSatisfied
  /-- QUEUE_POP_RESUME (R115): An element arrives in an empty queue and the stalled pop proceeds. -/
  | queuePopResume
  /-- QUEUE_PUSH_RESUME (R116): Room frees in a full queue and the stalled push proceeds. -/
  | queuePushResume
  /-- JOIN_COMPLETE (R111): The strands and commands named by a join finish and the join retires. -/
  | joinComplete
  /-- TRANSFER_WAIT_END (R247): DONE reaches the awaited identifier and cwait retires. -/
  | transferWaitEnd
  /-- TABLE_WAIT_END (R236): A codebook table arrives and the stalled expansion pops it. -/
  | tableWaitEnd
  /-- ENGINE_QUEUE_SPACE (R165): An engine command queue frees an entry and the stalled issue proceeds. -/
  | engineQueueSpace
  /-- SCALAR_ENGINE_WAIT_END (R219): The engine commands a scalar S or N access waits for complete and it proceeds. -/
  | scalarEngineWaitEnd
  /-- LOAD_DATA_RETURN (R138): A load's value returns and is written to its destination. -/
  | loadDataReturn
  /-- LINK_COMPLETION (R376): A PCIe completion returns for an outstanding X or H access. -/
  | linkCompletion
  /-- RUN_LIMIT_EXPIRY (R272): A task's charged run time exceeds RUNLIM and the task faults. -/
  | runLimitExpiry
  /-- STOP_REQUEST (R288): A stop request arrives at a core and its strands halt at boundaries. -/
  | stopRequest
  /-- FREEZE_WINDOW_EXPIRY (R288): 600 cycles after a stop request, strands not yet halted are frozen. -/
  | freezeWindowExpiry
  /-- IMAGE_RESULT_RETURN (R293): An outstanding load or atomic completes into the task image and decrements PENDING. -/
  | imageResultReturn
  /-- IMAGE_COMPLETE (R292): The task image is complete and the task becomes Saved. -/
  | imageComplete
  /-- DISPATCH_CHOICE (R301): The dispatcher chooses one task from the eligible queues and places it. -/
  | dispatchChoice
  /-- PREEMPTION_TIMEOUT (R304): A candidate has not fitted for 4,096 cycles and a lower-priority task is chosen for a stop. -/
  | preemptionTimeout
  /-- PARK_TIMEOUT (R350): A tlwait has stalled 4,096 cycles and its task or group is parked. -/
  | parkTimeout
  /-- PARKED_WAIT_REREAD (R350): The dispatcher re-reads a wait held in the image at its home L2. -/
  | parkedWaitReread
  /-- TIMELINE_WAIT_RELEASE (R349): The wait monitor observes a value at or above the threshold and releases the wait. -/
  | timelineWaitRelease
  /-- HOST_LAUNCH_ACCEPT (R298): The dispatcher sees the submit timeline advance and accepts a host launch. -/
  | hostLaunchAccept
  /-- LAUNCH_COMPLETE (R315): Every task of a launch is complete and DONETL is incremented. -/
  | launchComplete
  /-- EXIT_CARVE_STALL_END (R322): The last engine command touching the carve finishes and the exit proceeds. -/
  | exitCarveStallEnd
  /-- CLAIM_RELEASE_AT_EXIT (R199): An ended task's claims are released once its matrix and copy commands complete. -/
  | claimReleaseAtExit
  /-- CONTEXT_CREATE (R271): The management controller creates a context from its descriptor. -/
  | contextCreate
  /-- CONTEXT_UPDATE (R271): The controller reloads a context's modes, tables, handlers and limits. -/
  | contextUpdate
  /-- CONTEXT_SUSPEND (R271): The controller stops dispatch and stops every running task of the context. -/
  | contextSuspend
  /-- CONTEXT_SUSPENDED (R271): The last task of a suspending context is saved and it becomes Suspended. -/
  | contextSuspended
  /-- CONTEXT_RESUME (R271): The controller restarts dispatch for a suspended context. -/
  | contextResume
  /-- CONTEXT_DESTROY (R274): The controller tears down a context through steps 1 to 6. -/
  | contextDestroy
  /-- CONTEXT_DESTROY_FINISH (R274): Zero-on-free pages and cached entries are dropped and the context becomes Free. -/
  | contextDestroyFinish
  /-- QUEUE_CREATE (R296): The controller creates a queue. -/
  | queueCreate
  /-- QUEUE_UPDATE (R295): The controller reloads a queue's priority, weight and age limit. -/
  | queueUpdate
  /-- QUEUE_STOP (R296): The controller stops dispatch from a queue. -/
  | queueStop
  /-- QUEUE_RESTART (R296): The controller resumes a stopped or faulted queue. -/
  | queueRestart
  /-- QUEUE_POISON (R306): The controller discards a queue's work and poisons its pending completion timelines. -/
  | queuePoison
  /-- QUEUE_DESTROY (R307): The controller stops a queue's tasks without images and discards its work. -/
  | queueDestroy
  /-- QUEUE_DESTROY_FINISH (R307): The last task of a destroyed queue stops and the queue returns to Free. -/
  | queueDestroyFinish
  /-- THRESHOLDS (R427): Management command setting TMIG and TCLAMP. -/
  | thresholds
  /-- DEVICE_MODES (R17): Management command selecting thermal-migration and firmware-staging modes. -/
  | deviceModes
  /-- TIMELINE_POISON_COMMAND (R351): Management command poisoning a timeline of a context. -/
  | timelinePoisonCommand
  /-- FRAME_OWNER_NONE (R363): Management command returning a frame to owner none. -/
  | frameOwnerNone
  /-- FRAME_OWNER_SHARED (R362): Management command marking a frame shared. -/
  | frameOwnerShared
  /-- FRAME_OWNER_CONTEXT (R362): Management command assigning a frame to a context, zeroing it first. -/
  | frameOwnerContext
  /-- TRACE_RING (R422): Management command setting the trace ring's base, size and enable mask. -/
  | traceRing
  /-- HOOP_OFFLINE (R433): Management command draining a hoop and taking it offline. -/
  | hoopOffline
  /-- HOOP_ONLINE (R433): Management command self-testing a hoop and bringing it online. -/
  | hoopOnline
  /-- LINK_DISABLE (R380): Management command taking a port Down. -/
  | linkDisable
  /-- LINK_ENABLE (R380): Management command starting a port's training. -/
  | linkEnable
  /-- LINK_RETRAIN (R380): Management command retraining a port. -/
  | linkRetrain
  /-- STAGE (R432): Management command verifying a firmware image into the inactive slot. -/
  | stage
  /-- SWITCH (R432): Management command making a staged image active. -/
  | switch
  /-- DEBUG_UNLOCK (R431): Management command checking a signed token and setting ATT on named dies. -/
  | debugUnlock
  /-- SENSOR_SAMPLE (R428): The controller samples every sensor once per 1,200 cycles. -/
  | sensorSample
  /-- CLAMP_POINT2_TIMEOUT (R429): A layer still hot after 1,200,000 cycles at clamp point 1 drops to point 2. -/
  | clampPoint2Timeout
  /-- PATROL_SCRUB (R19): The patrol scrub reads every HBM sector once per 24 hours. -/
  | patrolScrub
  /-- BOOT (R431): At reset the boot ROM verifies images, trains memory and links, self-tests hoops and enables the host port. -/
  | boot
  /-- LINK_TRAINED (R380): A port finishes training and becomes Up or Degraded. -/
  | linkTrained
  /-- LINK_TRAINING_TIMEOUT (R380): A port not trained within 100 ms goes Down. -/
  | linkTrainingTimeout
  /-- LINK_UNCORRECTABLE_ERROR (R378): An uncorrectable port error fails outstanding accesses and starts a retrain. -/
  | linkUncorrectableError
  /-- SURPRISE_REMOVAL (R380): A port goes Down on surprise removal. -/
  | surpriseRemoval
  /-- COMPLETION_TIMEOUT (R378): An outstanding request passes 1 ms without completion and fails with a link fault. -/
  | completionTimeout
  /-- HOST_MRD (R370): The host reads BAR0 or BAR2 at the home L2. -/
  | hostMrd
  /-- HOST_MWR (R370): The host writes BAR0 or BAR2. -/
  | hostMwr
  /-- HOST_ATOMICOP (R370): A host AtomicOp to BAR2 is performed at the home L2. -/
  | hostAtomicop
  /-- PEER_REQUEST (R374): A card receives a peer request, checks imports and performs it. -/
  | peerRequest
  /-- TRACE_PACKET_WRITE (R424): The ring writer writes an accepted packet and advances WPTR. -/
  | tracePacketWrite
  /-- LOSS_COUNT_PACKET (R425): A source with room again emits a type-5 loss packet. -/
  | lossCountPacket
  /-- DEBUG_HALT (R418): Debug halt command freezing a task in place. -/
  | debugHalt
  /-- DEBUG_RESUME (R419): Debug resume command reinjecting in-flight results. -/
  | debugResume
  /-- ACCESS_REGISTER (R420): Debug command reading or writing a register of a halted strand. -/
  | accessRegister
  /-- ACCESS_MEMORY (R421): Debug command reading or writing memory or a ring. -/
  | accessMemory
  /-- DEBUG_ERR_CLEAR (R416): A write of ones to ERR clears those bits. -/
  | debugErrClear
  /-- CORDONNET_WALK (R412): The Cordonnet unit chains edge records back from a step's end. -/
  | cordonnetWalk
  /-- DECODE_RUN (R389): A decode engine takes a queued run and decodes one unit. -/
  | decodeRun
  /-- ENCODE_RUN (R402): An encode engine takes a queued run and encodes one picture. -/
  | encodeRun
  /-- FLOW_RUN (R400): A flow engine takes a queued run and searches motion per cell. -/
  | flowRun
  /-- CHANGE_MASK_RUN (R396): The CMU takes a queued run and marks each layer's tiles. -/
  | changeMaskRun
  /-- HOST_ASSISTED_RUN_RELEASE (R387): HTL reaches HVAL and a pass-through run ends with ST 8. -/
  | hostAssistedRunRelease
  /-- RUN_END (R384): A front-end run writes ST, releases and increments DONETL. -/
  | runEnd
  /-- RUN_QUEUE_ENTRY_FREE (R383): A run queue entry frees and a stalled run instruction enqueues. -/
  | runQueueEntryFree
  /-- COPY_COMMAND_START (R228): A copy command starts execution and reads its layout record. -/
  | copyCommandStart
  /-- COPY_COMMAND_COMPLETE (R216): A copy command completes and DONE takes its identifier. -/
  | copyCommandComplete
  /-- STREAM_START (R249): A Busy channel finishes its queued commands and starts a bound stream. -/
  | streamStart
  /-- STREAM_END (R251): A stream pushes its last element and the queue becomes a stopped stream. -/
  | streamEnd
  /-- LEASE_GRANT (R195): The hoop arbiter grants the matrix lease to a waiting candidate. -/
  | leaseGrant
  /-- LEASE_IDLE_TIMEOUT (R196): The holder's next command cannot start for 256 cycles and the lease passes. -/
  | leaseIdleTimeout
  /-- MFREE_AT_HEAD (R207): An mfree reaches the head of the matrix queue and releases the lease. -/
  | mfreeAtHead
  /-- MATRIX_COMMAND_START (R200): A leased matrix command starts once its lease and resources allow. -/
  | matrixCommandStart
  /-- MATRIX_COMMAND_COMPLETE (R208): A matrix command completes. -/
  | matrixCommandComplete
  /-- VECTOR_COMMAND_COMPLETE (R165): A vector command completes. -/
  | vectorCommandComplete
  /-- ZEROING_COMPLETE (R149): A buffer part finishes zeroing and the stalled access proceeds. -/
  | zeroingComplete
  /-- FRAME_ZEROING_COMPLETE (R362): A frame with a foreign owner is zeroed and the translation completes. -/
  | frameZeroingComplete
  /-- PAGER_SERVICE (R365): The hardware pager serves a posted fault descriptor. -/
  | pagerService
  /-- PAGE_FAULT_SERVICE_OBSERVED (R366): SSEQ passes a descriptor and its joined accesses walk again or fail. -/
  | pageFaultServiceObserved
  /-- MIGRATION_REQUEST (R367): The controller serves a page migration request through lock, copy, swap and unlock. -/
  | migrationRequest
  /-- BARRIER_POST (R344): Destination bytes of a .bx copy land and are posted to group barrier 12 + c, which may complete a phase once POSTED reaches EXP. -/
  | barrierPost
  /-- PTM_TIME_UPDATE (R379): The card receives PTM time over its timing path and slews its counter, setting SYNC again once the counter is back within 16 cycles. -/
  | ptmTimeUpdate
  /-- LINK_CORRECTABLE_ERROR (R378): A correctable error on a port is replayed by FLIT retry and increments CORR of the link status word. -/
  | linkCorrectableError
  /-- SPDM_REQUEST (R431): An SPDM 1.3 request over DOE or MCTP is answered with certificates, measurements or a fresh nonce for debug-unlock tokens. -/
  | spdmRequest
  /-- HBM_RECALIBRATION (R433): An HBM4 channel recalibrates for a window of at most 2,400 cycles while accesses to it wait at the L2. -/
  | hbmRecalibration
  deriving DecidableEq, Repr

end Sys2Proof
end

