-- ==== Sys2Proof/WellFormed.lean ====
section
/-! DEFINITION. What the encoding checks of Table 3-15 ask of one instruction (spec/03_instruction_encoding.md, with the
field tables of chapters 4 to 18): its opcode and layout, which forms it has, which field values are reserved (row 2), which
strands may issue it (row 3), which need supervisor level (row 4) and which operand codes it takes (row 5). -/

namespace Sys2Proof

/-- An instruction as its opcode and its layout's fields. -/
inductive View where
  | short (op : Nat) (x : Short)
  | shortBr (op : Nat) (disp : BitVec 22)
  | alu (op : Nat) (x : Alu)
  | gen (op : Nat) (x : Gen)
  | br (op : Nat) (x : Br)
  | mem (op : Nat) (x : Mem)
  | amo (op : Nat) (x : Amo)
  | vec (op : Nat) (x : Vec)
  | mat (op : Nat) (x : Mat)
  | cpy (op : Nat) (x : Cpy)
  | header (h : Header)
  | raw (w : Word)
  | event
  deriving DecidableEq, Repr

/-- Opcode (Table 3-13) and fields of every instruction. -/
def Instr.view (i : Instr) : View :=
  match i with
  | .nop x => .short 0x00 x
  | .nopLong x => .alu 0x00 x
  | .add x => .short 0x01 x
  | .addLong x => .alu 0x01 x
  | .sub x => .short 0x02 x
  | .subLong x => .alu 0x02 x
  | .mul x => .short 0x03 x
  | .mulLong x => .alu 0x03 x
  | .mulh x => .short 0x04 x
  | .mulhLong x => .alu 0x04 x
  | .div x => .short 0x05 x
  | .divLong x => .alu 0x05 x
  | .rem x => .short 0x06 x
  | .remLong x => .alu 0x06 x
  | .and x => .short 0x07 x
  | .andLong x => .alu 0x07 x
  | .or x => .short 0x08 x
  | .orLong x => .alu 0x08 x
  | .xor x => .short 0x09 x
  | .xorLong x => .alu 0x09 x
  | .andn x => .short 0x0A x
  | .andnLong x => .alu 0x0A x
  | .shl x => .short 0x0B x
  | .shlLong x => .alu 0x0B x
  | .shr x => .short 0x0C x
  | .shrLong x => .alu 0x0C x
  | .sar x => .short 0x0D x
  | .sarLong x => .alu 0x0D x
  | .rot x => .short 0x0E x
  | .rotLong x => .alu 0x0E x
  | .min x => .short 0x0F x
  | .minLong x => .alu 0x0F x
  | .max x => .short 0x10 x
  | .maxLong x => .alu 0x10 x
  | .abs x => .short 0x11 x
  | .absLong x => .alu 0x11 x
  | .clz x => .short 0x12 x
  | .clzLong x => .alu 0x12 x
  | .ctz x => .short 0x13 x
  | .ctzLong x => .alu 0x13 x
  | .popc x => .short 0x14 x
  | .popcLong x => .alu 0x14 x
  | .bfx x => .short 0x15 x
  | .bfxLong x => .alu 0x15 x
  | .bfi x => .short 0x16 x
  | .bfiLong x => .alu 0x16 x
  | .sel x => .short 0x17 x
  | .selLong x => .alu 0x17 x
  | .mov x => .short 0x18 x
  | .movLong x => .alu 0x18 x
  | .movi x => .alu 0x19 x
  | .moviHi x => .alu 0x19 x
  | .lea x => .short 0x1A x
  | .leaLong x => .alu 0x1A x
  | .cmp x => .short 0x1B x
  | .cmpLong x => .alu 0x1B x
  | .fadd x => .short 0x20 x
  | .faddLong x => .alu 0x20 x
  | .fsub x => .short 0x21 x
  | .fsubLong x => .alu 0x21 x
  | .fmul x => .short 0x22 x
  | .fmulLong x => .alu 0x22 x
  | .ffma x => .short 0x23 x
  | .ffmaLong x => .alu 0x23 x
  | .fmin x => .short 0x24 x
  | .fminLong x => .alu 0x24 x
  | .fmax x => .short 0x25 x
  | .fmaxLong x => .alu 0x25 x
  | .fcmp x => .short 0x26 x
  | .fcmpLong x => .alu 0x26 x
  | .fcvt x => .short 0x27 x
  | .fcvtLong x => .alu 0x27 x
  | .fdiv x => .short 0x28 x
  | .fdivLong x => .alu 0x28 x
  | .fsqrt x => .short 0x29 x
  | .fsqrtLong x => .alu 0x29 x
  | .fneg x => .short 0x2A x
  | .fnegLong x => .alu 0x2A x
  | .fclass x => .short 0x2B x
  | .fclassLong x => .alu 0x2B x
  | .pand x => .short 0x30 x
  | .pandLong x => .alu 0x30 x
  | .por x => .short 0x31 x
  | .porLong x => .alu 0x31 x
  | .pxor x => .short 0x32 x
  | .pxorLong x => .alu 0x32 x
  | .pnot x => .short 0x33 x
  | .pnotLong x => .alu 0x33 x
  | .pmov x => .short 0x34 x
  | .pmovLong x => .alu 0x34 x
  | .pset x => .short 0x35 x
  | .psetLong x => .alu 0x35 x
  | .br x => .shortBr 0x38 x
  | .brLong x => .br 0x38 x
  | .brr x => .gen 0x39 x
  | .call x => .shortBr 0x3A x
  | .callLong x => .br 0x3A x
  | .ret x => .short 0x3B x
  | .retLong x => .gen 0x3B x
  | .loop x => .br 0x3C x
  | .bloop x => .shortBr 0x3D x
  | .bloopLong x => .br 0x3D x
  | .lbrk x => .br 0x3E x
  | .rbset x => .gen 0x3F x
  | .fork x => .gen 0x40 x
  | .join x => .gen 0x41 x
  | .rdv x => .short 0x42 x
  | .rdvLong x => .gen 0x42 x
  | .halt x => .short 0x43 x
  | .haltLong x => .gen 0x43 x
  | .exit x => .gen 0x44 x
  | .exitSucc x => .gen 0x44 x
  | .qbind x => .gen 0x48 x
  | .qfree x => .gen 0x49 x
  | .qstat x => .gen 0x4A x
  | .stbind x => .gen 0x4B x
  | .ststop x => .gen 0x4C x
  | .ldp x => .mem 0x50 x
  | .stp x => .mem 0x51 x
  | .lds x => .mem 0x52 x
  | .sts x => .mem 0x53 x
  | .ldn x => .mem 0x54 x
  | .stn x => .mem 0x55 x
  | .ldg x => .mem 0x56 x
  | .stg x => .mem 0x57 x
  | .ldx x => .mem 0x58 x
  | .stx x => .mem 0x59 x
  | .ldh x => .mem 0x5A x
  | .sth x => .mem 0x5B x
  | .ams x => .amo 0x5C x
  | .amn x => .amo 0x5D x
  | .amg x => .amo 0x5E x
  | .amx x => .amo 0x5F x
  | .amh x => .amo 0x60 x
  | .qmark x => .gen 0x61 x
  | .rfence x => .gen 0x62 x
  | .cflush x => .mem 0x63 x
  | .pfch x => .mem 0x64 x
  | .tlwait x => .gen 0x68 x
  | .tlinc x => .gen 0x69 x
  | .tlread x => .gen 0x6A x
  | .tlset x => .gen 0x6B x
  | .bar x => .gen 0x6C x
  | .barx x => .gen 0x6D x
  | .cwait x => .gen 0x6E x
  | .cpstat x => .gen 0x6F x
  | .launch x => .gen 0x70 x
  | .rsdecl x => .gen 0x71 x
  | .rsdrop x => .gen 0x72 x
  | .rsread x => .gen 0x73 x
  | .tlnext x => .gen 0x74 x
  | .cpmarkBeg x => .gen 0x78 x
  | .cpmarkEnd x => .gen 0x78 x
  | .tmark x => .gen 0x79 x
  | .brk x => .gen 0x7A x
  | .ccnt x => .short 0x7B x
  | .ccntLong x => .alu 0x7B x
  | .sys x => .gen 0x7C x
  | .trap x => .gen 0x82 x
  | .eret x => .gen 0x7D x
  | .csrr x => .gen 0x7E x
  | .csrw x => .gen 0x7F x
  | .ovtld x => .gen 0x80 x
  | .tlbinv x => .gen 0x81 x
  | .vadd x => .vec 0x90 x
  | .vsub x => .vec 0x91 x
  | .vmul x => .vec 0x92 x
  | .vfma x => .vec 0x93 x
  | .vmin x => .vec 0x94 x
  | .vmax x => .vec 0x95 x
  | .vabs x => .vec 0x96 x
  | .vneg x => .vec 0x97 x
  | .vcmp x => .vec 0x98 x
  | .vsel x => .vec 0x99 x
  | .vcvt x => .vec 0x9A x
  | .vand x => .vec 0x9B x
  | .vor x => .vec 0x9C x
  | .vxor x => .vec 0x9D x
  | .vshl x => .vec 0x9E x
  | .vshr x => .vec 0x9F x
  | .vclamp x => .vec 0xA0 x
  | .vexp x => .vec 0xA1 x
  | .vexp2 x => .vec 0xA2 x
  | .vlog x => .vec 0xA3 x
  | .vlog2 x => .vec 0xA4 x
  | .vrcp x => .vec 0xA5 x
  | .vrsq x => .vec 0xA6 x
  | .vsqrt x => .vec 0xA7 x
  | .vtanh x => .vec 0xA8 x
  | .vsigm x => .vec 0xA9 x
  | .vred x => .vec 0xAA x
  | .vscan x => .vec 0xAB x
  | .vdot x => .vec 0xAC x
  | .vperm x => .vec 0xAD x
  | .vgath x => .vec 0xAE x
  | .vscat x => .vec 0xAF x
  | .vmov x => .vec 0xB0 x
  | .vfill x => .vec 0xB1 x
  | .visect x => .vec 0xB2 x
  | .vhash x => .vec 0xB3 x
  | .vcnt x => .vec 0xB4 x
  | .vcmpr x => .vec 0xB5 x
  | .vscale x => .vec 0xB6 x
  | .sdef x => .gen 0xB8 x
  | .sset x => .gen 0xB9 x
  | .sget x => .gen 0xBA x
  | .sadv x => .gen 0xBB x
  | .sfmt x => .gen 0xBC x
  | .mlease x => .mat 0xC0 x
  | .mfree x => .mat 0xC1 x
  | .mclaim x => .mat 0xC2 x
  | .mrel x => .mat 0xC3 x
  | .mload x => .mat 0xC4 x
  | .mbeg x => .mat 0xC5 x
  | .mend x => .mat 0xC6 x
  | .mmul x => .mat 0xC7 x
  | .mzero x => .mat 0xC8 x
  | .mstore x => .mat 0xC9 x
  | .mbmap x => .mat 0xCA x
  | .mstat x => .mat 0xCB x
  | .cpy x => .cpy 0xD0 x
  | .cpt x => .cpy 0xD1 x
  | .cpg x => .cpy 0xD2 x
  | .cps x => .cpy 0xD3 x
  | .cpm x => .cpy 0xD4 x
  | .cpc x => .cpy 0xD5 x
  | .cpz x => .cpy 0xD6 x
  | .cpk x => .cpy 0xD7 x
  | .vdec x => .gen 0xE0 x
  | .venc x => .gen 0xE1 x
  | .flow x => .gen 0xE2 x
  | .cmrun x => .gen 0xE3 x
  | .sectionHeader h => .header h
  | .sectionWaitSatisfied => .event
  | .queuePopResume => .event
  | .queuePushResume => .event
  | .joinComplete => .event
  | .transferWaitEnd => .event
  | .tableWaitEnd => .event
  | .engineQueueSpace => .event
  | .scalarEngineWaitEnd => .event
  | .loadDataReturn => .event
  | .linkCompletion => .event
  | .runLimitExpiry => .event
  | .stopRequest => .event
  | .freezeWindowExpiry => .event
  | .imageResultReturn => .event
  | .imageComplete => .event
  | .dispatchChoice => .event
  | .preemptionTimeout => .event
  | .parkTimeout => .event
  | .parkedWaitReread => .event
  | .timelineWaitRelease => .event
  | .hostLaunchAccept => .event
  | .launchComplete => .event
  | .exitCarveStallEnd => .event
  | .claimReleaseAtExit => .event
  | .contextCreate => .event
  | .contextUpdate => .event
  | .contextSuspend => .event
  | .contextSuspended => .event
  | .contextResume => .event
  | .contextDestroy => .event
  | .contextDestroyFinish => .event
  | .queueCreate => .event
  | .queueUpdate => .event
  | .queueStop => .event
  | .queueRestart => .event
  | .queuePoison => .event
  | .queueDestroy => .event
  | .queueDestroyFinish => .event
  | .thresholds => .event
  | .deviceModes => .event
  | .timelinePoisonCommand => .event
  | .frameOwnerNone => .event
  | .frameOwnerShared => .event
  | .frameOwnerContext => .event
  | .traceRing => .event
  | .hoopOffline => .event
  | .hoopOnline => .event
  | .linkDisable => .event
  | .linkEnable => .event
  | .linkRetrain => .event
  | .stage => .event
  | .switch => .event
  | .debugUnlock => .event
  | .sensorSample => .event
  | .clampPoint2Timeout => .event
  | .patrolScrub => .event
  | .boot => .event
  | .linkTrained => .event
  | .linkTrainingTimeout => .event
  | .linkUncorrectableError => .event
  | .surpriseRemoval => .event
  | .completionTimeout => .event
  | .hostMrd => .event
  | .hostMwr => .event
  | .hostAtomicop => .event
  | .peerRequest => .event
  | .tracePacketWrite => .event
  | .lossCountPacket => .event
  | .debugHalt => .event
  | .debugResume => .event
  | .accessRegister => .event
  | .accessMemory => .event
  | .debugErrClear => .event
  | .cordonnetWalk => .event
  | .decodeRun => .event
  | .encodeRun => .event
  | .flowRun => .event
  | .changeMaskRun => .event
  | .hostAssistedRunRelease => .event
  | .runEnd => .event
  | .runQueueEntryFree => .event
  | .copyCommandStart => .event
  | .copyCommandComplete => .event
  | .streamStart => .event
  | .streamEnd => .event
  | .leaseGrant => .event
  | .leaseIdleTimeout => .event
  | .mfreeAtHead => .event
  | .matrixCommandStart => .event
  | .matrixCommandComplete => .event
  | .vectorCommandComplete => .event
  | .zeroingComplete => .event
  | .frameZeroingComplete => .event
  | .pagerService => .event
  | .pageFaultServiceObserved => .event
  | .migrationRequest => .event
  | .unassignedOpcode w => .raw w
  | .barrierPost => .event
  | .ptmTimeUpdate => .event
  | .linkCorrectableError => .event
  | .spdmRequest => .event
  | .hbmRecalibration => .event

/-- Unit code of a strand (Table 0-1). -/
def UnitId.code : UnitId → Nat
  | .main => 0
  | .vector => 1
  | .copy => 2
  | .matrix => 3

/-- The guard of the short forms: always (R58). -/
def Guard.always : Guard := ⟨127, false⟩

/-- The long form a short form is equivalent to (R58), in the ALU layout. -/
def Short.toAlu (x : Short) : Alu :=
  ⟨.always, x.d.zeroExtend 9, x.a.zeroExtend 9, .code (x.b.zeroExtend 9), 0, false, x.f⟩

/-- The long form a short form is equivalent to (R58), in the generic layout. -/
def Short.toGen (x : Short) : Gen :=
  ⟨.always, x.d.zeroExtend 9, x.a.zeroExtend 9, .code (x.b.zeroExtend 9), x.f.zeroExtend 9⟩

/-- The long form of a short branch: its displacement, and the link g31 of `call` (R59). -/
def longBr (op : Nat) (disp : BitVec 22) : Br :=
  ⟨.always, if op = 0x3A then 31 else 0, 0, disp.signExtend 28⟩

/-- The layout classes of Tables 3-8 to 3-10. -/
inductive Layout where
  | alu | gen | br | mem | amo | vec | mat | cpy
  deriving DecidableEq, Repr

/-- The layout of an opcode's long form; none when the opcode is unassigned (Table 3-13, R84). -/
def layoutOf (op : Nat) : Option Layout :=
  if op ≤ 0x1B ∨ (0x20 ≤ op ∧ op ≤ 0x2B) ∨ (0x30 ≤ op ∧ op ≤ 0x35) ∨ op = 0x7B then some .alu
  else if op = 0x38 ∨ op = 0x3A ∨ op = 0x3C ∨ op = 0x3D ∨ op = 0x3E then some .br
  else if (0x50 ≤ op ∧ op ≤ 0x5B) ∨ op = 0x63 ∨ op = 0x64 then some .mem
  else if 0x5C ≤ op ∧ op ≤ 0x60 then some .amo
  else if 0x90 ≤ op ∧ op ≤ 0xB6 then some .vec
  else if 0xC0 ≤ op ∧ op ≤ 0xCB then some .mat
  else if 0xD0 ≤ op ∧ op ≤ 0xD7 then some .cpy
  else if op = 0x39 ∨ op = 0x3B ∨ op = 0x3F ∨ (0x40 ≤ op ∧ op ≤ 0x44) ∨ (0x48 ≤ op ∧ op ≤ 0x4C) ∨ op = 0x61 ∨ op = 0x62 ∨
      (0x68 ≤ op ∧ op ≤ 0x74) ∨ (0x78 ≤ op ∧ op ≤ 0x7F) ∨ (0x80 ≤ op ∧ op ≤ 0x82) ∨
      (0xB8 ≤ op ∧ op ≤ 0xBC) ∨ (0xE0 ≤ op ∧ op ≤ 0xE3) then some .gen
  else none

/-- Opcodes with a short form (Table 3-3). -/
def hasShort (op : Nat) : Bool :=
  op ≤ 0x18 || op == 0x1A || op == 0x1B || (0x20 ≤ op && op ≤ 0x2B) || (0x30 ≤ op && op ≤ 0x35) ||
  op == 0x38 || op == 0x3A || op == 0x3D || op == 0x3B || op == 0x42 || op == 0x43 || op == 0x7B

/-- Opcodes with a literal form: the "yes" rows of Tables 4-4, 4-6 and 6-5, and `movi` (R63). -/
def hasLiteral (op : Nat) : Bool :=
  (0x01 ≤ op && op ≤ 0x10) || op == 0x15 || op == 0x16 || (0x19 ≤ op && op ≤ 0x1B) ||
  (0x20 ≤ op && op ≤ 0x26) || op == 0x28 ||
  (0x90 ≤ op && op ≤ 0x95) || op == 0x98 || op == 0x99 || (0x9B ≤ op && op ≤ 0x9F) || op == 0xB1

/-- Opcodes whose long form may hold an immediate in place of B (R62). -/
def hasImm (op : Nat) : Bool :=
  (0x01 ≤ op && op ≤ 0x10) || op == 0x15 || op == 0x16 || (0x19 ≤ op && op ≤ 0x1B) ||
  op == 0x3F || op == 0x40 || op == 0x68 || op == 0x69 || op == 0x6B || op == 0x6C || op == 0x6D || op == 0x6E ||
  op == 0x70 || op == 0x79 || op == 0x7A || op == 0x7C || op == 0x7F || op == 0x81 || op == 0x82 ||
  op == 0xB9 || op == 0xBB

/-- The guard is not a reserved one (R60, R61). -/
def Guard.ok (g : Guard) : Bool := g.pr.toNat ≤ 95 || (g.pr == 127 && !g.pn)

/-- Operand B is allowed by the opcode's forms: the immediate only where R62 gives one. A literal form without a literal
use is no instruction (Table 3-15 row 1), so it is refused here as well. -/
def Src.formOk (op : Nat) : Src → Bool
  | .code _ => op != 0x19
  | .imm _ => hasImm op
  | .lit _ => hasLiteral op

/-- `movi.hi`: the literal form with SUB = 2 (R102). -/
def Alu.isMoviHi (x : Alu) : Bool :=
  match x.b with
  | .lit _ => x.sub == 2
  | _ => false

/-- A rounding override that is not reserved outside the copy class (R40). -/
def rndOk (r : BitVec 3) : Bool := r.toNat ≤ 5

/-- Format tags that Table 2-1 assigns. -/
def tagAssigned (t : BitVec 6) : Bool := t.toNat ≤ 0x1D

/-- SUB values of the ALU opcodes (Tables 4-4, 4-6, 4-7, 4-8, 18-3). -/
def aluSubOk (op : Nat) (x : Alu) : Bool :=
  let s := x.sub.toNat
  if op == 0x00 || op == 0x15 || op == 0x16 || op == 0x18 then s == 0
  else if op == 0x01 || op == 0x02 || op == 0x11 then s ≤ 3
  else if op ≤ 0x14 then s ≤ 1
  else if op == 0x17 || op == 0x1B then true
  else if op == 0x19 then s == 0 || x.isMoviHi
  else if op == 0x1A then s ≤ 7
  else if op == 0x23 then s ≤ 3
  else if op == 0x26 then s ≤ 7
  else if op == 0x27 then s ≤ 6
  else if op == 0x2A then s ≤ 1
  else if op == 0x2B then s ≤ 12
  else if op ≤ 0x2B then s == 0
  else if op ≤ 0x32 then s ≤ 3
  else if op == 0x33 then s == 0
  else if op == 0x34 then s ≤ 2
  else if op == 0x35 then s ≤ 3
  else s ≤ 1

/-- U is used: every integer row of Table 4-4 whose effect depends on U, and DP of the float rows. -/
def aluUOk (op : Nat) (x : Alu) : Bool :=
  !x.u || !(op == 0x00 || op == 0x16 || op == 0x17 || op == 0x18 || op == 0x1A || 0x30 ≤ op || x.isMoviHi)

/-- The scalar instructions that round, and so use RND (R40, R104): the float ones but `fcmp`, `fneg` and `fclass`.
[DEDUCED: notes/assumptions/94.md] -/
def aluRounds (op : Nat) : Bool := 0x20 ≤ op && op ≤ 0x29 && op != 0x26

/-- Row 2 of Table 3-15 for the ALU layout. -/
def aluFieldsOk (op : Nat) (x : Alu) : Bool :=
  x.guard.ok && x.b.formOk op && aluSubOk op x && aluUOk op x && (if aluRounds op then rndOk x.rnd else x.rnd == 0)

/-- The CSR numbers of Table 10-4. -/
def csrKnown (n : Nat) : Bool :=
  n ≤ 5 || n == 0x10 || (0x20 ≤ n && n ≤ 0x25) || (0x30 ≤ n && n ≤ 0x33) || n == 0x40 || n == 0x41 ||
  (0x100 ≤ n && n ≤ 0x127)

/-- The CSRs of Table 10-4 marked RW. -/
def csrWritable (n : Nat) : Bool := n ≤ 3 || n == 0x10 || (0x20 ≤ n && n ≤ 0x25)

/-- The CSRs of Table 10-4 marked S. -/
def csrSupervisor (n : Nat) : Bool := (0x20 ≤ n && n ≤ 0x25) || n == 0x40 || n == 0x41

/-- FN values of the generic opcodes. -/
def genFnOk (op : Nat) (fn : Nat) : Bool :=
  if op == 0x3F || op == 0x41 then 1 ≤ fn && fn ≤ 7
  else if op == 0x40 then 1 ≤ fn && fn ≤ 3
  else if op == 0x44 then fn ≤ 1
  else if op == 0x48 then fn ≤ 255
  else if op == 0x4B then fn ≤ 63
  else if op == 0x61 || op == 0x68 || op == 0x69 || op == 0x6A || op == 0x6B then fn ≤ 4
  else if op == 0x62 then fn % 8 ≤ 4 && fn ≤ 15
  else if op == 0x6C || op == 0x6D then fn % 8 ≤ 4 && fn / 8 % 2 == 0 && fn / 16 ≤ 16
  else if op == 0x6E then fn ≤ 3
  else if op == 0x6F then fn ≤ 15
  else if op == 0x70 || op == 0x72 || op == 0x73 then fn ≤ 1
  else if op == 0x78 then fn == 1 || fn == 2
  else if op == 0x79 then fn ≤ 255
  else if op == 0x7E then csrKnown fn
  else if op == 0x7F then csrWritable fn
  else if op == 0x81 then fn ≤ 2
  else if op == 0xB9 then fn ≤ 4
  else if op == 0xBA then fn ≤ 4 || fn == 7
  else if op == 0xBB then fn ≤ 1
  else if op == 0xBC then fn ≤ 0x1D
  else fn == 0

/-- Row 2 of Table 3-15 for the generic layout; `tlbinv` takes an immediate only as `.rng` (Table 10-7), and `launch.self`
takes none, its B being 0 (Table 12-7). -/
def genFieldsOk (op : Nat) (x : Gen) : Bool :=
  x.guard.ok && x.b.formOk op && genFnOk op x.fn.toNat &&
  (match x.b with
   | .imm _ => !(op == 0x81 && x.fn != 1) && !(op == 0x70 && x.fn == 1)
   | _ => true)

/-- Row 2 of Table 3-15 for the MEM layout (R69, R146, R147). -/
def memFieldsOk (op : Nat) (x : Mem) : Bool :=
  x.guard.ok &&
  (if op == 0x63 then x.scope.toNat ≤ 4 && x.size != 3 && x.ord == 0 && !x.pol
   else if op == 0x64 then x.size.toNat ≤ 1 && x.ord == 0 && x.scope == 0
   else x.scope.toNat ≤ 4 && x.ord != 3 && (if op % 2 == 0 then x.ord != 2 else x.ord != 1))

/-- Row 2 of Table 3-15 for the AMO layout (R69, R141, Table 3-9). -/
def amoFieldsOk (x : Amo) : Bool :=
  x.guard.ok && x.scope.toNat ≤ 4 && 2 ≤ x.size.toNat && x.func.toNat ≤ 9

/-- Largest SUB value of the vector opcodes (Table 6-5, R168 to R181). -/
def vecSubMax (op : Nat) : Nat :=
  if op == 0x93 then 3
  else if op == 0x98 then 9
  else if op == 0x9B || op == 0x9C || op == 0x9D || op == 0xB1 || op == 0xB2 || op == 0xB3 || op == 0xB4 || op == 0xB6 then 1
  else if op == 0xAA then 5
  else if op == 0xAB then 2
  else 0

/-- The vector instructions whose results are placed by R161 and so use SAT (R161, R169 to R180): none that moves bits,
compares, works bit by bit or gives slots. [DEDUCED: notes/assumptions/94.md] -/
def vecSaturates (op sub : Nat) : Bool :=
  if op == 0x98 || op == 0x99 || (0x9B ≤ op && op ≤ 0x9D) || (0xAD ≤ op && op ≤ 0xB0) || op == 0xB3 || op == 0xB5 then false
  else if op == 0xAA then sub < 3
  else if op == 0xB1 then sub == 1
  else if op == 0xB2 then sub == 0
  else true

/-- The vector instructions that round in some format and so use RND (R40, R161, R162). [DEDUCED: notes/assumptions/94.md] -/
def vecRounds (op sub : Nat) : Bool :=
  vecSaturates op sub && !(op == 0x96 || op == 0x97 || op == 0x9E || op == 0x9F || op == 0xB1 || op == 0xB2 || op == 0xB4)

/-- Row 2 of Table 3-15 for the VEC layout (R161, R166, R169): a field that the instruction leaves unused is 0, TO where it has
no source element to override, and in `vcvt`. -/
def vecFieldsOk (op : Nat) (x : Vec) : Bool :=
  x.guard.ok && x.sub.toNat ≤ vecSubMax op && !((op == 0x9A || op == 0xB1) && x.toBit) &&
  (if vecRounds op x.sub.toNat then rndOk x.rnd else x.rnd == 0) && (vecSaturates op x.sub.toNat || !x.sat) &&
  (match x.b with
   | .code _ => true
   | .imm _ => false
   | .lit _ => hasLiteral op)

/-- Row 2 of Table 3-15 for the MAT layout (R205 to R212). -/
def matFieldsOk (op : Nat) (x : Mat) : Bool :=
  let ta := tagAssigned x.ta
  x.guard.ok &&
  (if op == 0xC2 || op == 0xC3 then x.ta.toNat ≤ 1 && x.tb == 0 && x.rnd == 0 && !x.sp && !x.ord
   else if op == 0xC4 || op == 0xC9 then ta && x.tb == 0 && rndOk x.rnd && !x.sp && !x.ord
   else if op == 0xC5 then x.ta == 0 && x.tb == 0 && x.rnd == 0 && !x.sp
   else if op == 0xC7 then ta && tagAssigned x.tb && x.rnd == 0 && !x.ord
   else if op == 0xCA then ta && x.tb == 0 && x.rnd == 0 && !x.sp && !x.ord
   else x.ta == 0 && x.tb == 0 && x.rnd == 0 && !x.sp && !x.ord)

/-- SUB bits that Table 8-5 defines. -/
def cpySubOk (op : Nat) (s : Nat) : Bool :=
  if op == 0xD0 then s / 4 % 2 == 0
  else if op == 0xD1 || op == 0xD5 then s / 2 % 4 == 0
  else if op == 0xD2 || op == 0xD4 then s % 8 == 0
  else if op == 0xD3 then s == 0
  else if op == 0xD6 then s / 2 % 4 == 0
  else s ≤ 3

/-- Row 2 of Table 3-15 for the CPY layout (R239). -/
def cpyFieldsOk (op : Nat) (x : Cpy) : Bool :=
  x.guard.ok && cpySubOk op x.sub.toNat && x.rnd != 7 && (x.rnd == 0 || op == 0xD5) &&
  (x.tag == 0 || op == 0xD5 || op == 0xD7) && tagAssigned x.tag

/-- Rows 1 and 2 of Table 3-15: the form exists and no field value is reserved. -/
def View.fieldsOk : View → Bool
  | .short op x =>
    match layoutOf op with
    | some .alu => aluFieldsOk op x.toAlu
    | _ => genFieldsOk op x.toGen
  | .shortBr _ _ => true
  | .alu op x => aluFieldsOk op x
  | .gen op x => genFieldsOk op x
  | .br _ x => x.guard.ok
  | .mem op x => memFieldsOk op x
  | .amo _ x => amoFieldsOk x
  | .vec op x => vecFieldsOk op x
  | .mat op x => matFieldsOk op x
  | .cpy op x => cpyFieldsOk op x
  | .header _ => true
  | .raw _ => false
  | .event => true

/-- Opcode of a view. -/
def View.op? : View → Option Nat
  | .short op _ | .shortBr op _ | .alu op _ | .gen op _ | .br op _ | .mem op _ | .amo op _ | .vec op _ | .mat op _
  | .cpy op _ => some op
  | .header _ | .raw _ | .event => none

/-- Row 3 of Table 3-15: the strands of Table 3-14. -/
def strandOk (op : Nat) (u : UnitId) : Bool :=
  if op ≤ 0x3F then true
  else if op == 0x40 || op == 0x41 || op == 0x44 then u == .main
  else if op == 0x42 then u != .main
  else if op == 0x43 then true
  else if op == 0x4A then true
  else if op ≤ 0x4C then u == .main
  else if op ≤ 0x64 then true
  else if op ≤ 0x6D then u == .main
  else if op ≤ 0x6F then u == .main || u == .copy
  else if op ≤ 0x78 then u == .main
  else if op ≤ 0x7F then true
  else if op ≤ 0x81 then u == .main
  else if op == 0x82 then true
  else if op ≤ 0xB6 then u == .main || u == .vector
  else if op ≤ 0xBC then true
  else if op ≤ 0xCB then u == .main || u == .matrix
  else if op ≤ 0xD7 then u == .main || u == .copy
  else u == .main

/-- Row 4 of Table 3-15: the opcode, or the CSR it names, needs supervisor level. -/
def View.privileged : View → Bool
  | .gen op x =>
    op == 0x6B || op == 0x7D || op == 0x80 || op == 0x81 ||
    ((op == 0x7E || op == 0x7F) && csrSupervisor x.fn.toNat)
  | _ => false

/-- A g register code. -/
def isG (c : BitVec 9) : Bool := c.toNat ≤ 63

/-- A code that names a pair gN, gN+1 (R67). -/
def isPair (c : BitVec 9) : Bool := c.toNat ≤ 62

/-- A scalar source code (Table 3-6). -/
def isSrc (c : BitVec 9) : Bool := c.toNat ≤ 101

/-- A scalar destination code (Table 3-6). -/
def isDst (c : BitVec 9) : Bool := c.toNat ≤ 79

/-- A predicate code (R66). -/
def isPred (c : BitVec 9) : Bool := c.toNat ≤ 95

/-- The no-index, no-mask, no-pair code. -/
def noCode : BitVec 9 := 0x1FF

/-- A predicate bank of `pmov` (R107). -/
def isBank (c : BitVec 9) : Bool := c == 0 || c == 32 || c == 64

/-- Operand B of an ALU or generic instruction that takes OpB() (R98). -/
def Src.srcOk : Src → Bool
  | .code c => isSrc c
  | _ => true

/-- Operand B of an instruction that does not use it (R97). -/
def Src.zeroOk : Src → Bool
  | .code c => c == 0
  | _ => false

/-- Row 5 of Table 3-15 for the ALU layout. [DEDUCED: notes/assumptions/96.md] -/
def aluOperandsOk (op : Nat) (x : Alu) : Bool :=
  let noB := op == 0x00 || (0x11 ≤ op && op ≤ 0x14) || op == 0x18 || op == 0x27 || op == 0x29 || op == 0x2A ||
    op == 0x2B || 0x33 ≤ op
  let b := if noB then x.b.zeroOk else x.b.srcOk
  if op == 0x00 then x.d == 0 && x.a == 0 && b
  else if op == 0x19 then isDst x.d && x.a == 0
  else if op == 0x1B || op == 0x26 || op == 0x2B then isPred x.d && isSrc x.a && b
  else if op ≤ 0x2B then isDst x.d && isSrc x.a && b
  else if op ≤ 0x32 then isPred x.d && isPred x.a && (match x.b with | .code c => isPred c | _ => false)
  else if op == 0x33 then isPred x.d && isPred x.a && b
  else if op == 0x34 then
    (if x.sub == 0 then isPred x.d && isPred x.a
     else if x.sub == 1 then isBank x.d && isG x.a
     else isG x.d && isBank x.a) && b
  else if op == 0x35 then isPred x.d && (if x.sub.toNat ≤ 1 then x.a == 0 else isG x.a) && b
  else isDst x.d && x.a == 0 && b

/-- A span code (R183). -/
def isSpan (c : BitVec 9) : Bool := c.toNat ≤ 383

/-- Row 5 of Table 3-15 for the generic layout. -/
def genOperandsOk (op : Nat) (x : Gen) : Bool :=
  let d0 := x.d == 0
  let a0 := x.a == 0
  let b0 := x.b.zeroOk
  let b := x.b.srcOk
  if op == 0x39 then isDst x.d && isSrc x.a && b0
  else if op == 0x3B then d0 && isSrc x.a && b0
  else if op == 0x3F || op == 0x40 || op == 0x7A || op == 0x7C || op == 0x82 then d0 && a0 && b
  else if op == 0x41 || op == 0x42 || op == 0x43 || op == 0x61 || op == 0x7D then d0 && a0 && b0
  else if op == 0x44 then d0 && (if x.fn == 0 then a0 && b0 else isSrc x.a && b)
  else if op == 0x48 then
    64 ≤ x.d.toNat && x.d.toNat ≤ 79 && a0 && b0 && !(4 ≤ x.fn.toNat / 4 % 8 && 4 ≤ x.fn.toNat / 32 % 8)
  else if op == 0x49 || op == 0x4C then 64 ≤ x.d.toNat && x.d.toNat ≤ 79 && a0 && b0
  else if op == 0x4A then isG x.d && 64 ≤ x.a.toNat && x.a.toNat ≤ 95 && b0
  else if op == 0x4B then 64 ≤ x.d.toNat && x.d.toNat ≤ 79 && isSrc x.a && b0
  else if op == 0x62 then d0 && (if x.fn.getLsbD 3 then a0 else isSrc x.a) && b0
  else if op == 0x68 || op == 0x69 then isG x.d && isSrc x.a && b
  else if op == 0x6A then isG x.d && isSrc x.a && b0
  else if op == 0x6B then d0 && isSrc x.a && b
  else if op == 0x6C then d0 && a0 && b
  else if op == 0x6D then d0 && isSrc x.a && b
  else if op == 0x6E then d0 && a0 && b
  else if op == 0x6F then isDst x.d && a0 && b0
  else if op == 0x70 then isG x.d && isG x.a && (if x.fn == 1 then b0 else b)
  else if op == 0x71 then isG x.d && isPair x.a && (match x.b with | .code c => isG c | _ => false)
  else if op == 0x72 then d0 && (if x.fn == 1 then a0 else isG x.a) && b0
  else if op == 0x73 then isPair x.d && isPair x.a && b0
  else if op == 0x74 then isPair x.d && a0 && b0
  else if op == 0x78 then (if x.fn == 1 then isDst x.d && a0 && b0 else d0 && isG x.a && b0)
  else if op == 0x79 then d0 && isG x.a && b
  else if op == 0x7E then isDst x.d && a0 && b0
  else if op == 0x7F then d0 && a0 && b
  else if op == 0x80 then d0 && isPair x.a && b0
  else if op == 0x81 then d0 && (if x.fn == 2 then a0 else isSrc x.a) && (if x.fn == 1 then b else b0)
  else if op == 0xB8 then isSpan x.d && isSrc x.a && b0
  else if op == 0xB9 || op == 0xBB then isSpan x.d && a0 && b
  else if op == 0xBA then isDst x.d && isSpan x.a && b0
  else if op == 0xBC then isSpan x.d && isSpan x.a && b0
  else d0 && isG x.a && b0

/-- Row 5 of Table 3-15 for the branch layout (Tables 4-9, 4-10). -/
def brOperandsOk (op : Nat) (x : Br) : Bool :=
  if op == 0x3A then isDst x.d && x.a == 0
  else if op == 0x3C then x.d == 0 && isSrc x.a
  else x.d == 0 && x.a == 0

/-- Operand B of a memory or atomic instruction (R71): member register in N, aperture number in X, index register or none
otherwise. -/
def indexOk (op : Nat) (c : BitVec 9) : Bool :=
  if op == 0x54 || op == 0x55 || op == 0x5D then isG c
  else if op == 0x58 || op == 0x59 || op == 0x5F then c.toNat ≤ 15
  else isG c || c == noCode

/-- Row 5 of Table 3-15 for the MEM layout (R137, R146, R147). -/
def memOperandsOk (op : Nat) (x : Mem) : Bool :=
  isG x.a && indexOk op x.b &&
  (if op == 0x63 || op == 0x64 then x.d == 0
   else if op % 2 == 0 then isDst x.d
   else x.d.toNat ≤ 95)

/-- Row 5 of Table 3-15 for the AMO layout (R70, R141). -/
def amoOperandsOk (op : Nat) (x : Amo) : Bool :=
  isG x.a && indexOk op x.b && isG x.d && !(x.func == 2 && x.d.getLsbD 0)

/-- A span source operand code (Table 3-7). -/
def isSpanSrc (c : BitVec 9) : Bool := c.toNat ≤ 415

/-- A span destination operand code (Table 3-7). -/
def isSpanDst (c : BitVec 9) : Bool := c.toNat ≤ 399

/-- Row 5 of Table 3-15 for the VEC layout (R157, R158, R166 to R181). -/
def vecOperandsOk (op : Nat) (x : Vec) : Bool :=
  let noB := op == 0x96 || op == 0x97 || op == 0x9A || (0xA1 ≤ op && op ≤ 0xA9) || op == 0xAA || op == 0xAB ||
    op == 0xB0 || op == 0xB4 || op == 0xB5
  let lit := match x.b with | .lit _ => true | _ => false
  let d := if op == 0xAF || op == 0xB2 then isSpan x.d else isSpanDst x.d
  let a := if op == 0xB1 then (if lit then x.a == 0 else isSrc x.a)
    else if op == 0xAD || op == 0xAE then isSpan x.a else isSpanSrc x.a
  let b := match x.b with
    | .code c =>
      if noB || op == 0xB1 then c == 0
      else if op == 0xA0 || op == 0xB6 || op == 0xB3 then isSpan c else isSpanSrc c
    | _ => true
  let m := (x.mask == noCode && op != 0x99 && op != 0xB5) || (isSpan x.mask && op != 0xB2)
  d && a && b && m

/-- Row 5 of Table 3-15 for the MAT layout (R205 to R212). -/
def matOperandsOk (op : Nat) (x : Mat) : Bool :=
  let z (c : BitVec 9) := c == 0
  let acc (c : BitVec 9) : Bool := c.toNat ≤ 7
  let slot (c : BitVec 9) : Bool := c.toNat ≤ 31
  if op == 0xC2 || op == 0xC3 then z x.d && isSrc x.a && z x.b
  else if op == 0xC4 then acc x.d && isSrc x.a && isSrc x.b
  else if op == 0xC7 then acc x.d && slot x.a && slot x.b
  else if op == 0xC8 then acc x.d && z x.a && z x.b
  else if op == 0xC9 then isSrc x.d && acc x.a && isSrc x.b
  else if op == 0xCA then slot x.d && isSrc x.a && z x.b
  else if op == 0xCB then isDst x.d && z x.a && z x.b
  else z x.d && z x.a && z x.b

/-- The copy writes from the scratchpad side to memory: `.st` forms and `cps`. -/
def cpyIsStore (op : Nat) (x : Cpy) : Bool :=
  op == 0xD3 || ((op == 0xD0 || op == 0xD1 || op == 0xD5) && x.sub.getLsbD 0)

/-- Row 5 of Table 3-15 for the CPY layout (R73, R233, R239, Table 8-5). -/
def cpyOperandsOk (op : Nat) (x : Cpy) : Bool :=
  let st := cpyIsStore op x
  let d :=
    if x.slot then (op == 0xD0 || op == 0xD1 || op == 0xD4 || op == 0xD5 || op == 0xD6) && !st && x.d.toNat ≤ 31
    else if op == 0xD7 then isSrc x.d
    else if op == 0xD0 || op == 0xD6 then isSpan x.d
    else isSpanDst x.d
  let a := if op == 0xD6 && !x.sub.getLsbD 0 then x.a == 0 else isG x.a
  let b := if op == 0xD0 || op == 0xD6 || op == 0xD7 then x.b == noCode else isPair x.b
  let bx := !(x.sub.getLsbD 3) || (!st && (x.slot || isSpan x.d))
  d && a && b && bx

/-- Row 5 of Table 3-15: every operand code is in the instruction's range. -/
def View.operandsOk : View → Bool
  | .short op x =>
    match layoutOf op with
    | some .alu => aluOperandsOk op x.toAlu
    | _ => genOperandsOk op x.toGen
  | .shortBr _ _ => true
  | .alu op x => aluOperandsOk op x
  | .gen op x => genOperandsOk op x
  | .br op x => brOperandsOk op x
  | .mem op x => memOperandsOk op x
  | .amo op x => amoOperandsOk op x
  | .vec op x => vecOperandsOk op x
  | .mat op x => matOperandsOk op x
  | .cpy op x => cpyOperandsOk op x
  | .header _ => true
  | .raw _ => false
  | .event => true

/-- The constructor of a row that shares its opcode with another row is the one its function field names (R102, Table 4-11,
Table 18-3). -/
def Instr.rowOk : Instr → Bool
  | .movi x => !x.isMoviHi
  | .moviHi x => x.isMoviHi
  | .exit x => !x.fn.getLsbD 0
  | .exitSucc x => x.fn.getLsbD 0
  | .cpmarkBeg x => x.fn != 2
  | .cpmarkEnd x => x.fn == 2
  | _ => true

/-- A literal stands only where the opcode has a literal form, and a vector instruction has no immediate. -/
def View.formOk : View → Bool
  | .alu op x => (match x.b with | .lit _ => hasLiteral op | _ => true)
  | .gen _ x => (match x.b with | .lit _ => false | _ => true)
  | .vec op x => (match x.b with | .lit _ => hasLiteral op | .imm _ => false | .code _ => true)
  | _ => true

/-- An instruction that some word encodes: its form exists, and its constructor is the one its fields name. -/
def Instr.encodable (i : Instr) : Bool := i.rowOk && i.view.formOk

/-- An instruction that passes the checks of Table 3-15 that depend on its encoding alone (rows 1, 2 and 5). -/
def Instr.wellFormed (i : Instr) : Bool := i.encodable && i.view.fieldsOk && i.view.operandsOk

end Sys2Proof
end

