-- ==== Sys2Proof/Decode.lean ====
section
/-! DEFINITION. Decoding instruction words and section headers (R54 to R74, R77, R84), and the encoder. Decoding answers
every word: an instruction; the unassigned-opcode instruction for an opcode that Table 3-13 does not assign and for a form
that the opcode lacks; or an error that names the reserved bits. Checks that need more than the reserved bits of a layout
are in WellFormed. -/

namespace Sys2Proof

/-- Why a word is no instruction although its opcode and form exist: every case raises the illegal-instruction trap
(Table 3-15 row 2). -/
inductive DecodeError where
  /-- Bits that a layout reserves, M[8:0] without an immediate among them (R62), are not zero. -/
  | reservedBits
  /-- B or I of a literal form is not zero (R63). -/
  | literalField
  deriving DecidableEq, Repr

/-- The short-form instruction of an opcode (Table 3-3). -/
def ofShort (op : Nat) (x : Short) : Option Instr :=
  match op with
  | 0x00 => some (.nop x)
  | 0x01 => some (.add x)
  | 0x02 => some (.sub x)
  | 0x03 => some (.mul x)
  | 0x04 => some (.mulh x)
  | 0x05 => some (.div x)
  | 0x06 => some (.rem x)
  | 0x07 => some (.and x)
  | 0x08 => some (.or x)
  | 0x09 => some (.xor x)
  | 0x0A => some (.andn x)
  | 0x0B => some (.shl x)
  | 0x0C => some (.shr x)
  | 0x0D => some (.sar x)
  | 0x0E => some (.rot x)
  | 0x0F => some (.min x)
  | 0x10 => some (.max x)
  | 0x11 => some (.abs x)
  | 0x12 => some (.clz x)
  | 0x13 => some (.ctz x)
  | 0x14 => some (.popc x)
  | 0x15 => some (.bfx x)
  | 0x16 => some (.bfi x)
  | 0x17 => some (.sel x)
  | 0x18 => some (.mov x)
  | 0x1A => some (.lea x)
  | 0x1B => some (.cmp x)
  | 0x20 => some (.fadd x)
  | 0x21 => some (.fsub x)
  | 0x22 => some (.fmul x)
  | 0x23 => some (.ffma x)
  | 0x24 => some (.fmin x)
  | 0x25 => some (.fmax x)
  | 0x26 => some (.fcmp x)
  | 0x27 => some (.fcvt x)
  | 0x28 => some (.fdiv x)
  | 0x29 => some (.fsqrt x)
  | 0x2A => some (.fneg x)
  | 0x2B => some (.fclass x)
  | 0x30 => some (.pand x)
  | 0x31 => some (.por x)
  | 0x32 => some (.pxor x)
  | 0x33 => some (.pnot x)
  | 0x34 => some (.pmov x)
  | 0x35 => some (.pset x)
  | 0x3B => some (.ret x)
  | 0x42 => some (.rdv x)
  | 0x43 => some (.halt x)
  | 0x7B => some (.ccnt x)
  | _ => none

/-- The short-form branch of an opcode (R59). -/
def ofShortBr (op : Nat) (disp : BitVec 22) : Option Instr :=
  match op with
  | 0x38 => some (.br disp)
  | 0x3A => some (.call disp)
  | 0x3D => some (.bloop disp)
  | _ => none

/-- The instruction of an opcode with the Alu layout (Table 3-13). -/
def ofAlu (op : Nat) (x : Alu) : Option Instr :=
  match op with
  | 0x00 => some (.nopLong x)
  | 0x01 => some (.addLong x)
  | 0x02 => some (.subLong x)
  | 0x03 => some (.mulLong x)
  | 0x04 => some (.mulhLong x)
  | 0x05 => some (.divLong x)
  | 0x06 => some (.remLong x)
  | 0x07 => some (.andLong x)
  | 0x08 => some (.orLong x)
  | 0x09 => some (.xorLong x)
  | 0x0A => some (.andnLong x)
  | 0x0B => some (.shlLong x)
  | 0x0C => some (.shrLong x)
  | 0x0D => some (.sarLong x)
  | 0x0E => some (.rotLong x)
  | 0x0F => some (.minLong x)
  | 0x10 => some (.maxLong x)
  | 0x11 => some (.absLong x)
  | 0x12 => some (.clzLong x)
  | 0x13 => some (.ctzLong x)
  | 0x14 => some (.popcLong x)
  | 0x15 => some (.bfxLong x)
  | 0x16 => some (.bfiLong x)
  | 0x17 => some (.selLong x)
  | 0x18 => some (.movLong x)
  | 0x19 => some (if x.isMoviHi then .moviHi x else .movi x)
  | 0x1A => some (.leaLong x)
  | 0x1B => some (.cmpLong x)
  | 0x20 => some (.faddLong x)
  | 0x21 => some (.fsubLong x)
  | 0x22 => some (.fmulLong x)
  | 0x23 => some (.ffmaLong x)
  | 0x24 => some (.fminLong x)
  | 0x25 => some (.fmaxLong x)
  | 0x26 => some (.fcmpLong x)
  | 0x27 => some (.fcvtLong x)
  | 0x28 => some (.fdivLong x)
  | 0x29 => some (.fsqrtLong x)
  | 0x2A => some (.fnegLong x)
  | 0x2B => some (.fclassLong x)
  | 0x30 => some (.pandLong x)
  | 0x31 => some (.porLong x)
  | 0x32 => some (.pxorLong x)
  | 0x33 => some (.pnotLong x)
  | 0x34 => some (.pmovLong x)
  | 0x35 => some (.psetLong x)
  | 0x7B => some (.ccntLong x)
  | _ => none

/-- The instruction of an opcode with the Gen layout (Table 3-13). -/
def ofGen (op : Nat) (x : Gen) : Option Instr :=
  match op with
  | 0x39 => some (.brr x)
  | 0x3B => some (.retLong x)
  | 0x3F => some (.rbset x)
  | 0x40 => some (.fork x)
  | 0x41 => some (.join x)
  | 0x42 => some (.rdvLong x)
  | 0x43 => some (.haltLong x)
  | 0x44 => some (if x.fn.getLsbD 0 then .exitSucc x else .exit x)
  | 0x48 => some (.qbind x)
  | 0x49 => some (.qfree x)
  | 0x4A => some (.qstat x)
  | 0x4B => some (.stbind x)
  | 0x4C => some (.ststop x)
  | 0x61 => some (.qmark x)
  | 0x62 => some (.rfence x)
  | 0x68 => some (.tlwait x)
  | 0x69 => some (.tlinc x)
  | 0x6A => some (.tlread x)
  | 0x6B => some (.tlset x)
  | 0x6C => some (.bar x)
  | 0x6D => some (.barx x)
  | 0x6E => some (.cwait x)
  | 0x6F => some (.cpstat x)
  | 0x70 => some (.launch x)
  | 0x71 => some (.rsdecl x)
  | 0x72 => some (.rsdrop x)
  | 0x73 => some (.rsread x)
  | 0x74 => some (.tlnext x)
  | 0x78 => some (if x.fn = 2 then .cpmarkEnd x else .cpmarkBeg x)
  | 0x79 => some (.tmark x)
  | 0x7A => some (.brk x)
  | 0x7C => some (.sys x)
  | 0x82 => some (.trap x)
  | 0x7D => some (.eret x)
  | 0x7E => some (.csrr x)
  | 0x7F => some (.csrw x)
  | 0x80 => some (.ovtld x)
  | 0x81 => some (.tlbinv x)
  | 0xB8 => some (.sdef x)
  | 0xB9 => some (.sset x)
  | 0xBA => some (.sget x)
  | 0xBB => some (.sadv x)
  | 0xBC => some (.sfmt x)
  | 0xE0 => some (.vdec x)
  | 0xE1 => some (.venc x)
  | 0xE2 => some (.flow x)
  | 0xE3 => some (.cmrun x)
  | _ => none

/-- The instruction of an opcode with the Br layout (Table 3-13). -/
def ofBr (op : Nat) (x : Br) : Option Instr :=
  match op with
  | 0x38 => some (.brLong x)
  | 0x3A => some (.callLong x)
  | 0x3C => some (.loop x)
  | 0x3D => some (.bloopLong x)
  | 0x3E => some (.lbrk x)
  | _ => none

/-- The instruction of an opcode with the Mem layout (Table 3-13). -/
def ofMem (op : Nat) (x : Mem) : Option Instr :=
  match op with
  | 0x50 => some (.ldp x)
  | 0x51 => some (.stp x)
  | 0x52 => some (.lds x)
  | 0x53 => some (.sts x)
  | 0x54 => some (.ldn x)
  | 0x55 => some (.stn x)
  | 0x56 => some (.ldg x)
  | 0x57 => some (.stg x)
  | 0x58 => some (.ldx x)
  | 0x59 => some (.stx x)
  | 0x5A => some (.ldh x)
  | 0x5B => some (.sth x)
  | 0x63 => some (.cflush x)
  | 0x64 => some (.pfch x)
  | _ => none

/-- The instruction of an opcode with the Amo layout (Table 3-13). -/
def ofAmo (op : Nat) (x : Amo) : Option Instr :=
  match op with
  | 0x5C => some (.ams x)
  | 0x5D => some (.amn x)
  | 0x5E => some (.amg x)
  | 0x5F => some (.amx x)
  | 0x60 => some (.amh x)
  | _ => none

/-- The instruction of an opcode with the Vec layout (Table 3-13). -/
def ofVec (op : Nat) (x : Vec) : Option Instr :=
  match op with
  | 0x90 => some (.vadd x)
  | 0x91 => some (.vsub x)
  | 0x92 => some (.vmul x)
  | 0x93 => some (.vfma x)
  | 0x94 => some (.vmin x)
  | 0x95 => some (.vmax x)
  | 0x96 => some (.vabs x)
  | 0x97 => some (.vneg x)
  | 0x98 => some (.vcmp x)
  | 0x99 => some (.vsel x)
  | 0x9A => some (.vcvt x)
  | 0x9B => some (.vand x)
  | 0x9C => some (.vor x)
  | 0x9D => some (.vxor x)
  | 0x9E => some (.vshl x)
  | 0x9F => some (.vshr x)
  | 0xA0 => some (.vclamp x)
  | 0xA1 => some (.vexp x)
  | 0xA2 => some (.vexp2 x)
  | 0xA3 => some (.vlog x)
  | 0xA4 => some (.vlog2 x)
  | 0xA5 => some (.vrcp x)
  | 0xA6 => some (.vrsq x)
  | 0xA7 => some (.vsqrt x)
  | 0xA8 => some (.vtanh x)
  | 0xA9 => some (.vsigm x)
  | 0xAA => some (.vred x)
  | 0xAB => some (.vscan x)
  | 0xAC => some (.vdot x)
  | 0xAD => some (.vperm x)
  | 0xAE => some (.vgath x)
  | 0xAF => some (.vscat x)
  | 0xB0 => some (.vmov x)
  | 0xB1 => some (.vfill x)
  | 0xB2 => some (.visect x)
  | 0xB3 => some (.vhash x)
  | 0xB4 => some (.vcnt x)
  | 0xB5 => some (.vcmpr x)
  | 0xB6 => some (.vscale x)
  | _ => none

/-- The instruction of an opcode with the Mat layout (Table 3-13). -/
def ofMat (op : Nat) (x : Mat) : Option Instr :=
  match op with
  | 0xC0 => some (.mlease x)
  | 0xC1 => some (.mfree x)
  | 0xC2 => some (.mclaim x)
  | 0xC3 => some (.mrel x)
  | 0xC4 => some (.mload x)
  | 0xC5 => some (.mbeg x)
  | 0xC6 => some (.mend x)
  | 0xC7 => some (.mmul x)
  | 0xC8 => some (.mzero x)
  | 0xC9 => some (.mstore x)
  | 0xCA => some (.mbmap x)
  | 0xCB => some (.mstat x)
  | _ => none

/-- The instruction of an opcode with the Cpy layout (Table 3-13). -/
def ofCpy (op : Nat) (x : Cpy) : Option Instr :=
  match op with
  | 0xD0 => some (.cpy x)
  | 0xD1 => some (.cpt x)
  | 0xD2 => some (.cpg x)
  | 0xD3 => some (.cps x)
  | 0xD4 => some (.cpm x)
  | 0xD5 => some (.cpc x)
  | 0xD6 => some (.cpz x)
  | 0xD7 => some (.cpk x)
  | _ => none


/-- Bits `lo + n - 1` to `lo` of the first two words. -/
def field (w : DWord) (lo n : Nat) : BitVec n := w.extractLsb' lo n

/-- The guard fields (Table 3-4). -/
def guardOf (w : DWord) : Guard := ⟨field w 10 7, w.getLsbD 17⟩

/-- Operand B of a layout with the immediate flag (R62, R63). -/
def srcOf (lit : Option Word) (w : DWord) : Except DecodeError Src :=
  match lit with
  | some l => if field w 36 9 = 0 ∧ field w 45 9 = 0 ∧ w.getLsbD 63 = false then .ok (.lit l) else .error .literalField
  | none =>
    if w.getLsbD 63 then .ok (.imm (field w 45 9 ++ field w 36 9))
    else if field w 45 9 = 0 then .ok (.code (field w 36 9))
    else .error .reservedBits

/-- The ALU layout (Table 3-8). -/
def aluOf (lit : Option Word) (w : DWord) : Except DecodeError Alu :=
  match srcOf lit w with
  | .error e => .error e
  | .ok b =>
    if w.getLsbD 62 then .error .reservedBits
    else .ok ⟨guardOf w, field w 18 9, field w 27 9, b, field w 59 3, w.getLsbD 58, field w 54 4⟩

/-- The generic layout (Table 3-8). -/
def genOf (lit : Option Word) (w : DWord) : Except DecodeError Gen :=
  match srcOf lit w with
  | .error e => .error e
  | .ok b => .ok ⟨guardOf w, field w 18 9, field w 27 9, b, field w 54 9⟩

/-- The branch layout (R74). -/
def brOf (w : DWord) : Br := ⟨guardOf w, field w 18 9, field w 27 9, field w 36 28⟩

/-- The MEM layout (Table 3-9). -/
def memOf (w : DWord) : Mem :=
  ⟨guardOf w, field w 18 9, field w 27 9, field w 36 9, w.getLsbD 63, field w 61 2, field w 58 3, field w 56 2, field w 45 11⟩

/-- The AMO layout (Table 3-9). -/
def amoOf (w : DWord) : Amo :=
  ⟨guardOf w, field w 18 9, field w 27 9, field w 36 9, w.getLsbD 63, field w 61 2, field w 58 3, field w 56 2, field w 52 4,
    field w 45 7⟩

/-- The VEC layout (Table 3-10); a literal form has B zero (R166). -/
def vecOf (lit : Option Word) (w : DWord) : Except DecodeError Vec :=
  if w.getLsbD 63 then .error .reservedBits
  else
    match lit with
    | some l =>
      if field w 36 9 = 0 then
        .ok ⟨guardOf w, field w 18 9, field w 27 9, .lit l, field w 59 4, w.getLsbD 58, w.getLsbD 57, field w 54 3, field w 45 9⟩
      else .error .literalField
    | none =>
      .ok ⟨guardOf w, field w 18 9, field w 27 9, .code (field w 36 9), field w 59 4, w.getLsbD 58, w.getLsbD 57,
        field w 54 3, field w 45 9⟩

/-- The MAT layout (Table 3-10). -/
def matOf (w : DWord) : Except DecodeError Mat :=
  if field w 62 2 = 0 then
    .ok ⟨guardOf w, field w 18 9, field w 27 9, field w 36 9, w.getLsbD 61, w.getLsbD 60, field w 57 3, field w 51 6, field w 45 6⟩
  else .error .reservedBits

/-- The CPY layout (Table 3-10). -/
def cpyOf (w : DWord) : Except DecodeError Cpy :=
  if field w 60 3 = 0 then
    .ok ⟨guardOf w, field w 18 9, field w 27 9, field w 36 9, w.getLsbD 63, field w 56 4, field w 50 6, field w 47 3, field w 45 2⟩
  else .error .reservedBits

/-- The section header (Table 3-11a). -/
def headerOf (w : DWord) : Header := ⟨field w 2 12, field w 14 14, field w 28 12, field w 40 12, field w 52 12⟩

/-- The short form (Table 3-2). -/
def shortOf (w0 : Word) : Short :=
  ⟨w0.extractLsb' 10 6, w0.extractLsb' 16 6, w0.extractLsb' 22 6, w0.extractLsb' 28 4⟩

/-- An instruction, or the unassigned-opcode instruction where the opcode or form does not exist (Table 3-15 row 1). -/
def orUnassigned (w0 : Word) (r : Except DecodeError (Option Instr)) : Except DecodeError Instr :=
  match r with
  | .error e => .error e
  | .ok none => .ok (.unassignedOpcode w0)
  | .ok (some i) => .ok i

/-- The long form, or with `lit` the literal form, of an opcode (R60 to R63, R68 to R74). -/
def decodeLong (w : DWord) (lit : Option Word) : Except DecodeError (Option Instr) :=
  let op := (field w 2 8).toNat
  if lit.isSome && !hasLiteral op then .ok none
  else
    match layoutOf op with
    | none => .ok none
    | some .alu => (aluOf lit w).map (ofAlu op)
    | some .gen => (genOf lit w).map (ofGen op)
    | some .br => .ok (ofBr op (brOf w))
    | some .mem => .ok (ofMem op (memOf w))
    | some .amo => .ok (ofAmo op (amoOf w))
    | some .vec => (vecOf lit w).map (ofVec op)
    | some .mat => (matOf w).map (ofMat op)
    | some .cpy => (cpyOf w).map (ofCpy op)

/-- The short form of an opcode (R57, R59). -/
def decodeShort (w0 : Word) : Option Instr :=
  let op := (w0.extractLsb' 2 8).toNat
  match ofShort op (shortOf w0) with
  | some i => some i
  | none => ofShortBr op (w0.extractLsb' 10 22)

/-- The instruction or header that starts with `w0` (R54, Table 3-1); words the form does not have are not read. -/
def decodeWords (w0 w1 w2 : Word) : Except DecodeError Instr :=
  let l := w0.extractLsb' 0 2
  if l = 3 then .ok (.sectionHeader (headerOf (w1 ++ w0)))
  else if l = 0 then orUnassigned w0 (.ok (decodeShort w0))
  else if l = 1 then orUnassigned w0 (decodeLong (w1 ++ w0) none)
  else orUnassigned w0 (decodeLong (w1 ++ w0) (some w2))

/-- Words of the form whose first word is `w0` (Table 3-1). -/
def lengthWords (w0 : Word) : Nat :=
  let l := w0.extractLsb' 0 2
  if l = 0 then 1 else if l = 2 then 3 else 2

/-- A little-endian 32-bit word of a byte list, missing bytes reading as zero (R54). -/
def wordAt (bs : List Byte) (k : Nat) : Word :=
  bs.getD (4 * k + 3) 0 ++ bs.getD (4 * k + 2) 0 ++ bs.getD (4 * k + 1) 0 ++ bs.getD (4 * k) 0

/-- Decoding from bytes as the hardware stores them: the instruction and the bytes that follow it. A list that ends inside
the instruction is none. -/
def decodeBytes (bs : List Byte) : Option (Except DecodeError Instr × List Byte) :=
  let n := 4 * lengthWords (wordAt bs 0)
  if bs.length < 4 ∨ bs.length < n then none
  else some (decodeWords (wordAt bs 0) (wordAt bs 1) (wordAt bs 2), bs.drop n)

/-- The bytes of a word, first at the lowest address (R54). -/
def Word.bytes (w : Word) : List Byte :=
  [w.extractLsb' 0 8, w.extractLsb' 8 8, w.extractLsb' 16 8, w.extractLsb' 24 8]

/-- The three words of an instruction given as a number, bit 0 the least significant bit of the first word; the bits above
`nbits` are zero. -/
def tableWords (nbits w : Nat) : Word × Word × Word :=
  let v := w % 2 ^ nbits
  (BitVec.ofNat 32 v, BitVec.ofNat 32 (v / 2 ^ 32), BitVec.ofNat 32 (v / 2 ^ 64))

/-- What the decoder reads from the bytes of an instruction given as a number. -/
def decodeTableWord (nbits w : Nat) : Option Instr :=
  let t := tableWords nbits w
  match decodeBytes (Word.bytes t.1 ++ Word.bytes t.2.1 ++ Word.bytes t.2.2) with
  | some (.ok i, _) => some i
  | _ => none

/-- The fields that every long form has, above its modifier field `m`: B, A, D, PN, PR, OP, L (Table 3-4). -/
def packLong (op : Nat) (l : BitVec 2) (g : Guard) (d a b : BitVec 9) (m : BitVec 19) : DWord :=
  m ++ b ++ a ++ d ++ BitVec.ofBool g.pn ++ g.pr ++ BitVec.ofNat 8 op ++ l

/-- B, I, M[8:0] and the literal of operand B (R62, R63). -/
def Src.code9 : Src → BitVec 9
  | .code c => c
  | .imm v => v.extractLsb' 0 9
  | .lit _ => 0

/-- The immediate flag (R62). -/
def Src.immFlag : Src → Bool
  | .imm _ => true
  | _ => false

/-- M[8:0] (R62). -/
def Src.high9 : Src → BitVec 9
  | .imm v => v.extractLsb' 9 9
  | _ => 0

/-- The literal word, if any (R63). -/
def Src.literal : Src → Option Word
  | .lit w => some w
  | _ => none

/-- Length code of a long or literal form (Table 3-1). -/
def Src.lcode (b : Src) : BitVec 2 := if b.literal.isSome then 2 else 1

/-- A long form's words, with the literal word of the literal form. -/
def longWords (w : DWord) (lit : Option Word) : List Word :=
  [w.extractLsb' 0 32, w.extractLsb' 32 32] ++ lit.toList

/-- The words of an instruction, written from the encoding tables of chapter 3. An event of a unit has none. -/
def View.encode (v : View) : List Word :=
  match v with
  | .short op x => [x.f ++ x.b ++ x.a ++ x.d ++ BitVec.ofNat 8 op ++ (0 : BitVec 2)]
  | .shortBr op disp => [disp ++ BitVec.ofNat 8 op ++ (0 : BitVec 2)]
  | .alu op x =>
    longWords (packLong op x.b.lcode x.guard x.d x.a x.b.code9
      (BitVec.ofBool x.b.immFlag ++ (0 : BitVec 1) ++ x.rnd ++ BitVec.ofBool x.u ++ x.sub ++ x.b.high9)) x.b.literal
  | .gen op x =>
    longWords (packLong op x.b.lcode x.guard x.d x.a x.b.code9 (BitVec.ofBool x.b.immFlag ++ x.fn ++ x.b.high9)) x.b.literal
  | .br op x =>
    longWords (packLong op 1 x.guard x.d x.a (x.disp.extractLsb' 0 9) (x.disp.extractLsb' 9 19)) none
  | .mem op x =>
    longWords (packLong op 1 x.guard x.d x.a x.b (BitVec.ofBool x.pol ++ x.ord ++ x.scope ++ x.size ++ x.off)) none
  | .amo op x =>
    longWords (packLong op 1 x.guard x.d x.a x.b (BitVec.ofBool x.pol ++ x.ord ++ x.scope ++ x.size ++ x.func ++ x.off)) none
  | .vec op x =>
    longWords (packLong op x.b.lcode x.guard x.d x.a x.b.code9
      ((0 : BitVec 1) ++ x.sub ++ BitVec.ofBool x.toBit ++ BitVec.ofBool x.sat ++ x.rnd ++ x.mask)) x.b.literal
  | .mat op x =>
    longWords (packLong op 1 x.guard x.d x.a x.b
      ((0 : BitVec 2) ++ BitVec.ofBool x.ord ++ BitVec.ofBool x.sp ++ x.rnd ++ x.tb ++ x.ta)) none
  | .cpy op x =>
    longWords (packLong op 1 x.guard x.d x.a x.b
      (BitVec.ofBool x.slot ++ (0 : BitVec 3) ++ x.sub ++ x.tag ++ x.rnd ++ x.ch)) none
  | .header h => longWords (h.wait2 ++ h.wait1 ++ h.wait0 ++ h.words ++ h.sect ++ (3 : BitVec 2)) none
  | .raw w => [w]
  | .event => []

/-- The words of an instruction. -/
def Instr.encode (i : Instr) : List Word := i.view.encode

/-- First word of an instruction (R56). -/
def View.firstWord (v : View) : Word := v.encode.headD 0

/-- Bytes of an instruction (Table 3-1). -/
def View.size (v : View) : Nat := 4 * v.encode.length

/-- The guard of an instruction (R60); short forms and headers have none. -/
def View.guard? : View → Option Guard
  | .alu _ x => some x.guard
  | .gen _ x => some x.guard
  | .br _ x => some x.guard
  | .mem _ x => some x.guard
  | .amo _ x => some x.guard
  | .vec _ x => some x.guard
  | .mat _ x => some x.guard
  | .cpy _ x => some x.guard
  | .short _ _ | .shortBr _ _ | .header _ | .raw _ | .event => none

/-- The bytes of an instruction in memory (R54). -/
def Instr.bytes (i : Instr) : List Byte := i.encode.flatMap Word.bytes

end Sys2Proof
end

