-- ==== Sys2Proof/Machine/State.lean ====
section
/-! DEFINITION. The state of the card as plain data: strands, tasks, cores, hoops, dies, contexts, queues, links, the front
end, the management controller, and the list of turns that says what moves next. Every structure names the rule of spec/
that gives it. Files of numbered things are association lists whose missing entries read as a default. -/

namespace Sys2Proof.Machine

/-- A file of numbered things: (number, thing) pairs, numbers rising. -/
abbrev Assoc (α : Type) := List (Nat × α)

/-- The thing with number `k`. -/
def Assoc.get? {α : Type} (m : Assoc α) (k : Nat) : Option α :=
  match m with
  | [] => none
  | (j, v) :: t => if j = k then some v else Assoc.get? t k

/-- The thing with number `k`, or the default of the file. -/
def Assoc.getD {α : Type} (m : Assoc α) (k : Nat) (d : α) : α := (Assoc.get? m k).getD d

/-- The file with `v` at number `k`. -/
def Assoc.set {α : Type} (m : Assoc α) (k : Nat) (v : α) : Assoc α :=
  match m with
  | [] => [(k, v)]
  | (j, w) :: t => if k < j then (k, v) :: (j, w) :: t else if j = k then (k, v) :: t else (j, w) :: Assoc.set t k v

/-- The file without number `k`. -/
def Assoc.erase {α : Type} (m : Assoc α) (k : Nat) : Assoc α := m.filter fun e => e.1 != k

/-- The file with the things that fail a test removed. -/
def Assoc.keep {α : Type} (m : Assoc α) (f : Nat → α → Bool) : Assoc α := m.filter fun e => f e.1 e.2

/-- Bytes by address in canonical form: addresses rise, and no entry is zero, which is what an unlisted address reads as
(notes/assumptions/2.md). -/
abbrev Memory := List Host.Cell

/-- The byte at an address. [DESIGN CHOICE: notes/assumptions/2.md] -/
def Memory.byte (m : Memory) (a : Nat) : Byte :=
  match m with
  | [] => 0
  | (b, v) :: t => if b = a then v else if a < b then 0 else Memory.byte t a

/-- The memory with one byte written, in canonical form. [DESIGN CHOICE: notes/assumptions/2.md] -/
def Memory.setByte (m : Memory) (a : Nat) (v : Byte) : Memory :=
  match m with
  | [] => if v = 0 then [] else [(a, v)]
  | (b, w) :: t =>
    if a < b then (if v = 0 then (b, w) :: t else (a, v) :: (b, w) :: t)
    else if a = b then (if v = 0 then t else (a, v) :: t)
    else (b, w) :: Memory.setByte t a v

/-- The canonical form: addresses strictly rise from `lo`, and no entry is zero. -/
def Memory.wfFrom (lo : Nat) : Memory → Bool
  | [] => true
  | (a, v) :: t => lo ≤ a && v != 0 && Memory.wfFrom (a + 1) t

/-- The canonical form of a memory. -/
def Memory.wf (m : Memory) : Bool := Memory.wfFrom 0 m

/-! ## Strands -/

/-- Strand states (Table 4-2); Saved and Debug-halted are marks of the task. -/
inductive StrandState where
  | idle | running | stalled | rendezvous | halted
  deriving DecidableEq, Repr, Inhabited

/-- The scopes of Table 3-9. -/
inductive Scope where
  | core | group | die | dev | sys
  deriving DecidableEq, Repr, Inhabited

/-- What a stalled strand waits for (R94, Table 18-2). [DEDUCED: notes/assumptions/43.md] -/
inductive Why where
  /-- a register whose load has not returned (R96) -/
  | register
  /-- the section waits of a header (R79): strands and sections not yet retired, and the last of them to be satisfied -/
  | sections (left : List (UnitId × BitVec 12)) (last : UnitId × BitVec 12)
  /-- an element of a queue (R115) -/
  | pop (q : Nat)
  /-- room in a queue (R116) -/
  | push (q : Nat)
  /-- a `join` (R111) -/
  | join (mask : BitVec 3)
  /-- a transfer identifier (R247) -/
  | transfer (ch : Nat) (id : Word)
  /-- room in an engine command queue (R165, R200, R214, R220) -/
  | engineQueue (unit : Nat) (ch : Nat)
  /-- engine commands a scalar access waits for (R219, R328, R443) -/
  | engines (op : Nat) (ids : List Nat)
  /-- a completion over a link (R376) -/
  | link (k : Nat)
  /-- a port in training (R380) -/
  | port (n : Nat)
  /-- a timeline (R353) -/
  | timeline (addr : DWord) (threshold : DWord)
  /-- a barrier phase (R346); `bytes` when the arrival expects posted bytes (R347) -/
  | barrier (n : Nat) (phase : Nat) (bytes : Bool)
  /-- the carve of an exiting task (R322) -/
  | exitCarve
  /-- a page that is not present (R126) -/
  | page (va : DWord)
  /-- a run queue entry (R383) -/
  | runQueue (kind : Nat)
  /-- a walk queue entry (R410) -/
  | walkQueue
  /-- storage being zeroed (R149) -/
  | zeroing
  /-- a frame being zeroed or migrated (R362, R367) -/
  | frame (n : Nat) (va : DWord)
  /-- the vector instruction that holds its strand (R159) -/
  | vectorHold (id : Nat)
  /-- a launch that the dispatcher is accepting (R312, R326) -/
  | accept
  /-- older engine commands that still write a scale stream to be checked (R160) -/
  | older (ids : List Nat)
  /-- a codebook table (R236) -/
  | table (ch : Nat)
  /-- a queue or table queue of a copy channel, which writes no record (R232, R236) -/
  | channel
  deriving DecidableEq, Repr, Inhabited

/-- A wait in progress: its start, the cycles of it spent saved or debug-halted, whether it spanned a save (R403), and the
producer that came last so far. [DEDUCED: notes/assumptions/57.md] -/
structure Wait where
  why : Why
  since : Nat
  away : Nat := 0
  saved : Bool := false
  prod : Party := 0
  deriving DecidableEq, Repr, Inhabited

/-- What came back for the access or instruction that holds a strand. -/
inductive Held where
  | value (v : DWord)
  | done
  /-- the zero-length read of a release of scope sys has completed (R376) -/
  | flushed
  | trap (cause : Nat) (value : DWord)
  /-- the strand's stall on a queue has turned into this trap (R115, R116, R119); without a value it is the first word -/
  | doom (cause : Nat) (value : Option DWord)
  deriving DecidableEq, Repr, Inhabited

/-- A load that has left the core (R138): the destination, a physical g register or a queue with its element bits, and the
value it read. -/
inductive LoadDest where
  | reg (n : Nat)
  | queue (q : Nat)
  deriving DecidableEq, Repr, Inhabited

/-- Where a resolved access goes (R122 to R127): bytes of a core's scratchpad, in shared memory or not; a physical address of
device memory with its page's entry; an address over a port with its PASID. -/
inductive Loc where
  | pad (core lo : Nat) (shared : Bool)
  | home (pa : Nat) (pte : DWord)
  | link (port : Nat) (addr : DWord) (pasid : BitVec 16)
  deriving DecidableEq, Repr, Inhabited

structure PendLoad where
  id : Nat
  dest : LoadDest
  value : DWord
  /-- the place that it still has to read, and its size (R254) -/
  late : Option (Loc × Nat) := none
  deriving DecidableEq, Repr, Inhabited

/-- A store in the strand's store queue that has not performed (R138, R254). -/
structure PendStore where
  id : Nat
  loc : Loc
  size : Nat
  value : Nat
  deriving DecidableEq, Repr, Inhabited

/-- How a stop left a strand (Table 10-10). -/
inductive StopMark where
  | none | boundary | frozen
  deriving DecidableEq, Repr, Inhabited

/-- A strand (Table 4-1, R276). [DESIGN CHOICE: notes/assumptions/3.md] -/
structure Strand where
  pc : DWord := 0
  g : Assoc DWord := []
  p : Assoc Bool := []
  /-- the loop-index stack, innermost first: (N, i) -/
  loops : List (Word × Word) := []
  bg : BitVec 5 := 0
  bp : BitVec 5 := 0
  bs : BitVec 7 := 0
  rs : BitVec 12 := 0xFFF
  xs : BitVec 12 := 0
  /-- the section in force: its first word's address and its WORDS (R82) -/
  sect : Option (DWord × BitVec 14) := none
  fcsr : DWord := 0
  tcause : DWord := 0
  tval : DWord := 0
  tpc : DWord := 0
  tdata : DWord := 0
  tscratch : DWord := 0
  pp : Bool := false
  ih : Bool := false
  lvl : Bool := false
  state : StrandState := .idle
  wait : Option Wait := none
  held : Option Held := none
  loads : List PendLoad := []
  stores : List PendStore := []
  /-- the element that a store has popped at its issue and has not yet performed (R138) -/
  popped : Option DWord := none
  stop : StopMark := .none
  /-- the first instruction after the task's start or resume has issued, so its record of kind 15 or 18 is written (R405) -/
  fresh : Bool := false
  /-- cycle at which a strand last stopped being live, for the producer of a join (R111) -/
  ended : Nat := 0
  deriving DecidableEq, Repr, Inhabited

/-! ## Queue registers, engine commands -/

/-- Binding state of a queue register (R113, Table 4-13). -/
inductive Binding where
  | unbound | bound | stream | stopped
  deriving DecidableEq, Repr, Inhabited

/-- A queue register (R113, R114). Contents are beats, oldest first: the elements of a beat not yet popped, and whether the
beat takes no more; `fill` counts the elements pushed into the newest beat. -/
structure QueueReg where
  bind : Binding := .unbound
  /-- log2 of the element size -/
  size : BitVec 2 := 0
  prod : BitVec 3 := 0
  cons : BitVec 3 := 0
  beats : List (List DWord × Bool) := []
  fill : Nat := 0
  /-- the copy fault that a pop of the emptied queue takes (R238, R251): its trap value -/
  faulted : Option DWord := none
  deriving DecidableEq, Repr, Inhabited

/-- Modes an instruction captures at issue (R41, R46). -/
structure FpMode where
  rm : Nat := 0
  fz : Bool := false
  daz : Bool := false
  ovf : BitVec 128 := 0
  deriving DecidableEq, Repr, Inhabited

/-- A resource of the address-range checker (R218): scratchpad bytes of the issuing core, one of the four stores of a
physical slot, or a physical accumulator. -/
inductive Resource where
  | pad (lo hi : Nat)
  | slot (n store : Nat)
  | acc (n : Nat)
  deriving DecidableEq, Repr, Inhabited

/-- What every engine command carries: its number in the core's order of entry, the strand that issued it, its opcode, the
cycle of issue, the modes it captured and its read and write sets. -/
structure CmdHead where
  id : Nat := 0
  /-- its first word, the trap value of most traps (R56) -/
  w0 : Word := 0
  task : Nat := 0
  unit : UnitId := .main
  op : Nat := 0
  issued : Nat := 0
  mode : FpMode := {}
  reads : List Resource := []
  writes : List Resource := []
  /-- the command waited for a conflicting command; the party it waited for last and when that completed (R404, R405) -/
  waited : Bool := false
  prod : Party := 0
  cleared : Nat := 0
  started : Bool := false
  /-- cycles since its issue that its task was saved or debug-halted, and whether there were any (R403) -/
  away : Nat := 0
  saved : Bool := false
  /-- of these, the cycles before the last completion of its matrix queue (R197) -/
  awayBase : Nat := 0
  /-- it has finished with the carve (R322) -/
  off : Bool := false
  /-- a wait of the command in execution: for a queue, a table, a page (R159, R217, R236) -/
  wait : Option Wait := none
  deriving DecidableEq, Repr, Inhabited

/-- A trap that a completed command has left for the instruction that observes it (R204, R444). -/
structure LateTrap where
  hd : CmdHead
  cause : Nat
  value : DWord
  deriving DecidableEq, Repr, Inhabited

/-- A span operand as captured at issue (R154, R158). -/
inductive Oper where
  | none
  | span (desc : DWord)
  | queue (q : Nat) (peek : Bool)
  | const (bits : DWord)
  | slot (phys : Nat)
  deriving DecidableEq, Repr, Inhabited

/-- Progress of a vector command: the positions done and what it keeps between them (R158, R159). Elements are bit patterns.
-/
structure VecRun where
  /-- the sources as read at the start, when the destination overlaps them (R164) -/
  snap : Option (List Nat × List Nat × List Nat) := none
  /-- the old elements of a destination that is also read -/
  old : List Nat := []
  /-- scales of A's blocks -/
  scales : List Nat := []
  pos : Nat := 0
  /-- elements kept for an instruction that needs several: of A with their mask bits, and of B -/
  ka : List (Nat × Bool) := []
  kb : List Nat := []
  /-- a list operand of `visect` has given its terminator -/
  endA : Bool := false
  endB : Bool := false
  /-- elements kept by `vcmpr` so far -/
  kept : Nat := 0
  /-- a key that `vhash` has probed and not yet inserted, after its slot (R182) -/
  insert : Option (Nat × Nat) := none
  /-- results not yet pushed, once the work is done -/
  out : List Nat := []
  fin : Bool := false
  flags : BitVec 5 := 0
  deriving DecidableEq, Repr, Inhabited

/-- A vector command (R165). -/
structure VecCmd where
  hd : CmdHead := {}
  x : Vec := default
  d : Oper := .none
  a : Oper := .none
  b : Oper := .none
  m : Oper := .none
  /-- operating format, tag of its queue operands, element count -/
  f : Nat := 0
  qt : Nat := 0
  n : Nat := 0
  /-- scales of A's blocks, decoded at issue (R160) -/
  scales : List Nat := []
  run : Option VecRun := none
  /-- a queue operand was freed (R119) -/
  freed : Bool := false
  /-- the other end of the queue it stalls on has stopped being live (R115, R159) -/
  lost : Bool := false
  deriving DecidableEq, Repr, Inhabited

/-- A matrix command or marker (R200, R207). -/
structure MatCmd where
  hd : CmdHead := {}
  x : Mat := default
  /-- physical accumulator, slots -/
  acc : Nat := 0
  sa : Nat := 0
  sb : Nat := 0
  /-- logical accumulator, for a lease record and a deferred error -/
  lacc : Nat := 0
  off : DWord := 0
  pitch : DWord := 0
  /-- the chain that the command belongs to is ordered -/
  ordered : Bool := false
  deriving DecidableEq, Repr, Inhabited

/-- A codebook table with its tag (R235): 8 or 16 BF16 entries. -/
structure Table where
  tag : BitVec 6
  entries : List (BitVec 16)
  deriving DecidableEq, Repr, Inhabited

/-- Progress of a copy command (Table 8-1): the record it read, and where it is. [DEDUCED: notes/assumptions/39.md] -/
structure CpyRun where
  record : List DWord := []
  /-- tile in progress, its list entry, and whether what it needs has been read -/
  tile : Nat := 0
  entry : DWord := 0
  ready : Bool := false
  /-- positions of the tile done (bytes, elements or tables where there is no tile), and elements of it moved -/
  pos : Nat := 0
  moved : Nat := 0
  /-- scales of the tile's source blocks, and tables popped for its codebook blocks, by block -/
  scales : Assoc Nat := []
  tables : Assoc Table := []
  /-- elements of a queue beat that is not yet pushed (R215, R232) -/
  staged : List Nat := []
  /-- words of memory that a tile's elements make and that are not yet written, by number: the bits they cover and these bits
  (R216) -/
  out : Assoc (Nat × Nat) := []
  /-- scales of the span's 32-element groups reached so far; 256 stands for one that mixes blocks of several scales -/
  groups : Assoc Nat := []
  flags : BitVec 5 := 0
  deriving DecidableEq, Repr, Inhabited

/-- A copy command in a channel's queue (R214). -/
structure CpyCmd where
  hd : CmdHead := {}
  x : Cpy := default
  id : Word := 0
  d : Oper := .none
  ga : DWord := 0
  b0 : DWord := 0
  b1 : DWord := 0
  /-- the count register of `cpk` -/
  count : Nat := 0
  run : Option CpyRun := none
  /-- its queue was freed, so it pushes or pops no more (R119, R232) -/
  freed : Bool := false
  deriving DecidableEq, Repr, Inhabited

/-- States of a copy channel (Table 8-7). -/
inductive ChanState where
  | idle | busy | stream | faulted
  deriving DecidableEq, Repr, Inhabited

/-- A stream that a channel feeds (R249 to R251): its queue, descriptor words and position. -/
structure StreamRun where
  q : Nat := 0
  desc : List DWord := []
  started : Bool := false
  /-- elements read so far, in the order of StreamRun -/
  pos : Nat := 0
  /-- an element read and not yet pushed for want of room -/
  held : Option DWord := none
  /-- the all-ones element has been prepared -/
  fin : Bool := false
  wait : Option Wait := none
  deriving DecidableEq, Repr, Inhabited

/-- A copy channel of a task (Table 8-1). [DEDUCED: notes/assumptions/27.md] -/
structure Channel where
  cmds : List CpyCmd := []
  issued : Word := 0
  done : Word := 0
  fcode : BitVec 8 := 0
  faddr : DWord := 0
  fid : Word := 0
  faulted : Bool := false
  tables : List Table := []
  stream : Option StreamRun := none
  /-- bytes landed and not yet posted to barrier 12 + c (R344) -/
  posts : Nat := 0
  deriving DecidableEq, Repr, Inhabited

/-- Lease states (R194). -/
inductive Lease where
  | none | waiting | held
  deriving DecidableEq, Repr, Inhabited

/-- An accumulator in an unordered chain (R50): what it held before, and for each command its number among the free orders,
its k-blocks and their sums as FP32, 128 × 128 × blocks of them. [DESIGN CHOICE: notes/assumptions/21.md] -/
structure ChainAcc where
  base : Memory := []
  terms : List (Nat × Nat × Memory) := []
  /-- the strands that issued the commands -/
  units : List UnitId := []
  deriving DecidableEq, Repr, Inhabited

/-- Matrix state of a task (R185, R194, R198, R204, R207). -/
structure MatState where
  lease : Lease := .none
  rpend : Bool := false
  open_ : Bool := false
  ordered : Bool := false
  count : Nat := 0
  /-- slot map and accumulator map: logical number to physical unit -/
  smap : Assoc Nat := []
  amap : Assoc Nat := []
  /-- physical slots and accumulators reserved for the task (R199) -/
  slots : List Nat := []
  accs : List Nat := []
  /-- the chain of the commands that have reached the head of the queue: open, its `mmul` started so far, its accumulators
  when it is unordered -/
  qopen : Bool := false
  qmul : Nat := 0
  chainAccs : Assoc ChainAcc := []
  /-- deferred matrix errors not yet taken, oldest first -/
  late : List LateTrap := []
  deriving DecidableEq, Repr, Inhabited

/-! ## Buffers -/

/-- States of a residency entry (R316, R317). -/
inductive ResState where
  | free | owned | standing
  deriving DecidableEq, Repr, Inhabited

/-- A residency entry (R316). -/
structure Residency where
  state : ResState := .free
  ctx : Nat := 0
  task : Nat := 0
  record : BitVec 16 := 0
  key : Word := 0
  ver : Word := 0
  /-- physical scratchpad offset and length -/
  off : Nat := 0
  len : Nat := 0
  order : Nat := 0
  deriving DecidableEq, Repr, Inhabited

/-- One operand slot (Table 7-1). The bitmap store holds the complement of each bit, so an all-ones store is empty. -/
structure Slot where
  data : Memory := []
  scale : Memory := []
  absent : Memory := []
  table : Memory := []
  /-- context of its last claimant (R148) -/
  owner : Option Nat := none
  zeroing : Bool := false
  bad : Bool := false
  deriving DecidableEq, Repr, Inhabited

/-- One accumulator (R188). -/
structure Accum where
  data : Memory := []
  poisoned : Bool := false
  owner : Option Nat := none
  zeroing : Bool := false
  bad : Bool := false
  deriving DecidableEq, Repr, Inhabited

/-! ## Tasks -/

/-- Where a task stands (R314). -/
inductive Life where
  /-- placed and running -/
  | running
  /-- a stop is in progress -/
  | stopping
  /-- its image is saved -/
  | saved
  /-- its strands have ended; commands still run -/
  | ended
  deriving DecidableEq, Repr, Inhabited

/-- A stop request (R287, R288): its arrival and its reasons, bits of Table 10-10. -/
structure StopReq where
  arrived : Nat
  reasons : BitVec 6
  /-- the task is stopped to be discarded (R274, R307) -/
  discard : Bool := false
  deriving DecidableEq, Repr, Inhabited

/-- A debug halt (R417): its cause and break code. -/
structure DebugStop where
  cause : BitVec 4
  code : Word
  since : Nat
  /-- strand that stopped itself by `brk` or `halt`, and that instruction's address -/
  at_ : Option (UnitId × DWord) := none
  deriving DecidableEq, Repr, Inhabited

/-- An open step (R407, R410): its ID, whether its captured chaining mode is host-assisted, and the cycle of its begin mark. -/
structure Step where
  id : Word
  host : Bool
  beg : Nat
  deriving DecidableEq, Repr, Inhabited

/-- The five values of a task header a task carries (R308). -/
structure TaskHeader where
  gran : Nat := 0
  cs : Nat := 0
  ps : Nat := 0
  slots : Nat := 0
  acc : Nat := 0
  deriving DecidableEq, Repr, Inhabited

/-- A task. -/
structure Task where
  ctx : Nat := 0
  queue : Nat := 0
  /-- number of its launch in State -/
  launch : Nat := 0
  index : Nat := 0
  group : Option Nat := none
  member : Nat := 0
  gsize : Nat := 1
  code : DWord := 0
  hdr : TaskHeader := {}
  core : Nat := 0
  slot : Nat := 0
  gran0 : Nat := 0
  main : Strand := {}
  vector : Strand := {}
  copy : Strand := {}
  matrix : Strand := {}
  spans : Assoc DWord := []
  queues : Assoc QueueReg := []
  chans : Assoc Channel := []
  mat : MatState := {}
  povf : DWord := 0
  /-- cycles it was placed on cores before its present placement (R272) -/
  runtime : Nat := 0
  /-- the open step -/
  step : Option Step := none
  /-- tile-list entry, and whether it is taken -/
  entry : DWord := 0
  taken : Bool := true
  deliveries : List (DWord × DWord) := []
  dropped : Nat := 0
  /-- a stop request on its way, and one that has arrived (R287, R288) -/
  sent : Option StopReq := none
  stopReq : Option StopReq := none
  /-- the queue whose candidate it is stopped for (R304) -/
  stopFor : Option Nat := none
  frozenBy : Option DebugStop := none
  /-- traps of forked vector commands for the next join edge (R444), oldest first -/
  late : List LateTrap := []
  life : Life := .running
  /-- placed at this cycle; launch accepted at -/
  placed : Nat := 0
  /-- image slot allotted; cycle of the save; loads and atomics still to come -/
  image : Option Nat := none
  savedAt : Nat := 0
  pending : Nat := 0
  complete : Bool := false
  reasons : BitVec 6 := 0
  /-- its own timeline wait parked it, and the requests of that wait that were refused (R350) -/
  parked : Bool := false
  refused : Nat := 0
  oldParty : Party := 0
  /-- cycle and party of the last engine command completed, by engine (R111) -/
  engineEnd : Assoc (Nat × Party) := []
  /-- party of the engine whose command finished with the carve last (R322) -/
  carveEnd : Party := 0
  /-- commands of the core's engine queues while the task is saved (R288, R203) -/
  savedVec : List VecCmd := []
  savedMat : List MatCmd := []
  /-- of the image: the carve, the claimed units by their physical numbers before the stop, and the Owned entries with
  carve-relative offsets (R292, Table 10-9) -/
  savedCarve : Memory := []
  savedSlots : Assoc Slot := []
  savedAccs : Assoc Accum := []
  savedRes : List Residency := []
  /-- it ended by a fault, or a command of it faulted after its end: it never counts as complete (R315, R322) -/
  orphaned : Bool := false
  deriving DecidableEq, Repr, Inhabited

/-! ## Cores, hoops, dies -/

/-- A cached translation (R359). [DESIGN CHOICE: notes/assumptions/78.md] -/
structure TlbEntry where
  ctx : Nat
  vpn : Nat
  pte : DWord
  /-- log2 of the bytes it maps -/
  size : Nat
  deriving DecidableEq, Repr, Inhabited

/-- A cached sector of 32 bytes: its physical address and bytes (R131, R133). [DESIGN CHOICE: notes/assumptions/78.md] -/
structure Sector where
  addr : Nat
  ctx : Nat
  bytes : List Byte
  /-- its copy has an uncorrectable error (R140) -/
  bad : Bool := false
  deriving DecidableEq, Repr, Inhabited

/-- A core. -/
structure Core where
  pad : Memory := []
  /-- last owner context of each 16 KiB granule, and granules still to be zeroed (R148, R149) -/
  owner : Assoc Nat := []
  zeroing : List Nat := []
  residency : Assoc Residency := []
  /-- scratchpad bytes of sectors with an uncorrectable error that have not been written since (R140) -/
  bad : List Nat := []
  vq : List VecCmd := []
  mq : List MatCmd := []
  l1 : List Sector := []
  tlb : List TlbEntry := []
  deriving DecidableEq, Repr, Inhabited

/-- A layout-record cache entry (R228). -/
structure RecEntry where
  ctx : Nat
  id : Nat
  words : List DWord
  deriving DecidableEq, Repr, Inhabited

/-- A hoop. -/
structure Hoop where
  slots : Assoc Slot := []
  accs : Assoc Accum := []
  /-- number of the task that holds the lease (R195) -/
  holder : Option Nat := none
  /-- last holder as (core, task slot) and its matrix party -/
  last : Nat := 0
  lastParty : Party := 0
  /-- leased commands done under the grant, outside chains; the cycle of the grant -/
  grant : Nat := 0
  granted : Nat := 0
  /-- first cycle at which a leased command may start after the lease has passed (R196) -/
  gap : Nat := 0
  /-- the holder has been unable to start its next command since -/
  blocked : Option Nat := none
  record : List RecEntry := []
  /-- cycles of its SRAMs' last uncorrectable errors, 16 at most, newest first (R433) -/
  errors : List Nat := []
  offline : Bool := false
  draining : Bool := false
  deriving DecidableEq, Repr, Inhabited

/-! ## Contexts, queues, launches, groups -/

/-- Context states (Table 10-2). -/
inductive CtxState where
  | free | active | suspending | suspended | destroying
  deriving DecidableEq, Repr, Inhabited

/-- An aperture or import entry as last loaded (Table 16-4). -/
structure Aperture where
  valid : Bool := false
  w : Bool := false
  port : Bool := false
  card : BitVec 4 := 0
  ctx : BitVec 6 := 0
  size : DWord := 0
  tbase : DWord := 0
  deriving DecidableEq, Repr, Inhabited

/-- What joined a page-fault descriptor, so that a failed service is delivered to it (R366).
[DEDUCED: notes/assumptions/102.md] -/
inductive Joined where
  | strand (r : StrandRef)
  | channel (t : Nat) (ch : Nat)
  | front (die : Nat) (kind : Nat) (eng : Nat)
  /-- an access of the dispatcher: what it is for (Dispatcher jobs in Machine/Ops.lean), and the queue, launch or task it is for -/
  | dispatcher (job n : Nat)
  | controller
  /-- a peer request that came in by a port -/
  | link (port : Nat)
  /-- the report of a die's Cordonnet unit -/
  | walk (die : Nat)
  deriving DecidableEq, Repr, Inhabited

/-- An unserved fault descriptor (R365): its number, page and the mode it posted in, and what joined it. -/
structure FaultPost where
  n : Nat
  vpn : Nat
  hostMode : Bool
  joined : List Joined := []
  deriving DecidableEq, Repr, Inhabited

/-- A migration in progress (R367): the request's number, the page, the leaf's address and value as first read, and the new
frame's address. [DEDUCED: notes/assumptions/61.md] -/
structure MigLock where
  n : Nat
  vpn : Nat
  at_ : Nat
  pte : DWord
  target : Nat
  deriving DecidableEq, Repr, Inhabited

/-- A context as last loaded (Table 10-1). -/
structure Context where
  state : CtxState := .free
  ptroot : DWord := 0
  rtbase : DWord := 0
  rtlen : Nat := 0
  modes : BitVec 5 := 0
  odef : Bool := false
  ovt : BitVec 128 := 0
  tvec : DWord := 0
  trapmask : DWord := 0
  savebase : DWord := 0
  savecnt : Nat := 0
  savesz : Nat := 0
  taskmax : Nat := 0
  qmax : Nat := 0
  runlim : Nat := 0
  carvemax : Nat := 0
  papt : DWord := 0
  stattl : DWord := 0
  /-- the overflow table in force (R45, R285) -/
  ovf : BitVec 128 := 0
  apertures : Assoc Aperture := []
  imports : Assoc Aperture := []
  /-- image slots in use (R292) -/
  slots : List Nat := []
  posts : List FaultPost := []
  /-- pages of failed services, for the accesses joined to them (R366) -/
  failed : List (Nat × Joined) := []
  /-- the page under a migration lock (R367) -/
  lock : Option MigLock := none
  /-- STATUS of the control word (Table 10-2) -/
  status : Nat := 0
  /-- increments of STATTL not yet made, for want of its page (R271) -/
  owed : Nat := 0
  /-- its H stores that the host port has acknowledged and no later zero-length read has flushed (R376) -/
  posted : Nat := 0
  /-- steps 1 to 6 of its Destroy are done (R274) -/
  torn : Bool := false
  deriving DecidableEq, Repr, Inhabited

/-- Queue states (Table 11-2). -/
inductive QState where
  | free | idle | ready | drain | stopped | faulted | poisoned
  deriving DecidableEq, Repr, Inhabited

/-- The candidate of a queue (R301): a saved task by its number, or a group of a launch by its first task. -/
inductive Waiting where
  | saved (t : Nat)
  | fresh (l i : Nat)
  deriving DecidableEq, Repr, Inhabited

/-- A queue as loaded (Tables 11-1, 11-2). -/
structure Queue where
  state : QState := .free
  ctx : Nat := 0
  prio : Nat := 0
  supv : Bool := false
  weight : Nat := 0
  agelim : Nat := 0
  lwbase : DWord := 0
  lwlen : Nat := 0
  subtl : DWord := 0
  acctl : DWord := 0
  faulta : DWord := 0
  rpta : DWord := 0
  passed : Nat := 0
  frlost : Bool := false
  deficit : Int := 0
  /-- numbers of its launches in State that still matter, oldest first -/
  launches : List Nat := []
  nextSeq : Nat := 0
  hostCount : Nat := 0
  records : Nat := 0
  droppedRecords : Nat := 0
  /-- fault records whose write waits for a page (R297) -/
  pendingRecords : List (List Byte) := []
  nextStep : Nat := 1
  destroying : Bool := false
  /-- the launch whose task faulted (R296 Restart) -/
  badLaunch : Option Nat := none
  /-- the candidate that does not fit, and the first cycle at which it did not (R304) -/
  unfit : Option (Waiting × Nat) := none
  /-- completion timelines of accepted launches that are gone and have not signalled (R306) -/
  lost : List DWord := []
  /-- STATUS of the control word (Table 11-2) -/
  status : Nat := 0
  deriving DecidableEq, Repr, Inhabited

/-- A tile reference of a code object (Table 12-2). -/
structure TileRef where
  record : BitVec 16 := 0
  list : Bool := false
  vdelta : BitVec 8 := 0
  imul : Word := 0
  iadd : Word := 0
  deriving DecidableEq, Repr, Inhabited

/-- A launch (R311 to R315). -/
structure Launch where
  queue : Nat := 0
  seq : Nat := 0
  code : DWord := 0
  list : Bool := false
  hint : Option Nat := none
  tlist : DWord := 0
  donetl : DWord := 0
  ver : Word := 0
  args : List DWord := []
  hdr : TaskHeader := {}
  gsize : Nat := 1
  entry : Word := 0
  refs : List TileRef := []
  count : Nat := 0
  next : Nat := 0
  /-- dispatched out of order by R303 -/
  ahead : List Nat := []
  complete : Nat := 0
  faulted : Bool := false
  accepted : Nat := 0
  party : Party := 0
  step : Option Step := none
  /-- party of the main strand of the task that completed last (R437) -/
  lastParty : Party := 0
  deriving DecidableEq, Repr, Inhabited

/-- A group barrier (Table 14-1). -/
structure Barrier where
  cnt : Nat := 0
  arr : Nat := 0
  phase : Nat := 0
  set : Bool := false
  exp : Nat := 0
  posted : Nat := 0
  deriving DecidableEq, Repr, Inhabited

/-- Group states (Table 13-1). -/
inductive GState where
  | running | stopping | saved | ended
  deriving DecidableEq, Repr, Inhabited

/-- What a group keeps of a member that has ended (R337, R341): carve place and deliveries for its fault record.
[DEDUCED: notes/assumptions/87.md] -/
structure EndedMember where
  member : Nat
  index : Nat
  core : Nat
  gran0 : Nat
  gran : Nat
  cs : Nat
  ps : Nat := 0
  deliveries : List (DWord × DWord)
  dropped : Nat
  launch : Nat
  /-- the carve while the group is saved -/
  shared : Memory := []
  image : Option Nat := none
  deriving DecidableEq, Repr, Inhabited

/-- The four fields a group's records share, and the level (R324, R341). -/
structure FaultCause where
  cause : Nat
  value : DWord
  tpc : DWord
  party : Party
  lvl : Bool
  deriving DecidableEq, Repr, Inhabited

/-- A group (R331, R338, R343). -/
structure Group where
  index : Nat := 0
  size : Nat := 1
  state : GState := .running
  /-- members not ended, by member index: task numbers -/
  live : Assoc Nat := []
  ended : List EndedMember := []
  barriers : Assoc Barrier := []
  /-- faults of members in the cycle that ends now, by member: the group ends with the cycle (R341) -/
  faults : List (Nat × FaultCause) := []
  deriving DecidableEq, Repr, Inhabited

/-! ## Dies, links, front end, management -/

/-- An entry of a wait monitor (R349): word, threshold, waiting task, and the released value with the writer's party.
[DEDUCED: notes/assumptions/30.md] -/
structure Monitor where
  addr : Nat
  threshold : Nat
  task : Nat
  released : Option (DWord × Party) := none
  /-- held in the image for want of an entry (R350) -/
  inImage : Bool := false
  /-- its timeline was poisoned while the wait was pending (R351) -/
  poisoned : Bool := false
  deriving DecidableEq, Repr, Inhabited

/-- A front-end run, queued or in execution (R381 to R385). [DEDUCED: notes/assumptions/45.md]
[DEDUCED: notes/assumptions/89.md] -/
structure Run where
  ctx : Nat := 0
  kind : Nat := 0
  /-- order of entry -/
  seq : Nat := 0
  addr : DWord := 0
  /-- its function's mode as captured (R387) -/
  hostMode : Bool := false
  /-- the issuing strand, its step, and the cycle of entry -/
  party : Party := 0
  step : Option Step := none
  queued : Nat := 0
  /-- words of the descriptor or stream block header, once read -/
  desc : List DWord := []
  /-- layers marked -/
  pos : Nat := 0
  /-- what is still to be written, in order -/
  pend : List (DWord × List Byte) := []
  /-- the status code it ends with -/
  st : Option Nat := none
  /-- result fields that share an aligned word with ST and are written with it (R385) -/
  res : List Byte := []
  /-- its descriptor cannot be written: it ends without ST (R384) -/
  mute : Bool := false
  wait : Option Wait := none
  deriving DecidableEq, Repr, Inhabited

/-- A queued Cordonnet walk (R410). -/
structure Walk where
  step : Word := 0
  beg : Nat := 0
  fin : Nat := 0
  party : Party := 0
  tl : DWord := 0
  ctx : Nat := 0
  hostMode : Bool := false
  deriving DecidableEq, Repr, Inhabited

/-- Throttle states of a logic layer (R429). -/
inductive Throttle where
  | normal | migrate | clamp
  deriving DecidableEq, Repr, Inhabited

/-- A logic layer's thermal control (R429). -/
structure Layer where
  state : Throttle := .normal
  point : Nat := 0
  since : Nat := 0
  deriving DecidableEq, Repr, Inhabited

/-- The stored fields of a debug core block (Table 18-6). HCAUSE and HPC are those of SEL's task and strand. -/
structure DebugCore where
  att : Bool := false
  brk : Bool := false
  /-- a memory access is executing: it waits for storage being zeroed or a locked page -/
  busy : Bool := false
  ctx : BitVec 6 := 0
  err : BitVec 4 := 0
  sel : Party := 0
  regno : BitVec 16 := 0
  wr : Bool := false
  space : BitVec 3 := 0
  size : BitVec 2 := 0
  bcode : Word := 0
  addr : DWord := 0
  data : DWord := 0
  deriving DecidableEq, Repr, Inhabited

/-- A die. -/
structure Die where
  rdc : List Sector := []
  tlb : List TlbEntry := []
  /-- run queues by kind: 0 decode, 1 encode, 2 flow, 3 change-masking -/
  runs : Assoc (List Run) := []
  /-- runs in execution by kind × 8 + engine -/
  active : Assoc Run := []
  monitor : List Monitor := []
  poison : List Nat := []
  walks : List Walk := []
  dbg : DebugCore := {}
  sensors : Assoc DWord := []
  layers : Assoc Layer := []
  deriving DecidableEq, Repr, Inhabited

/-- Kinds of an outstanding link request (R375). -/
inductive ReqKind where
  | read | write | atomic (f : HostAtomic)
  deriving DecidableEq, Repr, Inhabited

/-- An outstanding request on a link (R375, R376): port 0 host, 1 and 2 peer. -/
structure LinkReq where
  port : Nat
  kind : ReqKind
  addr : DWord
  size : Nat
  x : DWord := 0
  y : DWord := 0
  strand : StrandRef
  since : Nat
  /-- PASID: source card, source context, target context (R372) -/
  pasid : BitVec 16 := 0
  /-- trap value of a link fault (R138) -/
  tval : DWord := 0
  /-- where its result goes -/
  dest : Option LoadDest := none
  /-- its context, and the translation of an H access (R286) -/
  ctx : Nat := 0
  xlat : Option TlbEntry := none
  deriving DecidableEq, Repr, Inhabited

/-- Link states (Table 16-3). -/
inductive LinkState where
  | down | training | up | degraded | retrain
  deriving DecidableEq, Repr, Inhabited

/-- A port (Table 16-3). -/
structure Port where
  state : LinkState := .down
  width : BitVec 5 := 0
  role : Bool := false
  /-- of a peer port: CARDNO as of its last training (R370) -/
  card : BitVec 4 := 0
  pcard : BitVec 4 := 0
  corr : Nat := 0
  uncorr : Nat := 0
  since : Nat := 0
  deriving DecidableEq, Repr, Inhabited

/-- A peer request that another card sent here or that this card forwards out (R372, R374). -/
structure PeerMsg where
  port : Nat
  req : PeerReq
  deriving DecidableEq, Repr, Inhabited

/-- An edge record (Table 18-1). -/
structure Edge where
  waiter : Party := 0
  kind : Nat := 0
  prod : Party := 0
  saved : Bool := false
  arrive : Nat := 0
  waited : Nat := 0
  step : Word := 0
  obj : DWord := 0
  deriving DecidableEq, Repr, Inhabited

/-- A trace packet in a source's buffer (R423): its words. -/
structure Packet where
  words : List DWord
  deriving DecidableEq, Repr, Inhabited

/-- A source of trace packets (R425): its buffer of 16, oldest first, the packets dropped since its last loss packet, the
cycle of the first of them, and the context last traced. -/
structure TraceSrc where
  buf : List Packet := []
  lost : Nat := 0
  first : Nat := 0
  ctx : Nat := 0
  deriving DecidableEq, Repr, Inhabited

/-- The owner of a device frame (R362). -/
inductive Owner where
  | none | shared | ctx (c : Nat)
  deriving DecidableEq, Repr, Inhabited

/-- A firmware image pair (R431, R432): which slot is active, the two images, and whether the inactive one is a verified
image. -/
structure Firmware where
  slotB : Bool := false
  a : List Byte := []
  b : List Byte := []
  staged : Bool := false
  deriving DecidableEq, Repr, Inhabited

/-- What the world outside last got from the card (R370, R431, R374): the answer to a host read or AtomicOp, a link
completion for a peer, or an SPDM answer. -/
inductive Answer where
  | none
  | bytes (b : List Byte)
  | unsupported
  | abort
  | words (w : List DWord)
  deriving DecidableEq, Repr, Inhabited

/-! ## The card -/

/-- What memories do of themselves before a step: evictions (R131, R133, R228, R359), a store of a strand's store queue that
performs (R254), and an uncorrectable error of an SRAM sector: of a scratchpad, of a copy in an L1 or a remote-data cache, of a
line in its home L2, of an operand slot or an accumulator (R140, R204). -/
inductive Evict where
  | l1 (core addr : Nat)
  | rdc (die addr : Nat)
  | record (hoop ctx id : Nat)
  | tlb (core ctx vpn : Nat)
  | tlb2 (die ctx vpn : Nat)
  | store (r : StrandRef) (id : Nat)
  | badPad (core sector : Nat)
  | badL1 (core addr : Nat)
  | badRdc (die addr : Nat)
  | badL2 (addr : Nat)
  | badSlot (hoop n : Nat)
  | badAcc (hoop n : Nat)
  deriving DecidableEq, Repr, Inhabited

/-- What a turn gives the move to. [DESIGN CHOICE: notes/assumptions/1.md] -/
inductive Mover where
  | strand (r : StrandRef)
  | event (i : Instr) (a : EventArg)
  deriving DecidableEq, Repr

/-- A turn: who moves, how many global cycles pass before, what memories do of themselves, whether the value of a load it
issues returns in a later turn, and whether its load or store is performed only later (notes/assumptions/1.md,
notes/assumptions/6.md).
[DESIGN CHOICE: notes/assumptions/1.md] [DEDUCED: notes/assumptions/6.md] [DEDUCED: notes/assumptions/91.md] -/
structure Turn where
  who : Mover
  cycles : Nat := 1
  evict : List Evict := []
  defer : Bool := false
  late : Bool := false
  deriving DecidableEq, Repr

/-- The state of the card. -/
structure State where
  -- tasks and cores
  tasks : Assoc Task := []
  cores : Assoc Core := []
  hoops : Assoc Hoop := []
  dies : Assoc Die := []
  groups : Assoc Group := []
  launches : Assoc Launch := []
  contexts : Assoc Context := []
  queues : Assoc Queue := []
  -- numbers for new things
  nextLaunch : Nat := 0
  nextGroup : Nat := 0
  nextZombie : Nat := 1
  nextLoad : Nat := 0
  nextReq : Nat := 0
  nextDecl : Nat := 0
  nextCmd : Nat := 0
  nextRun : Nat := 0
  -- dispatcher (R301): last served queue of each level
  served : Assoc Nat := []
  -- memory
  mem : Memory := []
  host : Memory := []
  bad : List Nat := []
  owners : Assoc Owner := []
  zeroing : Assoc Nat := []
  /-- device frames whose last mapping carried the zero-on-free attribute when it was last walked (R363) -/
  zfs : List Nat := []
  -- time
  cycle : Nat := 0
  -- links
  ports : Assoc Port := []
  reqs : Assoc LinkReq := []
  sent : List PeerMsg := []
  answer : Answer := .none
  cardno : BitVec 4 := 0
  cnv : Bool := false
  /-- CARDNO and CNV as of the last training (R370) -/
  cardUsed : BitVec 4 := 0
  sync : Bool := false
  /-- the counter has been loaded from PTM time, and the cycle of its last correction (R379) -/
  timed : Bool := false
  slewAt : Nat := 0
  /-- cycles that the counter is still to stand for, because it was ahead (R379) -/
  lag : Nat := 0
  ctxtab : Nat := 0
  qtab : Nat := 0
  mgmttl : Nat := 0
  -- management
  mgmtServed : Nat := 0
  /-- TMIG and TCLAMP in 1/16 °C (Table 19-2) -/
  tmig : Int := 1520
  tclamp : Int := 1680
  /-- device modes (R17): thermal migration is read at throttle-state transitions; staging in force, and from the next switch -/
  thermalHost : Bool := false
  stagingHost : Bool := false
  stagingNext : Bool := false
  /-- cycle of the last sensor sample -/
  sampled : Nat := 0
  traceBase : Nat := 0
  traceSize : Nat := 0
  traceMask : DWord := 0
  wptr : Nat := 0
  trace : Assoc TraceSrc := []
  fw : Assoc Firmware := []
  recovery : Bool := false
  nonce : Option DWord := none
  powered : Bool := true
  booted : Bool := false
  corr : Assoc Nat := []
  recal : Assoc Nat := []
  -- edge rings by party
  rings : Assoc (List Edge) := []
  -- the model's own fields
  turns : List Turn := []
  cur : StrandRef := ⟨0, .main⟩
  arg : EventArg := {}
  defer : Bool := false
  late : Bool := false
  free : Nat := 0
  deriving DecidableEq, Repr

/-- The machine right after reset (01, 10, 11, 19: tables empty, every context and queue Free, ports Down, sensors 0). The
fields without a reset value in the spec are named in notes/assumptions/3.md and 4.md.
[DESIGN CHOICE: notes/assumptions/3.md] [DESIGN CHOICE: notes/assumptions/4.md] -/
def State.reset : State :=
  { ctxtab := 0x7FFFF00000, qtab := 0x7FFFF10000, mgmttl := 0x7FFFF40000 }

/-- Why the machine stops. No instruction or event of the spec stops the card: a wrong access ends in a trap, a fault record
or a status code, and every 39-bit physical address exists (R7, R12). So no step raises a fault. -/
inductive Fault where
  /-- A physical address that does not exist. Raised by no meaning of this model, since page entries hold 39-bit frames and
  host accesses beyond the windows are answered as R370 says; safe. -/
  | noSuchAddress (a : Nat)
  deriving DecidableEq, Repr

/-- Why an instruction has no meaning. -/
inductive Refusal where
  /-- Raised by Machine/Dispatch.lean only, for an instruction that is not modelled; safe. -/
  | notModelled (mnemonic : String)
  deriving DecidableEq, Repr

end Sys2Proof.Machine
end

