-- ==== Sys2Proof/Machine/Base.lean ====
section
/-! DEFINITION. Reading and writing parts of the state, byte operations over memories, numbers of cores, hoops, dies and
parties (R5, R7, R8), device memory at its home L2 with the wait monitors that observe every write (R132, R349), edge records
(R403 to R406), and how an instruction's effect is written: `M`. -/

namespace Sys2Proof.Machine

/-! ## How an instruction ends -/

/-- What a trap carries (R277, R278): cause, value (the instruction's first word when none is given, R56), the trap data,
the trap PC when it is not the instruction's own, and whether what the instruction did so far stays (R138, R282). -/
structure TrapInfo where
  cause : Nat
  value : Option DWord := none
  data : DWord := 0
  tpc : Option DWord := none
  keep : Bool := false
  deriving DecidableEq, Repr

/-- Why an instruction does not retire: it stalls, keeping what it did so far or not; it takes a trap. -/
inductive Stop where
  | stall (w : Why) (keep : Bool)
  | trap (t : TrapInfo)
  deriving DecidableEq, Repr

/-- Where a strand goes after an instruction: on, to a taken branch's target, or nowhere (it has ended or left). -/
inductive Flow where
  | next
  | jump (target : DWord)
  | gone
  deriving DecidableEq, Repr

/-- The effect of an instruction on the state, ending in a result or a `Stop`. -/
abbrev M := EStateM Stop State

/-- Take a trap with the state of R56 and a trap value of its own. -/
def raise {α : Type} (cause : Nat) (value : DWord) : M α := throw (.trap { cause, value := some value })

/-- Take a trap with the state of R56, its value the first word. -/
def raiseWord {α : Type} (cause : Nat) : M α := throw (.trap { cause })

/-- Stall, unissued. -/
def stallOn {α : Type} (w : Why) : M α := throw (.stall w false)

/-- Stall with what was done so far kept. -/
def holdOn {α : Type} (w : Why) : M α := throw (.stall w true)

/-! ## Numbers -/

/-- The bits of a 64-bit value as a number. -/
def bitsOf (x : DWord) (lo n : Nat) : Nat := (x.extractLsb' lo n).toNat

/-- Hoop of a core, 0 to 255 (R7). -/
def hoopOf (core : Nat) : Nat := core / 4

/-- Die of a core (R7, R8). -/
def dieOf (core : Nat) : Nat := core / 256

/-- Logic layer of a core as die × 2 + layer (R7, R8). -/
def layerOf (core : Nat) : Nat := core / 128

/-- The strand of a unit code (R119). -/
def unitOf (n : Nat) : UnitId :=
  match n with
  | 0 => .main
  | 1 => .vector
  | 2 => .copy
  | _ => .matrix

/-- The four strands. -/
def allUnits : List UnitId := [.main, .vector, .copy, .matrix]

/-- A party ID of the card (Table 0-1): linear core number in bits 19:10. -/
def partyOf (card : BitVec 4) (core unit inst : Nat) : Party :=
  BitVec.ofNat 24 (card.toNat * 2 ^ 20 + core * 2 ^ 10 + unit * 2 ^ 7 + inst)

/-! ## Parts of the state -/

def State.task (s : State) (t : Nat) : Task := Assoc.getD s.tasks t {}
def State.setTask (s : State) (t : Nat) (x : Task) : State := { s with tasks := Assoc.set s.tasks t x }
def State.core (s : State) (c : Nat) : Core := Assoc.getD s.cores c {}
def State.setCore (s : State) (c : Nat) (x : Core) : State := { s with cores := Assoc.set s.cores c x }
def State.hoop (s : State) (h : Nat) : Hoop := Assoc.getD s.hoops h {}
def State.setHoop (s : State) (h : Nat) (x : Hoop) : State := { s with hoops := Assoc.set s.hoops h x }
/-- A slot and an accumulator of a hoop. -/
def Hoop.slot (h : Hoop) (n : Nat) : Slot := Assoc.getD h.slots n {}
def Hoop.acc (h : Hoop) (n : Nat) : Accum := Assoc.getD h.accs n {}
def State.die (s : State) (d : Nat) : Die := Assoc.getD s.dies d {}
def State.setDie (s : State) (d : Nat) (x : Die) : State := { s with dies := Assoc.set s.dies d x }
def State.ctx (s : State) (c : Nat) : Context := Assoc.getD s.contexts c {}
def State.setCtx (s : State) (c : Nat) (x : Context) : State := { s with contexts := Assoc.set s.contexts c x }
def State.queue (s : State) (q : Nat) : Queue := Assoc.getD s.queues q {}
def State.setQueue (s : State) (q : Nat) (x : Queue) : State := { s with queues := Assoc.set s.queues q x }
def State.launch (s : State) (l : Nat) : Launch := Assoc.getD s.launches l {}
def State.setLaunch (s : State) (l : Nat) (x : Launch) : State := { s with launches := Assoc.set s.launches l x }
/-- The state with a launch changed, if it is still kept. -/
def State.updLaunch (s : State) (l : Nat) (f : Launch → Launch) : State :=
  match Assoc.get? s.launches l with
  | some x => s.setLaunch l (f x)
  | none => s
def State.group (s : State) (g : Nat) : Group := Assoc.getD s.groups g {}
def State.setGroup (s : State) (g : Nat) (x : Group) : State := { s with groups := Assoc.set s.groups g x }
/-- The members of a task's group that have not ended; the task alone without one. -/
def State.members (s : State) (t : Nat) : List Nat :=
  match (s.task t).group with
  | some g => (s.group g).live.map (·.2)
  | none => [t]

def State.port (s : State) (p : Nat) : Port := Assoc.getD s.ports p {}
def State.setPort (s : State) (p : Nat) (x : Port) : State := { s with ports := Assoc.set s.ports p x }

/-- A strand of a task. -/
def Task.strand (x : Task) (u : UnitId) : Strand :=
  match u with
  | .main => x.main
  | .vector => x.vector
  | .copy => x.copy
  | .matrix => x.matrix

/-- The task with one strand replaced. -/
def Task.setStrand (x : Task) (u : UnitId) (d : Strand) : Task :=
  match u with
  | .main => { x with main := d }
  | .vector => { x with vector := d }
  | .copy => { x with copy := d }
  | .matrix => { x with matrix := d }

/-- A strand of the card. -/
def State.strand (s : State) (r : StrandRef) : Strand := (s.task r.task).strand r.unit

/-- The state with one strand replaced. -/
def State.setStrand (s : State) (r : StrandRef) (d : Strand) : State :=
  s.setTask r.task ((s.task r.task).setStrand r.unit d)

/-- The task of the strand whose instruction executes. -/
def State.curTask (s : State) : Task := s.task s.cur.task

/-- The strand whose instruction executes. -/
def State.curStrand (s : State) : Strand := s.strand s.cur

/-- The context of the strand whose instruction executes. -/
def State.curCtx (s : State) : Context := s.ctx s.curTask.ctx

/-- A copy channel of a task. -/
def Task.chan (x : Task) (ch : Nat) : Channel := Assoc.getD x.chans ch {}
def Task.setChan (x : Task) (ch : Nat) (c : Channel) : Task := { x with chans := Assoc.set x.chans ch c }

/-- A queue register of a task. -/
def Task.queueReg (x : Task) (q : Nat) : QueueReg := Assoc.getD x.queues q {}
def Task.setQueueReg (x : Task) (q : Nat) (r : QueueReg) : Task := { x with queues := Assoc.set x.queues q r }

/-- The strand is live (R94). -/
def Strand.live (d : Strand) : Bool :=
  match d.state with
  | .running | .stalled | .rendezvous => true
  | _ => false

/-- Party of a task's unit: the strand, or the engine of the same number (Tables 0-1, 0-2). -/
def State.taskParty (s : State) (t : Nat) (unit : Nat) : Party :=
  let x := s.task t
  partyOf s.cardUsed x.core unit x.slot

/-- Party of a strand. -/
def State.strandParty (s : State) (r : StrandRef) : Party := s.taskParty r.task r.unit.code

def modifyCur (f : Strand → Strand) : M Unit := modify fun s => s.setStrand s.cur (f s.curStrand)
def modifyTask (f : Task → Task) : M Unit := modify fun s => s.setTask s.cur.task (f s.curTask)

/-! ## Bytes -/

/-- `n` bytes from an address. -/
def Memory.bytes (m : Memory) (a : Nat) : Nat → List Byte
  | 0 => []
  | n + 1 => m.byte a :: Memory.bytes m (a + 1) n

/-- Little-endian number of a list of bytes (R4). -/
def leNat : List Byte → Nat
  | [] => 0
  | b :: t => b.toNat + 256 * leNat t

/-- The low `n` bytes of a number, little-endian (R4). -/
def leBytes (v : Nat) : Nat → List Byte
  | 0 => []
  | n + 1 => BitVec.ofNat 8 v :: leBytes (v / 256) n

/-- A little-endian number of `n` bytes. -/
def Memory.nat (m : Memory) (a n : Nat) : Nat := leNat (m.bytes a n)

/-- The memory with a list of bytes written at rising addresses. -/
def Memory.write (m : Memory) (a : Nat) (bs : List Byte) : Memory :=
  match bs with
  | [] => m
  | b :: t => Memory.write (m.setByte a b) (a + 1) t

/-- The memory with a little-endian number of `n` bytes written. -/
def Memory.setNat (m : Memory) (a n v : Nat) : Memory := m.write a (leBytes v n)

/-- The memory with `n` bytes from `a` zeroed. -/
def Memory.clear (m : Memory) (a n : Nat) : Memory := m.filter fun e => e.1 < a || a + n ≤ e.1

/-- The listed bytes of a range, addresses counted from `b` where the range starts at `a`. -/
def Memory.slice (m : Memory) (a n b : Nat) : Memory :=
  (m.filter fun e => a ≤ e.1 && e.1 < a + n).map fun e => (e.1 - a + b, e.2)

/-- The memory with the range of `n` bytes from `a` replaced by `src`, whose addresses lie in that range. -/
def Memory.paste (m : Memory) (a n : Nat) (src : Memory) : Memory :=
  m.filter (fun e => e.1 < a) ++ src ++ m.filter (fun e => a + n ≤ e.1)

/-- A 64-bit word. -/
def Memory.word (m : Memory) (a : Nat) : DWord := BitVec.ofNat 64 (m.nat a 8)

/-- The memory with a 64-bit word written. -/
def Memory.setWord (m : Memory) (a : Nat) (v : DWord) : Memory := m.setNat a 8 v.toNat

/-- `n` 64-bit words from an address. -/
def Memory.words (m : Memory) (a : Nat) : Nat → List DWord
  | 0 => []
  | n + 1 => m.word a :: Memory.words m (a + 8) n

/-- Bits `lo + n - 1` to `lo` of a structure held as 64-bit words. -/
def bitsAt (ws : List DWord) (lo n : Nat) : Nat :=
  (ws.zipIdx.foldl (fun acc e => acc + e.1.toNat * 2 ^ (64 * e.2)) 0) / 2 ^ lo % 2 ^ n

/-! ## Writes at the home L2 -/

/-- Numbers of the 32-byte sectors that `n` bytes from `a` meet. -/
def sectors (a n : Nat) : List Nat :=
  if n = 0 then [] else (List.range ((a + n - 1) / 32 - a / 32 + 1)).map (a / 32 + ·)

/-- The sectors that a write of `n` bytes from `a` covers wholly. -/
def wholeSectors (a n : Nat) : List Nat := (sectors a n).filter fun k => a ≤ 32 * k && 32 * k + 32 ≤ a + n

/-- An entry of a wait monitor after a write of `n` bytes from `a` has given memory `m` (R349): the first value at or above
the threshold is recorded with the writer's party. -/
def Monitor.observe (m : Memory) (a n : Nat) (who : Party) (e : Monitor) : Monitor :=
  if e.released.isSome || e.poisoned || e.inImage || a + n ≤ e.addr || e.addr + 8 ≤ a then e
  else if e.threshold ≤ m.nat e.addr 8 then { e with released := some (m.word e.addr, who) }
  else e

/-- A die after its monitor has observed a write. -/
def Die.observe (m : Memory) (a n : Nat) (who : Party) (d : Die) : Die :=
  { d with monitor := d.monitor.map (Monitor.observe m a n who) }

/-- The state with bytes written at their home L2 (R132), poisoned sectors that are written whole repaired (R140), and the
wait monitors having observed the write (R349). [DEDUCED: notes/assumptions/90.md] -/
def State.writeHome (s : State) (a : Nat) (bs : List Byte) (who : Party) : State :=
  let m := s.mem.write a bs
  { s with
    mem := m
    bad := if s.bad.isEmpty then [] else s.bad.filter fun k => !(wholeSectors a bs.length).contains k
    dies := if s.dies.all fun d => d.2.monitor.isEmpty then s.dies
      else s.dies.map fun d => (d.1, d.2.observe m a bs.length who) }

/-- The state with a little-endian number of `n` bytes written at its home L2. [DEDUCED: notes/assumptions/90.md] -/
def State.setHome (s : State) (a n v : Nat) (who : Party) : State := s.writeHome a (leBytes v n) who

/-- A byte range meets a sector with an uncorrectable error (R140). [DEDUCED: notes/assumptions/42.md] -/
def State.isBad (s : State) (a n : Nat) : Bool := !s.bad.isEmpty && (sectors a n).any fun k => s.bad.contains k

/-- A write of part of a poisoned sector (R140). [DEDUCED: notes/assumptions/42.md] -/
def State.partBad (s : State) (a n : Nat) : Bool :=
  !s.bad.isEmpty && (sectors a n).any fun k => s.bad.contains k && !(wholeSectors a n).contains k

/-- Party of the management controller (Table 0-2, R445). [DEDUCED: notes/assumptions/29.md] -/
def controllerParty (s : State) : Party := partyOf s.cardUsed 0 4 11

/-! ## Edge records -/

/-- The ID of an open step, or 0 (R408). -/
def stepId (x : Option Step) : Word := match x with | some k => k.id | none => 0

/-- Number of a party's ring: the party without its card (R406). -/
def ringOf (p : Party) : Nat := p.toNat % 2 ^ 20

/-- The words of an edge record (Table 18-1). WAITED saturates at 2^32 − 1 and then sets WSAT. -/
def Edge.words (e : Edge) : List DWord :=
  let sat := 2 ^ 32 - 1 < e.waited
  [BitVec.ofNat 64 (e.waiter.toNat + e.kind % 256 * 2 ^ 24 + e.prod.toNat * 2 ^ 32 + (if e.saved then 2 ^ 56 else 0) +
      (if sat then 2 ^ 57 else 0)),
   BitVec.ofNat 64 e.arrive, BitVec.ofNat 64 ((if sat then 2 ^ 32 - 1 else e.waited) + e.step.toNat * 2 ^ 32), e.obj]

/-- The words of a trace packet (Table 18-8). -/
def packetOf (type : Nat) (src : Party) (ctx tag cycle : Nat) (payload : List DWord) : Packet :=
  ⟨[BitVec.ofNat 64 (type + src.toNat * 2 ^ 8 + ctx % 64 * 2 ^ 32 + tag % 256 * 2 ^ 40), BitVec.ofNat 64 cycle, 0, 0] ++
    (payload ++ List.replicate (4 - payload.length) 0)⟩

/-- A source that has room and losses to report puts its loss packet first (R425). -/
def TraceSrc.report (x : TraceSrc) (src : Party) (cycle : Nat) : TraceSrc :=
  if x.lost = 0 || 16 ≤ x.buf.length then x
  else
    let p := packetOf 5 src x.ctx 0 cycle [BitVec.ofNat 64 (x.lost % 2 ^ 32), BitVec.ofNat 64 x.first]
    { x with buf := x.buf ++ [p], lost := 0 }

/-- The state with a trace packet posted by a source (R422 to R425): nothing when tracing is disabled for the context. A
packet that finds the source's buffer full is dropped and counted, in LOST too. -/
def State.postPacket (s : State) (src : Party) (ctx type tag : Nat) (payload : List DWord) : State :=
  if !s.traceMask.getLsbD ctx || s.traceSize = 0 then s
  else
    let x := (Assoc.getD s.trace (ringOf src) {}).report src s.cycle
    if 16 ≤ x.buf.length then
      let lost := s.mem.nat (s.traceBase + 16) 8
      let first := if x.lost = 0 then s.cycle else x.first
      let s := { s with trace := Assoc.set s.trace (ringOf src) { x with lost := x.lost + 1, first, ctx } }
      if lost + 1 < 2 ^ 64 then s.setHome (s.traceBase + 16) 8 (lost + 1) (controllerParty s) else s
    else
      let x := { x with buf := x.buf ++ [packetOf type src ctx tag s.cycle payload], ctx }
      { s with trace := Assoc.set s.trace (ringOf src) x }

/-- The state with a record written into the waiter's ring of 256, newest first (R406). When its step chains on the host,
it is posted to the trace as well (R412). -/
def State.writeEdge (s : State) (ctx : Nat) (step : Option Step) (e : Edge) : State :=
  let e := { e with step := stepId step }
  let s := { s with
    rings := Assoc.set s.rings (ringOf e.waiter) ((e :: Assoc.getD s.rings (ringOf e.waiter) []).take 256) }
  if step.any Step.host then s.postPacket e.waiter ctx 2 0 e.words else s

/-- The state with a record of a task's party written (R408). [DEDUCED: notes/assumptions/85.md] -/
def State.taskEdge (s : State) (t : Nat) (e : Edge) : State := s.writeEdge (s.task t).ctx (s.task t).step e

/-- Object kind and object of a wait (Table 18-2); none for waits that write no record. [DEDUCED: notes/assumptions/43.md] -/
def Why.edge (y : Why) : Option (Nat × DWord) :=
  match y with
  | .register | .walkQueue | .zeroing | .vectorHold _ | .link _ | .accept | .older _ | .channel => none
  | .table ch => some (7, BitVec.ofNat 64 ch)
  | .sections _ (u, sec) => some (1, BitVec.ofNat 64 (sec.toNat + u.code * 2 ^ 12))
  | .pop q => some (2, BitVec.ofNat 64 q)
  | .push q => some (3, BitVec.ofNat 64 q)
  | .join m => some (4, m.zeroExtend 64)
  | .transfer ch id => some (5, BitVec.ofNat 64 (ch + id.toNat * 2 ^ 32))
  | .barrier n _ _ => some (8, BitVec.ofNat 64 n)
  | .timeline a _ => some (9, a)
  | .exitCarve => some (10, 0)
  | .page va => some (11, va)
  | .frame _ va => some (11, va)
  | .runQueue k => some (12, BitVec.ofNat 64 k)
  | .port n => some (13, BitVec.ofNat 64 n)
  | .engineQueue u ch => some (14, BitVec.ofNat 64 (u + ch * 4))
  | .engines op _ => some (19, BitVec.ofNat 64 op)

/-- Two waits are one: the waits of a header, or for engine commands, count as one wait, whichever are left. -/
def Why.same (a b : Why) : Bool :=
  match a, b with
  | .sections _ _, .sections _ _ => true
  | .engines p _, .engines q _ => p == q
  | .older _, .older _ => true
  | _, _ => a == b

/-- The cycles of a wait that ends now, without those spent away (R403). [DEDUCED: notes/assumptions/57.md] -/
def Wait.cycles (w : Wait) (now : Nat) : Nat := now - w.since - w.away

/-- The state with the record of a strand's wait that ends now, when it lasted one cycle or more (R404). -/
def State.endWait (s : State) (r : StrandRef) (w : Wait) : State :=
  match w.why.edge with
  | none => s
  | some (k, obj) =>
    if w.cycles s.cycle = 0 then s
    else
      s.taskEdge r.task
        { waiter := s.strandParty r, kind := k, prod := w.prod, saved := w.saved, arrive := s.cycle
          waited := w.cycles s.cycle, obj := obj }

/-- The next free value (notes/assumptions/5.md). -/
def State.fresh (s : State) : DWord × State := (Config.freeValue s.free, { s with free := s.free + 1 })

end Sys2Proof.Machine
end

