-- ==== Sys2Proof/Machine/Translate.lean ====
section
/-! DEFINITION. The caches a strand's accesses pass through on their way to a home L2 (R131 to R136), page walks, translation
caches, frame owners and fault posting (spec/15_page.md). -/

namespace Sys2Proof.Machine

/-! ## Page-table entries (Table 15-1) -/

def pteP (e : DWord) : Bool := e.getLsbD 0
def pteLeaf (e : DWord) : Bool := e.getLsbD 1
def pteW (e : DWord) : Bool := e.getLsbD 2
def pteX (e : DWord) : Bool := e.getLsbD 3
def pteSpace (e : DWord) : Nat := bitsOf e 4 2
def pteHome (e : DWord) : Nat := bitsOf e 6 2
/-- [DEDUCED: notes/assumptions/91.md] -/
def pteCmp (e : DWord) : Bool := e.getLsbD 8
def pteUc (e : DWord) : Bool := e.getLsbD 9
def pteZf (e : DWord) : Bool := e.getLsbD 10
def pteBk (e : DWord) : Bool := e.getLsbD 11
def ptePa (e : DWord) : Nat := bitsOf e 16 32 * 2 ^ 16

/-- Reserved bits of an entry are zero. -/
def pteReservedOk (e : DWord) : Bool := bitsOf e 12 4 == 0 && bitsOf e 48 8 == 0

/-- A table pointer is well formed (R358). -/
def ptePointerOk (e : DWord) : Bool := pteReservedOk e && bitsOf e 2 10 == 0 && ptePa e < 2 ^ 39

/-- A leaf or block that maps 2^`shift` bytes is well formed, whatever its P (R358, R365). -/
def pteLeafOk (e : DWord) (shift : Nat) : Bool :=
  pteReservedOk e && pteSpace e != 3 && ptePa e % 2 ^ shift == 0 &&
  (pteSpace e != 0 || (pteHome e == ptePa e / 2 ^ 37 && ptePa e < 2 ^ 39)) &&
  (pteSpace e != 1 || (pteHome e == 0 && !pteCmp e))

/-- What a walk ends in: a mapping of 2^`shift` bytes with the address of its entry, an absent entry at a level, a malformed
entry (R358), or an uncorrectable error in an entry read. -/
inductive WalkResult where
  | leaf (pte : DWord) (shift : Nat) (at_ : Nat)
  | absent (level : Nat) (pte : DWord) (at_ : Nat)
  | malformed
  | ecc
  deriving DecidableEq, Repr

/-- The address of an entry of a table. -/
def entryAt (table va lo : Nat) : Nat := table + 8 * (va / 2 ^ lo % 8192)

/-- The walk of a virtual address from the top-level table (R355, R359); `va` is its low 55 bits. -/
def State.walk (s : State) (root va : Nat) : WalkResult :=
  if 2 ^ 39 ≤ root then .malformed
  else
    let a0 := entryAt root va 42
    let e0 := s.mem.word a0
    if s.isBad a0 8 then .ecc
    else if !pteP e0 then .absent 0 e0 a0
    else if pteLeaf e0 then (if pteLeafOk e0 42 then .leaf e0 42 a0 else .malformed)
    else if !ptePointerOk e0 then .malformed
    else
      let a1 := entryAt (ptePa e0) va 29
      let e1 := s.mem.word a1
      if s.isBad a1 8 then .ecc
      else if !pteP e1 then .absent 1 e1 a1
      else if pteLeaf e1 then (if pteLeafOk e1 29 then .leaf e1 29 a1 else .malformed)
      else if !ptePointerOk e1 then .malformed
      else
        let a2 := entryAt (ptePa e1) va 16
        let e2 := s.mem.word a2
        if s.isBad a2 8 then .ecc
        else if !pteP e2 then .absent 2 e2 a2
        else if pteLeaf e2 && pteLeafOk e2 16 then .leaf e2 16 a2
        else .malformed

/-- Bits 63:55 equal bit 54 (R126). -/
def canonical (va : DWord) : Bool := bitsOf va 54 10 == 0 || bitsOf va 54 10 == 1023

/-- The page number of a virtual address, from its low 55 bits. -/
def vpnOf (va : DWord) : Nat := bitsOf va 16 39

/-- An access to translate: its context, the core whose first-level TLB it uses, its die, what it does, the spaces it may
reach, and who it is for fault service (Table 15-3). -/
structure Access where
  ctx : Nat
  core : Option Nat := none
  die : Nat := 0
  write : Bool := false
  device : Bool := true
  host : Bool := false
  eng : Bool := false
  party : Party := 0
  joined : Joined := .controller
  deriving DecidableEq, Repr

/-- What a translation ends in. -/
inductive Xlat where
  | ok (pa : Nat) (pte : DWord)
  | stall (w : Why)
  | trap (cause : Nat)
  deriving DecidableEq, Repr

/-- The physical address a mapping gives. -/
def mapped (pte : DWord) (shift va : Nat) : Nat := ptePa pte + va % 2 ^ shift

/-- A cached translation that covers a page (R359). -/
def TlbEntry.covers (e : TlbEntry) (ctx vpn : Nat) : Bool :=
  e.ctx == ctx && e.vpn / 2 ^ (e.size - 16) == vpn / 2 ^ (e.size - 16)

/-- The cached translation an access may use: the core's first level, then the die's second level. -/
def State.cached (s : State) (x : Access) (vpn : Nat) : Option TlbEntry :=
  match x.core with
  | some c =>
    match (s.core c).tlb.find? fun e => e.covers x.ctx vpn with
    | some e => some e
    | none => (s.die x.die).tlb.find? fun e => e.covers x.ctx vpn
  | none => (s.die x.die).tlb.find? fun e => e.covers x.ctx vpn

/-- A translation cache of `n` entries with an entry put in, newest first. [DESIGN CHOICE: notes/assumptions/78.md] -/
def putTlb (n ctx : Nat) (e : TlbEntry) (l : List TlbEntry) : List TlbEntry :=
  (e :: l.filter fun o => !(o.covers ctx e.vpn)).take n

/-- The state with a translation cached in the core's TLB of 96 entries and in the die's cache of 8,192 (R12, R359). -/
def State.fillTlb (s : State) (x : Access) (e : TlbEntry) : State :=
  let d := s.die x.die
  let s := s.setDie x.die { d with tlb := putTlb 8192 x.ctx e d.tlb }
  match x.core with
  | none => s
  | some c => s.setCore c { s.core c with tlb := putTlb 96 x.ctx e (s.core c).tlb }

/-- The state without the cached translation of a page, in the caches an access uses (R360). -/
def State.dropTlb (s : State) (x : Access) (vpn : Nat) : State :=
  let cut (l : List TlbEntry) := l.filter fun o => !(o.covers x.ctx vpn)
  let d := s.die x.die
  let s := s.setDie x.die { d with tlb := cut d.tlb }
  match x.core with
  | none => s
  | some c => s.setCore c { s.core c with tlb := cut (s.core c).tlb }

/-- The space and permission outcome of a mapping: the trap it gives, if any (Table 5-7 row 9). -/
def permTrap (x : Access) (pte : DWord) : Option Nat :=
  let space := pteSpace pte
  if !((space == 0 && x.device) || (space == 1 && x.host)) then some 18
  else if x.write && !pteW pte then some 19
  else none

/-- The context's page area (R364). -/
def Context.pageArea (c : Context) : Nat := c.ptroot.toNat + 0x10000

/-- The party of the management controller, and others of R445, are given where they act; a fault descriptor carries the
party of its access. The state with a fault posted for a page with no unserved descriptor, or joined to the one it has
(R365). When the ring is full nothing is posted. -/
def State.postFault (s : State) (x : Access) (va : DWord) (level : Nat) : State :=
  let c := s.ctx x.ctx
  let vpn := vpnOf va
  match c.posts.find? fun p => p.vpn == vpn with
  | some p =>
    if p.joined.contains x.joined then s
    else
      s.setCtx x.ctx
        { c with posts := c.posts.map fun q => if q.n == p.n then { q with joined := q.joined ++ [x.joined] } else q }
  | none =>
    let area := c.pageArea
    let n := s.mem.nat area 8
    let served := s.mem.nat (area + 8) 8
    if 1022 ≤ n - served then s
    else
      let at_ := area + 0x40 + 32 * (n % 1022)
      let w1 := (if x.write then 1 else 0) + (if x.eng then 2 else 0) + level * 4 + x.party.toNat * 2 ^ 32
      let s := s.setHome at_ 8 va.toNat x.party
      let s := s.setHome (at_ + 8) 8 w1 x.party
      let s := s.setHome (at_ + 16) 8 n x.party
      let s := s.setHome (at_ + 24) 8 s.cycle x.party
      let s := s.setHome area 8 (n + 1) x.party
      let c := s.ctx x.ctx
      s.setCtx x.ctx { c with posts := c.posts ++ [{ n, vpn, hostMode := c.modes.getLsbD 3, joined := [x.joined] }] }

/-- Owner of a frame (R362). -/
def State.owner (s : State) (frame : Nat) : Owner := Assoc.getD s.owners frame .none

/-- A context may touch a frame without zeroing (R362). -/
def State.owned (s : State) (ctx frame : Nat) : Bool :=
  match s.owner frame with
  | .ctx c => c == ctx
  | .shared => true
  | .none => false

/-- The page of an address is under a migration lock of the context (R367). -/
def Context.locks (c : Context) (va : DWord) : Bool := c.lock.any fun l => l.vpn == vpnOf va

/-- The state in which the last mapping of a frame, as last walked, carries the zero-on-free attribute or not (R363).
[DEDUCED: notes/assumptions/69.md] -/
def State.noteZf (s : State) (frame : Nat) (zf : Bool) : State :=
  if s.zfs.contains frame == zf then s
  else { s with zfs := if zf then frame :: s.zfs else s.zfs.filter fun f => f != frame }

/-- The outcome of a mapping found by a walk: permission, then the frame's owner (R362), then a migration lock, under which
writes wait and no translation is cached (R359, R367). -/
def State.claim (s : State) (x : Access) (va : DWord) (pte : DWord) (shift : Nat) : Xlat × State :=
  match permTrap x pte with
  | some k => (.trap k, s)
  | none =>
    let pa := mapped pte shift (bitsOf va 0 55)
    let frame := pa / 2 ^ 16
    if pteSpace pte == 0 && !s.owned x.ctx frame then
      (.stall (.frame frame va),
        if (Assoc.get? s.zeroing frame).isSome then s else { s with zeroing := Assoc.set s.zeroing frame x.ctx })
    else if (s.ctx x.ctx).locks va then
      (if x.write then .stall (.frame frame va) else .ok pa pte, s)
    else
      (.ok pa pte, (if pteSpace pte == 0 then s.noteZf frame (pteZf pte) else s).fillTlb x ⟨x.ctx, vpnOf va, pte, shift⟩)

/-- The outcome of a failed fault service for this access, taken once (R366). -/
def State.takeFailed (s : State) (x : Access) (va : DWord) : Option State :=
  let c := s.ctx x.ctx
  if c.failed.contains (vpnOf va, x.joined) then
    some (s.setCtx x.ctx { c with failed := c.failed.filter fun e => e != (vpnOf va, x.joined) })
  else none

/-- A strand waits for a page. -/
def State.waitsPage (s : State) (r : StrandRef) (vpn : Nat) : Bool :=
  (s.strand r).wait.any fun w => match w.why with | .page va => vpnOf va == vpn | _ => false

/-- The access has joined a descriptor that is not yet served: it walks again only after the service (R366, R368).
[DEDUCED: notes/assumptions/102.md] -/
def State.joinedPost (s : State) (x : Access) (va : DWord) : Bool :=
  ((s.ctx x.ctx).posts.any fun p => p.vpn == vpnOf va && p.joined.contains x.joined) &&
  match x.joined with
  | .strand r => s.waitsPage r (vpnOf va)
  | _ => true

/-- The walk of an access and its outcome (R359 to R362, R365). -/
def State.walkAccess (s : State) (x : Access) (va : DWord) : Xlat × State :=
  if s.joinedPost x va then (.stall (.page va), s)
  else
  match s.walk (s.ctx x.ctx).ptroot.toNat (bitsOf va 0 55) with
  | .leaf pte shift _ => s.claim x va pte shift
  | .absent level _ _ => (.stall (.page va), s.postFault x va level)
  | .malformed => (.trap 21, s)
  | .ecc => (.trap 23, s)

/-- Translation of one access (R126, R359, R360, R366). -/
def State.translate (s : State) (x : Access) (va : DWord) : Xlat × State :=
  if !canonical va then (.trap 17, s)
  else
    match s.takeFailed x va with
    | some s' => (.trap 21, s')
    | none =>
      match s.cached x (vpnOf va) with
      | some e =>
        if (permTrap x e.pte).isSome then (s.dropTlb x (vpnOf va)).walkAccess x va
        else if 16 < e.size then s.claim x va e.pte e.size
        else (.ok (mapped e.pte e.size (bitsOf va 0 55)) e.pte, s)
      | none => s.walkAccess x va

/-- The mapping an address has for a reader that never faults, posts or claims: the dispatcher's scoring, cache maintenance
and prefetch (R146, R147, R361). -/
def State.peekMap (s : State) (ctx : Nat) (va : DWord) : Option (Nat × DWord) :=
  if !canonical va then none
  else
    match s.walk (s.ctx ctx).ptroot.toNat (bitsOf va 0 55) with
    | .leaf pte shift _ => some (mapped pte shift (bitsOf va 0 55), pte)
    | _ => none

/-! ## Caches -/

/-- The sector of an address that a context holds in a cache. -/
def findSector (l : List Sector) (ctx a : Nat) : Option Sector := l.find? fun e => e.addr == a / 32 * 32 && e.ctx == ctx

/-- The cache of `n` sectors with one held, newest first (R12). [DESIGN CHOICE: notes/assumptions/78.md] -/
def holdSector (n : Nat) (l : List Sector) (e : Sector) : List Sector :=
  (e :: l.filter fun o => o.addr != e.addr || o.ctx != e.ctx).take n

/-- Sectors of a core's L1, 32 KiB, and of a die's remote-data cache, 32 MiB (R12). -/
def l1Sectors : Nat := 1024
def rdcSectors : Nat := 1048576

/-- The sector at an address as its home L2 has it. -/
def State.homeSector (s : State) (ctx a : Nat) : Sector := { addr := a / 32 * 32, ctx, bytes := s.mem.bytes (a / 32 * 32) 32 }

/-- The sector as a die sees it below its L1s: its own L2 for lines homed there, else its remote-data cache (R132, R133). -/
def State.dieSector (s : State) (ctx die a : Nat) : Sector × State :=
  if Config.homeDie a == die then (s.homeSector ctx a, s)
  else
    match findSector (s.die die).rdc ctx a with
    | some e => (e, s)
    | none =>
      let e := s.homeSector ctx a
      let d := s.die die
      (e, s.setDie die { d with rdc := holdSector rdcSectors d.rdc e })

/-- The sector as a core sees it through its L1 (R131). -/
def State.coreSector (s : State) (ctx core a : Nat) : Sector × State :=
  match findSector (s.core core).l1 ctx a with
  | some e => (e, s)
  | none =>
    let r := s.dieSector ctx (dieOf core) a
    (r.1, r.2.setCore core { r.2.core core with l1 := holdSector l1Sectors (r.2.core core).l1 r.1 })

/-- Bytes of a sector from an address within it. -/
def Sector.read (e : Sector) (a n : Nat) : List Byte := (e.bytes.drop (a - e.addr)).take n

/-- A scalar G load of at most 8 aligned bytes at physical `a` (R131, R133): through the L1, or past it when the page is
uncached, which leaves no older copy there for a later load of another mapping (R253). -/
def State.loadG (s : State) (ctx core a n : Nat) (uc : Bool) : Nat × State :=
  if uc then
    let r := s.dieSector ctx (dieOf core) a
    (leNat (r.1.read a n),
      r.2.setCore core { r.2.core core with l1 := (r.2.core core).l1.filter fun e => e.addr != a / 32 * 32 })
  else
    let r := s.coreSector ctx core a
    (leNat (r.1.read a n), r.2)

/-- The list with bytes written into every copy of a sector that it holds. -/
def patchSector (l : List Sector) (a : Nat) (bs : List Byte) : List Sector :=
  l.map fun e =>
    if e.addr == a / 32 * 32 then
      { e with bytes := e.bytes.take (a - e.addr) ++ bs ++ e.bytes.drop (a - e.addr + bs.length) }
    else e

/-- A scalar G store (R131, R133): write-through to the home, updating the copies that the core's L1 and the die's
remote-data cache hold. [DEDUCED: notes/assumptions/8.md] -/
def State.storeG (s : State) (core a : Nat) (bs : List Byte) (who : Party) : State :=
  let s := s.writeHome a bs who
  let s := s.setCore core { s.core core with l1 := patchSector (s.core core).l1 a bs }
  let d := dieOf core
  s.setDie d { s.die d with rdc := patchSector (s.die d).rdc a bs }

/-- The bytes a die reads from lines homed elsewhere, through its remote-data cache (R133). -/
def State.readRemote (s : State) (ctx die a : Nat) : Nat → List Byte × State
  | 0 => ([], s)
  | n + 1 =>
    let r := s.dieSector ctx die a
    let t := State.readRemote r.2 ctx die (a + 1) n
    (r.1.read a 1 ++ t.1, t.2)

/-- The bytes an engine of a die reads from one frame (R216): through the die's L2 or its remote-data cache. -/
def State.readDie (s : State) (ctx die a n : Nat) : List Byte × State :=
  if Config.homeDie a == die then (s.mem.bytes a n, s) else s.readRemote ctx die a n

/-- Bytes an engine of a die writes: to the home, updating the die's own remote-data cache (R133, R216), whose copies that are
written whole have no error any more (R140). -/
def State.writeDie (s : State) (die a : Nat) (bs : List Byte) (who : Party) : State :=
  let s := s.writeHome a bs who
  let l := bs.zipIdx.foldl (fun l e => patchSector l (a + e.2) [e.1]) (s.die die).rdc
  s.setDie die { s.die die with rdc := l.map fun e =>
    if e.bad && (wholeSectors a bs.length).contains (e.addr / 32) then { e with bad := false } else e }

/-- The copy of a sector that a die uses has an uncorrectable error: that of its remote-data cache, else the home's (R140). -/
def State.dieBad (s : State) (ctx die a n : Nat) : Bool :=
  (sectors a n).any fun k =>
    match if Config.homeDie (32 * k) == die then none else findSector (s.die die).rdc ctx (32 * k) with
    | some e => e.bad
    | none => s.bad.contains k

/-- The copy of a sector that a scalar load uses has an uncorrectable error (R140). [DEDUCED: notes/assumptions/42.md] -/
def State.readBad (s : State) (ctx core a n : Nat) (uc : Bool) : Bool :=
  match if uc then none else findSector (s.core core).l1 ctx a with
  | some e => e.bad
  | none => s.dieBad ctx (dieOf core) a n

/-- A write of part of a sector whose home, or whose copy that the write updates, has an uncorrectable error (R140).
[DEDUCED: notes/assumptions/42.md] -/
def State.writeBad (s : State) (die a n : Nat) (l1 : List Sector) : Bool :=
  s.partBad a n ||
  (l1 ++ (s.die die).rdc).any fun e => e.bad && (sectors a n).contains (e.addr / 32) && !(wholeSectors a n).contains (e.addr / 32)

/-- A scalar G access meets an uncorrectable error (R140): a load in the copy it uses, a store that writes a part of a bad
sector, an atomic at the home too. [DEDUCED: notes/assumptions/42.md] -/
def State.meetsBad (s : State) (read write : Bool) (ctx core a n : Nat) (uc : Bool) : Bool :=
  (read && (if write then s.isBad a n else s.readBad ctx core a n uc)) ||
  (write && s.writeBad (dieOf core) a n (if uc then [] else (s.core core).l1))

/-- The acquire action of a scope (Table 5-2). -/
def State.acquire (s : State) (ctx core : Nat) (k : Scope) : State :=
  match k with
  | .core | .group => s
  | .die => s.setCore core { s.core core with l1 := [] }
  | .dev | .sys =>
    let s := s.setCore core { s.core core with l1 := [] }
    let d := dieOf core
    s.setDie d { s.die d with rdc := (s.die d).rdc.filter fun e => e.ctx != ctx }

/-- The scope of a field value (Table 3-9). -/
def scopeOf (n : Nat) : Scope :=
  match n with
  | 0 => .core
  | 1 => .group
  | 2 => .die
  | 3 => .dev
  | _ => .sys

end Sys2Proof.Machine
end

