-- ==== Sys2Proof/Machine/Pending.lean ====
section
/-! DEFINITION. The load queue and the store queue of a strand (R138, R254): loads that have still to read their place and
stores that have still to perform, how one performs, and what must perform before an access, a marker or an edge. -/

namespace Sys2Proof.Machine

/-! ## Scratchpads -/

/-- The state without the residency entries that a write to scratchpad bytes overlaps (R139, R221). -/
def State.dropResidency (s : State) (core lo n : Nat) : State :=
  let c := s.core core
  if c.residency.isEmpty then s
  else s.setCore core { c with residency := c.residency.map fun e =>
    (e.1, if e.2.state != .free && e.2.off < lo + n && lo < e.2.off + e.2.len then {} else e.2) }

/-- The state with bytes written to a core's scratchpad; they have no error any more (R140). -/
def State.writePad (s : State) (core lo : Nat) (bs : List Byte) : State :=
  let c := s.core core
  s.setCore core { c with
    pad := c.pad.write lo bs
    bad := if c.bad.isEmpty then [] else c.bad.filter fun b => b < lo || lo + bs.length ≤ b }

/-- Scratchpad bytes lie in a sector with an uncorrectable error (R140). -/
def Core.badAt (c : Core) (lo n : Nat) : Bool := !c.bad.isEmpty && (sectors lo n).any fun k => c.bad.any fun b => b / 32 == k

/-! ## Places -/

/-- The first byte of a place. -/
def Loc.start : Loc → Nat
  | .pad _ lo _ => lo
  | .home pa _ => pa
  | .link _ _ _ => 0

/-- Two accesses of `m` and `n` bytes share bytes. -/
def Loc.meets (a : Loc) (m : Nat) (b : Loc) (n : Nat) : Bool :=
  match a, b with
  | .pad c lo _, .pad d hi _ => c == d && lo < hi + n && hi < lo + m
  | .home p _, .home q _ => p < q + n && q < p + m
  | _, _ => false

/-- A place in a scratchpad. -/
def Loc.isPad : Loc → Bool
  | .pad _ _ _ => true
  | _ => false

/-- The state with a number written at a place on the card by a strand (R131, R133, R139). -/
def State.writeAt (s : State) (r : StrandRef) (l : Loc) (size v : Nat) : State :=
  match l with
  | .pad core lo shared =>
    let s := s.writePad core lo (leBytes v size)
    if shared then s.dropResidency core lo size else s
  | .home pa _ => s.storeG (s.task r.task).core pa (leBytes v size) (s.strandParty r)
  | .link _ _ _ => s

/-- The number at a place on the card as a strand's load reads it there (R131, R133). -/
def State.readAt (s : State) (r : StrandRef) (l : Loc) (size : Nat) : Nat × State :=
  match l with
  | .pad core lo _ => ((s.core core).pad.nat lo size, s)
  | .home pa pte => s.loadG (s.task r.task).ctx (s.task r.task).core pa size (pteUc pte)
  | .link _ _ _ => (0, s)

/-! ## Order within a strand (R253, R254) -/

/-- A value of `size` bytes at a place with the bytes of a store over it. -/
def PendStore.over (p : PendStore) (l : Loc) (size v : Nat) : Nat :=
  if p.loc.meets p.size l size then
    leNat ((List.range size).map fun i =>
      let a := l.start + i
      if p.loc.start ≤ a && a < p.loc.start + p.size then BitVec.ofNat 8 (p.value / 256 ^ (a - p.loc.start))
      else BitVec.ofNat 8 (v / 256 ^ i))
  else v

/-- What a load numbered `id` returns: the bytes at its place, with those of the strand's older stores that have not performed
over them. -/
def State.forward (s : State) (r : StrandRef) (id : Nat) (l : Loc) (size : Nat) : Nat × State :=
  let e := s.readAt r l size
  ((((s.strand r).stores.filter fun p => p.id < id).foldl (fun v p => p.over l size v) e.1), e.2)

/-- Of accesses older than one to a place, oldest first, those that share bytes with it, or with a younger one that does. -/
def before (l : Loc) (n : Nat) : List (Nat × Loc × Nat) → List (Nat × Loc × Nat)
  | [] => []
  | e :: t =>
    let y := before l n t
    if ((l, n) :: y.map (·.2)).any fun o => o.1.meets o.2 e.2.1 e.2.2 then e :: y else y

/-- The state after a load that had still to read its place has read it. -/
def State.readLate (s : State) (r : StrandRef) (id : Nat) : State :=
  match (s.strand r).loads.find? fun o => o.id == id with
  | some o =>
    match o.late with
    | some (l, n) =>
      let e := s.forward r id l n
      let d := e.2.strand r
      e.2.setStrand r { d with loads := d.loads.map fun q =>
        if q.id == id then { q with value := BitVec.ofNat 64 e.1, late := none } else q }
    | none => s
  | none => s

/-- Loads of a strand that have still to read their place. -/
def Strand.lateLoads (d : Strand) : List (Nat × Loc × Nat) := d.loads.filterMap fun o => o.late.map fun e => (o.id, e)

/-- The state after the loads older than access `id` to a place, whose bytes it shares, have read (R253). -/
def State.settle (s : State) (r : StrandRef) (id : Nat) (l : Loc) (n : Nat) : State :=
  (before l n ((s.strand r).lateLoads.filter fun e => e.1 < id)).foldl (fun s e => s.readLate r e.1) s

/-- The state after one store of a strand's queue has performed, the older loads of its bytes first. -/
def State.landOne (s : State) (r : StrandRef) (id : Nat) : State :=
  match (s.strand r).stores.find? fun p => p.id == id with
  | some p =>
    let s := s.settle r id p.loc p.size
    let d := s.strand r
    (s.setStrand r { d with stores := d.stores.filter fun q => q.id != id }).writeAt r p.loc p.size p.value
  | none => s

/-- The state after the stores of a strand older than access `id` to a place, whose bytes it shares, have performed (R253). -/
def State.landBefore (s : State) (r : StrandRef) (id : Nat) (l : Loc) (n : Nat) : State :=
  (before l n (((s.strand r).stores.filter fun p => p.id < id).map fun p => (p.id, p.loc, p.size))).foldl
    (fun s e => s.landOne r e.1) s

/-- The state after a store of a strand's queue has performed, the older stores to its bytes first.
[DEDUCED: notes/assumptions/8.md] -/
def State.land (s : State) (r : StrandRef) (id : Nat) : State :=
  match (s.strand r).stores.find? fun p => p.id == id with
  | some p => (s.landBefore r id p.loc p.size).landOne r id
  | none => s

/-- The state in which nothing of a strand that shares bytes with a place is pending: an atomic access may perform there. -/
def State.clearFor (s : State) (r : StrandRef) (l : Loc) (n : Nat) : State :=
  (s.landBefore r s.nextLoad l n).settle r s.nextLoad l n

/-- The state after every load of a strand whose place `f` picks has read and every such store has performed. -/
def State.drainIf (s : State) (r : StrandRef) (f : Loc → Bool) : State :=
  let s := ((s.strand r).lateLoads.filter fun e => f e.2.1).foldl (fun s e => s.readLate r e.1) s
  ((s.strand r).stores.filter fun p => f p.loc).foldl (fun s p => s.landOne r p.id) s

/-- The state after every load of a strand has read and every store has performed. -/
def State.drain (s : State) (r : StrandRef) : State := s.drainIf r fun _ => true

/-- The same for the four strands of a task. -/
def State.drainTask (s : State) (t : Nat) : State := allUnits.foldl (fun s u => s.drain ⟨t, u⟩) s

/-- The same for every task of a context. -/
def State.drainCtx (s : State) (c : Nat) : State :=
  (s.tasks.filter fun t => t.2.ctx == c).foldl (fun s t => s.drainTask t.1) s

/-- The scalar accesses of the current strand to scratchpad bytes have performed (R261). -/
def drainPad : M Unit := modify fun s => s.drainIf s.cur Loc.isPad

/-- QMark of R137 by the current strand (R136, R144, R255): its older accesses perform, and the acquire action of the scope. -/
def State.mark (s : State) (k : Scope) : State :=
  let s := s.drain s.cur
  s.acquire s.curTask.ctx s.curTask.core k

end Sys2Proof.Machine
end

