-- ==== Sys2Proof/Machine/Lease.lean ====
section
/-! DEFINITION. The engine commands of a task, and the lease of a hoop's matrix array (R194 to R196, R203): its candidates, how it
is granted, and how it passes. -/

namespace Sys2Proof.Machine

/-! ## Commands of a task -/

/-- Vector commands of a task in its core's queue. -/
def State.vecCmds (s : State) (t : Nat) : List VecCmd := (s.core (s.task t).core).vq.filter fun c => c.hd.task == t

/-- Matrix commands of a task in its core's queue. -/
def State.matCmds (s : State) (t : Nat) : List MatCmd := (s.core (s.task t).core).mq.filter fun c => c.hd.task == t

/-- Copy commands of a task in its channels, and its streams' heads. -/
def Task.cpyHeads (x : Task) : List CmdHead := x.chans.flatMap fun c => c.2.cmds.map (·.hd)

/-- Heads of every engine command of a task not yet completed. -/
def State.cmdHeads (s : State) (t : Nat) : List CmdHead :=
  (s.vecCmds t).map (·.hd) ++ (s.matCmds t).map (·.hd) ++ (s.task t).cpyHeads

/-- A resource lies in the carve's scratchpad. -/
def Resource.isPad : Resource → Bool
  | .pad lo hi => lo < hi
  | _ => false

/-- A command that reads or writes the carve (R322). -/
def CmdHead.touchesCarve (h : CmdHead) : Bool := h.reads.any Resource.isPad || h.writes.any Resource.isPad

/-- One that has not finished with it: bytes of it are still to be read or to land. -/
def CmdHead.usesCarve (h : CmdHead) : Bool := h.touchesCarve && !h.off

/-- Commands of a task have not finished with its carve (R322). -/
def State.carveUsers (s : State) (t : Nat) : Bool := (s.cmdHeads t).any CmdHead.usesCarve

/-- Engine of a command by its opcode: 1 vector, 3 matrix, 2 copy (Table 3-13). -/
def engineOf (op : Nat) : UnitId :=
  if 0xD0 ≤ op then .copy else if 0xC0 ≤ op then .matrix else .vector

/-- The engines work on a task's commands: it is placed or has ended, and nothing holds it (R288, R417). -/
def State.engineFree (s : State) (t : Nat) : Bool :=
  match Assoc.get? s.tasks t with
  | none => false
  | some x => x.frozenBy.isNone && (x.life == .running || x.life == .ended)

/-- The unit of an engine command by its opcode (Table 3-13). -/
def CmdHead.engine (h : CmdHead) : Nat := (engineOf h.op).code

/-! ## The lease (R194 to R197) -/

/-- A leased command (R194). -/
def isLeased (op : Nat) : Bool := op == 0xC4 || op == 0xC7 || op == 0xC8 || op == 0xC9

/-- A marker of the queue (R207). -/
def isMarker (op : Nat) : Bool := op == 0xC1 || op == 0xC5 || op == 0xC6

/-- Tasks that wait for a hoop's lease with a leased command queued (R195); the commands of a task that has ended run on (R322).
-/
def State.candidates (s : State) (h : Nat) : List Nat :=
  (s.tasks.filter fun t => s.engineFree t.1 && hoopOf t.2.core == h && t.2.mat.lease == .waiting &&
    (s.matCmds t.1).any fun c => isLeased c.hd.op).map (·.1)

/-- The task of a list that is first in the order of (core, task slot): a task number modulo 16,384. -/
def firstTask (cs : List Nat) : Option Nat :=
  cs.foldl (fun (b : Option Nat) t => match b with
    | none => some t
    | some u => if t % 16384 ≤ u % 16384 then some t else b) none

/-- The first candidate after the last holder in that order, wrapping round. -/
def nextCandidate (last : Nat) (cs : List Nat) : Option Nat :=
  match firstTask (cs.filter fun t => last < t % 16384) with
  | some t => some t
  | none => firstTask cs

/-- The state with a task's lease state set. -/
def State.setLease (s : State) (t : Nat) (l : Lease) : State :=
  s.setTask t { s.task t with mat := { (s.task t).mat with lease := l } }

/-- The state with the lease of a hoop given to a task. [DEDUCED: notes/assumptions/22.md] -/
def State.giveLease (s : State) (h t : Nat) : State :=
  (s.setLease t .held).setHoop h { s.hoop h with holder := some t, grant := 0, granted := s.cycle, blocked := some s.cycle }

/-- The state after the arbiter of a hoop has granted a free array to the first candidate (R195). -/
def State.grantLease (s : State) (h : Nat) : State :=
  match (s.hoop h).holder with
  | some _ => s
  | none =>
    match nextCandidate (s.hoop h).last (s.candidates h) with
    | some t => s.giveLease h t
    | none => s

/-- The state after a task no longer holds a hoop's lease: it passes to the first candidate, whose first leased command starts 8
cycles later, or is free (R195, R196). [DEDUCED: notes/assumptions/22.md] -/
def State.freeLease (s : State) (h t : Nat) : State :=
  let hp := s.hoop h
  if hp.holder == some t then
    let s := s.setHoop h { hp with
      holder := none, last := t % 16384, lastParty := s.taskParty t 3, grant := 0, blocked := none
      gap := if (s.candidates h).isEmpty then hp.gap else s.cycle + 8 }
    s.grantLease h
  else s.grantLease h

/-- The state after the holder of a lease has given it up and stands in lease state `l` (R196). -/
def State.passLease (s : State) (h t : Nat) (l : Lease) : State := (s.setLease t l).freeLease h t

/-- The state with the lease of a task that leaves given up (R196, R280). -/
def State.dropLease (s : State) (t : Nat) : State :=
  let h := hoopOf (s.task t).core
  if (s.hoop h).holder == some t then s.freeLease h t else s

/-- A matrix command of a task has started and not completed. -/
def State.matRunning (s : State) (t : Nat) : Bool := (s.matCmds t).any fun c => c.hd.started

/-- The state after the array has stopped for a task that is being stopped: at the boundary of the running command the lease
passes, and its owner waits (R203). -/
def State.stopArray (s : State) (t : Nat) : State :=
  let h := hoopOf (s.task t).core
  if (s.hoop h).holder == some t && !s.matRunning t then s.passLease h t .waiting else s

/-- Another task is a candidate (R196). -/
def State.rivals (s : State) (h t : Nat) : Bool := (s.candidates h).any fun u => u != t

/-- Events 2 and 3 of R196 but for the 256 cycles, at a command boundary: no chain is open, and 64 commands are done or nothing is
queued. -/
def State.passDue (s : State) (h t : Nat) : Bool :=
  !(s.task t).mat.qopen && (64 ≤ (s.hoop h).grant || (s.matCmds t).isEmpty) && !s.matRunning t && s.rivals h t

/-- The state after the arbiter has acted on what has just changed. [DEDUCED: notes/assumptions/22.md] -/
def State.settleLease (s : State) (h : Nat) : State :=
  match (s.hoop h).holder with
  | some t => if s.passDue h t then s.passLease h t .waiting else s
  | none => s.grantLease h

end Sys2Proof.Machine
end

