-- ==== Sys2Proof/Machine/Ops.lean ====
section
/-! DEFINITION. The named operations that instructions and events share: the end of a task and its fault record (R280, R314,
R324, R337, R341), taking a trap (R278) and returning from one (R283), the encoding checks in order (R86), and how an
instruction of a strand runs, stalls, traps and retires (R56, R61, R82, R94). -/

namespace Sys2Proof.Machine

/-! ## Fault records -/

/-- Trap value of a copy fault (R238). -/
def copyFaultValue (ch : Nat) (c : Channel) : DWord :=
  BitVec.ofNat 64 (c.fcode.toNat + ch % 4 * 2 ^ 8 + c.fid.toNat * 2 ^ 32)

/-- The 512 bytes of a fault record (R324, Table 12-6). -/
def faultRecord (cause : Nat) (lvl : Bool) (task : Nat) (value tpc : DWord) (party : Party) (cycle lseq drop : Nat)
    (dels : List (DWord × DWord)) : List Byte :=
  let d := dels.take 28
  leBytes (cause % 256 + d.length * 2 ^ 8 + (if lvl then 2 ^ 16 else 0) + task % 2 ^ 32 * 2 ^ 32) 8 ++
  leBytes value.toNat 8 ++ leBytes tpc.toNat 8 ++ leBytes party.toNat 8 ++ leBytes cycle 8 ++ leBytes lseq 8 ++
  leBytes (drop % 2 ^ 32) 8 ++ leBytes 0 8 ++
  d.flatMap (fun e => leBytes e.1.toNat 8 ++ leBytes e.2.toNat 8) ++ List.replicate (448 - 16 * d.length) 0

/-- Party of the dispatcher's front end of a die (Table 0-2, R445). [DEDUCED: notes/assumptions/29.md] -/
def dispatcherParty (s : State) (die : Nat) : Party := partyOf s.cardUsed (die * 256) 4 9

/-- What the dispatcher accesses memory for: fault records of a queue, the checks of a launch, tile-list entries, a completion
timeline of a launch, an image of a context, timelines to poison, and the submit and accept timelines of a queue. -/
def jobRecord : Nat := 0
def jobLaunch : Nat := 1
def jobEntry : Nat := 2
def jobDone : Nat := 3
def jobImage : Nat := 4
def jobPoison : Nat := 5
def jobHost : Nat := 6

/-- The access with which the dispatcher writes or reads in a context, for job `n` of a kind: a failed fault service is delivered
to each of them (R366). -/
def State.dispatcherAccess (s : State) (c : Nat) (write : Bool) (job n : Nat) : Access :=
  let d := Config.homeDie (s.ctx c).ptroot.toNat
  { ctx := c, die := d, write, eng := true, party := dispatcherParty s d, joined := .dispatcher job n }

/-- The state with as many waiting fault records of a queue written as pages allow (R297); a record that cannot be written
is lost and sets FRLOST. `fuel` bounds the records. -/
def State.flushRecords (s : State) (q : Nat) : Nat → State
  | 0 => s
  | fuel + 1 =>
    let x := s.queue q
    match x.pendingRecords with
    | [] => s
    | rec :: rest =>
      let fits := x.records < 7
      let va := if fits then x.faulta + BitVec.ofNat 64 (512 * (x.records + 1)) else x.faulta
      match s.translate (s.dispatcherAccess x.ctx true jobRecord q) va with
      | (.ok pa _, s') =>
        let x' := s'.queue q
        if fits then
          (((s'.writeHome pa rec (dispatcherParty s' (Config.homeDie pa))).setQueue q
            { x' with pendingRecords := rest, records := x'.records + 1 })).flushRecords q fuel
        else
          (((s'.setHome pa 8 (x'.droppedRecords + 1) (dispatcherParty s' (Config.homeDie pa))).setQueue q
            { x' with pendingRecords := rest, droppedRecords := x'.droppedRecords + 1 })).flushRecords q fuel
      | (.stall _, s') => s'
      | (.trap _, s') => (s'.setQueue q { s'.queue q with pendingRecords := rest, frlost := true }).flushRecords q fuel

/-- The state with a fault record of a queue written, or waiting for its page (R297). -/
def State.putRecord (s : State) (q : Nat) (rec : List Byte) : State :=
  let x := s.queue q
  if x.state == .free then s
  else (s.setQueue q { x with pendingRecords := x.pendingRecords ++ [rec] }).flushRecords q (x.pendingRecords.length + 1)

/-- The state with a queue Faulted by a launch of it (R296); the other states keep theirs. -/
def State.faultQueue (s : State) (q l : Nat) : State :=
  let x := s.queue q
  let bad := x.badLaunch.getD l
  match x.state with
  | .idle | .ready | .drain | .stopped => s.setQueue q { x with state := .faulted, badLaunch := some bad }
  | _ => s

/-- The fault record of a task (R324). -/
def State.taskRecord (s : State) (f : FaultCause) (index launch : Nat) (dels : List (DWord × DWord)) (dropped : Nat) :
    List Byte :=
  faultRecord f.cause f.lvl index f.value f.tpc f.party s.cycle (s.launch launch).seq dropped dels

/-- A member of a faulted group, ended or live, as its record needs it. -/
structure MemberRecord where
  member : Nat
  index : Nat
  dels : List (DWord × DWord)
  dropped : Nat
  deriving DecidableEq, Repr

/-- The members of a group in increasing index (R341). -/
def State.memberRecords (s : State) (g : Nat) : List MemberRecord :=
  let gr := s.group g
  let l := gr.live.map fun e => let x := s.task e.2; (⟨x.member, x.index, x.deliveries, x.dropped⟩ : MemberRecord)
  let e := gr.ended.map fun e => (⟨e.member, e.index, e.deliveries, e.dropped⟩ : MemberRecord)
  (List.range 16).flatMap fun m => (l ++ e).filter fun r => r.member == m

/-- A fault of a command of a task that has ended makes its queue Faulted, with a record that names the engine (R322). The
task is then not complete (R315). -/
def State.orphanFault (s : State) (h : CmdHead) (cause : Nat) (value : DWord) : State :=
  let x := s.task h.task
  if x.orphaned then s
  else
    let s := (s.updLaunch x.launch fun l => { l with faulted := true }).faultQueue x.queue x.launch
    let s := s.setTask h.task { x with orphaned := true }
    s.putRecord x.queue
      (s.taskRecord ⟨cause, value, 0, s.taskParty h.task h.engine, false⟩ x.index x.launch x.deliveries x.dropped)

/-! ## Removing a task from its slot -/

/-- A command head of task `a` renamed to task `b`. -/
def CmdHead.rename (a b : Nat) (h : CmdHead) : CmdHead := if h.task == a then { h with task := b } else h

/-- The state with task `a` carried under number `b`: its entry, its commands, residency entries, requests and monitor
entries. -/
def State.renameTask (s : State) (a b : Nat) : State :=
  let x := s.task a
  let x := { x with
    chans := x.chans.map fun c => (c.1, { c.2 with
      cmds := c.2.cmds.map fun k => { k with hd := k.hd.rename a b } }) }
  let k := s.core x.core
  let k := { k with
    vq := k.vq.map fun c => { c with hd := c.hd.rename a b }
    mq := k.mq.map fun c => { c with hd := c.hd.rename a b }
    residency := k.residency.map fun e => (e.1, if e.2.task == a then { e.2 with task := b } else e.2) }
  let h := s.hoop (hoopOf x.core)
  let s := s.setCore x.core k
  let s := s.setHoop (hoopOf x.core) { h with holder := if h.holder == some a then some b else h.holder }
  let join (j : Joined) : Joined :=
    match j with
    | .channel t ch => if t == a then .channel b ch else j
    | .strand r => if r.task == a then .strand ⟨b, r.unit⟩ else j
    | _ => j
  { s with
    tasks := Assoc.set (Assoc.erase s.tasks a) b x
    groups := s.groups.map fun g => (g.1, { g.2 with live := g.2.live.map fun m => (m.1, if m.2 == a then b else m.2) })
    contexts := s.contexts.map fun c => (c.1, { c.2 with
      posts := c.2.posts.map fun p => { p with joined := p.joined.map join }
      failed := c.2.failed.map fun f => (f.1, join f.2) })
    dies := s.dies.map fun d => (d.1, { d.2 with monitor := d.2.monitor.map fun e =>
      if e.task == a then { e with task := b } else e })
    reqs := s.reqs.map fun e => (e.1, if e.2.strand.task == a then { e.2 with strand := ⟨b, e.2.strand.unit⟩ } else e.2) }

/-- The number under which an ended task's remaining commands are carried. -/
def State.zombieKey (s : State) (t : Nat) : Nat := 16384 * s.nextZombie + t % 16384

/-- An access of a task's strand or channel. -/
def Joined.isOf (t : Nat) : Joined → Bool
  | .strand r => r.task == t
  | .channel u _ => u == t
  | _ => false

/-- The state without a task that is gone: its requests over a link still perform, with no strand to answer, and no failed
service is delivered to its accesses. -/
def State.eraseTask (s : State) (t : Nat) : State :=
  let b := s.zombieKey t
  { s with
    tasks := Assoc.erase s.tasks t
    nextZombie := s.nextZombie + 1
    reqs := s.reqs.map fun e => (e.1, if e.2.strand.task == t then { e.2 with strand := ⟨b, e.2.strand.unit⟩ } else e.2)
    contexts := s.contexts.map fun c => (c.1, { c.2 with
      posts := c.2.posts.map fun p => { p with joined := p.joined.filter fun j => !j.isOf t }
      failed := c.2.failed.filter fun f => !f.2.isOf t }) }

/-- The state with a task's owned residency entries made Standing, belonging to its context (R317). -/
def State.standEntries (s : State) (t : Nat) : State :=
  let c := (s.task t).core
  let k := s.core c
  s.setCore c { k with residency := k.residency.map fun e =>
    (e.1, if e.2.state == .owned && e.2.task == t then { e.2 with state := .standing } else e.2) }

/-- Deficits saturate (R302). -/
def satDeficit (d : Int) : Int := max (-(2 ^ 31 : Int)) (min (2 ^ 31 - 1) d)

/-- Run time of a task: the cycles it was placed on a core (R272) and not debug-halted (R418). -/
def Task.runTime (x : Task) (now : Nat) : Nat :=
  match x.life, x.frozenBy with
  | .running, none | .stopping, none => x.runtime + (now - x.placed)
  | _, _ => x.runtime

/-- The state with a task's cycles charged to its queue (R302). -/
def State.chargeTask (s : State) (t : Nat) : State :=
  let x := s.task t
  let q := s.queue x.queue
  if q.state == .free || q.destroying then s
  else s.setQueue x.queue { q with deficit := satDeficit (q.deficit - ((x.runTime s.cycle : Nat) : Int)) }

/-- A barrier whose phase completes (R345): enough arrivals, with CNT 0 meaning every member not ended, and enough posts. -/
def Barrier.isDone (b : Barrier) (live : Nat) : Bool :=
  0 < b.arr && (if b.cnt == 0 then live ≤ b.arr else b.cnt ≤ b.arr) && b.exp ≤ b.posted

/-- The barrier after its phase completes (R345). -/
def Barrier.complete (b : Barrier) : Barrier :=
  { b with cnt := 0, arr := 0, set := false, exp := 0, posted := b.posted - b.exp, phase := 1 - b.phase }

/-- A wait of a strand whose barrier phase `ph` of barrier `n` has completed by `who`. -/
def Strand.barrierDone (n ph : Nat) (who : Party) (d : Strand) : Strand :=
  match d.wait with
  | some w =>
    match w.why with
    | .barrier m p _ =>
      if m == n && p == ph && d.held.isNone then { d with wait := some { w with prod := who }, held := some .done } else d
    | _ => d
  | none => d

/-- The group's barriers with every phase that can complete completed, and the waits of its members' main strands on them
answered (R345). `who` is the party whose arrival, post or ending it was (R346). -/
def State.settleBarriers (s : State) (g : Nat) (who : Party) : State :=
  let gr := s.group g
  let n := gr.live.length
  let done := gr.barriers.filter fun e => e.2.isDone n
  if done.isEmpty then s
  else
    let s := s.setGroup g { gr with barriers := gr.barriers.map fun e => (e.1, if e.2.isDone n then e.2.complete else e.2) }
    { s with
      tasks := s.tasks.map fun t =>
        if t.2.group == some g then
          (t.1, { t.2 with main := done.foldl (fun (d : Strand) e => d.barrierDone e.1 e.2.phase who) t.2.main })
        else t }

/-- The state with an image slot of a context free again (R292). -/
def State.freeImage (s : State) (c : Nat) (k : Option Nat) : State :=
  match k with
  | none => s
  | some i => s.setCtx c { s.ctx c with slots := (s.ctx c).slots.filter fun j => j != i }

/-- The state after a member of a group has ended without a successor (R337, R345): the group keeps its carve and
deliveries, and its barriers count one member less. The group ends with its last member, and every carve is released.
[DEDUCED: notes/assumptions/87.md] -/
def State.endMember (s : State) (t : Nat) : State :=
  let x := s.task t
  match x.group with
  | none => s.freeImage x.ctx x.image
  | some g =>
    let gr := s.group g
    let e : EndedMember :=
      { member := x.member, index := x.index, core := x.core, gran0 := x.gran0, gran := x.hdr.gran, cs := x.hdr.cs, ps := x.hdr.ps,
        deliveries := x.deliveries, dropped := x.dropped, launch := x.launch, image := x.image }
    let live := Assoc.erase gr.live x.member
    if live.isEmpty then
      (gr.ended ++ [e]).foldl (fun s m => s.freeImage x.ctx m.image) { s with groups := Assoc.erase s.groups g }
    else (s.setGroup g { gr with live, ended := gr.ended ++ [e] }).settleBarriers g (s.taskParty t 0)

/-- The task counts as complete toward its launch (R315). -/
def State.countComplete (s : State) (x : Task) (party : Party) : State :=
  s.updLaunch x.launch fun l => { l with complete := l.complete + 1, lastParty := party }

/-- An operand is a queue register. -/
def Oper.queued : Oper → Bool
  | .queue _ _ => true
  | _ => false

/-- The task with its queue registers released: streams stop, and commands still queued push and pop no more (R119, R322).
The commands of a Faulted channel never complete (R238); they go with the task. -/
def Task.releaseQueues (x : Task) : Task :=
  { x with
    queues := []
    chans := x.chans.map fun c => (c.1, { c.2 with
      stream := none
      cmds := if c.2.faulted then [] else c.2.cmds.map fun k => if k.d.queued then { k with freed := true } else k }) }

/-- The core's vector commands of a task whose queue registers are released. -/
def State.releaseVector (s : State) (t : Nat) : State :=
  let c := (s.task t).core
  s.setCore c { s.core c with vq := (s.core c).vq.map fun v =>
    if v.hd.task == t && (v.d.queued || v.a.queued || v.b.queued) then { v with freed := true } else v }

/-- An ended task leaves: its number becomes free; its commands that still run are carried under another number (R280, R315,
R322). A task that ended without a fault and has none left is complete. [DEDUCED: notes/assumptions/53.md] -/
def State.retireTask (s : State) (t : Nat) (faulted : Bool) : State :=
  let x := s.task t
  let x := if x.life == .saved then { x with chans := [] } else x
  let off (d : Strand) : Strand := { d with state := .idle, wait := none, held := none, stop := .none }
  let s := (s.releaseVector t).setTask t { x.releaseQueues with
    main := off x.main, vector := off x.vector, copy := off x.copy, matrix := off x.matrix,
    life := .ended, sent := none, stopReq := none, image := none, frozenBy := none, savedVec := [], savedMat := [],
    savedCarve := [], savedSlots := [], savedAccs := [], savedRes := [], orphaned := faulted || x.orphaned }
  let s := { s with dies := s.dies.map fun (d : Nat × Die) => (d.1, { d.2 with monitor := d.2.monitor.filter fun e => e.task != t }) }
  if (s.cmdHeads t).isEmpty then
    let s := s.dropLease t
    let s := if faulted || x.orphaned then s else s.countComplete x (s.taskParty t 0)
    s.eraseTask t
  else
    let b := s.zombieKey t
    { s.renameTask t b with nextZombie := s.nextZombie + 1 }

/-- The faults of channels that no instruction has observed at the end of a task: their commands never complete, and the queue
has the fault (R238, R315, R322). -/
def State.orphanChannels (s : State) (t : Nat) : State :=
  (s.task t).chans.foldl (fun (s : State) c =>
    match c.2.faulted, c.2.cmds with
    | true, k :: _ => s.orphanFault k.hd 30 (copyFaultValue c.1 c.2)
    | _, _ => s) s

/-- The end of a task (R280, R314, R322, R337): its strands' accesses perform; charge, residency, group, slot. -/
def State.endTask (s : State) (t : Nat) (faulted : Bool) : State :=
  let s := if faulted then s else s.orphanChannels t
  ((((s.drainTask t).chargeTask t).standEntries t).endMember t).retireTask t faulted

/-! ## A task's fault -/

/-- A task whose strands have ended at once (R280). -/
def Task.strandsEnd (x : Task) : Task :=
  let off (d : Strand) : Strand := { d with state := .idle, wait := none, held := none, stop := .none }
  { x with main := off x.main, vector := off x.vector, copy := off x.copy, matrix := off x.matrix }

/-- A task fault (R280, R341): the queue is Faulted, the record is written and the task ends at once. In a group the fault is
noted: the other live members end in the same cycle, when it is over, and the records are written then. -/
def State.taskFault (s : State) (t : Nat) (f : FaultCause) : State :=
  let x := s.task t
  let s := s.updLaunch x.launch fun l => { l with faulted := true }
  let s := s.faultQueue x.queue x.launch
  match x.group with
  | none =>
    let s := s.putRecord x.queue (s.taskRecord f x.index x.launch x.deliveries x.dropped)
    s.endTask t true
  | some g =>
    let gr := s.group g
    let s := s.setTask t x.strandsEnd
    if gr.faults.any fun e => e.1 == x.member then s else s.setGroup g { gr with faults := gr.faults ++ [(x.member, f)] }

/-- The end of the cycle in which members of a group have faulted (R341): the records in increasing member index, of a faulting
member with its own cause and of every other with that of the lowest-indexed one, and the end of every live member. -/
def State.endGroup (s : State) (g : Nat) : State :=
  let gr := s.group g
  match (List.range 16).findSome? fun m => gr.faults.find? fun e => e.1 == m with
  | none => s
  | some lead =>
    let x := s.task (Assoc.getD gr.live lead.1 0)
    let cause (m : Nat) : FaultCause := match gr.faults.find? fun e => e.1 == m with | some e => e.2 | none => lead.2
    let s := (s.memberRecords g).foldl
      (fun s r => s.putRecord x.queue (s.taskRecord (cause r.member) r.index x.launch r.dels r.dropped)) s
    gr.live.foldl (fun s e => s.endTask e.2 true) s

/-- The groups whose members have faulted in the cycle that is over end. -/
def State.endGroups (s : State) : State :=
  (s.groups.filter fun g => !g.2.faults.isEmpty).foldl (fun (s : State) g => s.endGroup g.1) s

/-! ## Taking a trap, and the return from one -/

/-- A trap is delivered to the handler (R278, R279). -/
def State.delivers (s : State) (r : StrandRef) (cause : Nat) : Bool :=
  let c := s.ctx (s.task r.task).ctx
  c.trapmask.getLsbD cause && c.tvec != 0 && !(s.strand r).ih && cause != 36 && cause != 37

/-- The strand at its handler (R278). -/
def Strand.enter (d : Strand) (tvec : DWord) (cause : Nat) (value tpc data : DWord) : Strand :=
  { d with
    tcause := BitVec.ofNat 64 cause, tval := value, tpc := tpc, tdata := data,
    pp := d.lvl, ih := true, lvl := true, pc := tvec, state := .running, wait := none, held := none }

/-- TakeTrap of R278: delivery to the strand's handler, or a task fault. -/
def State.takeTrap (s : State) (r : StrandRef) (cause : Nat) (value tpc data : DWord) : State :=
  let d := s.strand r
  if s.delivers r cause then s.setStrand r (d.enter (s.ctx (s.task r.task).ctx).tvec cause value tpc data)
  else s.taskFault r.task ⟨cause, value, tpc, s.strandParty r, d.lvl⟩

/-- The return from a trap (R283): PC, level and IH. -/
def Strand.leave (d : Strand) : Strand := { d with pc := d.tpc, lvl := d.pp, ih := false }

/-! ## Running one instruction of a strand -/

/-- Physical number of a predicate (R75). -/
def physP (d : Strand) (n : Nat) : Nat := if n < 64 then n else 64 + (n - 64 + d.bp.toNat) % 32

/-- A predicate's value: p0 reads 1 (R93, R107). -/
def Strand.pred (d : Strand) (n : Nat) : Bool :=
  if physP d n = 0 then true else Assoc.getD d.p (physP d n) false

/-- The guard value (R61). -/
def Strand.guardHolds (d : Strand) (g : Guard) : Bool :=
  if g.pr = 127 then true else d.pred g.pr.toNat != g.pn

/-- The instruction lies in the section in force, or no section rule applies (R82), as before the first header. [DEDUCED: notes/assumptions/12.md] -/
def Strand.inSection (d : Strand) (size : Nat) : Bool :=
  match d.sect with
  | none => true
  | some (base, words) =>
    d.ih || (base.toNat ≤ d.pc.toNat && d.pc.toNat + size ≤ base.toNat + 4 * words.toNat)

/-- The checks of R82 and Table 3-15, in order: the trap the encoding gives, if any. A header is exempt from the section
bounds. [DEDUCED: notes/assumptions/14.md] -/
def encodingTrap (v : View) (d : Strand) (u : UnitId) : Option Nat :=
  match v with
  | .header _ => if d.ih then some 1 else none
  | _ =>
    if !d.inSection v.size then some 1
    else if !v.fieldsOk then some 1
    else
      match v.op? with
      | none => none
      | some op =>
        if !strandOk op u then some 3
        else if v.privileged && !d.lvl then some 4
        else if !v.operandsOk then some 2
        else none

/-- The start or resume record of a task's main strand (R405), written at its first instruction.
[DEDUCED: notes/assumptions/85.md] -/
def State.startRecord (s : State) (r : StrandRef) : State :=
  let d := s.strand r
  if r.unit == .main && d.fresh then
    let x := s.task r.task
    let l := s.launch x.launch
    let e : Edge :=
      if x.complete then
        { waiter := s.strandParty r, kind := 18, prod := x.oldParty, arrive := s.cycle, obj := BitVec.ofNat 64 x.savedAt }
      else
        { waiter := s.strandParty r, kind := 15, prod := l.party, arrive := s.cycle,
          waited := s.cycle - l.accepted, obj := BitVec.ofNat 64 l.seq }
    (s.taskEdge r.task e).setStrand r { d with fresh := false }
  else s

/-- The strand's wait has ended and the instruction issues: its record is written and the strand runs (R94, R403). -/
def State.issue (s : State) (r : StrandRef) : State :=
  let s := s.startRecord r
  let d := s.strand r
  match d.wait with
  | none => s.setStrand r { d with state := .running }
  | some w => (s.endWait r w).setStrand r { d with state := .running, wait := none }

/-- The pager's party: the main strand of the core it runs on (R365), in slot 0. [DESIGN CHOICE: notes/assumptions/100.md] -/
def State.pagerParty (s : State) (c : Nat) : Party :=
  partyOf s.cardUsed (Config.homeDie (s.ctx c).ptroot.toNat * 256 + 128 + 31 * 4 + 3) 0 0

/-- Who serves a fault of a context at an address: its pager's main strand, or the host (Table 18-2), as the mode was when the
fault was posted (R16). [DESIGN CHOICE: notes/assumptions/100.md] -/
def State.faultServer (s : State) (ctx : Nat) (va : DWord) : Party :=
  let c := s.ctx ctx
  let host := match c.posts.find? fun p => p.vpn == vpnOf va with
    | some p => p.hostMode
    | none => c.modes.getLsbD 3
  if host then partyOf s.cardUsed 0 7 0 else s.pagerParty ctx

/-- The producer of a wait as far as it is known when the wait begins (Table 18-2); events that finish something the wait is
on replace it. A link party has die 0. [DESIGN CHOICE: notes/assumptions/99.md] -/
def State.firstProducer (s : State) (r : StrandRef) (y : Why) : Party :=
  let code (n : Nat) : Party := if n < 4 then s.taskParty r.task n else s.taskParty r.task 2
  match y with
  | .sections _ (u, _) => s.taskParty r.task u.code
  | .pop q => code ((s.task r.task).queueReg q).prod.toNat
  | .push q => code ((s.task r.task).queueReg q).cons.toNat
  | .transfer _ _ => s.taskParty r.task 2
  | .engineQueue u _ => s.taskParty r.task u
  | .page va | .frame _ va => s.faultServer (s.task r.task).ctx va
  | .port n => partyOf s.cardUsed 0 6 n
  | _ => 0

/-- The strand stalled on `y`: a wait already on `y` goes on; a wait on something else ends with its record (R94).
[DEDUCED: notes/assumptions/11.md] -/
def State.stall (s : State) (r : StrandRef) (y : Why) : State :=
  let d := s.strand r
  let w : Wait := { why := y, since := s.cycle, prod := s.firstProducer r y }
  match d.wait with
  | some o =>
    if o.why.same y then s.setStrand r { d with state := .stalled }
    else
      let s := s.endWait r o
      s.setStrand r { d with state := .stalled, wait := some w }
  | none => s.setStrand r { d with state := .stalled, wait := some w }

/-- A strand with a stop requested and no loop halts at an instruction boundary (R288). A task that has ended has none. -/
def State.boundary (s : State) (r : StrandRef) : State :=
  match Assoc.get? s.tasks r.task with
  | none => s
  | some x =>
    let d := x.strand r.unit
    if x.stopReq.isSome && (d.loops.isEmpty || d.state == .rendezvous) && d.live && d.stop == .none then s.setStrand r { d with stop := .boundary } else s

/-- The strand after an instruction that retired: where it goes next. [DEDUCED: notes/assumptions/11.md] -/
def State.follow (s : State) (r : StrandRef) (f : Flow) (pc : DWord) (size : Nat) : State :=
  match f with
  | .next => s.setStrand r { s.strand r with pc := pc + BitVec.ofNat 64 size, held := none }
  | .jump t => s.setStrand r { s.strand r with pc := t, held := none }
  | .gone => s

/-- The instruction issues now, for an effect that ends or leaves the strand itself. -/
def issueNow : M Unit := modify fun s => s.issue s.cur

/-- One instruction of the current strand: the encoding checks, the guard, the effect, and what follows from how the effect
ends. A guarded-off instruction only advances (R61). A trap leaves the state of R56 but for what `keep` names. -/
def runStrand (v : View) (body : M Flow) (s : State) : Host.Outcome State Fault Refusal :=
  let r := s.cur
  let d := s.strand r
  match encodingTrap v d r.unit with
  | some cause => .next (((s.issue r).takeTrap r cause (v.firstWord.zeroExtend 64) d.pc 0).boundary r)
  | none =>
    if v.guard?.any fun g => !d.guardHolds g then .next (((s.issue r).follow r .next d.pc v.size).boundary r)
    else
      match body s with
      | .ok .gone s' => .next s'
      | .ok f s' => .next (((s'.issue r).follow r f d.pc v.size).boundary r)
      | .error (.stall y keep) s' => .next ((if keep then s' else s).stall r y)
      | .error (.trap t) s' => .next ((((if t.keep then s' else s).issue r).takeTrap r t.cause
          (t.value.getD (v.firstWord.zeroExtend 64)) (t.tpc.getD d.pc) t.data).boundary r)

end Sys2Proof.Machine
end

