-- ==== Sys2Proof/Machine/Operands.lean ====
section
/-! DEFINITION. Operand forms: registers under rotation (R75), queue registers (R113 to R118), loop indexes (R97), predicates
(R66), spans (R152 to R154), immediates and literals (R62, R63, R98). -/

namespace Sys2Proof.Machine

/-! ## Registers -/

/-- Physical number of a g register (R75). -/
def physG (d : Strand) (n : Nat) : Nat := if n < 32 then n else 32 + (n - 32 + d.bg.toNat) % 32

/-- Physical number of a span register (R75). -/
def physS (d : Strand) (n : Nat) : Nat := if n < 256 then n else 256 + (n - 256 + d.bs.toNat) % 128

/-- Value of logical g register `n`; g0 is never written, so it reads 0. -/
def Strand.readG (d : Strand) (n : Nat) : DWord := Assoc.getD d.g (physG d n) 0

/-- The strand with logical g register `n` written; g0 discards (R64). -/
def Strand.writeG (d : Strand) (n : Nat) (v : DWord) : Strand :=
  if n = 0 then d else { d with g := Assoc.set d.g (physG d n) v }

/-- The strand with logical predicate `n` written; p0 discards (R66). -/
def Strand.writeP (d : Strand) (n : Nat) (b : Bool) : Strand :=
  if n = 0 then d else { d with p := Assoc.set d.p (physP d n) b }

/-- Descriptor of logical span register `n`. -/
def State.readSpan (s : State) (n : Nat) : DWord := Assoc.getD s.curTask.spans (physS s.curStrand n) 0

/-- The state with logical span register `n` written; bits 63:61 are not stored (R152). -/
def State.writeSpan (s : State) (n : Nat) (v : DWord) : State :=
  s.setTask s.cur.task
    { s.curTask with spans := Assoc.set s.curTask.spans (physS s.curStrand n) (v &&& 0x1FFFFFFFFFFFFFFF) }

/-- Loop index of the k-th entry from the top (R97). [DEDUCED: notes/assumptions/13.md] -/
def Strand.loopIndex (d : Strand) (k : Nat) : DWord :=
  match d.loops[k]? with
  | some (_, i) => i.zeroExtend 64
  | none => 0

/-- A load of the strand still has to write this g register (R96, R138). [DEDUCED: notes/assumptions/6.md] -/
def Strand.pendingG (d : Strand) (n : Nat) : Bool := n != 0 && d.loads.any fun l => l.dest == .reg (physG d n)

/-! ## Queue registers -/

/-- Bytes of an element. -/
def QueueReg.bytes (q : QueueReg) : Nat := 2 ^ q.size.toNat

/-- Elements of a beat. -/
def QueueReg.per (q : QueueReg) : Nat := 256 / q.bytes

/-- Elements held. -/
def QueueReg.count (q : QueueReg) : Nat := (q.beats.map fun b => b.1.length).sum

/-- The newest beat takes more elements. -/
def QueueReg.isOpen (q : QueueReg) : Bool :=
  match q.beats.getLast? with
  | some b => !b.2
  | none => false

/-- Elements that a producer may push now (R113, R114): the free beats and the rest of the open one. -/
def QueueReg.room (q : QueueReg) : Nat :=
  if 4 < q.beats.length then 0
  else (4 - q.beats.length) * q.per + (if q.isOpen then q.per - q.fill else 0)

/-- The head element. -/
def QueueReg.head (q : QueueReg) : DWord :=
  match q.beats.find? fun b => !b.1.isEmpty with
  | some b => b.1.headD 0
  | none => 0

/-- Beats after the head element is popped: a beat that takes no more and is empty is free (R114). -/
def popBeats : List (List DWord × Bool) → List (List DWord × Bool)
  | [] => []
  | (l, c) :: t => if c && l.length ≤ 1 then t else (l.tail, c) :: t

/-- The register after its head element is popped. -/
def QueueReg.pop (q : QueueReg) : QueueReg := { q with beats := popBeats q.beats }

/-- The low bits of a value that an element of the register keeps (R114). -/
def QueueReg.clip (q : QueueReg) (v : DWord) : DWord := BitVec.ofNat 64 (v.toNat % 2 ^ (8 * q.bytes))

/-- Beats with an element added to the last. -/
def pushLast (v : DWord) (c : Bool) : List (List DWord × Bool) → List (List DWord × Bool)
  | [] => []
  | [b] => [(b.1 ++ [v], c)]
  | b :: t => b :: pushLast v c t

/-- The register after one element is pushed (R114). -/
def QueueReg.push (q : QueueReg) (v : DWord) : QueueReg :=
  if q.isOpen then { q with beats := pushLast (q.clip v) (q.fill + 1 == q.per) q.beats, fill := q.fill + 1 }
  else { q with beats := q.beats ++ [([q.clip v], q.per == 1)], fill := 1 }

/-- The register after a copy channel pushes one beat that holds these elements and takes no more (R114, R232). An open beat
takes no more either. -/
def QueueReg.pushBeat (q : QueueReg) (vs : List DWord) : QueueReg :=
  if vs.isEmpty then q
  else { q with beats := q.beats.map (fun b => (b.1, true)) ++ [(vs.map q.clip, true)], fill := q.per }

/-- Every element held, oldest first. -/
def QueueReg.all (q : QueueReg) : List DWord := q.beats.flatMap (·.1)

/-- The party of a binding code is live (R115, R116): a live strand, or a channel while the register is bound and its stream
not stopped. -/
def Task.endLive (x : Task) (q : QueueReg) (code : Nat) : Bool :=
  if code < 4 then q.bind != .unbound && (x.strand (unitOf code)).live
  else q.bind == .bound || q.bind == .stream

/-- The trap that an empty queue gives its reader, when it can no longer be filled (R115, R238, R251). -/
def Task.popTrap (x : Task) (me : Nat) (q : QueueReg) : Option TrapInfo :=
  if 0 < q.count then none
  else
    match q.faulted with
    | some v => some { cause := 30, value := some v }
    | none => if q.prod.toNat == me || !x.endLive q q.prod.toNat then some { cause := 11 } else none

/-- The trap that a full queue gives its writer, when it can no longer be drained (R116); `extra` is room that a pop of the
same instruction makes. -/
def Task.pushTrap (x : Task) (me extra : Nat) (q : QueueReg) : Option TrapInfo :=
  if 0 < q.room + extra then none
  else if q.cons.toNat == me || !x.endLive q q.cons.toNat then some { cause := 12 } else none

/-- The trap that a stall turns into when an end of its queue stops being live (R115, R116): `dead` says of a queue and a
binding code whether that end has. -/
def Task.endDoom (x : Task) (dead : Nat → Nat → Bool) (y : Why) : Option (Nat × Option DWord) :=
  match y with
  | .pop q =>
    let r := x.queueReg q
    if dead q r.prod.toNat && r.count == 0 then
      (match r.faulted with
        | some v => some (30, some v)
        | none => some (11, none))
    else none
  | .push q =>
    let r := x.queueReg q
    if dead q r.cons.toNat && r.room == 0 then some (12, none) else none
  | _ => none

/-- The strand with its stall turned into a trap, which it takes at its next turn whatever happens before. -/
def Strand.doom (f : Why → Option (Nat × Option DWord)) (d : Strand) : Strand :=
  match d.wait with
  | some w =>
    if d.state == .stalled && d.held.isNone then { d with held := (f w.why).map fun e => .doom e.1 e.2 } else d
  | none => d

/-- The task with the stalls of its strands that `f` picks turned into traps. -/
def Task.doom (x : Task) (f : Why → Option (Nat × Option DWord)) : Task :=
  { x with main := x.main.doom f, vector := x.vector.doom f, copy := x.copy.doom f, matrix := x.matrix.doom f }

/-- The sources read element by element: A, B, and D of `vfma`. -/
def VecCmd.streamed (c : VecCmd) : List Oper := [c.a, c.b] ++ (if c.hd.op = 0x93 then [c.d] else [])

/-- A source queue of a list is popped: some operand that names it is no peek (R158). -/
def popsQueue (os : List Oper) (q : Nat) : Bool := os.any fun o => match o with | .queue k peek => k == q && !peek | _ => false

/-- The vector command with its stall turned into a trap by the same rule (R159). -/
def VecCmd.lose (x : Task) (dead : Nat → Nat → Bool) (c : VecCmd) : VecCmd :=
  let pos := match c.run with | some r => r.pos | none => 0
  match c.hd.wait.map Wait.why with
  | some (.pop q) =>
    let r := x.queueReg q
    if dead q r.prod.toNat && r.count < (if popsQueue c.streamed q then 1 else pos + 1) then { c with lost := true } else c
  | some (.push q) =>
    let r := x.queueReg q
    if dead q r.cons.toNat && r.room == 0 then { c with lost := true } else c
  | _ => c

/-- The state after ends of a task's queues have stopped being live: the stalls on them turn into traps. -/
def State.dropEnds (s : State) (t : Nat) (dead : Nat → Nat → Bool) : State :=
  let x := s.task t
  let k := s.core x.core
  (s.setTask t (x.doom (x.endDoom dead))).setCore x.core
    { k with vq := k.vq.map fun c => if c.hd.task == t then c.lose x dead else c }

/-- The ends that a strand is. -/
def strandEnd (u : UnitId) (_ code : Nat) : Bool := code == u.code

/-- The ends of the strands of a task that have joined it here: those in Rendezvous, which become Idle. -/
def Task.joinEnds (x : Task) (us : List UnitId) (_ code : Nat) : Bool :=
  us.any fun u => u.code == code && (x.strand u).state == .rendezvous

/-- Queue number of a scalar code that names one (Table 3-6). -/
def queueOf (c : Nat) : Option Nat := if 64 ≤ c ∧ c ≤ 95 then some ((c - 64) % 16) else none

/-- The code pops. -/
def isPopCode (c : Nat) : Bool := 64 ≤ c && c ≤ 79

/-- Distinct queues among source codes. -/
def queuesOf (codes : List Nat) : List Nat := (codes.filterMap queueOf).eraseDups

/-- Value of a scalar source code, queues by their heads (R64, R114, R118). [DEDUCED: notes/assumptions/13.md] -/
def State.source (s : State) (c : Nat) : DWord :=
  if c ≤ 63 then s.curStrand.readG c
  else match queueOf c with
    | some q => (s.curTask.queueReg q).head
    | none => s.curStrand.loopIndex (c - 96)

/-- The trap or stall of QueueIssue (R115 to R118), or of a register whose load has not returned (R96): none when the
instruction may issue. Traps come before stalls. [DEDUCED: notes/assumptions/14.md] -/
def State.operandStop (s : State) (codes : List Nat) (dst : Option Nat) : Option Stop :=
  let x := s.curTask
  let d := s.curStrand
  let me := s.cur.unit.code
  let qs := queuesOf codes
  let dq := dst.bind queueOf
  let srcBad := qs.any fun q => (x.queueReg q).bind == .unbound || (x.queueReg q).cons.toNat != me
  let dstBad := match dq with
    | some q => (x.queueReg q).bind == .unbound || (x.queueReg q).prod.toNat != me
    | none => false
  let extra (q : Nat) : Nat := if codes.any fun c => isPopCode c && queueOf c == some q then 1 else 0
  let doomed := match d.held with | some (.doom cause v) => some (cause, v) | _ => none
  if doomed.isSome then doomed.map fun e => .trap { cause := e.1, value := e.2 }
  else if srcBad || dstBad then some (.trap { cause := 10 })
  else
    match qs.findSome? fun q => x.popTrap me (x.queueReg q) with
    | some t => some (.trap t)
    | none =>
      match dq.bind fun q => x.pushTrap me (extra q) (x.queueReg q) with
      | some t => some (.trap t)
      | none =>
        match qs.find? fun q => (x.queueReg q).count == 0 with
        | some q => some (.stall (.pop q) false)
        | none =>
          match dq with
          | some q =>
            if (x.queueReg q).room + extra q == 0 then some (.stall (.push q) false)
            else if codes.any fun c => c ≤ 63 && d.pendingG c then some (.stall .register false) else none
          | none =>
            if (codes.any fun c => c ≤ 63 && d.pendingG c) ||
                (match dst with | some c => c ≤ 63 && d.pendingG c | none => false)
            then some (.stall .register false)
            else none

/-- The state after the queues that the codes pop are popped once each (R118). -/
def State.popCodes (s : State) (codes : List Nat) : State :=
  (queuesOf (codes.filter isPopCode)).foldl
    (fun s q => s.setTask s.cur.task (s.curTask.setQueueReg q (s.curTask.queueReg q).pop)) s

/-- QueueIssue of R118 for the source codes and the destination code of an instruction: the values of the sources. -/
def operands (codes : List Nat) (dst : Option Nat) : M (List DWord) := fun s =>
  match s.operandStop codes dst with
  | some e => .error e s
  | none => .ok (codes.map s.source) (s.popCodes codes)

/-- The checks and stalls of QueueIssue without its pops: the values of the sources. The pops follow by `popNow`. -/
def peekOperands (codes : List Nat) (dst : Option Nat) : M (List DWord) := fun s =>
  match s.operandStop codes dst with
  | some e => .error e s
  | none => .ok (codes.map s.source) s

/-- The pops of QueueIssue. -/
def popNow (codes : List Nat) : M Unit := modify fun s => s.popCodes codes

/-- The state with a scalar destination written: a g register, or a push (R64, R114). -/
def State.writeDst (s : State) (c : Nat) (v : DWord) : State :=
  match queueOf c with
  | some q => s.setTask s.cur.task (s.curTask.setQueueReg q ((s.curTask.queueReg q).push v))
  | none => s.setStrand s.cur (s.curStrand.writeG c v)

/-- Write a scalar destination. -/
def writeDst (c : Nat) (v : DWord) : M Unit := modify fun s => s.writeDst c v

/-- Write a predicate. -/
def writePred (n : Nat) (b : Bool) : M Unit := modifyCur fun d => d.writeP n b

/-- The scalar code of operand B, if it names a register (R62, R63). -/
def Src.codes : Src → List Nat
  | .code c => [c.toNat]
  | _ => []

/-- Value of operand B (R98), `v` being the value of its code. -/
def srcVal (b : Src) (v : DWord) : DWord :=
  match b with
  | .code _ => v
  | .imm i => i.signExtend 64
  | .lit w => w.signExtend 64

/-- The second of the values that `operands` gave, or 0. -/
def second (vs : List DWord) : DWord := vs.getD 1 0

/-- Operands A and B of an instruction whose B is OpB() (R98). -/
def operandsAB (a : BitVec 9) (b : Src) (dst : Option Nat) : M (DWord × DWord) := do
  let vs ← operands (a.toNat :: Src.codes b) dst
  pure (vs.headD 0, srcVal b (second vs))

/-- Operand B alone (R98). -/
def operandB (b : Src) (dst : Option Nat) : M DWord := do
  let vs ← operands (Src.codes b) dst
  pure (srcVal b (vs.headD 0))

end Sys2Proof.Machine
end

