-- ==== Sys2Proof/Machine/Formats.lean ====
section
/-! DEFINITION. Format tags (R20), element packing (R21, R22, R36), and exact values of elements: binary formats (R23), T2
(R25), MASK1 (R27), D8 (R28, R29), block scales (R32, R33). -/

namespace Sys2Proof.Machine

/-! ## Exact values -/

/-- An exact value: NaN or infinity with a sign, or a rational number with a sign (zero keeps it). -/
inductive Val where
  | nan (neg : Bool)
  | inf (neg : Bool)
  | num (neg : Bool) (n d : Nat)
  deriving DecidableEq, Repr, Inhabited

/-- Sign of a value. -/
def Val.neg : Val → Bool
  | .nan s | .inf s | .num s _ _ => s

def Val.isNan : Val → Bool
  | .nan _ => true
  | _ => false

def Val.isInf : Val → Bool
  | .inf _ => true
  | _ => false

def Val.isZero : Val → Bool
  | .num _ n _ => n == 0
  | _ => false

/-- The value with a sign. -/
def Val.withSign (s : Bool) : Val → Val
  | .nan _ => .nan s
  | .inf _ => .inf s
  | .num _ n d => .num s n d

/-- Zero with a sign, and one. -/
def Val.zero (s : Bool) : Val := .num s 0 1
def Val.one : Val := .num false 1 1

/-- The value of an integer. -/
def Val.ofInt (i : Int) : Val := .num (i < 0) i.natAbs 1

/-- A dyadic number n × 2^e. -/
def Val.dyadic (s : Bool) (n : Nat) (e : Int) : Val :=
  if 0 ≤ e then .num s (n * 2 ^ e.toNat) 1 else .num s n (2 ^ (-e).toNat)

/-- Signed numerator. -/
def signedOf (s : Bool) (n : Nat) : Int := if s then -(n : Int) else n

/-- The finite value with a signed numerator; an exact zero has the sign given. -/
def Val.ofSigned (i : Int) (d : Nat) (zeroSign : Bool) : Val :=
  if i = 0 then .num zeroSign 0 1 else .num (i < 0) i.natAbs d

/-- Exact sum; an exact zero sum of numbers not both of sign `zs` has sign `zs`. Invalid sums give NaN. -/
def Val.add (zs : Bool) : Val → Val → Val
  | .num s n d, .num t m e =>
    if n = 0 ∧ m = 0 then .num (if s = t then s else zs) 0 1
    else if d = e then .ofSigned (signedOf s n + signedOf t m) d zs
    else if e % d = 0 then .ofSigned (signedOf s n * (e / d : Nat) + signedOf t m) e zs
    else if d % e = 0 then .ofSigned (signedOf s n + signedOf t m * (d / e : Nat)) d zs
    else .ofSigned (signedOf s n * e + signedOf t m * d) (d * e) zs
  | .nan _, _ | _, .nan _ => .nan false
  | .inf s, .inf t => if s = t then .inf s else .nan false
  | .inf s, _ => .inf s
  | _, .inf t => .inf t

/-- The negated value; a NaN keeps its sign. -/
def Val.negate : Val → Val
  | .nan s => .nan s
  | .inf s => .inf !s
  | .num s n d => .num (!s) n d

/-- The absolute value. -/
def Val.abs (v : Val) : Val := v.withSign false

/-- Exact product. Invalid products give NaN. -/
def Val.mul : Val → Val → Val
  | .num s n d, .num t m e => .num (s != t) (n * m) (d * e)
  | .nan _, _ | _, .nan _ => .nan false
  | .inf s, .num t m _ => if m = 0 then .nan false else .inf (s != t)
  | .num s n _, .inf t => if n = 0 then .nan false else .inf (s != t)
  | .inf s, .inf t => .inf (s != t)

/-- Exact quotient. Invalid quotients give NaN; a number by zero gives infinity. -/
def Val.div : Val → Val → Val
  | .num s n d, .num t m e =>
    if m = 0 then (if n = 0 then .nan false else .inf (s != t)) else .num (s != t) (n * e) (d * m)
  | .nan _, _ | _, .nan _ => .nan false
  | .inf s, .num t _ _ => .inf (s != t)
  | .num s _ _, .inf t => .num (s != t) 0 1
  | .inf _, .inf _ => .nan false

/-- The order of two values that are not NaN: less, equal. -/
def Val.key : Val → Int × Int
  | .nan _ => (0, 1)
  | .inf s => (if s then -1 else 1, 0)
  | .num s n d => (signedOf s n, d)

def Val.lt (a b : Val) : Bool :=
  let x := a.key
  let y := b.key
  if a.isInf && b.isInf then x.1 < y.1
  else if a.isInf then x.1 < 0
  else if b.isInf then 0 < y.1
  else x.1 * y.2 < y.1 * x.2

def Val.eq (a b : Val) : Bool := !a.lt b && !b.lt a

/-- The value × 2^e. -/
def Val.scale (v : Val) (e : Int) : Val :=
  match v with
  | .num s n d => if 0 ≤ e then .num s (n * 2 ^ e.toNat) d else .num s n (d * 2 ^ (-e).toNat)
  | _ => v

/-- Floor of the base-2 logarithm of n/d, both positive. -/
def log2Ratio (n d : Nat) : Int :=
  let k : Int := (n.log2 : Int) - d.log2
  if (if 0 ≤ k then d * 2 ^ k.toNat ≤ n else d ≤ n * 2 ^ (-k).toNat) then k else k - 1

/-! ## Formats -/

/-- Kinds of element format (Table 2-1). `bin ew mw low inf nan`: exponent and mantissa widths, unused low bits of the
container, and whether it has infinity and NaN. -/
inductive Kind where
  | bin (ew mw low : Nat) (inf nan : Bool)
  | d8
  | int (signed : Bool) (bits : Nat)
  | t2
  | mask
  | book (bits : Nat)
  deriving DecidableEq, Repr, Inhabited

/-- The element format of a tag: block-scaled tags map to theirs; none for a reserved tag (R20). -/
def kindOf (tag : Nat) : Option Kind :=
  match tag with
  | 0x00 => some (.bin 8 23 0 true true)
  | 0x01 => some (.bin 8 10 13 true true)
  | 0x02 => some (.bin 5 10 0 true true)
  | 0x03 => some (.bin 8 7 0 true true)
  | 0x04 | 0x11 => some (.bin 5 2 0 true true)
  | 0x05 | 0x10 => some (.bin 4 3 0 false true)
  | 0x06 | 0x13 => some (.bin 3 2 0 false false)
  | 0x07 => some (.bin 2 3 0 false false)
  | 0x08 | 0x12 => some (.bin 2 1 0 false false)
  | 0x09 | 0x14 => some (.int true 8)
  | 0x0A => some (.int false 8)
  | 0x0B | 0x15 => some (.int true 4)
  | 0x0C => some (.int false 4)
  | 0x0D => some .t2
  | 0x0E | 0x0F => some .d8
  | 0x16 => some (.book 3)
  | 0x17 => some (.book 4)
  | 0x18 => some (.int true 32)
  | 0x19 => some (.int false 32)
  | 0x1A => some (.int true 16)
  | 0x1B => some (.int false 16)
  | 0x1C => some (.bin 11 52 0 true true)
  | 0x1D => some .mask
  | _ => none

/-- A tag of a block-scaled format (R32). -/
def isBlock (tag : Nat) : Bool := 0x0F ≤ tag && tag ≤ 0x15

/-- A codebook tag (R36). -/
def isBook (tag : Nat) : Bool := tag == 0x16 || tag == 0x17

/-- A tag is reserved (R20). -/
def reservedTag (tag : Nat) : Bool := (kindOf tag).isNone

/-- An integer format of two's complement or unsigned numbers. -/
def isInt (tag : Nat) : Bool := match kindOf tag with | some (.int _ _) => true | _ => false

/-- The formats whose subnormals DAZ and FZ flush (R43). [DEDUCED: notes/assumptions/16.md] -/
def flushes (tag : Nat) : Bool := tag ≤ 3 || tag == 0x1C

/-- Bits of an element where elements lie packed (R21, R36). -/
def elemBits (tag : Nat) : Nat :=
  match kindOf tag with
  | some (.bin ew mw low _ _) => let w := 1 + ew + mw + low; if w ≤ 4 then 4 else if w ≤ 8 then 8 else w
  | some .d8 => 8
  | some (.int _ b) => b
  | some .t2 => 2
  | some .mask => 1
  | some (.book b) => b
  | none => 8

/-- Bytes that `n` elements take, the last one whole. -/
def elemBytes (tag n : Nat) : Nat := (n * elemBits tag + 7) / 8

/-- Bits lo + n - 1 to lo of a number. -/
def field (v lo n : Nat) : Nat := v / 2 ^ lo % 2 ^ n

/-- Exponent bias of a binary format with `ew` exponent bits (Table 2-1). -/
def biasOf (ew : Nat) : Nat := 2 ^ (ew - 1) - 1

/-- The code of the largest finite magnitude. -/
def maxCode (ew mw : Nat) (inf nan : Bool) : Nat :=
  if inf then (2 ^ ew - 1) * 2 ^ mw - 1 else if nan then 2 ^ (ew + mw) - 2 else 2 ^ (ew + mw) - 1

/-- The value of a binary element (R23): `x` holds sign, exponent and mantissa without the unused low bits. -/
def decodeBin (ew mw : Nat) (inf nan daz : Bool) (x : Nat) : Val :=
  let s := field x (ew + mw) 1 == 1
  let e := field x mw ew
  let m := field x 0 mw
  let emin : Int := 1 - (biasOf ew : Int)
  if e = 0 then (if daz then .num s 0 1 else .dyadic s m (emin - mw))
  else if inf && e == 2 ^ ew - 1 then (if m = 0 then .inf s else .nan s)
  else if !inf && nan && field x 0 (ew + mw) == 2 ^ (ew + mw) - 1 then .nan s
  else .dyadic s (2 ^ mw + m) ((e : Int) - 1 + emin - mw)

/-- D8 magnitudes are counted in units of 1 / (16 × 10^14). -/
def d8Unit : Nat := 16 * 10 ^ 14

/-- The magnitude of the low seven bits of a D8 code in units, or none for a code without a finite nonzero value (R28). -/
def d8Mag (c : Nat) : Option Nat :=
  if 0x40 ≤ c then some ((16 + 9 * (c % 16)) * 10 ^ (field c 4 2 + 12))
  else if 0x20 ≤ c then
    let e := field c 2 3
    some ((4 + 9 * (c % 4)) * 4 * 10 ^ (if e < 4 then e + 8 else e + 12))
  else if 0x10 ≤ c then
    let e := field c 0 4
    some (16 * 10 ^ (if e < 8 then e else e + 12))
  else none

/-- The value of a D8 code (R28, R29). -/
def decodeD8 (x : Nat) : Val :=
  let s := field x 7 1 == 1
  let c := x % 128
  match d8Mag c with
  | some m => .num s m d8Unit
  | none => if c = 8 then .inf s else if 8 < c then .nan false else if x % 256 = 0x80 then .nan false else .num s 0 1

/-- Two's complement number of `b` bits. -/
def signedBits (b x : Nat) : Int := if x % 2 ^ b < 2 ^ (b - 1) then (x % 2 ^ b : Nat) else (x % 2 ^ b : Nat) - (2 ^ b : Nat)

/-- The exact value of an element (R22 to R28). A codebook index has no value of its own and reads as its number. -/
def decodeVal (tag : Nat) (daz : Bool) (x : Nat) : Val :=
  match kindOf tag with
  | some (.bin ew mw low inf nan) => decodeBin ew mw inf nan (daz && flushes tag) (x / 2 ^ low)
  | some .d8 => decodeD8 x
  | some (.int true b) => .ofInt (signedBits b x)
  | some (.int false b) => .num false (x % 2 ^ b) 1
  | some .t2 => match x % 4 with
    | 1 => .num false 1 1
    | 3 => .num true 1 1
    | _ => .num false 0 1
  | some .mask => .num false (x % 2) 1
  | some (.book b) => .num false (x % 2 ^ b) 1
  | none => .num false 0 1

/-! ## Packed elements -/

/-- Element `i` of a run of elements that starts at byte `base` (R21, R36). -/
def Memory.elem (m : Memory) (base tag i : Nat) : Nat :=
  let w := elemBits tag
  if 8 ≤ w then m.nat (base + i * (w / 8)) (w / 8)
  else
    let b := i * w
    field (m.nat (base + b / 8) 2) (b % 8) w

/-- An element as it is written: bits 7:6 of a six-bit format (R21) and bits 12:0 of F19 (R22) are zero. -/
def storedBits (tag v : Nat) : Nat :=
  match tag with
  | 0x01 => v / 2 ^ 13 * 2 ^ 13
  | 0x06 | 0x07 | 0x13 => v % 64
  | _ => v

/-- The memory with element `i` written; the other bits of its byte stay (R21). -/
def Memory.setElem (m : Memory) (base tag i v : Nat) : Memory :=
  let w := elemBits tag
  let v := storedBits tag v
  if 8 ≤ w then m.setNat (base + i * (w / 8)) (w / 8) v
  else
    let b := i * w
    let n := if 8 < b % 8 + w then 2 else 1
    let old := m.nat (base + b / 8) n
    let rest := old - field old (b % 8) w * 2 ^ (b % 8)
    m.setNat (base + b / 8) n (rest + v % 2 ^ w * 2 ^ (b % 8))

/-- Bit `i` of a run of bits that starts at byte `base`. -/
def Memory.bit (m : Memory) (base i : Nat) : Bool := (m.byte (base + i / 8)).getLsbD (i % 8)

/-- Element `i` of packed elements in a list of bytes. -/
def listElem (bs : List Byte) (tag i : Nat) : Nat :=
  let w := elemBits tag
  let b := i * w
  field (leNat ((bs.drop (b / 8)).take ((b % 8 + w + 7) / 8))) (b % 8) w

/-! ## Block scales -/

/-- Nibble `n` of a stream of bytes (R33). -/
def nibbleAt (stream : Nat → Byte) (n : Nat) : Nat := field (stream (n / 2)).toNat (4 * (n % 2)) 4

/-- DecodeScales of R33: `n` blocks from block `b`, nibble position `pos` and chain value `prev`. The scales up to a
scale-range fault, and the block of the fault if there is one. -/
def decodeScales (stream : Nat → Byte) (bpb : Nat) (b pos prev : Nat) : Nat → List Nat × Option Nat
  | 0 => ([], none)
  | n + 1 =>
    let prev := if b * bpb % 4096 = 0 then 127 else prev
    let d := nibbleAt stream pos
    if d = 8 then
      let v := nibbleAt stream (pos + 1) + 16 * nibbleAt stream (pos + 2)
      if v = 255 then ([], some b)
      else
        let r := decodeScales stream bpb (b + 1) (pos + 3) v n
        (v :: r.1, r.2)
    else
      let v : Int := (prev : Int) + (if 8 ≤ d then (d : Int) - 16 else d)
      if v < 0 ∨ 254 < v then ([], some b)
      else
        let r := decodeScales stream bpb (b + 1) (pos + 1) v.toNat n
        (v.toNat :: r.1, r.2)

/-- The nibbles that encode scales (R35): blocks from `b` with chain value `prev`. -/
def encodeScales (bpb : Nat) (b prev : Nat) : List Nat → List Nat
  | [] => []
  | v :: t =>
    let prev := if b * bpb % 4096 = 0 then 127 else prev
    let d : Int := (v : Int) - prev
    (if -7 ≤ d ∧ d ≤ 7 then [(d % 16).toNat] else [8, v % 16, v / 16]) ++ encodeScales bpb (b + 1) v t

/-- Nibbles packed into bytes, low nibble first (R33). -/
def packNibbles : List Nat → List Byte
  | [] => []
  | [a] => [BitVec.ofNat 8 a]
  | a :: b :: t => BitVec.ofNat 8 (a + 16 * b) :: packNibbles t

/-- Emax of R35. -/
def emaxOf (tag : Nat) : Nat :=
  match tag with
  | 0x10 => 8
  | 0x11 => 15
  | 0x12 => 2
  | 0x13 => 4
  | 0x14 => 6
  | 0x15 => 2
  | _ => 0

/-- The scale of a block of values (R35): from its largest finite magnitude; the previous scale when it has none. -/
def chooseScale (tag prev : Nat) (vs : List Val) : Nat :=
  let big := vs.foldl (fun (a : Val) v => match v with | .num _ n _ => if n != 0 && a.lt v.abs then v.abs else a | _ => a)
    (.num false 0 1)
  match big with
  | .num _ n d => if n = 0 then prev else (max 0 (min 254 (log2Ratio n d - emaxOf tag + 127))).toNat
  | _ => prev

end Sys2Proof.Machine
end

