-- ==== Sys2Proof/Machine/Flags.lean ====
section
/-! DEFINITION. Flags and modes of `fcsr` (R39 to R43), rounding (R38), ConvertTo and the overflow table (R44 to R47), and
conversions into the integer formats, T2, MASK1 and D8 (R25 to R27, R30). -/

namespace Sys2Proof.Machine

/-- The five sticky flags in the order of Table 2-5: NV, DZ, OF, UF, NX from bit 0. -/
abbrev Flags := BitVec 5

def flagNV : Flags := 1
def flagDZ : Flags := 2
def flagOF : Flags := 4
def flagUF : Flags := 8
def flagNX : Flags := 16

/-- fcsr with flags set (R42). -/
def fcsrWith (f : DWord) (k : Flags) : DWord := f ||| (k.zeroExtend 64 <<< 8)

/-- fcsr after a write: 5, 6 and 7 are not stored in RM, reserved bits are not stored (R39). -/
def fcsrWrite (old new : DWord) : DWord :=
  let v := new &&& 0x1F1F
  if 5 ≤ bitsOf new 0 3 then (v &&& 0x1F18) ||| (old &&& 7) else v

/-- The rounding mode of an instruction with an override (R40, R41): 0 RNE, 1 RTZ, 2 RUP, 3 RDN, 4 RNA, 5 RTO. -/
def modeOf (fcsr : DWord) (rnd : Nat) : Nat := if rnd = 0 then bitsOf fcsr 0 3 else rnd - 1

/-- The modes an instruction of the current strand captures when it issues (R41, R46). -/
def State.capture (s : State) (rnd : Nat) : FpMode :=
  let f := s.curStrand.fcsr
  { rm := modeOf f rnd, fz := f.getLsbD 3, daz := f.getLsbD 4, ovf := s.curCtx.ovf }

/-- Round a quotient q + r/d, 0 ≤ r < d, to an integer in a mode; `neg` is the sign of the value (R38). -/
def roundQuot (rm : Nat) (neg : Bool) (q r d : Nat) : Nat :=
  if r = 0 then q
  else
    match rm with
    | 0 => if 2 * r < d then q else if d < 2 * r then q + 1 else q + q % 2
    | 1 => q
    | 2 => if neg then q else q + 1
    | 3 => if neg then q + 1 else q
    | 4 => if 2 * r < d then q else q + 1
    | _ => if q % 2 = 0 then q + 1 else q

/-- A finite overflow stays finite (R44). -/
def staysFinite (rm : Nat) (neg : Bool) : Bool := rm == 1 || rm == 5 || (rm == 3 && !neg) || (rm == 2 && neg)

/-- The overflow-table entry of a tag (R45). -/
def ovfEntry (t : BitVec 128) (tag : Nat) : Nat := (t.extractLsb' (2 * tag) 2).toNat

/-- Bits of a binary format with a sign in front of a magnitude code. -/
def signCode (ew mw low : Nat) (neg : Bool) (c : Nat) : Nat := ((if neg then 2 ^ (ew + mw) else 0) + c) * 2 ^ low

/-- The canonical NaN of a binary format (Table 2-2). -/
def nanCode (ew mw low : Nat) (inf : Bool) (neg : Bool) : Nat :=
  signCode ew mw low neg (if inf then (2 ^ ew - 1) * 2 ^ mw + 2 ^ (mw - 1) else 2 ^ (ew + mw) - 1)

/-- NaNResult: a NaN written into a binary format: canonical with its sign, or +0 with NV where the format has none (R47). -/
def nanResult (ew mw low : Nat) (inf nan : Bool) (neg : Bool) : Nat × Flags :=
  if nan then (nanCode ew mw low inf neg, 0) else (0, flagNV)

/-- InfResult of R44: an infinite result resolved by the overflow-table entry `k`. -/
def infResult (ew mw low : Nat) (inf nan : Bool) (k : Nat) (neg : Bool) : Nat :=
  let k := if k = 1 && !inf then 2 else k
  let k := if k = 2 && !nan then 0 else k
  match k with
  | 0 => signCode ew mw low neg (maxCode ew mw inf nan)
  | 1 => signCode ew mw low neg ((2 ^ ew - 1) * 2 ^ mw)
  | _ => nanCode ew mw low inf neg

/-- ConvertTo of R44 for the binary format of `tag`: the bits and the flags it sets. -/
def convertBin (md : FpMode) (tag ew mw low : Nat) (inf nan : Bool) (v : Val) : Nat × Flags :=
  match v with
  | .nan s => nanResult ew mw low inf nan s
  | .inf s => (infResult ew mw low inf nan (ovfEntry md.ovf tag) s, 0)
  | .num s n d =>
    if n = 0 then (signCode ew mw low s 0, 0)
    else
      let emin : Int := 1 - (biasOf ew : Int)
      let e := max (log2Ratio n d) emin
      let k := e - mw
      let n' := if 0 ≤ k then n else n * 2 ^ (-k).toNat
      let d' := if 0 ≤ k then d * 2 ^ k.toNat else d
      let q := roundQuot md.rm s (n' / d') (n' % d') d'
      let c := (e - emin).toNat * 2 ^ mw + q
      let nx : Flags := if n' % d' = 0 then 0 else flagNX
      if maxCode ew mw inf nan < c then
        (if staysFinite md.rm s then signCode ew mw low s (maxCode ew mw inf nan)
          else infResult ew mw low inf nan (ovfEntry md.ovf tag) s, nx ||| flagOF ||| flagNX)
      else if md.fz && flushes tag && c < 2 ^ mw then (signCode ew mw low s 0, nx ||| flagUF ||| flagNX)
      else (signCode ew mw low s c, nx ||| (if c < 2 ^ mw && n' % d' != 0 then flagUF else 0))

/-- Round a rational to an integer (R26). -/
def roundInt (rm : Nat) (s : Bool) (n d : Nat) : Int := signedOf s (roundQuot rm s (n / d) (n % d) d)

/-- Conversion into an integer format (R26): the bits and the flags. -/
def convertInt (rm : Nat) (signed : Bool) (b : Nat) (v : Val) : Nat × Flags :=
  let lo : Int := if signed then -(2 ^ (b - 1) : Nat) else 0
  let hi : Int := if signed then (2 ^ (b - 1) : Nat) - 1 else (2 ^ b : Nat) - 1
  let bits (i : Int) : Nat := (i % (2 ^ b : Nat)).toNat
  match v with
  | .nan _ => (0, flagNV)
  | .inf s => (bits (if s then lo else hi), flagNV)
  | .num s n d =>
    let i := roundInt rm s n d
    if i < lo then (bits lo, flagNV)
    else if hi < i then (bits hi, flagNV)
    else (bits i, if n % d = 0 then 0 else flagNX)

/-- Conversion into T2 (R25). -/
def convertT2 (v : Val) : Nat × Flags :=
  match v with
  | .nan _ => (0, flagNV)
  | .inf s => (if s then 3 else 1, flagOF ||| flagNX)
  | .num s n d =>
    if n = 0 then (0, 0)
    else if n = d then (if s then 3 else 1, 0)
    else if d < n then (if s then 3 else 1, flagOF ||| flagNX)
    else if 2 * n ≤ d then (0, flagNX)
    else (if s then 3 else 1, flagNX)

/-- The positive finite D8 codes in order of magnitude: (code, magnitude in units). -/
def d8Codes : List (Nat × Nat) :=
  let run (lo n : Nat) := (List.range n).filterMap fun i => (d8Mag (lo + i)).map fun m => (lo + i, m)
  run 0x10 8 ++ run 0x20 16 ++ run 0x40 64 ++ run 0x30 16 ++ run 0x18 8

/-- The D8 code nearest to n/d: the magnitudes in rising order, so that a tie keeps the smaller one (R30). -/
def nearestD8 (n d : Nat) : Nat × Nat :=
  let dist (m : Nat) : Nat := if n * d8Unit ≤ m * d then m * d - n * d8Unit else n * d8Unit - m * d
  let r := d8Codes.foldl (fun (b : (Nat × Nat) × Nat) e => let k := dist e.2; if k < b.2 then (e, k) else b) ((0, 0), dist 0)
  r.1

/-- Conversion into D8 (R30): `k` is the overflow-table entry. -/
def convertD8 (k : Nat) (v : Val) : Nat × Flags :=
  let infD8 (s : Bool) : Nat := match k with
    | 0 => if s then 0x9F else 0x1F
    | 1 => if s then 0x88 else 0x08
    | _ => 0x80
  match v with
  | .nan _ => (0x80, 0)
  | .inf s => (infD8 s, 0)
  | .num s n d =>
    if n = 0 then (0, 0)
    else if 55 * 10 ^ 12 * d ≤ n then (infD8 s, flagOF ||| flagNX)
    else
      let r := nearestD8 n d
      if r.1 = 0 then (0, flagUF ||| flagNX)
      else ((if s then 128 else 0) + r.1, if r.2 * d = n * d8Unit then 0 else flagNX)

/-- A value converted into the element format of a tag (R44), with the tag's own overflow-table entry (R46). -/
def convert (md : FpMode) (tag : Nat) (v : Val) : Nat × Flags :=
  match kindOf tag with
  | some (.bin ew mw low inf nan) => convertBin md tag ew mw low inf nan v
  | some .d8 => convertD8 (ovfEntry md.ovf tag) v
  | some (.int sg b) => convertInt md.rm sg b v
  | some .t2 => convertT2 v
  | some .mask => (if v.isZero then 0 else 1, 0)
  | some (.book _) | none => (0, 0)

/-- The exact value of an element of a strand's operand, under its captured DAZ. -/
def FpMode.decode (md : FpMode) (tag x : Nat) : Val := decodeVal tag md.daz x

/-- The default overflow table (R45). -/
def defaultOvf : BitVec 128 :=
  BitVec.ofNat 128 (([0, 1, 2, 3, 4, 0x0E, 0x11, 0x1C].map fun t => 2 ^ (2 * t)).sum)

/-- An overflow table holds no reserved entry (R45). -/
def ovfOk (t : BitVec 128) : Bool := (List.range 64).all fun k => ovfEntry t k != 3

end Sys2Proof.Machine
end

