-- ==== Sys2Proof/Machine/Scalar.lean ====
section
/-! DEFINITION. Scalar integer instructions (R97 to R103, Table 4-4). -/

namespace Sys2Proof.Machine

abbrev Result := Host.Outcome State Fault Refusal

/-! ## Helpers of R98 -/

/-- W of an instruction whose SUB bit 0 is W. -/
def aluW (x : Alu) : Bool := x.sub.getLsbD 0

/-- Width Wd of an operation. -/
def widthOf (w : Bool) : Nat := if w then 32 else 64

/-- Narrow of R98. -/
def narrow (w u : Bool) (v : DWord) : DWord :=
  if !w then v else if u then (v.extractLsb' 0 32).zeroExtend 64 else (v.extractLsb' 0 32).signExtend 64

/-- A narrowed source as an exact integer under U (R98). -/
def exact (w u : Bool) (v : DWord) : Int := if u then ((narrow w u v).toNat : Int) else (narrow w u v).toInt

/-- Clamp of R98. -/
def clamp (lo hi x : Int) : Int := if x < lo then lo else if hi < x then hi else x

/-- Shape of R98 for an exact result. -/
def shape (w u sat : Bool) (x : Int) : DWord :=
  let n := widthOf w
  let x := if sat then (if u then clamp 0 (2 ^ n - 1) x else clamp (-(2 ^ (n - 1))) (2 ^ (n - 1) - 1) x) else x
  narrow w u (BitVec.ofInt 64 x)

/-! ## Effects of Table 4-4 on two sources -/

/-- The bits Wd - 1 to 0 of a source as a number. -/
def low (w : Bool) (v : DWord) : Nat := v.toNat % 2 ^ widthOf w

/-- The shift amount of b (Table 4-4). -/
def amount (w : Bool) (b : DWord) : Nat := b.toNat % widthOf w

/-- Division rounded toward zero, with the two special cases of R100, as an exact integer. -/
def quotient (w u : Bool) (a b : Int) : Int :=
  let n := widthOf w
  if b = 0 then (if u then 2 ^ n - 1 else -1)
  else if !u && a == -(2 ^ (n - 1)) && b == -1 then -(2 ^ (n - 1))
  else a.tdiv b

/-- Remainder (R100). -/
def remainder (w u : Bool) (a b : Int) : Int :=
  if b = 0 then a
  else if !u && a == -(2 ^ (widthOf w - 1)) && b == -1 then 0
  else a.tmod b

/-- Leading zeros of the low `n` bits of a number. -/
def leadingZeros (n v : Nat) : Nat := if v = 0 then n else n - 1 - v.log2

/-- Trailing zeros of the low `n` bits of a number: the first set bit from bit `k`. -/
def trailingZeros (v k : Nat) : Nat → Nat
  | 0 => k
  | n + 1 => if v.testBit k then k else trailingZeros v (k + 1) n

/-- Ones among the low `n` bits of a number. -/
def popCount (v : Nat) : Nat → Nat
  | 0 => 0
  | n + 1 => popCount v n + (if v.testBit n then 1 else 0)

/-- The effect of an opcode of Table 4-4 on the sources `a` and `b` (whole registers), for the two-source instructions. -/
def addValue (x : Alu) (a b : DWord) : DWord := shape (aluW x) x.u (x.sub.getLsbD 1) (exact (aluW x) x.u a + exact (aluW x) x.u b)
def subValue (x : Alu) (a b : DWord) : DWord := shape (aluW x) x.u (x.sub.getLsbD 1) (exact (aluW x) x.u a - exact (aluW x) x.u b)
def mulValue (x : Alu) (a b : DWord) : DWord := shape (aluW x) x.u false (exact (aluW x) x.u a * exact (aluW x) x.u b)
def mulhValue (x : Alu) (a b : DWord) : DWord :=
  narrow (aluW x) x.u (BitVec.ofInt 64 (exact (aluW x) x.u a * exact (aluW x) x.u b / 2 ^ widthOf (aluW x)))
def divValue (x : Alu) (a b : DWord) : DWord :=
  shape (aluW x) x.u false (quotient (aluW x) x.u (exact (aluW x) x.u a) (exact (aluW x) x.u b))
def remValue (x : Alu) (a b : DWord) : DWord :=
  shape (aluW x) x.u false (remainder (aluW x) x.u (exact (aluW x) x.u a) (exact (aluW x) x.u b))
def andValue (x : Alu) (a b : DWord) : DWord := narrow (aluW x) x.u (narrow (aluW x) x.u a &&& narrow (aluW x) x.u b)
def orValue (x : Alu) (a b : DWord) : DWord := narrow (aluW x) x.u (narrow (aluW x) x.u a ||| narrow (aluW x) x.u b)
def xorValue (x : Alu) (a b : DWord) : DWord := narrow (aluW x) x.u (narrow (aluW x) x.u a ^^^ narrow (aluW x) x.u b)
def andnValue (x : Alu) (a b : DWord) : DWord := narrow (aluW x) x.u (narrow (aluW x) x.u a &&& ~~~(narrow (aluW x) x.u b))
def shlValue (x : Alu) (a b : DWord) : DWord := narrow (aluW x) x.u (a <<< amount (aluW x) b)
def shrValue (x : Alu) (a b : DWord) : DWord := narrow (aluW x) x.u (BitVec.ofNat 64 (low (aluW x) a / 2 ^ amount (aluW x) b))
def sarValue (x : Alu) (a b : DWord) : DWord := narrow (aluW x) x.u ((narrow (aluW x) false a).sshiftRight (amount (aluW x) b))
def rotValue (x : Alu) (a b : DWord) : DWord :=
  let n := widthOf (aluW x)
  let k := amount (aluW x) b
  narrow (aluW x) x.u (BitVec.ofNat 64 (low (aluW x) a * 2 ^ k % 2 ^ n + low (aluW x) a / 2 ^ (n - k)))
def minValue (x : Alu) (a b : DWord) : DWord :=
  if exact (aluW x) x.u b < exact (aluW x) x.u a then narrow (aluW x) x.u b else narrow (aluW x) x.u a
def maxValue (x : Alu) (a b : DWord) : DWord :=
  if exact (aluW x) x.u a < exact (aluW x) x.u b then narrow (aluW x) x.u b else narrow (aluW x) x.u a
def absValue (x : Alu) (a _b : DWord) : DWord :=
  shape (aluW x) x.u (x.sub.getLsbD 1) ((exact (aluW x) x.u a).natAbs : Int)
def clzValue (x : Alu) (a _b : DWord) : DWord := BitVec.ofNat 64 (leadingZeros (widthOf (aluW x)) (low (aluW x) a))
def ctzValue (x : Alu) (a _b : DWord) : DWord := BitVec.ofNat 64 (trailingZeros (low (aluW x) a) 0 (widthOf (aluW x)))
def popcValue (x : Alu) (a _b : DWord) : DWord := BitVec.ofNat 64 (popCount (low (aluW x) a) (widthOf (aluW x)))
def movValue (_x : Alu) (a _b : DWord) : DWord := a
def leaValue (x : Alu) (a b : DWord) : DWord := a + (b <<< x.sub.toNat)

/-- Position and length of R101. -/
def fieldPos (b : DWord) : Nat := bitsOf b 0 6
def fieldLen (b : DWord) : Nat :=
  let len := min (bitsOf b 6 7) 64
  if 64 < fieldPos b + len then 64 - fieldPos b else len

/-- The extracted field (R101). -/
def bfxValue (x : Alu) (a b : DWord) : DWord :=
  let v := bitsOf a (fieldPos b) (fieldLen b)
  if fieldLen b = 0 then 0
  else if !x.u && v.testBit (fieldLen b - 1) then BitVec.ofInt 64 ((v : Int) - 2 ^ fieldLen b)
  else BitVec.ofNat 64 v

/-- The old value of D with a field replaced by the low bits of a (R101). -/
def bfiValue (a b d : DWord) : DWord :=
  let p := fieldPos b
  let m : DWord := BitVec.ofNat 64 ((2 ^ fieldLen b - 1) * 2 ^ p)
  (d &&& ~~~m) ||| ((a <<< p) &&& m)

/-- The condition of `cmp` (Table 4-5). -/
def cmpHolds (sub : BitVec 4) (u : Bool) (a b : DWord) : Bool :=
  let w := sub.getLsbD 3
  let x := exact w u a
  let y := exact w u b
  match (sub.extractLsb' 0 3).toNat with
  | 0 => x == y
  | 1 => x != y
  | 2 => x < y
  | 3 => y ≤ x
  | 4 => x ≤ y
  | 5 => y < x
  | 6 => narrow w u a &&& narrow w u b != 0
  | _ => narrow w u a &&& narrow w u b == 0

/-! ## Bodies -/

/-- An instruction of Table 4-4 that writes a function of A and OpB() to D. -/
def intBody (f : Alu → DWord → DWord → DWord) (x : Alu) : M Flow := do
  let (a, b) ← operandsAB x.a x.b (some x.d.toNat)
  writeDst x.d.toNat (f x a b)
  pure .next

/-- An instruction of Table 4-4 that writes a function of A alone; its B is unused. -/
def unaryBody (f : Alu → DWord → DWord → DWord) (x : Alu) : M Flow := do
  let vs ← operands [x.a.toNat] (some x.d.toNat)
  writeDst x.d.toNat (f x (vs.headD 0) 0)
  pure .next

/-- `bfi` (R101): D is a source as well. -/
def bfiBody (x : Alu) : M Flow := do
  let vs ← operands (x.a.toNat :: Src.codes x.b ++ [x.d.toNat]) (some x.d.toNat)
  writeDst x.d.toNat (bfiValue (vs.headD 0) (srcVal x.b (second vs)) (vs.getLastD 0))
  pure .next

/-- `sel`: pSUB ? A : B (Table 4-4). -/
def selBody (x : Alu) : M Flow := do
  let (a, b) ← operandsAB x.a x.b (some x.d.toNat)
  let s ← get
  writeDst x.d.toNat (if s.curStrand.pred x.sub.toNat then a else b)
  pure .next

/-- `movi` (R102). -/
def moviBody (x : Alu) : M Flow := do
  let _ ← operands [] (some x.d.toNat)
  writeDst x.d.toNat (match x.b with
    | .imm v => if x.u then v.zeroExtend 64 else v.signExtend 64
    | .lit w => if x.u then w.zeroExtend 64 else w.signExtend 64
    | .code _ => 0)
  pure .next

/-- `movi.hi` (R102): the literal above the low half of D. -/
def moviHiBody (x : Alu) : M Flow := do
  let vs ← operands [x.d.toNat] (some x.d.toNat)
  let hi : Word := match x.b with | .lit w => w | _ => 0
  writeDst x.d.toNat (hi ++ (vs.headD 0).extractLsb' 0 32)
  pure .next

/-- `cmp` (R103). -/
def cmpBody (x : Alu) : M Flow := do
  let (a, b) ← operandsAB x.a x.b none
  writePred x.d.toNat (cmpHolds x.sub x.u a b)
  pure .next

/-- `nop`: no effect (Table 4-4). -/
def nopBody : M Flow := pure .next

/-! ## Meanings -/

/-- nop, short form. -/
def execNop (x : Short) (s : State) : Result := runStrand (.short 0x00 x) nopBody s

/-- nop, long and literal forms. -/
def execNopLong (x : Alu) (s : State) : Result := runStrand (.alu 0x00 x) nopBody s

/-- add, short form. -/
def execAdd (x : Short) (s : State) : Result := runStrand (.short 0x01 x) (intBody addValue x.toAlu) s

/-- add, long and literal forms. -/
def execAddLong (x : Alu) (s : State) : Result := runStrand (.alu 0x01 x) (intBody addValue x) s

/-- sub, short form. -/
def execSub (x : Short) (s : State) : Result := runStrand (.short 0x02 x) (intBody subValue x.toAlu) s

/-- sub, long and literal forms. -/
def execSubLong (x : Alu) (s : State) : Result := runStrand (.alu 0x02 x) (intBody subValue x) s

/-- mul, short form. -/
def execMul (x : Short) (s : State) : Result := runStrand (.short 0x03 x) (intBody mulValue x.toAlu) s

/-- mul, long and literal forms. -/
def execMulLong (x : Alu) (s : State) : Result := runStrand (.alu 0x03 x) (intBody mulValue x) s

/-- mulh, short form. -/
def execMulh (x : Short) (s : State) : Result := runStrand (.short 0x04 x) (intBody mulhValue x.toAlu) s

/-- mulh, long and literal forms. -/
def execMulhLong (x : Alu) (s : State) : Result := runStrand (.alu 0x04 x) (intBody mulhValue x) s

/-- div, short form. -/
def execDiv (x : Short) (s : State) : Result := runStrand (.short 0x05 x) (intBody divValue x.toAlu) s

/-- div, long and literal forms. -/
def execDivLong (x : Alu) (s : State) : Result := runStrand (.alu 0x05 x) (intBody divValue x) s

/-- rem, short form. -/
def execRem (x : Short) (s : State) : Result := runStrand (.short 0x06 x) (intBody remValue x.toAlu) s

/-- rem, long and literal forms. -/
def execRemLong (x : Alu) (s : State) : Result := runStrand (.alu 0x06 x) (intBody remValue x) s

/-- and, short form. -/
def execAnd (x : Short) (s : State) : Result := runStrand (.short 0x07 x) (intBody andValue x.toAlu) s

/-- and, long and literal forms. -/
def execAndLong (x : Alu) (s : State) : Result := runStrand (.alu 0x07 x) (intBody andValue x) s

/-- or, short form. -/
def execOr (x : Short) (s : State) : Result := runStrand (.short 0x08 x) (intBody orValue x.toAlu) s

/-- or, long and literal forms. -/
def execOrLong (x : Alu) (s : State) : Result := runStrand (.alu 0x08 x) (intBody orValue x) s

/-- xor, short form. -/
def execXor (x : Short) (s : State) : Result := runStrand (.short 0x09 x) (intBody xorValue x.toAlu) s

/-- xor, long and literal forms. -/
def execXorLong (x : Alu) (s : State) : Result := runStrand (.alu 0x09 x) (intBody xorValue x) s

/-- andn, short form. -/
def execAndn (x : Short) (s : State) : Result := runStrand (.short 0x0A x) (intBody andnValue x.toAlu) s

/-- andn, long and literal forms. -/
def execAndnLong (x : Alu) (s : State) : Result := runStrand (.alu 0x0A x) (intBody andnValue x) s

/-- shl, short form. -/
def execShl (x : Short) (s : State) : Result := runStrand (.short 0x0B x) (intBody shlValue x.toAlu) s

/-- shl, long and literal forms. -/
def execShlLong (x : Alu) (s : State) : Result := runStrand (.alu 0x0B x) (intBody shlValue x) s

/-- shr, short form. -/
def execShr (x : Short) (s : State) : Result := runStrand (.short 0x0C x) (intBody shrValue x.toAlu) s

/-- shr, long and literal forms. -/
def execShrLong (x : Alu) (s : State) : Result := runStrand (.alu 0x0C x) (intBody shrValue x) s

/-- sar, short form. -/
def execSar (x : Short) (s : State) : Result := runStrand (.short 0x0D x) (intBody sarValue x.toAlu) s

/-- sar, long and literal forms. -/
def execSarLong (x : Alu) (s : State) : Result := runStrand (.alu 0x0D x) (intBody sarValue x) s

/-- rot, short form. -/
def execRot (x : Short) (s : State) : Result := runStrand (.short 0x0E x) (intBody rotValue x.toAlu) s

/-- rot, long and literal forms. -/
def execRotLong (x : Alu) (s : State) : Result := runStrand (.alu 0x0E x) (intBody rotValue x) s

/-- min, short form. -/
def execMin (x : Short) (s : State) : Result := runStrand (.short 0x0F x) (intBody minValue x.toAlu) s

/-- min, long and literal forms. -/
def execMinLong (x : Alu) (s : State) : Result := runStrand (.alu 0x0F x) (intBody minValue x) s

/-- max, short form. -/
def execMax (x : Short) (s : State) : Result := runStrand (.short 0x10 x) (intBody maxValue x.toAlu) s

/-- max, long and literal forms. -/
def execMaxLong (x : Alu) (s : State) : Result := runStrand (.alu 0x10 x) (intBody maxValue x) s

/-- abs, short form. -/
def execAbs (x : Short) (s : State) : Result := runStrand (.short 0x11 x) (unaryBody absValue x.toAlu) s

/-- abs, long and literal forms. -/
def execAbsLong (x : Alu) (s : State) : Result := runStrand (.alu 0x11 x) (unaryBody absValue x) s

/-- clz, short form. -/
def execClz (x : Short) (s : State) : Result := runStrand (.short 0x12 x) (unaryBody clzValue x.toAlu) s

/-- clz, long and literal forms. -/
def execClzLong (x : Alu) (s : State) : Result := runStrand (.alu 0x12 x) (unaryBody clzValue x) s

/-- ctz, short form. -/
def execCtz (x : Short) (s : State) : Result := runStrand (.short 0x13 x) (unaryBody ctzValue x.toAlu) s

/-- ctz, long and literal forms. -/
def execCtzLong (x : Alu) (s : State) : Result := runStrand (.alu 0x13 x) (unaryBody ctzValue x) s

/-- popc, short form. -/
def execPopc (x : Short) (s : State) : Result := runStrand (.short 0x14 x) (unaryBody popcValue x.toAlu) s

/-- popc, long and literal forms. -/
def execPopcLong (x : Alu) (s : State) : Result := runStrand (.alu 0x14 x) (unaryBody popcValue x) s

/-- bfx, short form. -/
def execBfx (x : Short) (s : State) : Result := runStrand (.short 0x15 x) (intBody bfxValue x.toAlu) s

/-- bfx, long and literal forms. -/
def execBfxLong (x : Alu) (s : State) : Result := runStrand (.alu 0x15 x) (intBody bfxValue x) s

/-- bfi, short form. -/
def execBfi (x : Short) (s : State) : Result := runStrand (.short 0x16 x) (bfiBody x.toAlu) s

/-- bfi, long and literal forms. -/
def execBfiLong (x : Alu) (s : State) : Result := runStrand (.alu 0x16 x) (bfiBody x) s

/-- sel, short form. -/
def execSel (x : Short) (s : State) : Result := runStrand (.short 0x17 x) (selBody x.toAlu) s

/-- sel, long and literal forms. -/
def execSelLong (x : Alu) (s : State) : Result := runStrand (.alu 0x17 x) (selBody x) s

/-- mov, short form. -/
def execMov (x : Short) (s : State) : Result := runStrand (.short 0x18 x) (unaryBody movValue x.toAlu) s

/-- mov, long and literal forms. -/
def execMovLong (x : Alu) (s : State) : Result := runStrand (.alu 0x18 x) (unaryBody movValue x) s

/-- lea, short form. -/
def execLea (x : Short) (s : State) : Result := runStrand (.short 0x1A x) (intBody leaValue x.toAlu) s

/-- lea, long and literal forms. -/
def execLeaLong (x : Alu) (s : State) : Result := runStrand (.alu 0x1A x) (intBody leaValue x) s

/-- cmp, short form. -/
def execCmp (x : Short) (s : State) : Result := runStrand (.short 0x1B x) (cmpBody x.toAlu) s

/-- cmp, long and literal forms. -/
def execCmpLong (x : Alu) (s : State) : Result := runStrand (.alu 0x1B x) (cmpBody x) s

/-- movi. -/
def execMovi (x : Alu) (s : State) : Result := runStrand (.alu 0x19 x) (moviBody x) s

/-- movi.hi. -/
def execMoviHi (x : Alu) (s : State) : Result := runStrand (.alu 0x19 x) (moviHiBody x) s

end Sys2Proof.Machine
end

