-- ==== Sys2Proof/Machine/Float.lean ====
section
/-! DEFINITION. Scalar float instructions (R104 to R106, Tables 4-5 to 4-7) and the exact square root they share with the
vector engine. -/

namespace Sys2Proof.Machine

/-! ## Square root -/

/-- Integer square root of `n`: `r` is the part found, `k` bits are still to find. -/
def isqrtFrom (n r : Nat) : Nat → Nat
  | 0 => r
  | k + 1 => if (r + 2 ^ k) * (r + 2 ^ k) ≤ n then isqrtFrom n (r + 2 ^ k) k else isqrtFrom n r k

/-- Integer square root. -/
def isqrt (n : Nat) : Nat := isqrtFrom n 0 (n.log2 / 2 + 1)

/-- The square root of n/d, exact where it is rational; else a number strictly between two neighbours of a grid so fine
that every rounding of it is the rounding of the root: the root has 256 bits and the binary grids at most 53. -/
def sqrtRatio (n d : Nat) : Nat × Nat :=
  let k := 256 + d.log2
  let v := n * d * 4 ^ k
  let r := isqrt v
  if r * r = v then (r, d * 2 ^ k) else (2 * r + 1, d * 2 ^ (k + 1))

/-! ## Results -/

/-- The tag of an operation's precision (R104). -/
def floatTag (dp : Bool) : Nat := if dp then 0x1C else 0

/-- The bits of a float source (R104). -/
def floatBits (dp : Bool) (v : DWord) : Nat := if dp then v.toNat else v.toNat % 2 ^ 32

/-- The exact value of a float operand under DAZ (R43, R104). -/
def floatVal (md : FpMode) (dp : Bool) (v : DWord) : Val := md.decode (floatTag dp) (floatBits dp v)

/-- The value of operand B: the literal is an FP32 pattern, and an FP64 operation takes its exact value (Table 3-5). -/
def floatB (md : FpMode) (dp : Bool) (b : Src) (v : DWord) : Val :=
  match b with
  | .lit w => decodeVal 0 (md.daz && !dp) w.toNat
  | .imm i => floatVal md dp (i.signExtend 64)
  | .code _ => floatVal md dp v

/-- An arithmetic result in a format (R24, R44): a NaN operand gives the positive NaN, an invalid operation sets NV too. -/
def arith (md : FpMode) (tag : Nat) (ops : List Val) (r : Val) : Nat × Flags :=
  if ops.any Val.isNan then convert md tag (.nan false)
  else if r.isNan then
    let c := convert md tag (.nan false)
    (c.1, c.2 ||| flagNV)
  else convert md tag r

/-- Sign of an exact zero sum (IEEE 754). -/
def zeroSign (md : FpMode) : Bool := md.rm == 3

def fadd (md : FpMode) (tag : Nat) (a b : Val) : Nat × Flags := arith md tag [a, b] (a.add (zeroSign md) b)
def fsub (md : FpMode) (tag : Nat) (a b : Val) : Nat × Flags := arith md tag [a, b] (a.add (zeroSign md) b.negate)
def fmul (md : FpMode) (tag : Nat) (a b : Val) : Nat × Flags := arith md tag [a, b] (a.mul b)

/-- The product of 0 and an infinity. -/
def zeroTimesInf (a b : Val) : Bool := (a.isZero && b.isInf) || (a.isInf && b.isZero)

/-- A fused multiply-add a × b + c, rounded once; 0 × ∞ is invalid even when c is a NaN (R105). -/
def ffma (md : FpMode) (tag : Nat) (a b c : Val) : Nat × Flags :=
  if zeroTimesInf a b then
    let r := convert md tag (.nan false)
    (r.1, r.2 ||| flagNV)
  else arith md tag [a, b, c] ((a.mul b).add (zeroSign md) c)

/-- The smaller operand, −0 below +0. -/
def valMin (a b : Val) : Val := if b.lt a || (b.isZero && a.isZero && b.neg) then b else a
/-- The larger operand, −0 below +0. -/
def valMax (a b : Val) : Val := if a.lt b || (a.isZero && b.isZero && a.neg) then b else a

def fmin (md : FpMode) (tag : Nat) (a b : Val) : Nat × Flags := arith md tag [a, b] (if a.isNan then a else valMin a b)
def fmax (md : FpMode) (tag : Nat) (a b : Val) : Nat × Flags := arith md tag [a, b] (if a.isNan then a else valMax a b)

/-- Division (R105): a finite non-zero value by zero sets DZ. -/
def fdiv (md : FpMode) (tag : Nat) (a b : Val) : Nat × Flags :=
  let r := arith md tag [a, b] (a.div b)
  match a with
  | .num _ n _ => if n != 0 && b.isZero then (r.1, r.2 ||| flagDZ) else r
  | _ => r

/-- Square root (R24). -/
def sqrtVal (a : Val) : Val :=
  match a with
  | .nan s => .nan s
  | .inf s => if s then .nan false else .inf false
  | .num s n d => if n = 0 then .num s 0 1 else if s then .nan false else .num false (sqrtRatio n d).1 (sqrtRatio n d).2

def fsqrt (md : FpMode) (tag : Nat) (a : Val) : Nat × Flags := arith md tag [a] (sqrtVal a)

/-- The condition of `fcmp` and whether it sets NV (Table 4-5). -/
def fcmpHolds (c : Nat) (a b : Val) : Bool × Flags :=
  let un := a.isNan || b.isNan
  let nv : Flags := if un then flagNV else 0
  match c with
  | 0 => (!un && a.eq b, 0)
  | 1 => (un || !a.eq b, 0)
  | 2 => (!un && a.lt b, nv)
  | 3 => (!un && !b.lt a, nv)
  | 4 => (!un && b.lt a, nv)
  | 5 => (!un && !a.lt b, nv)
  | 6 => (un, 0)
  | _ => (!un, 0)

/-- Sign changes of `fneg` (R105): no rounding and no DAZ; a NaN becomes canonical with the sign the operation gives, and
an infinite result goes by the overflow table (R46, R104). -/
def fnegBits (ovf : BitVec 128) (dp abs : Bool) (x : Nat) : Nat :=
  let v := decodeVal (floatTag dp) false x
  (convert { ovf } (floatTag dp) (v.withSign (if abs then false else !v.neg))).1

/-- The class test of `fclass` (R106). -/
def fclassHolds (c : Nat) (dp : Bool) (x : Nat) : Bool :=
  let v := decodeVal (floatTag dp) false x
  let sub := field x (if dp then 52 else 23) (if dp then 11 else 8) == 0
  let fin := !v.isNan && !v.isInf
  let norm := fin && !sub
  let subn := fin && sub && !v.isZero
  match c with
  | 0 => v.isInf && v.neg
  | 1 => norm && v.neg
  | 2 => subn && v.neg
  | 3 => v.isZero && v.neg
  | 4 => v.isZero && !v.neg
  | 5 => subn && !v.neg
  | 6 => norm && !v.neg
  | 7 => v.isInf && !v.neg
  | 8 => v.isNan
  | 9 => v.isZero
  | 10 => v.isInf
  | 11 => subn
  | _ => fin

/-- `fcvt` (Table 4-7). -/
def fcvtValue (md : FpMode) (sub : Nat) (dp : Bool) (v : DWord) : Nat × Flags :=
  let a := floatVal md dp v
  match sub with
  | 0 => convert md (floatTag !dp) a
  | 1 => convertInt md.rm true 64 a
  | 2 => convertInt md.rm false 64 a
  | 3 => convert md (floatTag dp) (.ofInt v.toInt)
  | 4 => convert md (floatTag dp) (.num false v.toNat 1)
  | 5 => let r := convertInt md.rm true 32 a
         (((BitVec.ofNat 32 r.1).signExtend 64).toNat, r.2)
  | _ => convertInt md.rm false 32 a

/-! ## Bodies -/

/-- Set flags of the current strand (R42). -/
def setFlags (k : Flags) : M Unit := modifyCur fun d => { d with fcsr := fcsrWith d.fcsr k }

/-- The modes captured at issue (R41). -/
def captured (rnd : BitVec 3) : M FpMode := fun s => .ok (s.capture rnd.toNat) s

/-- Write a float result to a scalar destination with its flags. -/
def writeFloat (c : Nat) (r : Nat × Flags) : M Unit := do
  writeDst c (BitVec.ofNat 64 r.1)
  setFlags r.2

/-- Two sources, one result. -/
def floatBody (f : FpMode → Nat → Val → Val → Nat × Flags) (x : Alu) : M Flow := do
  let md ← captured x.rnd
  let vs ← operands (x.a.toNat :: Src.codes x.b) (some x.d.toNat)
  writeFloat x.d.toNat (f md (floatTag x.u) (floatVal md x.u (vs.headD 0)) (floatB md x.u x.b (second vs)))
  pure .next

/-- `ffma`: D is the addend (Table 4-6). -/
def ffmaBody (x : Alu) : M Flow := do
  let md ← captured x.rnd
  let vs ← operands (x.a.toNat :: Src.codes x.b ++ [x.d.toNat]) (some x.d.toNat)
  let a := floatVal md x.u (vs.headD 0)
  let b := floatB md x.u x.b (second vs)
  let c := floatVal md x.u (vs.getLastD 0)
  writeFloat x.d.toNat (ffma md (floatTag x.u) (if x.sub.getLsbD 0 then a.negate else a) b
    (if x.sub.getLsbD 1 then c.negate else c))
  pure .next

/-- `fcmp`. -/
def fcmpBody (x : Alu) : M Flow := do
  let md ← captured x.rnd
  let vs ← operands (x.a.toNat :: Src.codes x.b) none
  let r := fcmpHolds x.sub.toNat (floatVal md x.u (vs.headD 0)) (floatB md x.u x.b (second vs))
  writePred x.d.toNat r.1
  setFlags r.2
  pure .next

/-- `fcvt`. -/
def fcvtBody (x : Alu) : M Flow := do
  let md ← captured x.rnd
  let vs ← operands [x.a.toNat] (some x.d.toNat)
  writeFloat x.d.toNat (fcvtValue md x.sub.toNat x.u (vs.headD 0))
  pure .next

/-- `fsqrt`. -/
def fsqrtBody (x : Alu) : M Flow := do
  let md ← captured x.rnd
  let vs ← operands [x.a.toNat] (some x.d.toNat)
  writeFloat x.d.toNat (fsqrt md (floatTag x.u) (floatVal md x.u (vs.headD 0)))
  pure .next

/-- `fneg`. -/
def fnegBody (x : Alu) : M Flow := do
  let md ← captured x.rnd
  let vs ← operands [x.a.toNat] (some x.d.toNat)
  writeDst x.d.toNat (BitVec.ofNat 64 (fnegBits md.ovf x.u (x.sub == 1) (floatBits x.u (vs.headD 0))))
  pure .next

/-- `fclass`. -/
def fclassBody (x : Alu) : M Flow := do
  let vs ← operands [x.a.toNat] none
  writePred x.d.toNat (fclassHolds x.sub.toNat x.u (floatBits x.u (vs.headD 0)))
  pure .next

/-! ## Meanings -/

/-- fadd, short form. -/
def execFadd (x : Short) (s : State) : Result := runStrand (.short 0x20 x) (floatBody fadd x.toAlu) s

/-- fadd, long and literal forms. -/
def execFaddLong (x : Alu) (s : State) : Result := runStrand (.alu 0x20 x) (floatBody fadd x) s

/-- fsub, short form. -/
def execFsub (x : Short) (s : State) : Result := runStrand (.short 0x21 x) (floatBody fsub x.toAlu) s

/-- fsub, long and literal forms. -/
def execFsubLong (x : Alu) (s : State) : Result := runStrand (.alu 0x21 x) (floatBody fsub x) s

/-- fmul, short form. -/
def execFmul (x : Short) (s : State) : Result := runStrand (.short 0x22 x) (floatBody fmul x.toAlu) s

/-- fmul, long and literal forms. -/
def execFmulLong (x : Alu) (s : State) : Result := runStrand (.alu 0x22 x) (floatBody fmul x) s

/-- ffma, short form. -/
def execFfma (x : Short) (s : State) : Result := runStrand (.short 0x23 x) (ffmaBody x.toAlu) s

/-- ffma, long and literal forms. -/
def execFfmaLong (x : Alu) (s : State) : Result := runStrand (.alu 0x23 x) (ffmaBody x) s

/-- fmin, short form. -/
def execFmin (x : Short) (s : State) : Result := runStrand (.short 0x24 x) (floatBody fmin x.toAlu) s

/-- fmin, long and literal forms. -/
def execFminLong (x : Alu) (s : State) : Result := runStrand (.alu 0x24 x) (floatBody fmin x) s

/-- fmax, short form. -/
def execFmax (x : Short) (s : State) : Result := runStrand (.short 0x25 x) (floatBody fmax x.toAlu) s

/-- fmax, long and literal forms. -/
def execFmaxLong (x : Alu) (s : State) : Result := runStrand (.alu 0x25 x) (floatBody fmax x) s

/-- fcmp, short form. -/
def execFcmp (x : Short) (s : State) : Result := runStrand (.short 0x26 x) (fcmpBody x.toAlu) s

/-- fcmp, long and literal forms. -/
def execFcmpLong (x : Alu) (s : State) : Result := runStrand (.alu 0x26 x) (fcmpBody x) s

/-- fcvt, short form. -/
def execFcvt (x : Short) (s : State) : Result := runStrand (.short 0x27 x) (fcvtBody x.toAlu) s

/-- fcvt, long and literal forms. -/
def execFcvtLong (x : Alu) (s : State) : Result := runStrand (.alu 0x27 x) (fcvtBody x) s

/-- fdiv, short form. -/
def execFdiv (x : Short) (s : State) : Result := runStrand (.short 0x28 x) (floatBody fdiv x.toAlu) s

/-- fdiv, long and literal forms. -/
def execFdivLong (x : Alu) (s : State) : Result := runStrand (.alu 0x28 x) (floatBody fdiv x) s

/-- fsqrt, short form. -/
def execFsqrt (x : Short) (s : State) : Result := runStrand (.short 0x29 x) (fsqrtBody x.toAlu) s

/-- fsqrt, long and literal forms. -/
def execFsqrtLong (x : Alu) (s : State) : Result := runStrand (.alu 0x29 x) (fsqrtBody x) s

/-- fneg, short form. -/
def execFneg (x : Short) (s : State) : Result := runStrand (.short 0x2A x) (fnegBody x.toAlu) s

/-- fneg, long and literal forms. -/
def execFnegLong (x : Alu) (s : State) : Result := runStrand (.alu 0x2A x) (fnegBody x) s

/-- fclass, short form. -/
def execFclass (x : Short) (s : State) : Result := runStrand (.short 0x2B x) (fclassBody x.toAlu) s

/-- fclass, long and literal forms. -/
def execFclassLong (x : Alu) (s : State) : Result := runStrand (.alu 0x2B x) (fclassBody x) s

end Sys2Proof.Machine
end

