-- ==== Sys2Proof/Machine/Special.lean ====
section
/-! DEFINITION. The special functions of the vector engine (R52, R53, R170): exact values where they are rational, else
numbers so close to them that every destination of 16 bits or fewer rounds them as it rounds the function's value, and for an
FP32 destination a free monotonic function within the error bound (notes/assumptions/18.md). -/

namespace Sys2Proof.Machine

/-- Bits behind the point of the fixed-point numbers used here. -/
def fxBits : Nat := 640

/-- One in fixed point. -/
def fxOne : Nat := 2 ^ fxBits

/-- The series z + z³/3 + z⁵/5 + … of `atanh`, in fixed point: `p` is the current power, `z2` the square, `k` the exponent;
the fuel bounds the terms. -/
def atanhSeries (z2 p k : Nat) : Nat → Nat
  | 0 => 0
  | f + 1 => if p = 0 then 0 else p / k + atanhSeries z2 (p * z2 / fxOne) (k + 2) f

/-- Natural logarithm of n/d, 1 ≤ n/d < 2, in fixed point. -/
def lnMantissa (n d : Nat) : Nat :=
  let z := (n - d) * fxOne / (n + d)
  2 * atanhSeries (z * z / fxOne) z 1 fxBits

/-- ln 2 in fixed point. -/
def ln2 : Nat := 2 * atanhSeries (fxOne / 9) (fxOne / 3) 1 fxBits

/-- The series of the exponential function in fixed point: `p` is the current term, `k` its index. -/
def expSeries (x p k : Nat) : Nat → Nat
  | 0 => 0
  | f + 1 => if p = 0 then 0 else p + expSeries x (p * x / fxOne / (k + 1)) (k + 1) f

/-- A number strictly between the fixed-point number `e` and the next, times a power of two: inexact on every grid. -/
def between (s : Bool) (e : Nat) (k : Int) : Val := Val.dyadic s (2 * e + 1) (k - fxBits - 1)

/-- A value beyond every finite magnitude, and one below every positive magnitude of a format. -/
def hugeVal : Val := .dyadic false 1 300
def tinyVal : Val := .dyadic false 1 (-300)

/-- The fixed-point number of a sign and a magnitude, as an integer. -/
def fxOf (s : Bool) (n d : Nat) : Int := signedOf s (n * fxOne / d)

/-- e^(x · c) for a fixed-point factor c, |x · c| below 512: the mantissa in [1, 2) and the exponent of two. -/
def expFix (x : Int) : Nat × Int :=
  let q := x.fdiv ln2
  let r := (x - q * ln2).toNat
  (expSeries r fxOne 0 fxBits, q)

/-- e^x. [DEDUCED: notes/assumptions/19.md] -/
def expVal (s : Bool) (n d : Nat) : Val :=
  if 256 * d ≤ n then (if s then tinyVal else hugeVal)
  else
    let r := expFix (fxOf s n d)
    between false r.1 r.2

/-- 2^x for x not an integer; exact for an integer. [DEDUCED: notes/assumptions/19.md] -/
def exp2Val (s : Bool) (n d : Nat) : Val :=
  if 300 * d ≤ n then (if s then tinyVal else hugeVal)
  else if n % d = 0 then .dyadic false 1 (signedOf s (n / d))
  else
    let x := fxOf s n d
    let q := x.fdiv fxOne
    let r := (x - q * fxOne).toNat * ln2 / fxOne
    between false (expSeries r fxOne 0 fxBits) q

/-- n/d = 2^k × m/e with 1 ≤ m/e < 2. -/
def mantissa (n d : Nat) : Int × Nat × Nat :=
  let k := log2Ratio n d
  if 0 ≤ k then (k, n, d * 2 ^ k.toNat) else (k, n * 2 ^ (-k).toNat, d)

/-- A signed fixed-point number as a value that lies on no grid. -/
def ofFix (x : Int) : Val := between (x < 0) x.natAbs 0

/-- ln of n/d, which is positive: exact for 1. -/
def lnVal (n d : Nat) : Val :=
  if n = d then .zero false
  else
    let m := mantissa n d
    ofFix (m.1 * ln2 + lnMantissa m.2.1 m.2.2)

/-- log2 of n/d, which is positive: exact for a power of two. -/
def log2Val (n d : Nat) : Val :=
  let m := mantissa n d
  if m.2.1 = m.2.2 then .ofInt m.1
  else ofFix (m.1 * fxOne + (lnMantissa m.2.1 m.2.2 * fxOne / ln2 : Nat))

/-- 1 − 2^−300. -/
def almostOne (s : Bool) : Val := .num s (2 ^ 300 - 1) (2 ^ 300)

/-- tanh x, x not 0. -/
def tanhVal (s : Bool) (n d : Nat) : Val :=
  if 128 * d ≤ n then almostOne s
  else
    let r := expFix (fxOf false (2 * n) d)
    let e := r.1 * 2 ^ r.2.toNat
    .num s ((e - fxOne) * 2 + 1) ((e + fxOne) * 2)

/-- 1 / (1 + e^−x), x not 0. -/
def sigmVal (s : Bool) (n d : Nat) : Val :=
  if 256 * d ≤ n then (if s then tinyVal else almostOne false)
  else
    let r := expFix (fxOf false n d)
    let e := r.1 * 2 ^ r.2.toNat
    if s then .num false (2 * fxOne + 1) (2 * (e + fxOne)) else .num false (2 * e + 1) (2 * (e + fxOne))

/-- The value of special function `fn` (0 exp, 1 exp2, 2 log, 3 log2, 4 rcp, 5 rsq, 6 sqrt, 7 tanh, 8 sigm) with the flags of
Table 2-8, and whether R52 or R53 states it exactly. [DESIGN CHOICE: notes/assumptions/18.md] -/
def specialVal (fn : Nat) (v : Val) : Val × Flags × Bool :=
  let nan : Val × Flags × Bool := (.nan false, flagNV, true)
  match fn, v with
  | _, .nan _ => (.nan false, 0, true)
  | 0, .inf s | 1, .inf s => (if s then .zero false else .inf false, 0, true)
  | 0, .num s n d => if n = 0 then (.one, 0, true) else (expVal s n d, 0, false)
  | 1, .num s n d => (exp2Val s n d, 0, n % d == 0)
  | 2, .inf s | 3, .inf s => if s then nan else (.inf false, 0, true)
  | 2, .num s n d => if n = 0 then (.inf true, flagDZ, true) else if s then nan else (lnVal n d, 0, n == d)
  | 3, .num s n d =>
    if n = 0 then (.inf true, flagDZ, true) else if s then nan else (log2Val n d, 0, (mantissa n d).2.1 == (mantissa n d).2.2)
  | 4, .inf s => (.zero s, 0, true)
  | 4, .num s n d => if n = 0 then (.inf s, flagDZ, true) else (.num s d n, 0, false)
  | 5, .inf s => if s then nan else (.zero false, 0, true)
  | 5, .num s n d => if n = 0 then (.inf s, flagDZ, true) else if s then nan
    else (.num false (sqrtRatio d n).1 (sqrtRatio d n).2, 0, false)
  | 6, .inf s => if s then nan else (.inf false, 0, true)
  | 6, .num s n d => if n = 0 then (.zero s, 0, true) else if s then nan
    else (.num false (sqrtRatio n d).1 (sqrtRatio n d).2, 0, false)
  | 7, .inf s => (.num s 1 1, 0, true)
  | 7, .num s n d => if n = 0 then (.zero s, 0, true) else (tanhVal s n d, 0, false)
  | _, .inf s => (if s then .zero false else .one, 0, true)
  | _, .num s n d => if n = 0 then (.num false 1 2, 0, true) else (sigmVal s n d, 0, false)

/-- Error bound in ulp for an FP32 destination (R52). -/
def specialBound (fn : Nat) : Nat := if fn == 0 || fn == 2 || fn == 7 || fn == 8 then 2 else 1

/-- The FP32 number with a magnitude code. -/
def gridVal (j : Nat) : Val := decodeVal 0 false j

/-- The step of the FP32 grid from a code upward; from the largest finite code, the step below it. -/
def gridStep (j : Nat) : Val :=
  let j := min j 0x7F7FFFFE
  (gridVal (j + 1)).add false (gridVal j).negate

/-- The least and the greatest place of the breakpoint of code `j`: the exact value from which on a result is `j` or above. It
leaves every result within `k` ulp of the exact value (R52). -/
def breakRange (k j : Nat) : Val × Val :=
  let doubles := 2 ^ 24 ≤ j - 1 && (j - 1) % 2 ^ 23 == 0
  (gridVal (if doubles then j - 1 else j - k), (gridVal (j - 1)).add false ((gridStep j).mul (.num false k 1)))

/-- An exact magnitude lies beyond the breakpoint of the code `j` of sign `s`: a free value picks the breakpoint in its range. -/
def beyond (fn src rm k : Nat) (s : Bool) (y : Val) (j : Nat) : Bool :=
  if j = 0 then true
  else
    let f := Config.freeSpecial fn src (j + if s then 2 ^ 31 else 0) rm
    let r := breakRange k j
    let b := r.1.add false ((r.2.add false r.1.negate).mul (.num false (f / 2 % (2 ^ fxBits + 1)) (2 ^ fxBits)))
    if f % 2 = 1 then b.lt y else !y.lt b

/-- The results between which monotony keeps an inexact result of magnitude n/d and truncated code `q`: those that R52 and R53
fix at the inputs around it. -/
def pivots (fn n d q : Nat) : Nat × Nat :=
  let code (v : Nat) : Nat := (convertBin { rm := 1 } 0 8 23 0 true true (.num false v 1)).1
  let half := 0x3F000000
  match fn with
  | 0 => if n < d then (0, code 1) else (code 1, 0x7F7FFFFF)
  | 1 => if 2 ^ 23 ≤ q then (q / 2 ^ 23 * 2 ^ 23, q / 2 ^ 23 * 2 ^ 23 + 2 ^ 23) else if q = 0 then (0, 1) else (2 ^ q.log2, 2 ^ (q.log2 + 1))
  | 3 => (code (n / d), code (n / d + 1))
  | 7 => (0, code 1)
  | 8 => if 2 * n < d then (0, half) else (half, code 1)
  | _ => (0, 0x7F7FFFFF)

/-- The FP32 magnitude code that a special function gives for the exact magnitude n/d of sign `s`: within its bound and monotonic,
else free (R52). [DESIGN CHOICE: notes/assumptions/18.md] -/
def freeCode (fn src rm : Nat) (s : Bool) (n d : Nat) : Nat :=
  let k := specialBound fn
  let q := (convertBin { rm := 1 } 0 8 23 0 true true (.num false n d)).1
  let c := ([q + 2, q + 1, q, q - 1].find? fun j => j ≤ 0x7F7FFFFF && beyond fn src rm k s (.num false n d) j).getD (q - 2)
  let p := pivots fn n d q
  max p.1 (min p.2 c)

/-- The result of a special function of the value `v`, of a source of tag `src`, in the format of `tag`: the exact value rounded
once, but for FP32, where R52 fixes a bound and monotony. [DESIGN CHOICE: notes/assumptions/18.md] -/
def special (md : FpMode) (fn src : Nat) (v : Val) (tag : Nat) : Nat × Flags :=
  let r := specialVal fn v
  let c := convert md tag r.1
  if r.2.2 then (c.1, c.2 ||| r.2.1)
  else
    match r.1 with
    | .num s n d =>
      if tag == 0 && c.2 &&& flagOF == 0 then
        let w := convert md 0 ((gridVal (freeCode fn src md.rm s n d)).withSign s)
        (w.1, c.2 ||| w.2)
      else c
    | _ => c

end Sys2Proof.Machine
end

