-- ==== Sys2Proof/Machine/Sums.lean ====
section
/-! DEFINITION. Sums of the matrix array: stores as lists, k-block sums and accumulator additions (R49, R191), and orders within
an unordered chain (R50). -/

namespace Sys2Proof.Machine

/-! ## Stores as lists -/

/-- `n` bytes of a canonical memory from address `a`, none of whose entries lies below `a`. -/
def Memory.dump (m : Memory) (a : Nat) : Nat → List Byte
  | 0 => []
  | n + 1 =>
    match m with
    | [] => 0 :: Memory.dump [] (a + 1) n
    | (b, v) :: t => if b = a then v :: Memory.dump t (a + 1) n else 0 :: Memory.dump ((b, v) :: t) (a + 1) n

/-- A canonical memory of bytes from address `a`. -/
def Memory.ofBytes (a : Nat) : List Byte → Memory
  | [] => []
  | b :: t => if b = 0 then Memory.ofBytes (a + 1) t else (a, b) :: Memory.ofBytes (a + 1) t

/-- Little-endian numbers of `w` bytes each; the fuel is the number of them. -/
def groupNat (w : Nat) : Nat → List Byte → List Nat
  | 0, _ => []
  | n + 1, bs => leNat (bs.take w) :: groupNat w n (bs.drop w)

/-- The elements of an accumulator, row by row (R188). -/
def Memory.words32 (m : Memory) (n : Nat) : List Nat := groupNat 4 n (m.dump 0 (4 * n))

/-- The memory that holds a list of 32-bit elements. -/
def packWords32 (xs : List Nat) : Memory := Memory.ofBytes 0 (xs.flatMap fun x => leBytes x 4)

/-- Consecutive runs of `k` elements; the fuel is the number of runs. -/
def chunks {α : Type} (k : Nat) : Nat → List α → List (List α)
  | 0, _ => []
  | n + 1, xs => xs.take k :: chunks k n (xs.drop k)

/-- Modes of the array's own roundings: RNE, infinities kept (R49). -/
def arrayMode : FpMode := { ovf := 1 }

/-! ## Sums (R49, R191) -/

/-- The exact sum of one k-block: invalid products and sums give NaN with NV, a NaN factor gives NaN.
[DEDUCED: notes/assumptions/23.md] -/
def blockSum (ps : List (Option Val × Option Val)) : Val × Flags :=
  let fs : List (Val × Val) := ps.filterMap fun p => match p with | (some a, some b) => some (a, b) | _ => none
  let vs := fs.map fun p => p.1.mul p.2
  let up := vs.contains (.inf false)
  let down := vs.contains (.inf true)
  if (fs.any fun p => zeroTimesInf p.1 p.2) || (up && down) then (.nan false, flagNV)
  else if fs.any fun p => p.1.isNan || p.2.isNan then (.nan false, 0)
  else if up then (.inf false, 0)
  else if down then (.inf true, 0)
  else (vs.foldl (Val.add false) (.zero false), 0)

/-- The k-block sums of a row and a column, each rounded to FP32, and their flags. [DEDUCED: notes/assumptions/23.md] -/
def blockSums (row col : List (Option Val)) : List Nat × Flags :=
  (chunks 16 (row.length / 16) (row.zip col)).foldl
    (fun (acc : List Nat × Flags) ps =>
      let v := blockSum ps
      let r := convert arrayMode 0 v.1
      (acc.1 ++ [r.1], acc.2 ||| v.2 ||| r.2)) ([], 0)

/-- An accumulator element with sums added in order, in RNE. -/
def addSums (acc : Nat) (sums : List Nat) : Nat × Flags :=
  sums.foldl (fun (a : Nat × Flags) s =>
    let r := fadd arrayMode 0 (decodeVal 0 false a.1) (decodeVal 0 false s)
    (r.1, a.2 ||| r.2)) (acc, 0)

/-- The sums of a command for every element, row by row. -/
def commandSums (rows cols : List (List (Option Val))) : List (List Nat × Flags) :=
  rows.flatMap fun r => cols.map fun c => blockSums r c

/-- The accumulator after the sums of a command, element by element. -/
def accumulate (acc : List Nat) (sums : List (List Nat)) : List Nat × Flags :=
  let r := (acc.zip sums).map fun e => addSums e.1 e.2
  (r.map (·.1), r.foldl (fun (f : Flags) e => f ||| e.2) 0)

/-- Two lists of sums merged, each keeping its order; `pick` says which gives its next element at a position (R50).
[DESIGN CHOICE: notes/assumptions/21.md] -/
def mergeSums (pick : Nat → Bool) (k : Nat) : Nat → List Nat → List Nat → List Nat
  | 0, xs, ys => xs ++ ys
  | _ + 1, [], ys => ys
  | _ + 1, xs, [] => xs
  | n + 1, x :: xs, y :: ys =>
    if pick k then x :: mergeSums pick (k + 1) n xs (y :: ys) else y :: mergeSums pick (k + 1) n (x :: xs) ys

/-- The accumulator that an unordered chain gives: for each element the sums of its commands in a free order that keeps the
k-blocks of each command in theirs (R50, notes/assumptions/5.md). -/
def ChainAcc.result (c : ChainAcc) : List Nat × Flags :=
  let terms := c.terms.map fun t => (t.1, chunks t.2.1 16384 (t.2.2.words32 (16384 * t.2.1)))
  let base := c.base.words32 16384
  let orders := (List.range 16384).map fun e =>
    terms.foldl (fun (xs : List Nat) t => mergeSums (Config.freeOrder t.1 e) 0 65536 xs (t.2.getD e [])) []
  accumulate base orders

end Sys2Proof.Machine
end

