-- ==== Sys2Proof/Machine/Control.lean ====
section
/-! DEFINITION. Branches, loops and rotation (R108 to R110), strand control (R111) and section headers (R77 to R82). -/

namespace Sys2Proof.Machine

/-! ## Branches -/

/-- The address that a displacement in words gives (R59, R74). -/
def Strand.target (d : Strand) {n : Nat} (disp : BitVec n) : DWord := d.pc + (disp.signExtend 64 <<< 2)

/-- The address after the current instruction. -/
def Strand.after (d : Strand) (size : Nat) : DWord := d.pc + BitVec.ofNat 64 size

/-- A taken branch of the current strand to a displacement. -/
def branchBody {n : Nat} (disp : BitVec n) : M Flow := do
  let s ← get
  pure (.jump (s.curStrand.target disp))

/-- `call`: the link register gets the return address (R109). -/
def callBody {n : Nat} (link : Nat) (disp : BitVec n) (size : Nat) : M Flow := do
  let s ← get
  let d := s.curStrand
  let _ ← operands [] (some link)
  writeDst link (d.after size)
  pure (.jump (d.target disp))

/-- A jump to a register value: misaligned targets take the instruction-address trap (R55). -/
def jumpTo (t : DWord) : M Flow := if t &&& 3 = 0 then pure (.jump t) else raise 6 t

/-- `brr` (R109): the target is read before the link is written. -/
def brrBody (x : Gen) : M Flow := do
  let s ← get
  let vs ← operands [x.a.toNat] (some x.d.toNat)
  writeDst x.d.toNat (s.curStrand.after 8)
  jumpTo (vs.headD 0)

/-- `ret` (R109). -/
def retBody (x : Gen) : M Flow := do
  let vs ← operands [x.a.toNat] none
  jumpTo (vs.headD 0)

/-! ## Loops -/

/-- `loop` (Table 4-9). -/
def loopBody (x : Br) : M Flow := do
  let vs ← operands [x.a.toNat] none
  let s ← get
  let d := s.curStrand
  let n : Word := (vs.headD 0).extractLsb' 0 32
  if n = 0 then pure (.jump (d.target x.disp))
  else if 6 ≤ d.loops.length then raiseWord 8
  else do
    modifyCur fun d => { d with loops := (n, 0) :: d.loops }
    pure .next

/-- The bases after a `bloop` (R76). -/
def Strand.rotate (d : Strand) : Strand := { d with bg := d.bg - 1, bp := d.bp - 1, bs := d.bs - 1 }

/-- `bloop` (Table 4-9); its commit is an iteration boundary, where a requested stop halts the strand (R95, R288). -/
def bloopBody {n : Nat} (disp : BitVec n) : M Flow := do
  let s ← get
  let d := s.curStrand
  let halt : StopMark := if s.curTask.stopReq.isSome then .boundary else d.stop
  match d.loops with
  | [] => raiseWord 8
  | (k, i) :: rest =>
    let d' := { d.rotate with stop := halt }
    if i + 1 < k then do
      modifyCur fun _ => { d' with loops := (k, i + 1) :: rest }
      pure (.jump (d.target disp))
    else do
      modifyCur fun _ => { d' with loops := rest }
      pure .next

/-- `lbrk` (Table 4-9). -/
def lbrkBody (x : Br) : M Flow := do
  let s ← get
  let d := s.curStrand
  match d.loops with
  | [] => raiseWord 8
  | _ :: rest => do
    modifyCur fun d => { d with loops := rest }
    pure (.jump (d.target x.disp))

/-- `rbset` (R110). -/
def rbsetBody (x : Gen) : M Flow := do
  let v ← operandB x.b none
  modifyCur fun d => { d with
    bg := if x.fn.getLsbD 0 then v.extractLsb' 0 5 else d.bg
    bp := if x.fn.getLsbD 1 then v.extractLsb' 0 5 else d.bp
    bs := if x.fn.getLsbD 2 then v.extractLsb' 0 7 else d.bs }
  pure .next

/-! ## Strand control -/

/-- The strand as it starts (Table 4-1), at an entry and a level, with its registers as given. -/
def Strand.start (d : Strand) (entry : DWord) (lvl : Bool) : Strand :=
  { g := d.g, p := d.p, pc := entry, lvl := lvl, state := .running, loads := d.loads }

/-- The g registers of a forked strand: g1 to g15 of the main strand, the rest its own. -/
def forkRegs (main own : Assoc DWord) : Assoc DWord :=
  (main.keep fun k _ => 1 ≤ k && k < 16) ++ own.keep fun k _ => 16 ≤ k

/-- `fork` (R111, Table 4-1); its start record goes to the engine strand's ring (R405). It waits for loads of g1 to g15 that have not returned (R96). -/
def forkBody (x : Gen) : M Flow := do
  let s ← get
  let u := unitOf (x.fn.toNat % 4)
  let t := s.curTask.strand u
  let d := s.curStrand
  if t.live then raiseWord 9
  else do
    let v ← operandB x.b none
    modify fun s => s.drain s.cur
    let entry := match x.b with
      | .code _ => v
      | _ => d.pc + (v <<< 2)
    if entry &&& 3 != 0 then raise 6 entry
    else if (List.range 15).any fun k => d.pendingG (k + 1) then stallOn .register
    else do
      let n := { t.start entry d.lvl with
        g := forkRegs d.g t.g, fcsr := d.fcsr &&& 0x1F
        loads := t.loads.filter fun l => match l.dest with | .reg k => 16 ≤ k | .queue _ => true }
      modify fun s =>
        let r : StrandRef := ⟨s.cur.task, u⟩
        let s := s.taskEdge r.task { waiter := s.strandParty r, kind := 15, prod := s.strandParty s.cur, arrive := s.cycle }
        (s.setStrand r n).boundary r
      pure .next

/-- The current strand leaves the running state: it has issued, its accesses have performed (R262), its PC is past the
instruction. -/
def leaveAs (st : StrandState) (size : Nat) : M Flow := do
  issueNow
  modify fun s =>
    let s := s.drain s.cur
    let d := s.curStrand
    (s.setStrand s.cur { d with pc := d.after size, state := st, held := none, ended := s.cycle }).boundary s.cur
  pure .gone

/-- The producer that came last in the wait of the current strand. [DESIGN CHOICE: notes/assumptions/97.md] -/
def setProducer (p : Party) : M Unit := modifyCur fun d => { d with wait := d.wait.map fun w => { w with prod := p } }

/-- The trap itself; a wait that it ends has the engine as producer. [DESIGN CHOICE: notes/assumptions/97.md] -/
def LateTrap.take (l : LateTrap) : M Unit := do
  let s ← get
  setProducer (s.taskParty s.cur.task l.hd.engine)
  throw (.trap { cause := l.cause, value := some l.value, keep := true })

/-- A trap that a join edge of the current main strand takes for the commands of an engine (R204, R238, R444): of the
vector engine, of the copy channels, of the matrix array. A trap of a vector or matrix command is taken once. -/
def lateTrap (u : UnitId) (useChannel : Channel → Bool) : M Unit := do
  let s ← get
  let x := s.curTask
  match u with
  | .vector =>
    match x.late with
    | [] => pure ()
    | l :: rest => do
      modifyTask fun x => { x with late := rest }
      l.take
  | .copy =>
    match x.chans.find? fun c => c.2.faulted && useChannel c.2 with
    | some (ch, c) => do
      setProducer (s.taskParty s.cur.task 2)
      throw (.trap { cause := 30, value := some (copyFaultValue ch c), keep := true })
    | none => pure ()
  | .matrix =>
    match x.mat.late with
    | [] => pure ()
    | l :: rest => do
      modifyTask fun x => { x with mat := { x.mat with late := rest } }
      l.take
  | .main => pure ()

/-- A command that `join` naming `u` waits for (R111). -/
def joinWaits (u : UnitId) (h : CmdHead) : Bool := h.unit == u || (h.unit == .main && engineOf h.op == u)

/-- The strands a `join` mask names. -/
def joinUnits (mask : Nat) : List UnitId := [.vector, .copy, .matrix].filter fun u => mask.testBit (u.code - 1)

/-- A strand and the commands of R111 have finished. -/
def State.joined (s : State) (t : Nat) (u : UnitId) : Bool :=
  let d := (s.task t).strand u
  d.state != .running && d.state != .stalled && !(s.cmdHeads t).any (joinWaits u)

/-- The cycle at which a strand or its engine finished. -/
def Task.finished (x : Task) (u : UnitId) : Nat :=
  max (x.strand u).ended (Assoc.getD x.engineEnd u.code (0, 0)).1

/-- The strand of a list that finished last. -/
def Task.lastFinished (x : Task) (us : List UnitId) : UnitId :=
  us.foldl (fun b u => if x.finished b ≤ x.finished u then u else b) (us.headD .vector)

/-- A Rendezvous strand becomes Idle at a completed `join`. -/
def Task.idleRendezvous (x : Task) (u : UnitId) : Task :=
  let d := x.strand u
  if d.state == .rendezvous then x.setStrand u { d with state := .idle, stop := .none } else x

/-- `join` (R111). [DEDUCED: notes/assumptions/77.md] -/
def joinBody (x : Gen) : M Flow := do
  let us := joinUnits x.fn.toNat
  for u in us do lateTrap u fun c => !c.cmds.isEmpty
  let s ← get
  let t := s.cur.task
  if us.all fun u => s.joined t u then do
    setProducer (s.taskParty t (s.curTask.lastFinished us).code)
    modify fun s => s.dropEnds t (s.curTask.joinEnds us)
    modifyTask fun x => us.foldl Task.idleRendezvous x
    pure .next
  else stallOn (.join (x.fn.extractLsb' 0 3))

/-! ## Section headers -/

/-- Section number `a` is at or after `b` (R78). -/
def atOrAfter (a b : BitVec 12) : Bool := (a - b).toNat < 2048

/-- The waits of a header held by strand `u` (R77, Table 3-12). -/
def headerWaits (h : Header) (u : UnitId) : List (UnitId × BitVec 12) :=
  ((allUnits.filter fun v => v != u).zip [h.wait0, h.wait1, h.wait2]).filter fun w => w.2 != 0xFFF

/-- A strand's wait on sections after strand `u` has reached `rs`. -/
def Strand.noteSection (u : UnitId) (rs : BitVec 12) (prod : Party) (d : Strand) : Strand :=
  match d.wait with
  | some w =>
    match w.why with
    | .sections left _ =>
      match left.find? fun e => e.1 == u && atOrAfter rs e.2 with
      | some e => { d with wait := some { w with why := .sections (left.filter fun o => o.1 != u) e, prod := prod } }
      | none => d
    | _ => d
  | none => d

/-- The task after strand `u` has retired sections up to `rs`. -/
def Task.retireSections (x : Task) (u : UnitId) (rs : BitVec 12) (prod : Party) : Task :=
  let x := x.setStrand u { x.strand u with rs }
  allUnits.foldl (fun (x : Task) v => if v == u then x else x.setStrand v ((x.strand v).noteSection u rs prod)) x

/-- A section header (R79 to R81). The accesses of the sections that it retires perform first (R264). RS changes when the header is reached, whether its waits are satisfied or not.
[DEDUCED: notes/assumptions/12.md] -/
def headerBody (h : Header) : M Flow := do
  modify fun s => s.drain s.cur
  let s ← get
  let d := s.curStrand
  let u := s.cur.unit
  if !atOrAfter h.sect d.xs then do
    if d.sect.any fun e => e.1 + 4 * e.2.zeroExtend 64 == d.pc then
      modifyTask fun x => x.retireSections u (d.xs - 1) (s.strandParty s.cur)
    throw (.trap { cause := 1, keep := true })
  else do
    modifyTask fun x => x.retireSections u (h.sect - 1) (s.strandParty s.cur)
    let left := (headerWaits h u).filter fun w => !atOrAfter (s.curTask.strand w.1).rs w.2
    if left.any fun w => !(s.curTask.strand w.1).live then throw (.trap { cause := 7, keep := true })
    else
      match left with
      | [] => do
        modifyCur fun d => { d with xs := h.sect + 1, sect := some (d.pc + 8, h.words) }
        pure .next
      | w :: _ => holdOn (.sections left w)

/-! ## Meanings -/

/-- br, short form. -/
def execBr (disp : BitVec 22) (s : State) : Result := runStrand (.shortBr 0x38 disp) (branchBody disp) s

/-- br, long form. -/
def execBrLong (x : Br) (s : State) : Result := runStrand (.br 0x38 x) (branchBody x.disp) s

/-- brr. -/
def execBrr (x : Gen) (s : State) : Result := runStrand (.gen 0x39 x) (brrBody x) s

/-- call, short form: its link is g31 (R59). -/
def execCall (disp : BitVec 22) (s : State) : Result := runStrand (.shortBr 0x3A disp) (callBody 31 disp 4) s

/-- call, long form. -/
def execCallLong (x : Br) (s : State) : Result := runStrand (.br 0x3A x) (callBody x.d.toNat x.disp 8) s

/-- ret, short form. -/
def execRet (x : Short) (s : State) : Result := runStrand (.short 0x3B x) (retBody x.toGen) s

/-- ret, long form. -/
def execRetLong (x : Gen) (s : State) : Result := runStrand (.gen 0x3B x) (retBody x) s

/-- loop. -/
def execLoop (x : Br) (s : State) : Result := runStrand (.br 0x3C x) (loopBody x) s

/-- bloop, short form. -/
def execBloop (disp : BitVec 22) (s : State) : Result := runStrand (.shortBr 0x3D disp) (bloopBody disp) s

/-- bloop, long form. -/
def execBloopLong (x : Br) (s : State) : Result := runStrand (.br 0x3D x) (bloopBody x.disp) s

/-- lbrk. -/
def execLbrk (x : Br) (s : State) : Result := runStrand (.br 0x3E x) (lbrkBody x) s

/-- rbset. -/
def execRbset (x : Gen) (s : State) : Result := runStrand (.gen 0x3F x) (rbsetBody x) s

/-- fork. -/
def execFork (x : Gen) (s : State) : Result := runStrand (.gen 0x40 x) (forkBody x) s

/-- join. -/
def execJoin (x : Gen) (s : State) : Result := runStrand (.gen 0x41 x) (joinBody x) s

/-- rdv, short form. -/
def execRdv (x : Short) (s : State) : Result := runStrand (.short 0x42 x) (leaveAs .rendezvous 4) s

/-- rdv, long form. -/
def execRdvLong (x : Gen) (s : State) : Result := runStrand (.gen 0x42 x) (leaveAs .rendezvous 8) s

/-- The strand reaches a section header. -/
def execSectionHeader (h : Header) (s : State) : Result := runStrand (.header h) (headerBody h) s

/-- An unassigned opcode or a form that does not exist: always trapped by the encoding checks (R84, R86). -/
def execUnassignedOpcode (w : Word) (s : State) : Result := runStrand (.raw w) (raiseWord 1) s

end Sys2Proof.Machine
end

