-- ==== Sys2Proof/Machine/Mem.lean ====
section
/-! DEFINITION. Loads, stores and atomics in the six spaces (R122 to R143, R151), ordering markers (R144, R145), cache
maintenance (R146, R147), and the accesses that go over a link (R374 to R378). -/

namespace Sys2Proof.Machine

/-- The six spaces (Table 5-1). -/
inductive Space where
  | p | s | n | g | x | h
  deriving DecidableEq, Repr

/-- Space of a load or store opcode (Table 5-4). -/
def memSpace (op : Nat) : Space :=
  match (op - 0x50) / 2 with
  | 0 => .p
  | 1 => .s
  | 2 => .n
  | 3 => .g
  | 4 => .x
  | _ => .h

/-- Space of an atomic opcode (Table 5-5). -/
def amoSpace (op : Nat) : Space :=
  match op - 0x5C with
  | 0 => .s
  | 1 => .n
  | 2 => .g
  | 3 => .x
  | _ => .h

/-- What an access does. -/
structure Acc where
  op : Nat
  space : Space
  /-- member index or aperture number -/
  m : Nat := 0
  a : DWord
  size : Nat
  write : Bool := false
  read : Bool := true
  deriving DecidableEq, Repr

/-- Trap value of a memory trap (R138). -/
def Acc.value (x : Acc) : DWord :=
  match x.space with
  | .x => (x.a &&& 0x0FFFFFFFFFFFFFFF) ||| BitVec.ofNat 64 (x.m * 2 ^ 60)
  | _ => x.a

/-- Bytes of a granule (R123). -/
def granule : Nat := 16384

/-- Physical scratchpad offset of a task's carve. -/
def Task.carve (x : Task) : Nat := x.gran0 * granule

/-- A trap with a value, what was done so far staying. -/
def trapOf (cause : Nat) (v : DWord) : TrapInfo := { cause, value := some v, keep := true }

/-- A scratchpad range meets a resource. -/
def Resource.meets (lo hi : Nat) : Resource → Bool
  | .pad a b => a < hi && lo < b
  | _ => false

/-- The commands of the current strand that a scalar access to scratchpad bytes waits for (R219). -/
def State.scalarWaits (s : State) (lo n : Nat) (write : Bool) : List Nat :=
  ((s.cmdHeads s.cur.task).filter fun h => h.unit == s.cur.unit &&
    (h.writes.any (Resource.meets lo (lo + n)) || (write && h.reads.any (Resource.meets lo (lo + n))))).map (·.id)

/-- A granule of the range is still to be zeroed (R149). -/
def Core.zeroingAt (c : Core) (lo n : Nat) : Bool := c.zeroing.any fun g => g * granule < lo + n && lo < (g + 1) * granule

/-- A scratchpad access: it waits for zeroing (R149) and for the strand's own engine commands (R219), and meets the errors of
the sectors that it reads or writes a part of (R140). -/
def padAccess (x : Acc) (core lo : Nat) (shared : Bool) : M (Except TrapInfo Loc) := do
  let s ← get
  if (s.core core).zeroingAt lo x.size then stallOn .zeroing
  else
    let ids := if shared && core == s.curTask.core then s.scalarWaits lo x.size x.write else []
    if !ids.isEmpty then stallOn (.engines x.op ids)
    else if (s.core core).badAt lo x.size then pure (.error (trapOf 23 x.value))
    else pure (.ok (.pad core lo shared))

/-- The access of the current strand to a page. -/
def State.strandAccess (s : State) (write host : Bool) : Access :=
  let x := s.curTask
  { ctx := x.ctx, core := some x.core, die := dieOf x.core, write, device := !host, host,
    party := s.strandParty s.cur, joined := .strand s.cur }

/-- Translation for the current strand: a stall keeps the fault it posted. -/
def translateCur (write host : Bool) (va : DWord) : M (Except TrapInfo (Nat × DWord)) := fun s =>
  match s.translate (s.strandAccess write host) va with
  | (.ok pa pte, s) => .ok (.ok (pa, pte)) s
  | (.stall y, s) => .error (.stall y true) s
  | (.trap k, s) => .ok (.error (trapOf k va)) s

/-- A G access after translation: sectors with an uncorrectable error (R140); an atomic works at the home. -/
def gAccess (x : Acc) (va : DWord) : M (Except TrapInfo Loc) := do
  match ← translateCur x.write false va with
  | .error t => pure (.error t)
  | .ok (pa, pte) => do
    let s ← get
    if s.meetsBad x.read x.write s.curTask.ctx s.curTask.core pa x.size (pteUc pte) then pure (.error (trapOf 23 va))
    else pure (.ok (.home pa pte))

/-- The carve of member `m` as the members of a task's group reach it (R125, R337): core, first granule, CS. -/
def State.memberCarve (s : State) (x : Task) (m : Nat) : Option (Nat × Nat × Nat) :=
  match x.group with
  | none => if m = 0 then some (x.core, x.gran0, x.hdr.cs) else none
  | some g =>
    let gr := s.group g
    match Assoc.get? gr.live m with
    | some t => let y := s.task t; some (y.core, y.gran0, y.hdr.cs)
    | none => (gr.ended.find? fun e => e.member == m).map fun e => (e.core, e.gran0, e.cs)

/-- The port of a peer aperture (R373): ports are numbered host 0, peer 1 and 2. -/
def Aperture.portNo (e : Aperture) : Nat := if e.port then 2 else 1

/-- The address of a peer request at an offset of an aperture (R372, R374). [DEDUCED: notes/assumptions/38.md] -/
def Aperture.target (e : Aperture) (f : Nat) : DWord :=
  BitVec.ofNat 64 (e.card.toNat * 2 ^ 60 + (e.tbase.toNat + f) % 2 ^ 55)

/-- The PASID of a peer request of a context through an aperture (R372). -/
def State.pasid (s : State) (e : Aperture) (ctx : Nat) : BitVec 16 :=
  BitVec.ofNat 16 (e.ctx.toNat + ctx % 64 * 2 ^ 6 + (s.port e.portNo).card.toNat * 2 ^ 12)

/-- A new access over a port: it fails when the port is Down and waits while it trains (R378, R380).
[DEDUCED: notes/assumptions/76.md] -/
def portAccess (x : Acc) (port : Nat) (addr : DWord) (pasid : BitVec 16) : M (Except TrapInfo Loc) := do
  let s ← get
  match (s.port port).state with
  | .down => pure (.error (trapOf 22 x.value))
  | .training | .retrain => stallOn (.port port)
  | .up | .degraded => pure (.ok (.link port addr pasid))

/-- Resolve of R137: the checks of Table 5-7 from row 3 on, in order. -/
def resolve (x : Acc) : M (Except TrapInfo Loc) := do
  let s ← get
  let t := s.curTask
  let a := x.a.toNat
  if a % x.size != 0 then pure (.error (trapOf 13 x.value))
  else
    match x.space with
    | .s =>
      if a < t.hdr.cs then padAccess x t.core (t.carve + a) true
      else pure (.error (trapOf 15 x.a))
    | .p =>
      if a < t.hdr.ps then padAccess x t.core (t.carve + t.hdr.cs + a) false
      else if t.hdr.ps + 2 ^ 32 ≤ a || t.povf == 0 then pure (.error (trapOf 14 x.a))
      else gAccess x (t.povf + BitVec.ofNat 64 (a - t.hdr.ps))
    | .n =>
      if t.gsize ≤ x.m then pure (.error (trapOf 16 (BitVec.ofNat 64 x.m)))
      else
        match s.memberCarve t x.m with
        | none => pure (.error (trapOf 16 (BitVec.ofNat 64 x.m)))
        | some (core, g0, cs) =>
          if a < cs then padAccess x core (g0 * granule + a) true
          else pure (.error (trapOf 15 x.a))
    | .g => gAccess x x.a
    | .x =>
      let e := Assoc.getD s.curCtx.apertures x.m {}
      if !e.valid || e.size.toNat < a + x.size then pure (.error (trapOf 20 x.value))
      else if x.write && !e.w then pure (.error (trapOf 19 x.value))
      else portAccess x e.portNo (e.target a) (s.pasid e t.ctx)
    | .h => do
      match ← translateCur x.write true x.a with
      | .error e => pure (.error e)
      | .ok (pa, _) => portAccess x 0 (BitVec.ofNat 64 pa) 0

/-! ## Order and links -/

/-- QMark of R137. -/
def qMark (k : Scope) : M Unit := modify fun s => s.mark k

/-- The answer that has come for the request of the current strand; none before it is sent. The strand waits while the
request is outstanding. -/
def linkAnswer : M (Option Held) := do
  let s ← get
  match s.reqs.find? fun r => r.2.strand == s.cur with
  | some (k, _) => stallOn (.link k)
  | none => pure s.curStrand.held

/-- Send a request and hold the strand until its completion (R376). [DEDUCED: notes/assumptions/76.md] -/
def sendRequest (r : LinkReq) : M Unit := do
  let s ← get
  let xlat := if r.port = 0 && r.size != 0 then s.cached (s.strandAccess false true) (vpnOf r.tval) else none
  set { s with reqs := Assoc.set s.reqs s.nextReq { r with ctx := s.curTask.ctx, xlat }, nextReq := s.nextReq + 1 }
  holdOn (.link s.nextReq)

/-- The destination of a load's or atomic's result: a physical g register or a queue; g0 takes none. -/
def State.destOf (s : State) (c : Nat) : Option LoadDest :=
  match queueOf c with
  | some q => some (.queue q)
  | none => if c = 0 then none else some (.reg (physG s.curStrand c))

/-- H stores of the context are still to be flushed by a marker of a scope (R376). -/
def State.mustFlush (s : State) (yes : Bool) (k : Scope) : Bool := yes && k == .sys && s.curCtx.posted != 0 && s.curStrand.held.isNone

/-- The zero-length read that a release of scope sys sends over the host port after H stores, before anything else of the
instruction performs (R376): the strand waits for it, and a failure is a link fault. [DEDUCED: notes/assumptions/76.md] -/
def flushHost (yes : Bool) (k : Scope) : M (Option TrapInfo) := do
  let held ← linkAnswer
  let s ← get
  if s.mustFlush yes k then
    match (s.port 0).state with
    | .down => pure (some (trapOf 22 0))
    | .training | .retrain => stallOn (.port 0)
    | .up | .degraded => do
      sendRequest { port := 0, kind := .read, addr := 0, size := 0, x := BitVec.ofNat 64 s.curCtx.posted, strand := s.cur, since := s.cycle }
      pure none
  else
    match held with
    | some (.trap c v) => pure (some (trapOf c v))
    | _ => pure none

/-- The flush of a marker of its own, whose failure is the instruction's trap. -/
def flushFor (k : Scope) : M Unit := do
  match ← flushHost true k with
  | some t => throw (.trap t)
  | none => pure ()

/-! ## Loads and stores -/

/-- The index register of a MEM or AMO operand B in the spaces that have one (R71). -/
def indexCodes (sp : Space) (b : BitVec 9) : List Nat :=
  match sp with
  | .x => []
  | _ => if b = 0x1FF then [] else [b.toNat]

/-- The address of MemAccess (R137), the base first in the values and the index or member second. -/
def accessOf (op : Nat) (sp : Space) (b : BitVec 9) (off : DWord) (size : Nat) (vs : List DWord) : Acc :=
  let sz : DWord := BitVec.ofNat 64 size
  let base := vs.headD 0
  match sp with
  | .n => { op, space := sp, m := bitsOf (second vs) 0 4, a := base + off * sz, size }
  | .x => { op, space := sp, m := b.toNat, a := base + off * sz, size }
  | _ => { op, space := sp, a := base + (if b = 0x1FF then 0 else second vs) * sz + off * sz, size }

/-- The number that a load of the current strand reads now: older loads of its bytes first, and its older stores to them in
place of what memory holds (R253, R254). -/
def State.loadNow (s : State) (l : Loc) (size : Nat) : Nat × State :=
  (s.settle s.cur s.nextLoad l size).forward s.cur s.nextLoad l size

/-- The state after a load of the current strand from a place: the value goes to the destination at once, or to its g register
in a later turn, and it may be read only then (R96, R138, R254). [DEDUCED: notes/assumptions/6.md] -/
def State.loadIn (s : State) (d : Nat) (l : Loc) (size : Nat) : State :=
  if s.defer && d != 0 && d ≤ 63 then
    let e := if s.late then (0, s) else s.loadNow l size
    let x := e.2.curStrand
    let p : PendLoad :=
      { id := s.nextLoad, dest := .reg (physG x d), value := BitVec.ofNat 64 e.1, late := if s.late then some (l, size) else none }
    { e.2.setStrand s.cur { x with loads := x.loads ++ [p] } with nextLoad := s.nextLoad + 1 }
  else
    let e := s.loadNow l size
    e.2.writeDst d (BitVec.ofNat 64 e.1)

/-- The state after a store of the current strand to a place: it performs at once, or later from the store queue (R138, R254).
[DEDUCED: notes/assumptions/8.md] -/
def State.storeOut (s : State) (l : Loc) (size v : Nat) : State :=
  if s.late then
    let x := s.curStrand
    { s.setStrand s.cur { x with stores := x.stores ++ [{ id := s.nextLoad, loc := l, size, value := v }] } with
      nextLoad := s.nextLoad + 1 }
  else (s.clearFor s.cur l size).writeAt s.cur l size v

/-- A load (R137). Its operand queues are popped when it completes. -/
def loadBody (op : Nat) (x : Mem) : M Flow := do
  let sp := memSpace op
  let size := 2 ^ x.size.toNat
  let k := scopeOf x.scope.toNat
  let held ← (match sp with | .x | .h => linkAnswer | _ => pure none)
  let codes := x.a.toNat :: indexCodes sp x.b
  let vs ← peekOperands codes (some x.d.toNat)
  let acc := accessOf op sp x.b (x.off.signExtend 64) size vs
  let acq : M Unit := if x.ord = 1 then qMark k else pure ()
  match held with
  | some (.trap c v) => throw (.trap (trapOf c v))
  | some (.value v) => do
    popNow codes
    writeDst x.d.toNat v
    acq
    pure .next
  | _ => do
    match ← resolve acc with
    | .error t => throw (.trap t)
    | .ok l => do
      match ← flushHost (x.ord == 1) k with
      | some t => throw (.trap t)
      | none =>
        match l with
        | .link port addr pasid => do
          let s ← get
          sendRequest
            { port, kind := .read, addr, size, strand := s.cur, since := s.cycle, pasid, tval := acc.value, dest := s.destOf x.d.toNat }
          pure .next
        | l => do
          popNow codes
          modify fun s => s.loadIn x.d.toNat l size
          acq
          pure .next

/-- The data of a store: the low bytes of its source. -/
def storeData (size : Nat) (v : DWord) : Nat := v.toNat % 2 ^ (8 * size)

/-- The operands of a store, its data last: the data queue is popped at issue (R138), and a store that has popped it and waits
does not pop again. -/
def storeOperands (codes : List Nat) (d : Nat) : M (List DWord) := do
  let s ← get
  match s.curStrand.popped with
  | some v => do
    modifyCur fun d => { d with popped := none }
    pure (codes.map s.source ++ [v])
  | none => do
    let vs ← peekOperands (codes ++ [d]) none
    popNow [d]
    pure vs

/-- The rest of a store that has popped its data: it keeps it while it waits (R138). -/
def keepPopped (v : DWord) (m : M Unit) : M Unit := fun s =>
  match m s with
  | .error (.stall y _) s' => .error (.stall y true) (s'.setStrand s'.cur { s'.curStrand with popped := some v })
  | r => r

/-- What a store does once its operands are read (R136 to R138): a trap carries its data when that was popped. -/
def storeRest (acc : Acc) (held : Option Held) (rel pop : Bool) (k : Scope) (v : Nat) : M Unit := do
  let fail (t : TrapInfo) : M Unit := throw (.trap { t with data := if pop then BitVec.ofNat 64 v else 0 })
  match held with
  | some (.trap c w) => fail (trapOf c w)
  | some .done => pure ()
  | _ => do
    match ← resolve acc with
    | .error t => fail t
    | .ok l => do
      match ← flushHost rel k with
      | some t => fail t
      | none => do
        if rel then qMark k
        match l with
        | .link port addr pasid => do
          let s ← get
          sendRequest
            { port, kind := .write, addr, size := acc.size, x := BitVec.ofNat 64 v, strand := s.cur, since := s.cycle, pasid, tval := acc.value }
        | l => modify fun s => s.storeOut l acc.size v

/-- A store (R137, R138). -/
def storeBody (op : Nat) (x : Mem) : M Flow := do
  let sp := memSpace op
  let size := 2 ^ x.size.toNat
  let held ← (match sp with | .x | .h => linkAnswer | _ => pure none)
  let vs ← storeOperands (x.a.toNat :: indexCodes sp x.b) x.d.toNat
  let acc := { accessOf op sp x.b (x.off.signExtend 64) size vs with write := true, read := false }
  let pop := isPopCode x.d.toNat
  let m := storeRest acc held (x.ord == 2) pop (scopeOf x.scope.toNat) (storeData size (vs.getLastD 0))
  if pop then keepPopped (vs.getLastD 0) m else m
  pure .next

/-! ## Atomics -/

/-- The new value of an atomic (R141) on `w` bits: the old value, the operand and the second operand of `cas`. -/
def atomicNew (func w old x y : Nat) : Nat :=
  let so := signedBits w old
  let sx := signedBits w x
  match func with
  | 0 => (old + x) % 2 ^ w
  | 1 => x
  | 2 => if old = x then y else old
  | 3 => if sx < so then x else old
  | 4 => if so < sx then x else old
  | 5 => min old x
  | 6 => max old x
  | 7 => old &&& x
  | 8 => old ||| x
  | _ => old ^^^ x

/-- The state without the copies of a sector that a core's L1 and its die's remote-data cache hold (R133, R253). -/
def State.dropCopies (s : State) (core pa : Nat) : State :=
  let s := s.setCore core { s.core core with l1 := (s.core core).l1.filter fun e => e.addr != pa / 32 * 32 }
  s.setDie (dieOf core) { s.die (dieOf core) with rdc := (s.die (dieOf core)).rdc.filter fun e => e.addr != pa / 32 * 32 }

/-- The state with bytes written by an atomic at a physical address: at the home, and the copies of the issuing core's L1
and die's remote-data cache dropped (R133, R253). [DEDUCED: notes/assumptions/8.md] -/
def State.atomicHome (s : State) (core pa : Nat) (bs : List Byte) (who : Party) : State :=
  (s.writeHome pa bs who).dropCopies core pa

/-- An atomic on the card: reads at the bank or the home L2, and writes unless a compare fails (R142); the strand's pending
accesses to its bytes perform before (R253). -/
def atomicLoc (l : Loc) (func size x y : Nat) : M Nat := fun s =>
  let s := s.clearFor s.cur l size
  match l with
  | .pad core lo _ =>
    let old := (s.core core).pad.nat lo size
    let new := atomicNew func (8 * size) old x y
    .ok old (if new != old || func != 2 then (s.writePad core lo (leBytes new size)).dropResidency core lo size else s)
  | .home pa _ =>
    let old := s.mem.nat pa size
    let new := atomicNew func (8 * size) old x y
    let who := s.strandParty s.cur
    let bs := if new != old || func != 2 then leBytes new size else []
    .ok old (s.atomicHome s.curTask.core pa bs who)
  | .link _ _ _ => .ok 0 s

/-- The AtomicOp of a function code that a link carries (R143). -/
def linkAtomic (func : Nat) : Option HostAtomic :=
  match func with
  | 0 => some .fetchAdd
  | 1 => some .swap
  | 2 => some .cas
  | _ => none

/-- An atomic (R141 to R143). -/
def atomicBody (op : Nat) (x : Amo) : M Flow := do
  let sp := amoSpace op
  let size := 2 ^ x.size.toNat
  let func := x.func.toNat
  let d := x.d.toNat
  let scope := scopeOf x.scope.toNat
  let held ← (match sp with | .x | .h => linkAnswer | _ => pure none)
  let ix := indexCodes sp x.b
  let codes := x.a.toNat :: ix ++ [d] ++ (if func = 2 then [d + 1] else [])
  let vs ← peekOperands codes (some d)
  let acc := { accessOf op sp x.b (x.off.signExtend 64) size vs with write := true }
  let a := storeData size (vs.getD (1 + ix.length) 0)
  let b := storeData size (vs.getD (2 + ix.length) 0)
  let acq : M Unit := if x.ord.getLsbD 0 then qMark scope else pure ()
  match held with
  | some (.trap c v) => throw (.trap (trapOf c v))
  | some (.value v) => do
    popNow codes
    writeDst d v
    acq
    pure .next
  | _ => do
    let onLink : Bool := match sp with | .x | .h => true | _ => false
    if onLink && (linkAtomic func).isNone then throw (.trap (trapOf 24 acc.value))
    else
      match ← resolve acc with
      | .error t => throw (.trap t)
      | .ok l => do
        match ← flushHost (x.ord != 0) scope with
        | some t => throw (.trap t)
        | none => do
          if x.ord.getLsbD 1 then qMark scope
          match l with
          | .link port addr pasid => do
            let s ← get
            sendRequest
              { port, kind := .atomic ((linkAtomic func).getD .fetchAdd), addr, size, x := BitVec.ofNat 64 a
                y := BitVec.ofNat 64 b, strand := s.cur, since := s.cycle, pasid, tval := acc.value, dest := s.destOf d }
            pure .next
          | l => do
            let old ← atomicLoc l func size a b
            popNow codes
            writeDst d (BitVec.ofNat 64 old)
            acq
            pure .next

/-! ## Ordering markers and cache maintenance -/

/-- `qmark` (R144). -/
def qmarkBody (x : Gen) : M Flow := do
  flushFor (scopeOf (x.fn.toNat % 8))
  qMark (scopeOf (x.fn.toNat % 8))
  pure .next

/-- The hoops that a scope covers for `rfence` (R145). -/
def State.fenceHoops (s : State) (k : Scope) : List Nat :=
  let x := s.curTask
  let own := hoopOf x.core
  match k with
  | .core => [own]
  | .group =>
    match x.group with
    | none => [own]
    | some g =>
      let gr := s.group g
      gr.live.map (fun e => hoopOf (s.task e.2).core) ++ gr.ended.map fun e => hoopOf e.core
  | .die => (List.range 64).map (dieOf x.core * 64 + ·)
  | .dev | .sys => List.range 256

/-- The state without the record-cache entries of a context in some hoops: one record, or all (R145). -/
def State.dropRecords (s : State) (hoops : List Nat) (ctx : Nat) (id : Option Nat) : State :=
  let keep (e : RecEntry) : Bool := e.ctx != ctx || (id.isSome && id != some e.id)
  { s with hoops := s.hoops.map fun (h : Nat × Hoop) =>
      if hoops.contains h.1 then (h.1, { h.2 with record := h.2.record.filter keep }) else h }

/-- `rfence` (R145): every older store of the strand performs first. -/
def rfenceBody (x : Gen) : M Flow := do
  let all := x.fn.getLsbD 3
  let codes := if all then [] else [x.a.toNat]
  let vs ← peekOperands codes none
  flushFor (scopeOf (x.fn.toNat % 8))
  popNow codes
  modify fun s => s.drain s.cur
  modify fun s => s.dropRecords (s.fenceHoops (scopeOf (x.fn.toNat % 8))) s.curTask.ctx
    (if all then none else some (bitsOf (vs.headD 0) 0 16))
  pure .next

/-- The page numbers that a byte range meets. -/
def rangePages (va : DWord) (n : Nat) : Nat := if n = 0 then 0 else (va.toNat % 65536 + n - 1) / 65536 + 1

/-- Physical pieces of a range that lie in present device pages, page by page: (address, bytes) (R146). -/
def State.flushPieces (s : State) (ctx : Nat) (va : DWord) (n : Nat) : Nat → List (Nat × Nat)
  | 0 => []
  | fuel + 1 =>
    if n = 0 then []
    else
      -- beyond the canonical low half nothing is mapped until the upper half begins (R126)
      let k := min n (if canonical va then 65536 - va.toNat % 65536 else 2 ^ 64 - 2 ^ 54 - va.toNat)
      let rest := State.flushPieces s ctx (va + BitVec.ofNat 64 k) (n - k) fuel
      match s.peekMap ctx va with
      | some (pa, pte) => if pteSpace pte == 0 then (pa, k) :: rest else rest
      | none => rest

/-- A sector lies in one of the pieces. -/
def inPieces (ps : List (Nat × Nat)) (a : Nat) : Bool := ps.any fun p => p.1 ≤ a && a < p.1 + p.2

/-- The dies whose remote-data cache a scope of `cflush` covers (R146). -/
def flushDies (k : Scope) (core : Nat) : List Nat :=
  match k with
  | .core | .group => []
  | .die => [dieOf core]
  | .dev | .sys => List.range 4

/-- The state without the copies of the sectors in some pieces that the L1 of a core and the remote-data caches of a scope hold
(R146). -/
def State.dropLines (s : State) (core : Nat) (k : Scope) (ps : List (Nat × Nat)) : State :=
  let cut (l : List Sector) := l.filter fun e => !inPieces ps e.addr
  let s := s.setCore core { s.core core with l1 := cut (s.core core).l1 }
  { s with dies := s.dies.map fun (d : Nat × Die) =>
      if (flushDies k core).contains d.1 then (d.1, { d.2 with rdc := cut d.2.rdc }) else d }

/-- `cflush` (R146): the L2s hold the values of memory here, so writing back changes nothing, and dropping removes copies
from the L1 and the remote-data caches. -/
def cflushBody (x : Mem) : M Flow := do
  let codes := x.a.toNat :: (if x.b = 0x1FF then [] else [x.b.toNat])
  let vs ← operands codes none
  let s ← get
  let start := vs.headD 0 + (x.off.signExtend 64 <<< 7)
  let len := if x.b = 0x1FF then 128 else (second vs).toNat
  if !canonical start then raise 17 start
  else if len = 0 || x.size = 0 then pure .next
  else
    let va := start &&& 0xFFFFFFFFFFFFFF80
    let n := (len + (start.toNat % 128) + 127) / 128 * 128
    let ps := s.flushPieces s.curTask.ctx va n (min (rangePages va n) (2 ^ 39 + 4))
    modify fun s => s.dropLines s.curTask.core (scopeOf x.scope.toNat) ps
    pure .next

/-- Fill of one line by `pfch`: its four sectors, where the address maps to a device page (R147). -/
def State.prefetch (s : State) (l1 : Bool) (va : DWord) : State :=
  let x := s.curTask
  match s.peekMap x.ctx va with
  | none => s
  | some (pa, pte) =>
    if pteSpace pte != 0 || !s.owned x.ctx (pa / 2 ^ 16) then s
    else
      (List.range 4).foldl (fun s k =>
        if s.dieBad x.ctx (dieOf x.core) (pa / 128 * 128 + 32 * k) 32 then s
        else if l1 && !pteUc pte then (s.coreSector x.ctx x.core (pa / 128 * 128 + 32 * k)).2
        else (s.dieSector x.ctx (dieOf x.core) (pa / 128 * 128 + 32 * k)).2) s

/-- Lines of a range from `va`. -/
def State.prefetchLines (s : State) (l1 : Bool) (va : DWord) : Nat → State
  | 0 => s
  | n + 1 => State.prefetchLines (s.prefetch l1 va) l1 (va + 128) n

/-- `pfch` (R147). -/
def pfchBody (x : Mem) : M Flow := do
  let codes := x.a.toNat :: (if x.b = 0x1FF then [] else [x.b.toNat])
  let vs ← operands codes none
  let start := vs.headD 0 + (x.off.signExtend 64 <<< 7)
  let len := if x.b = 0x1FF then 128 else (second vs).toNat
  let n := if len = 0 then 0 else min 64 ((start.toNat % 128 + len + 127) / 128)
  modify fun s => s.prefetchLines (x.size == 0) (start &&& 0xFFFFFFFFFFFFFF80) n
  pure .next

/-! ## Meanings -/

/-- ldp. -/
def execLdp (x : Mem) (s : State) : Result := runStrand (.mem 0x50 x) (loadBody 0x50 x) s

/-- stp. -/
def execStp (x : Mem) (s : State) : Result := runStrand (.mem 0x51 x) (storeBody 0x51 x) s

/-- lds. -/
def execLds (x : Mem) (s : State) : Result := runStrand (.mem 0x52 x) (loadBody 0x52 x) s

/-- sts. -/
def execSts (x : Mem) (s : State) : Result := runStrand (.mem 0x53 x) (storeBody 0x53 x) s

/-- ldn. -/
def execLdn (x : Mem) (s : State) : Result := runStrand (.mem 0x54 x) (loadBody 0x54 x) s

/-- stn. -/
def execStn (x : Mem) (s : State) : Result := runStrand (.mem 0x55 x) (storeBody 0x55 x) s

/-- ldg. -/
def execLdg (x : Mem) (s : State) : Result := runStrand (.mem 0x56 x) (loadBody 0x56 x) s

/-- stg. -/
def execStg (x : Mem) (s : State) : Result := runStrand (.mem 0x57 x) (storeBody 0x57 x) s

/-- ldx. -/
def execLdx (x : Mem) (s : State) : Result := runStrand (.mem 0x58 x) (loadBody 0x58 x) s

/-- stx. -/
def execStx (x : Mem) (s : State) : Result := runStrand (.mem 0x59 x) (storeBody 0x59 x) s

/-- ldh. -/
def execLdh (x : Mem) (s : State) : Result := runStrand (.mem 0x5A x) (loadBody 0x5A x) s

/-- sth. -/
def execSth (x : Mem) (s : State) : Result := runStrand (.mem 0x5B x) (storeBody 0x5B x) s

/-- ams. -/
def execAms (x : Amo) (s : State) : Result := runStrand (.amo 0x5C x) (atomicBody 0x5C x) s

/-- amn. -/
def execAmn (x : Amo) (s : State) : Result := runStrand (.amo 0x5D x) (atomicBody 0x5D x) s

/-- amg. -/
def execAmg (x : Amo) (s : State) : Result := runStrand (.amo 0x5E x) (atomicBody 0x5E x) s

/-- amx. -/
def execAmx (x : Amo) (s : State) : Result := runStrand (.amo 0x5F x) (atomicBody 0x5F x) s

/-- amh. -/
def execAmh (x : Amo) (s : State) : Result := runStrand (.amo 0x60 x) (atomicBody 0x60 x) s

/-- qmark. -/
def execQmark (x : Gen) (s : State) : Result := runStrand (.gen 0x61 x) (qmarkBody x) s

/-- rfence. -/
def execRfence (x : Gen) (s : State) : Result := runStrand (.gen 0x62 x) (rfenceBody x) s

/-- cflush. -/
def execCflush (x : Mem) (s : State) : Result := runStrand (.mem 0x63 x) (cflushBody x) s

/-- pfch. -/
def execPfch (x : Mem) (s : State) : Result := runStrand (.mem 0x64 x) (pfchBody x) s

end Sys2Proof.Machine
end

