-- ==== Sys2Proof/Machine/Timeline.lean ====
section
/-! DEFINITION. Group barriers (R343 to R347) and timelines (R348 to R353): the instructions 0x68 to 0x6D. -/

namespace Sys2Proof.Machine

/-! ## Groups of one -/

/-- The state in which a task has a group: a task placed alone is a group of one (R313, R343), entered in the file of
groups when something of the group is first used. -/
def State.withGroup (s : State) (t : Nat) : State :=
  let x := s.task t
  match x.group with
  | some _ => s
  | none =>
    { (s.setTask t { x with group := some s.nextGroup }).setGroup s.nextGroup
        { index := x.index, size := 1, live := [(0, t)] } with
      nextGroup := s.nextGroup + 1 }

/-- The group of a task. -/
def Task.groupNo (x : Task) : Nat := x.group.getD 0

/-! ## Barriers -/

/-- A group barrier by number. -/
def Group.barrier (g : Group) (n : Nat) : Barrier := Assoc.getD g.barriers n {}

/-- The barrier after one arrival with a count and expected bytes (R345 steps 2 and 3).
[DESIGN CHOICE: notes/assumptions/26.md] -/
def Barrier.arrive (b : Barrier) (cnt bytes : Nat) : Barrier :=
  { b with
    cnt := if b.set then b.cnt else cnt
    set := true
    arr := b.arr + 1
    exp := (b.exp + bytes) % 2 ^ 32 }

/-- The state after the main strand of a task arrives at barrier `n` of its group, and the phases that this completes.
[DESIGN CHOICE: notes/assumptions/26.md] -/
def State.arrive (s : State) (t n cnt bytes : Nat) : State :=
  let s := s.withGroup t
  let g := (s.task t).groupNo
  let gr := s.group g
  (s.setGroup g { gr with barriers := Assoc.set gr.barriers n ((gr.barrier n).arrive cnt bytes) }).settleBarriers g
    (s.taskParty t 0)

/-- The state after bytes that a copy landed are posted to a barrier of a task's group (R344). -/
def State.postBarrier (s : State) (t n bytes : Nat) (who : Party) : State :=
  let s := s.withGroup t
  let g := (s.task t).groupNo
  let gr := s.group g
  let b := gr.barrier n
  (s.setGroup g { gr with
    barriers := Assoc.set gr.barriers n { b with posted := min (b.posted + bytes) (2 ^ 32 - 1) } }).settleBarriers g who

/-- The scope of a barrier instruction: never narrower than group (R352). -/
def barrierScope (fn : BitVec 9) : Scope :=
  match scopeOf (fn.toNat % 8) with
  | .core => .group
  | k => k

/-- `bar` and `barx` (R345, R347, R354). A strand that has arrived waits for its phase, with no second arrival (R346). -/
def barBody (x : Gen) (expects : Bool) : M Flow := do
  let s ← get
  let d := s.curStrand
  let k := barrierScope x.fn
  match d.wait.map fun (w : Wait) => w.why with
  | some (.barrier n ph bytes) => do
    let c := s.curTask.chan (n - 12)
    if d.held.isSome then do
      qMark k
      pure .next
    else if bytes && c.faulted then do
      setProducer (s.taskParty s.cur.task 2)
      throw (.trap (trapOf 30 (copyFaultValue (n - 12) c)))
    else stallOn (.barrier n ph bytes)
  | _ => do
    let codes := (if expects then [x.a.toNat] else []) ++ Src.codes x.b
    let vs ← peekOperands codes none
    let n := (srcVal x.b (vs.getLastD 0)).toNat % 16
    let bytes := if expects then bitsOf (vs.headD 0) 0 32 else 0
    let cnt := x.fn.toNat / 16
    if s.curTask.gsize < cnt || (expects && n < 12) then raiseWord 2
    else do
      flushFor k
      popNow codes
      modifyCur fun d => { d with held := none }
      qMark k
      let ph := (((s.withGroup s.cur.task).group (s.withGroup s.cur.task).curTask.groupNo).barrier n).phase
      modify fun s => s.arrive s.cur.task n cnt bytes
      let s ← get
      if ((s.group s.curTask.groupNo).barrier n).phase != ph then do
        qMark k
        pure .next
      else holdOn (.barrier n ph (bytes != 0))

/-! ## Timelines -/

/-- A timeline is poisoned (R351). -/
def State.isPoisoned (s : State) (pa : Nat) : Bool := (s.die (Config.homeDie pa)).poison.contains pa

/-- The address of a timeline instruction, checked, translated, and not poisoned, with no pending access of the strand to the
word; the error of its sector at the home is met last (R140, R353). -/
def tlAccess (a : DWord) (write : Bool) : M Nat := do
  if a &&& 7 != 0 then raise 13 a
  else
    match ← translateCur write false a with
    | .error t => throw (.trap t)
    | .ok (pa, pte) => do
      let s ← get
      if s.isPoisoned pa then throw (.trap (trapOf 31 a))
      else if s.isBad pa 8 then throw (.trap (trapOf 23 a))
      else do
        modify fun s => s.clearFor s.cur (.home pa pte) 8
        pure pa

/-- The monitor entry of a task (R349). -/
def State.monitorOf (s : State) (t : Nat) : Option Monitor :=
  s.dies.findSome? fun d => d.2.monitor.find? fun e => e.task == t

/-- The state without the monitor entries of a task. -/
def State.dropMonitor (s : State) (t : Nat) : State :=
  { s with dies := s.dies.map fun (d : Nat × Die) => (d.1, { d.2 with monitor := d.2.monitor.filter fun e => e.task != t }) }

/-- The state with a wait entered in the monitor of the word's home die; without a free entry it is held with the task
(R349, R350). [DEDUCED: notes/assumptions/30.md] -/
def State.registerWait (s : State) (t pa : Nat) (threshold : DWord) : State :=
  let s := s.dropMonitor t
  let k := Config.homeDie pa
  let d := s.die k
  let full := 4096 ≤ (d.monitor.filter fun e => !e.inImage).length
  let s := s.setTask t { s.task t with refused := 0 }
  s.setDie k { d with monitor := d.monitor ++ [{ addr := pa, threshold := threshold.toNat, task := t, inImage := full }] }

/-- A value read from or written to a timeline leaves no older copy of its sector where the strand's later loads would
find it (R253). [DEDUCED: notes/assumptions/25.md] -/
def dropMyCopies (pa : Nat) : M Unit := modify fun s => s.dropCopies s.curTask.core pa

/-- The end of a `tlwait`: its acquire and the value it observed. -/
def tlwaitEnd (x : Gen) (v : DWord) : M Flow := do
  qMark (scopeOf (x.fn.toNat % 8))
  popNow (x.a.toNat :: Src.codes x.b)
  writeDst x.d.toNat v
  pure .next

/-- `tlwait` (R349 to R351, R353). A wait already entered ends by its release or by a poison. -/
def tlwaitBody (x : Gen) : M Flow := do
  let vs ← peekOperands (x.a.toNat :: Src.codes x.b) (some x.d.toNat)
  let a := vs.headD 0
  let threshold := srcVal x.b (second vs)
  let s ← get
  let mine := s.curStrand.wait.any fun w => w.why == .timeline a threshold
  match if mine then s.monitorOf s.cur.task else none with
  | some e =>
    match e.released with
    | some (v, who) => do
      modify fun s => s.dropMonitor s.cur.task
      setProducer who
      dropMyCopies e.addr
      tlwaitEnd x v
    | none =>
      if e.poisoned then do
        modify fun s => s.dropMonitor s.cur.task
        setProducer (controllerParty s)
        throw (.trap (trapOf 31 a))
      else stallOn (.timeline a threshold)
  | none => do
    let pa ← tlAccess a false
    let s ← get
    let v := s.mem.word pa
    if v.toNat < threshold.toNat then do
      modify fun s => s.registerWait s.cur.task pa threshold
      holdOn (.timeline a threshold)
    else do
      dropMyCopies pa
      tlwaitEnd x v

/-- `tlread` (R353). [DEDUCED: notes/assumptions/25.md] -/
def tlreadBody (x : Gen) : M Flow := do
  let vs ← peekOperands [x.a.toNat] (some x.d.toNat)
  let pa ← tlAccess (vs.headD 0) false
  let s ← get
  dropMyCopies pa
  qMark (scopeOf (x.fn.toNat % 8))
  popNow [x.a.toNat]
  writeDst x.d.toNat (s.mem.word pa)
  pure .next

/-- A delivery enters the list of the task's fault record: 28 are kept, the others counted (R324, R353). -/
def Task.deliver (x : Task) (a v : DWord) : Task :=
  if x.deliveries.length < 28 then { x with deliveries := x.deliveries ++ [(a, v)] } else { x with dropped := x.dropped + 1 }

/-- A value written to a timeline at its home by the current strand, and recorded. -/
def tlWrite (a : DWord) (pa : Nat) (v : DWord) : M Unit := do
  modify fun s => s.atomicHome s.curTask.core pa (leBytes v.toNat 8) (s.strandParty s.cur)
  modifyTask fun x => x.deliver a v

/-- `tlinc` (R353): a sum of 2^64 or more traps and leaves the value. -/
def tlincBody (x : Gen) : M Flow := do
  let codes := x.a.toNat :: Src.codes x.b
  let vs ← peekOperands codes (some x.d.toNat)
  let a := vs.headD 0
  let pa ← tlAccess a true
  flushFor (scopeOf (x.fn.toNat % 8))
  qMark (scopeOf (x.fn.toNat % 8))
  let s ← get
  let n := (s.mem.word pa).toNat + (srcVal x.b (second vs)).toNat
  if 2 ^ 64 ≤ n then throw (.trap (trapOf 32 a))
  else do
    popNow codes
    tlWrite a pa (BitVec.ofNat 64 n)
    writeDst x.d.toNat (BitVec.ofNat 64 n)
    pure .next

/-- `tlset` (R353). -/
def tlsetBody (x : Gen) : M Flow := do
  let codes := x.a.toNat :: Src.codes x.b
  let vs ← peekOperands codes none
  let a := vs.headD 0
  let pa ← tlAccess a true
  flushFor (scopeOf (x.fn.toNat % 8))
  qMark (scopeOf (x.fn.toNat % 8))
  popNow codes
  tlWrite a pa (srcVal x.b (second vs))
  pure .next

/-- The increment of a timeline by the device itself, at a physical address: refused on a poisoned one and at its top
(R315, R351, R384). [DEDUCED: notes/assumptions/88.md] -/
def State.deviceInc (s : State) (pa : Nat) (who : Party) : State :=
  let v := s.mem.nat pa 8
  if s.isPoisoned pa || 2 ^ 64 ≤ v + 1 then s else s.setHome pa 8 (v + 1) who

/-- A timeline poisoned: the list of its home die holds the latest 256, and every wait on it that is pending takes its trap
(R351). -/
def State.poison (s : State) (pa : Nat) : State :=
  let k := Config.homeDie pa
  let d := s.die k
  let l := if d.poison.contains pa then d.poison else d.poison ++ [pa]
  let mark (e : Monitor) : Monitor := if e.addr == pa && e.released.isNone then { e with poisoned := true } else e
  s.setDie k { d with poison := l.drop (l.length - 256), monitor := d.monitor.map mark }

/-! ## Meanings -/

/-- tlwait. -/
def execTlwait (x : Gen) (s : State) : Result := runStrand (.gen 0x68 x) (tlwaitBody x) s

/-- tlinc. -/
def execTlinc (x : Gen) (s : State) : Result := runStrand (.gen 0x69 x) (tlincBody x) s

/-- tlread. -/
def execTlread (x : Gen) (s : State) : Result := runStrand (.gen 0x6A x) (tlreadBody x) s

/-- tlset. -/
def execTlset (x : Gen) (s : State) : Result := runStrand (.gen 0x6B x) (tlsetBody x) s

/-- bar. -/
def execBar (x : Gen) (s : State) : Result := runStrand (.gen 0x6C x) (barBody x false) s

/-- barx. -/
def execBarx (x : Gen) (s : State) : Result := runStrand (.gen 0x6D x) (barBody x true) s

end Sys2Proof.Machine
end

