-- ==== Sys2Proof/Machine/Queues.lean ====
section
/-! DEFINITION. What the dispatcher reads and keeps of queues and launches: code objects (R308, R309), launch records and
their checks (R311, R312), acceptance (R298), and the Idle and Ready states of a queue (R296). -/

namespace Sys2Proof.Machine

/-! ## Reads by the dispatcher -/

/-- What a read of a table by a unit of the device ends in: its words, a wait for a page, or nothing readable (R312). -/
inductive DevRead where
  | ok (ws : List DWord)
  | wait (y : Why)
  | bad
  deriving DecidableEq, Repr

/-- `n` words at a virtual address, within one page, read at their home L2. [DEDUCED: notes/assumptions/88.md] -/
def State.devRead (s : State) (x : Access) (va : DWord) (n : Nat) : DevRead × State :=
  match s.translate x va with
  | (.ok pa _, s) => (if s.isBad pa (8 * n) then .bad else .ok (s.mem.words pa n), s)
  | (.stall y, s) => (.wait y, s)
  | (.trap _, s) => (.bad, s)

/-! ## Code objects -/

/-- What a task header gives (Table 12-1). -/
structure CodeObject where
  hdr : TaskHeader
  gsize : Nat
  entry : Word
  refs : List TileRef
  deriving DecidableEq, Repr

/-- Bytes of the shared part of a carve (R308). -/
def sharedBytes (gran psu : Nat) : Nat := gran * granule - psu * 128

/-- Tile reference `k` of a header's words (Table 12-2). -/
def tileRef (ws : List DWord) (k : Nat) : TileRef :=
  let b := 512 + 128 * k
  { record := BitVec.ofNat 16 (bitsAt ws b 16), list := bitsAt ws (b + 16) 1 == 1
    vdelta := BitVec.ofNat 8 (bitsAt ws (b + 24) 8), imul := BitVec.ofNat 32 (bitsAt ws (b + 32) 32)
    iadd := BitVec.ofNat 32 (bitsAt ws (b + 64) 32) }

/-- A used tile reference holds no reserved value. -/
def tileRefOk (ws : List DWord) (k : Nat) : Bool :=
  let b := 512 + 128 * k
  bitsAt ws (b + 17) 7 == 0 && bitsAt ws (b + 96) 32 == 0 && (bitsAt ws (b + 16) 1 == 0 || bitsAt ws (b + 32) 64 == 0)

/-- A header holds no reserved value (Table 12-1). -/
def headerOk (ws : List DWord) : Bool :=
  let f := bitsAt ws
  f 0 16 == 1 && f 16 4 ≤ 8 && f 20 4 == 0 && 1 ≤ f 24 5 && f 24 5 ≤ 16 && f 29 3 == 0 && f 32 10 ≤ 512 &&
  f 32 10 * 128 ≤ f 24 5 * granule && f 42 6 == 0 && f 48 6 ≤ 32 && f 54 2 == 0 && f 56 4 ≤ 8 &&
  f 64 32 % 4 == 0 && 256 ≤ f 64 32 && f 96 416 == 0 && f 1536 512 == 0 &&
  (List.range (f 16 4)).all (tileRefOk ws)

/-- The code object of a header's 32 words; none when it holds a reserved value. -/
def parseHeader (ws : List DWord) : Option CodeObject :=
  let f := bitsAt ws
  if headerOk ws then
    some
      { hdr := { gran := f 24 5, cs := sharedBytes (f 24 5) (f 32 10), ps := f 32 10 * 128, slots := f 48 6, acc := f 56 4 }
        gsize := f 60 4 + 1
        entry := BitVec.ofNat 32 (f 64 32)
        refs := (List.range (f 16 4)).map (tileRef ws) }
  else none

/-! ## Work of a queue -/

/-- A launch has undispatched tasks. -/
def Launch.undispatched (l : Launch) : Bool := l.next < l.count

/-- The timeline wait that parked a task is still pending (R350). -/
def State.parkPending (s : State) (t : Nat) : Bool :=
  (s.task t).parked &&
  match s.monitorOf t with
  | some e => e.released.isNone && !e.poisoned
  | none => false

/-- A saved task may be placed again (R293, R305, R340, R350): its group's images are complete, no result is outstanding,
and no parked wait is pending. -/
def State.resumable (s : State) (t : Nat) : Bool :=
  ((s.task t).group.all fun g => (s.group g).faults.isEmpty) && (s.members t).all fun m => (s.task m).life == .saved && (s.task m).pending == 0 && !s.parkPending m

/-- The saved tasks of a queue that may be placed again. -/
def State.resumables (s : State) (q : Nat) : List Nat :=
  (s.tasks.filter fun e => e.2.queue == q && e.2.life == .saved && s.resumable e.1).map (·.1)

/-- A queue has an undispatched task or a resumable saved task. -/
def State.hasWork (s : State) (q : Nat) : Bool :=
  ((s.queue q).launches.any fun l => (s.launch l).undispatched) || !(s.resumables q).isEmpty

/-- The state with a queue Ready or Idle as its work has it (Table 11-3). -/
def State.settleQueue (s : State) (q : Nat) : State :=
  let x := s.queue q
  match if x.destroying then .free else x.state with
  | .idle => if s.hasWork q then s.setQueue q { x with state := .ready } else s
  | .ready => if s.hasWork q then s else s.setQueue q { x with state := .idle, deficit := min x.deficit 0 }
  | _ => s

/-! ## Acceptance -/

/-- What the checks of a launch give (R312). -/
inductive LaunchCheck where
  | ok (l : Launch)
  | fails (code : Nat)
  | wait (y : Why)
  deriving DecidableEq, Repr

/-- A launch record passes the first check of R312. -/
def recordOk (ws : List DWord) : Bool :=
  let f := bitsAt ws
  f 76 20 == 0 && f 288 32 == 0 && f 0 8 == 0 && f 128 4 == 0 && f 192 3 == 0 &&
  (if f 64 1 == 1 then f 96 32 == 0 else f 128 64 == 0)

/-- The launch that a record, its code object and its number of tasks give. -/
def launchOf (q : Nat) (ws : List DWord) (o : CodeObject) (count : Nat) : Launch :=
  let f := bitsAt ws
  { queue := q, code := BitVec.ofNat 64 (f 0 64), list := f 64 1 == 1
    hint := if f 65 1 == 1 then some (f 66 10) else none
    tlist := BitVec.ofNat 64 (f 128 64), donetl := BitVec.ofNat 64 (f 192 64), ver := BitVec.ofNat 32 (f 256 32)
    args := [BitVec.ofNat 64 (f 320 64), BitVec.ofNat 64 (f 384 64), BitVec.ofNat 64 (f 448 64)]
    hdr := o.hdr, gsize := o.gsize, entry := o.entry, refs := o.refs, count }

/-- The checks of R312 on a launch record, in order, with the reads of the code-object header and the tile-list header,
whose reserved bits are ignored. [DESIGN CHOICE: notes/assumptions/101.md] -/
def State.checkLaunch (s : State) (q : Nat) (rec : Option (List DWord)) : LaunchCheck × State :=
  match rec with
  | none => (.fails 6, s)
  | some ws =>
    if !recordOk ws then (.fails 1, s)
    else
      let a := s.dispatcherAccess (s.queue q).ctx false jobLaunch q
      match s.devRead a (BitVec.ofNat 64 (bitsAt ws 0 64)) 32 with
      | (.wait y, s) => (.wait y, s)
      | (.bad, s) => (.fails 2, s)
      | (.ok hs, s) =>
        match parseHeader hs with
        | none => (.fails 2, s)
        | some o =>
          if bitsAt ws 64 1 == 1 then
            match s.devRead a (BitVec.ofNat 64 (bitsAt ws 128 64)) 2 with
            | (.wait y, s) => (.wait y, s)
            | (.bad, s) => (.fails 3, s)
            | (.ok ts, s) => if o.gsize != 1 then (.fails 4, s) else (.ok (launchOf q ws o (bitsAt ts 0 32)), s)
          else
            let n := bitsAt ws 96 32 * o.gsize
            if 2 ^ 32 ≤ n then (.fails 5, s) else (.ok (launchOf q ws o n), s)

/-- The state with a fault of the queue itself (R303, R312): cause 25 and a code, for a task index of launch `l`.
[DEDUCED: notes/assumptions/29.md] -/
def State.launchFault (s : State) (q l code task : Nat) : State :=
  let party := dispatcherParty s (Config.homeDie (s.ctx (s.queue q).ctx).ptroot.toNat)
  let record := faultRecord 25 false task (BitVec.ofNat 64 code) 0 party s.cycle (s.launch l).seq 0 []
  (s.faultQueue q l).putRecord q record

/-- The party is the host's. -/
def isHost (p : Party) : Bool := p.toNat / 2 ^ 7 % 8 == 7

/-- Host launches of a queue accepted in this cycle, the last of its sequence: a device launch comes before them (R298).
[DEDUCED: notes/assumptions/103.md] -/
def State.sameCycle (s : State) (q : Nat) (party : Party) : List Nat :=
  if isHost party then []
  else
    ((s.queue q).launches.reverse.takeWhile fun l =>
      (s.launch l).accepted == s.cycle && isHost (s.launch l).party && (s.launch l).next == 0).reverse

/-- A launch joins the sequence of its queue (R298): its number and the state. [DEDUCED: notes/assumptions/103.md] -/
def State.joinLaunch (s : State) (q : Nat) (l : Launch) : Nat × State :=
  let n := s.nextLaunch
  let x := s.queue q
  let after := s.sameCycle q l.party
  let seq := x.nextSeq - after.length
  let s := { s.setLaunch n { l with seq, accepted := s.cycle } with nextLaunch := n + 1 }
  let s := after.foldl (fun (s : State) k => s.updLaunch k fun o => { o with seq := o.seq + 1 }) s
  let st := if x.state == .idle then .ready else x.state
  let ls := x.launches.take (x.launches.length - after.length) ++ [n] ++ after
  (seq, (s.setQueue q { x with nextSeq := x.nextSeq + 1, state := st, launches := ls }).settleQueue q)

/-- The completion timeline of a launch that fails its checks, when its record names one (R306). -/
def lostTimeline (rec : Option (List DWord)) : List DWord :=
  match rec with
  | some ws => let a := ws.getD 3 0; if a == 0 || a &&& 7 != 0 then [] else [a]
  | none => []

/-- The dispatcher accepts a launch of a queue (R298, R312): its sequence number and the state, or the wait of a read. A
queue that is Poisoned discards it (R306), and so does one that a Destroy is at work on (R307). -/
def State.acceptLaunch (s : State) (q : Nat) (rec : Option (List DWord)) (party : Party) (step : Option Step) :
    Except Why Nat × State :=
  let x := s.queue q
  if x.state == .poisoned || x.destroying then (.ok x.nextSeq, s.setQueue q { x with nextSeq := x.nextSeq + 1 })
  else
    match s.checkLaunch q rec with
    | (.wait y, s) => (.error y, s)
    | (.fails code, s) =>
      let n := s.nextLaunch
      let x := s.queue q
      let s := { s.setLaunch n { queue := q, seq := x.nextSeq, accepted := s.cycle, party, faulted := true } with
        nextLaunch := n + 1 }
      let x := { x with nextSeq := x.nextSeq + 1, lost := x.lost ++ lostTimeline rec }
      (.ok (x.nextSeq - 1), (s.setQueue q x).launchFault q n code (2 ^ 32 - 1))
    | (.ok l, s) => let r := s.joinLaunch q { l with party, step }; (.ok r.1, r.2)

end Sys2Proof.Machine
end

