-- ==== Sys2Proof/Machine/Launch.lean ====
section
/-! DEFINITION. The end of a task and its successor (R112, R322, R323), device launches (R326), and tile-list entries and
residency entries (R316, R327 to R330). -/

namespace Sys2Proof.Machine

/-! ## exit -/

/-- An engine strand of the task is live (R112). -/
def Task.engineLive (x : Task) : Bool := x.vector.live || x.copy.live || x.matrix.live

/-- `exit` without a successor (R112, R322). [DEDUCED: notes/assumptions/77.md] -/
def exitBody : M Flow := do
  let s ← get
  let t := s.cur.task
  if s.curTask.engineLive then raiseWord 9
  else do
    lateTrap .vector fun _ => true
    lateTrap .copy fun c => c.cmds.any fun k => k.hd.usesCarve
    lateTrap .matrix fun _ => true
    if s.carveUsers t then stallOn .exitCarve
    else do
      setProducer s.curTask.carveEnd
      issueNow
      modify fun s => s.endTask t false
      pure .gone

/-- The main strand of a task as it starts (Table 4-1, R275, R313): its entry, its level and its arguments g1, g2, .... -/
def startMain (entry : DWord) (lvl : Bool) (args : List (Nat × DWord)) : Strand :=
  { pc := entry, lvl, state := .running, g := args.foldl (fun (m : Assoc DWord) a => Assoc.set m a.1 a.2) [] }

/-- The task continued as a successor (R323): it keeps what the rule names, and its strands start anew.
[DEDUCED: notes/assumptions/31.md] -/
def Task.succeed (x : Task) (code : DWord) (entry : Word) (arg : DWord) (ver : Word) (lvl : Bool) (now : Nat) : Task :=
  { x with
    code
    main := startMain (code + entry.zeroExtend 64) lvl
      [(1, arg), (4, BitVec.ofNat 64 x.index), (5, ver.zeroExtend 64)]
    vector := { lvl }, copy := { lvl }, matrix := { lvl }
    povf := 0, runtime := 0, placed := now }

/-- The access with which the current strand's exit or launch reads a table at its home L2. -/
def State.tableAccess (s : State) : Access := s.strandAccess false false

/-- `exit.succ` (R323): it takes what R444 leaves to `exit`; a header that cannot be read, or does not match, gives the format trap.
[DEDUCED: notes/assumptions/31.md] -/
def exitSuccBody (x : Gen) : M Flow := do
  let codes := x.a.toNat :: Src.codes x.b
  let vs ← peekOperands codes none
  let code := vs.headD 0
  let s ← get
  if s.curTask.engineLive then raiseWord 9
  lateTrap .vector fun _ => true
  modify fun s => s.drainTask s.cur.task
  let s ← get
  let t := s.cur.task
  let me := s.curTask
  if code &&& 0xFF != 0 then raiseWord 25
  else
    match s.devRead s.tableAccess code 32 with
    | (.wait y, s') => do
      set s'
      holdOn y
    | (.bad, s') => do
      set s'
      throw (.trap { cause := 25, keep := true })
    | (.ok ws, s') => do
      set s'
      match parseHeader ws with
      | none => throw (.trap { cause := 25, keep := true })
      | some o =>
        if o.hdr != me.hdr || o.gsize != me.gsize then throw (.trap { cause := 25, keep := true })
        else do
          popNow codes
          issueNow
          modify fun s =>
            let s := s.chargeTask t
            let q := s.queue me.queue
            let l := s.launch me.launch
            (s.setTask t ((s.task t).succeed code o.entry (srcVal x.b (second vs)) l.ver q.supv s.cycle)).boundary s.cur
          pure .gone

/-! ## launch -/

/-- `launch` (R326). -/
def launchBody (x : Gen) : M Flow := do
  let self := x.fn.getLsbD 0
  let codes := x.a.toNat :: (if self then [] else Src.codes x.b)
  let vs ← peekOperands codes (some x.d.toNat)
  let a := vs.headD 0
  let s ← get
  let me := s.curTask
  let q := if self then me.queue else (srcVal x.b (second vs)).toNat % 1024
  if a &&& 63 != 0 then raise 13 a
  else
    match ← translateCur false false a with
    | .error t => throw (.trap t)
    | .ok (pa, pte) => do
      let s ← get
      if s.isBad pa 64 then throw (.trap (trapOf 23 a))
      modify fun s => s.clearFor s.cur (.home pa pte) 64
      let s ← get
      let y := s.queue q
      if y.state == .free || y.state == .poisoned || y.ctx != me.ctx then throw (.trap { cause := 25, keep := true })
      else
        match s.acceptLaunch q (some (s.mem.words pa 8)) (s.strandParty s.cur) me.step with
        | (.error _, s') => do
          set s'
          holdOn .accept
        | (.ok seq, s') => do
          set s'
          qMark .dev
          popNow codes
          writeDst x.d.toNat (BitVec.ofNat 64 seq)
          pure .next

/-! ## Tile-list entries -/

/-- The second register of a destination pair has a load still to return (R96). -/
def pairReady (d : Nat) : M Unit := do
  let s ← get
  if s.curStrand.pendingG (d + 1) then stallOn .register else pure ()

/-- Write a pair of registers. -/
def writePair (d : Nat) (a b : DWord) : M Unit := do
  writeDst d a
  writeDst (d + 1) b

/-- `tlnext` (R327). -/
def tlnextBody (x : Gen) : M Flow := do
  let _ ← operands [] (some x.d.toNat)
  pairReady x.d.toNat
  let s ← get
  let t := s.curTask
  if t.taken then writePair x.d.toNat 0xFFFFFFFFFFFFFFFF 0
  else do
    modifyTask fun t => { t with taken := true }
    writePair x.d.toNat t.entry 0
  pure .next

/-! ## Residency entries -/

/-- Residency entry `k` of a core. -/
def Core.resident (c : Core) (k : Nat) : Residency := Assoc.getD c.residency k {}

/-- An entry is Owned by a task and has a record and key. -/
def Residency.isOf (e : Residency) (t : Nat) (rec : BitVec 16) (key : Word) : Bool :=
  e.state == .owned && e.task == t && e.record == rec && e.key == key

/-- The Standing entry declared least recently. -/
def Core.oldestStanding (c : Core) : Option Nat :=
  ((List.range 64).foldl (fun (b : Option Nat) k =>
    let e := c.resident k
    if e.state != .standing then b
    else match b with
      | none => some k
      | some j => if e.order < (c.resident j).order then some k else b) none)

/-- The entry that a declaration takes (R328): one of the same record and key, a Free one, or the oldest Standing one. -/
def Core.declareAt (c : Core) (t : Nat) (rec : BitVec 16) (key : Word) : Option Nat :=
  match (List.range 64).find? fun k => (c.resident k).isOf t rec key with
  | some k => some k
  | none =>
    match (List.range 64).find? fun k => (c.resident k).state == .free with
    | some k => some k
    | none => c.oldestStanding

/-- The state with an entry declared for a task at a carve offset, if one is available. -/
def State.declare (s : State) (t : Nat) (rec : BitVec 16) (key ver : Word) (off len : Nat) : Option State :=
  let x := s.task t
  let c := s.core x.core
  (c.declareAt t rec key).map fun k =>
    let e : Residency := ⟨.owned, x.ctx, t, rec, key, ver, x.carve + off, len, s.nextDecl⟩
    { s.setCore x.core { c with residency := Assoc.set c.residency k e } with nextDecl := s.nextDecl + 1 }

/-- The engine commands of a task that write a scratchpad range. -/
def State.writersOf (s : State) (t lo n : Nat) : List Nat :=
  ((s.cmdHeads t).filter fun h => h.writes.any (Resource.meets lo (lo + n))).map (·.id)

/-- `rsdecl` (R328). -/
def rsdeclBody (x : Gen) : M Flow := do
  let codes := [x.a.toNat, x.a.toNat + 1] ++ Src.codes x.b
  let vs ← peekOperands codes (some x.d.toNat)
  let a := vs.headD 0
  let b := vs.getLastD 0
  let off := bitsOf b 0 18
  let len := bitsOf b 32 19
  drainPad
  let s ← get
  let t := s.curTask
  if off % 32 != 0 then raise 13 (BitVec.ofNat 64 off)
  else if len = 0 || t.hdr.cs < off + len then raise 15 (BitVec.ofNat 64 off)
  else
    match s.writersOf s.cur.task (t.carve + off) len with
    | id :: ids => stallOn (.engines 0x71 (id :: ids))
    | [] => do
      match s.declare s.cur.task (a.extractLsb' 0 16) (a.extractLsb' 32 32) ((second vs).extractLsb' 0 32) off len with
      | some s' => do
        set s'
        popNow codes
        writeDst x.d.toNat 1
      | none => do
        popNow codes
        writeDst x.d.toNat 0
      pure .next

/-- `rsdrop` (R329). -/
def rsdropBody (x : Gen) : M Flow := do
  let all := x.fn.getLsbD 0
  let vs ← operands (if all then [] else [x.a.toNat]) none
  let a := vs.headD 0
  modify fun s =>
    let c := s.core s.curTask.core
    let mine (e : Residency) : Bool :=
      if all then e.state == .owned && e.task == s.cur.task
      else e.isOf s.cur.task (a.extractLsb' 0 16) (a.extractLsb' 32 32)
    s.setCore s.curTask.core { c with residency := c.residency.map fun e => (e.1, if mine e.2 then {} else e.2) }
  pure .next

/-- `rsread` (R330): of several matches, the one declared last. -/
def rsreadBody (x : Gen) : M Flow := do
  let vs ← operands [x.a.toNat, x.a.toNat + 1] (some x.d.toNat)
  pairReady x.d.toNat
  let s ← get
  let a := vs.headD 0
  let t := s.curTask
  let ver : Word := (second vs).extractLsb' 0 32
  let found := (s.core t.core).residency.filter fun e =>
    e.2.isOf s.cur.task (a.extractLsb' 0 16) (a.extractLsb' 32 32) && (x.fn.getLsbD 0 || e.2.ver == ver)
  match found with
  | [] => writePair x.d.toNat 0 0
  | e :: es => do
    let r := (es.foldl (fun (b : Residency) o => if b.order < o.2.order then o.2 else b) e.2)
    writePair x.d.toNat (BitVec.ofNat 64 (2 ^ 63 + r.len * 2 ^ 32 + (r.off - t.carve))) (r.ver.zeroExtend 64)
  pure .next

/-! ## Meanings -/

/-- exit. -/
def execExit (x : Gen) (s : State) : Result := runStrand (.gen 0x44 x) exitBody s

/-- exit.succ. -/
def execExitSucc (x : Gen) (s : State) : Result := runStrand (.gen 0x44 x) (exitSuccBody x) s

/-- launch. -/
def execLaunch (x : Gen) (s : State) : Result := runStrand (.gen 0x70 x) (launchBody x) s

/-- rsdecl. -/
def execRsdecl (x : Gen) (s : State) : Result := runStrand (.gen 0x71 x) (rsdeclBody x) s

/-- rsdrop. -/
def execRsdrop (x : Gen) (s : State) : Result := runStrand (.gen 0x72 x) (rsdropBody x) s

/-- rsread. -/
def execRsread (x : Gen) (s : State) : Result := runStrand (.gen 0x73 x) (rsreadBody x) s

/-- tlnext. -/
def execTlnext (x : Gen) (s : State) : Result := runStrand (.gen 0x74 x) (tlnextBody x) s

end Sys2Proof.Machine
end

