-- ==== Sys2Proof/Machine/Engine.lean ====
section
/-! DEFINITION. What every engine command goes through (R80, R200, R218, R220): its entry into a queue, the address-range
checker, its start record (R405), and its completion. -/

namespace Sys2Proof.Machine

/-! ## The checker -/

/-- Two resources share something (R218). [DEDUCED: notes/assumptions/79.md] -/
def Resource.hits (x y : Resource) : Bool :=
  match x, y with
  | .pad a b, .pad c d => a < b && c < d && a < d && c < b
  | .slot n k, .slot m j => n == m && k == j
  | .acc n, .acc m => n == m
  | _, _ => false

/-- Two lists of resources share something. -/
def anyHit (xs ys : List Resource) : Bool := xs.any fun x => ys.any x.hits

/-- Two commands conflict (R218). [DEDUCED: notes/assumptions/79.md] -/
def CmdHead.conflicts (x y : CmdHead) : Bool :=
  anyHit x.writes y.writes || anyHit x.writes y.reads || anyHit y.writes x.reads

/-- An older command of the same task that conflicts has not completed (R218). -/
def State.blocked (s : State) (h : CmdHead) : Bool := (s.cmdHeads h.task).any fun o => o.id < h.id && o.conflicts h

/-- A resource of a core or of its hoop is still to be zeroed for its new owner (R149). -/
def State.unzeroed (s : State) (core : Nat) : Resource → Bool
  | .pad lo hi => (s.core core).zeroingAt lo (hi - lo)
  | .slot n _ => (Assoc.getD (s.hoop (hoopOf core)).slots n {}).zeroing
  | .acc n => (Assoc.getD (s.hoop (hoopOf core)).accs n {}).zeroing

/-- A command meets storage that is still to be zeroed, in its sets or in a range of another member's scratchpad. -/
def State.meetsZeroing (s : State) (h : CmdHead) : Bool :=
  (h.reads ++ h.writes).any (s.unzeroed (s.task h.task).core)

/-- Commands that the checker of a core tracks (R220). -/
def State.tracked (s : State) (c : Nat) : Nat :=
  (s.core c).vq.length + (s.core c).mq.length +
  (s.tasks.map fun t => if t.2.core == c && t.2.life != .saved then t.2.cpyHeads.length else 0).sum

/-! ## Entry -/

/-- The head of a command of the current strand, numbered in the order of entry. -/
def State.newHead (s : State) (v : View) (op : Nat) (md : FpMode) (reads writes : List Resource) : CmdHead :=
  { id := s.nextCmd, w0 := v.firstWord, task := s.cur.task, unit := s.cur.unit, op, issued := s.cycle, mode := md, reads, writes }

/-- The issue of an engine command stalls while the checker tracks 64 commands (R220). -/
def checkerRoom (u : Nat) (ch : Nat) : M Unit := do
  let s ← get
  if 64 ≤ s.tracked s.curTask.core then stallOn (.engineQueue u ch) else pure ()

/-- A trap that an earlier command of the task has left, when the checker orders a command with these sets after it: the instruction
that issues the later command observes it (Table 9-4, R204, R444). A vector command's trap is the main strand's.
[DEDUCED: notes/assumptions/77.md] -/
def lateFor (reads writes : List Resource) : M Unit := do
  let s ← get
  let x := s.curTask
  let seen (l : LateTrap) : Bool := ({ reads, writes } : CmdHead).conflicts l.hd
  match if s.cur.unit == .main then x.late.find? seen else none with
  | some l => do
    modifyTask fun x => { x with late := x.late.filter fun o => o.hd.id != l.hd.id }
    l.take
  | none =>
    match x.mat.late.find? seen with
    | some l => do
      modifyTask fun x => { x with mat := { x.mat with late := x.mat.late.filter fun o => o.hd.id != l.hd.id } }
      l.take
    | none => pure ()

/-- The next command gets the next number. -/
def countCmd : M Unit := modify fun s => { s with nextCmd := s.nextCmd + 1 }

/-! ## Progress -/

/-- Cycles from issue to now, without those the task spent away (R403). -/
def CmdHead.waitedFor (h : CmdHead) (now : Nat) : Nat := now - h.issued - h.away

/-- The start of a command: its command-start record (R405), unless a lease-wait record stands for it. -/
def State.startCmd (s : State) (h : CmdHead) : State :=
  if h.unit == .main || h.waited then
    s.taskEdge h.task
      { waiter := s.taskParty h.task h.engine, kind := 17, saved := h.saved, arrive := s.cycle, waited := h.waitedFor s.cycle
        prod := if h.waited then h.prod else s.taskParty h.task 0, obj := BitVec.ofNat 64 h.op }
  else s

/-- A command in execution begins or goes on with a wait (R159, R236). A wait on something else has ended before. -/
def CmdHead.hold (h : CmdHead) (y : Why) (prod : Party) (now : Nat) : CmdHead :=
  match h.wait with
  | some w => if w.why == y then h else { h with wait := some { why := y, since := now, prod } }
  | none => { h with wait := some { why := y, since := now, prod } }

/-- The wait of a command in execution ends: its record is written into the engine party's ring when it lasted one cycle or
more. -/
def State.endCmdWait (s : State) (h : CmdHead) : State :=
  match h.wait with
  | none => s
  | some w =>
    match w.why.edge with
    | none => s
    | some (k, obj) =>
      if w.cycles s.cycle = 0 then s
      else
        s.taskEdge h.task
          { waiter := s.taskParty h.task h.engine, kind := k, prod := w.prod, saved := w.saved, arrive := s.cycle
            waited := w.cycles s.cycle, obj }

/-- The state after the wait of a command in execution has ended, unless it goes on with the same wait (R366, R404). -/
def State.changeCmdWait (s : State) (h : CmdHead) (y : Why) : State :=
  if h.wait.any fun w => w.why == y then s else s.endCmdWait h

/-! ## Completion -/

/-- A wait of a strand that a completed command was part of knows its last producer. -/
def Strand.noteCmd (id : Nat) (who : Party) (d : Strand) : Strand :=
  match d.wait with
  | some w =>
    match w.why with
    | .engines _ ids => if ids.contains id then { d with wait := some { w with prod := who } } else d
    | _ => d
  | none => d

/-- A command that waited for a completed one knows its last producer (R405). -/
def CmdHead.noteCmd (h : CmdHead) (who : Party) (now : Nat) (o : CmdHead) : CmdHead :=
  if o.task == h.task && !o.started && h.id < o.id && h.conflicts o && o.issued < now then { o with waited := true, prod := who, cleared := now } else o

/-- The state with flags of an engine command in the issuing strand's fcsr (R42). -/
def State.orFlags (s : State) (h : CmdHead) (k : Flags) : State :=
  let r : StrandRef := ⟨h.task, h.unit⟩
  s.setStrand r { s.strand r with fcsr := fcsrWith (s.strand r).fcsr k }

/-- An ended task whose last command has completed is complete, and its claims are free (R199, R315). -/
def State.finishEnded (s : State) (t : Nat) : State :=
  match Assoc.get? s.tasks t with
  | none => s
  | some x =>
    if x.life == .ended && (s.cmdHeads t).isEmpty then
      let s := s.dropLease t
      let s := if x.orphaned then s else s.countComplete x (s.taskParty t 0)
      s.eraseTask t
    else s

/-- The state after a command has completed and left its queue. -/
def State.completeCmd (s : State) (h : CmdHead) (flags : Flags) : State :=
  let who := s.taskParty h.task h.engine
  let s := s.orFlags h flags
  let x := s.task h.task
  let note := CmdHead.noteCmd h who s.cycle
  let x := { x with
    main := x.main.noteCmd h.id who, vector := x.vector.noteCmd h.id who
    copy := x.copy.noteCmd h.id who, matrix := x.matrix.noteCmd h.id who
    engineEnd := Assoc.set x.engineEnd h.engine (s.cycle, who)
    carveEnd := if h.usesCarve then who else x.carveEnd
    chans := x.chans.map fun c => (c.1, { c.2 with cmds := c.2.cmds.map fun k => { k with hd := note k.hd } }) }
  let k := s.core x.core
  let s := s.setTask h.task x
  let s := s.setCore x.core { k with
    vq := k.vq.map fun c => { c with hd := note c.hd }
    mq := k.mq.map fun c => { c with hd := note c.hd } }
  s.finishEnded h.task

end Sys2Proof.Machine
end

