-- ==== Sys2Proof/Machine/Span.lean ====
section
/-! DEFINITION. Span registers: fields, extents and elements (R152 to R154), and the instructions 0xB8 to 0xBC (R183,
R184). -/

namespace Sys2Proof.Machine

/-! ## Fields (Table 6-1) -/

def spBase (d : DWord) : Nat := bitsOf d 0 18
def spStride (d : DWord) : Int := (d.extractLsb' 18 16).toInt
def spCount (d : DWord) : Nat := bitsOf d 34 16
def spTag (d : DWord) : Nat := bitsOf d 50 6
def spRemote (d : DWord) : Bool := d.getLsbD 56
def spMember (d : DWord) : Nat := bitsOf d 57 4

/-- The descriptor with a field of `n` bits from `lo` replaced. -/
def setField (d : DWord) (lo n : Nat) (v : DWord) : DWord :=
  let m : DWord := BitVec.ofNat 64 ((2 ^ n - 1) * 2 ^ lo)
  (d &&& ~~~m) ||| ((v <<< lo) &&& m)

/-- Offset and width of a selected field (R183). -/
def spanField (sel : Nat) : Nat × Nat :=
  match sel with
  | 0 => (0, 18)
  | 1 => (18, 16)
  | 2 => (34, 16)
  | 3 => (50, 6)
  | _ => (56, 5)

/-! ## Extents (R153) -/

/-- Bytes of `n` elements of a tag from byte 0, in whole bytes for elements below a byte. -/
def dataBytes (d : DWord) : Nat := elemBytes (spTag d) (spCount d)

/-- Lowest byte of the elements, and the byte after the highest. -/
def spanData (d : DWord) : Int × Int :=
  let w := elemBits (spTag d)
  if w < 8 then ((spBase d : Int), ((spBase d + dataBytes d : Nat) : Int))
  else
    let far : Int := ((spCount d : Int) - 1) * spStride d * ((w / 8 : Nat) : Int)
    ((spBase d : Int) + min 0 far, (spBase d : Int) + max 0 far + ((w / 8 : Nat) : Int))

/-- Round up to a multiple. -/
def roundUp (n k : Nat) : Nat := (n + k - 1) / k * k

/-- The offset at which the scale stream of a block-scaled span begins (R33). -/
def scaleStart (d : DWord) : Nat := roundUp (spBase d + dataBytes d) 32

/-- Nibbles of a stream of `n` blocks as it stands, from nibble `pos` (R33). -/
def streamNibbles (stream : Nat → Byte) (pos : Nat) : Nat → Nat
  | 0 => pos
  | n + 1 => streamNibbles stream (if nibbleAt stream pos = 8 then pos + 3 else pos + 1) n

/-- The extent of a span that is written, or of one whose stream takes `len` bytes: none when COUNT is 0. -/
def spanExtent (d : DWord) (len : Option Nat) : Option (Int × Int) :=
  if spCount d = 0 then none
  else
    let e := spanData d
    if isBlock (spTag d) then
      some (e.1, ((scaleStart d + (len.getD ((3 * (spCount d / 32) + 1) / 2)) : Nat) : Int))
    else some e

/-! ## Where a span lies -/

/-- Core, carve offset and CS of the carve a span of a task names (R125, R152): none for a member beyond the group. -/
def State.spanHome (s : State) (t : Nat) (d : DWord) : Option (Nat × Nat × Nat) :=
  let x := s.task t
  if spRemote d then
    if spMember d < x.gsize then (s.memberCarve x (spMember d)).map fun e => (e.1, e.2.1 * granule, e.2.2) else none
  else some (x.core, x.carve, x.hdr.cs)

/-- The byte at an offset of a carve. -/
def State.padByte (s : State) (core carve off : Nat) : Byte := (s.core core).pad.byte (carve + off)

/-- The length in bytes of the scale stream of a span, as it stands. -/
def State.streamLen (s : State) (core carve : Nat) (d : DWord) : Nat :=
  (streamNibbles (fun k => s.padByte core carve (scaleStart d + k)) 0 (spCount d / 32) + 1) / 2

/-- The scales of a span's blocks, and the block of a scale-range fault (R33). -/
def State.spanScales (s : State) (core carve : Nat) (d : DWord) : List Nat × Option Nat :=
  decodeScales (fun k => s.padByte core carve (scaleStart d + k)) (4 * elemBits (spTag d)) 0 0 127 (spCount d / 32)

/-- Physical byte and packed position of element `k` of a span in its carve (R153). -/
def elemAt (carve : Nat) (d : DWord) (k : Nat) : Nat × Nat :=
  let w := elemBits (spTag d)
  if w < 8 then (carve + spBase d, k)
  else (((carve + spBase d : Nat) + (k : Int) * spStride d * ((w / 8 : Nat) : Int)).toNat, 0)

/-- Bits of element `k` of a task's span. -/
def State.spanElem (s : State) (t : Nat) (d : DWord) (k : Nat) : Nat :=
  match s.spanHome t d with
  | none => 0
  | some (core, carve, _) =>
    let a := elemAt carve d k
    (s.core core).pad.elem a.1 (spTag d) a.2

/-- The state after scratchpad bytes have been written: their residency entries are free (R317), and they have no error (R140). -/
def State.touchPad (s : State) (core lo n : Nat) : State :=
  let s := s.dropResidency core lo n
  let c := s.core core
  if c.bad.isEmpty then s else s.setCore core { c with bad := c.bad.filter fun b => b < lo || lo + n ≤ b }

/-- The state with element `k` of a task's span written, and the residency entries of its bytes freed (R317). -/
def State.setSpanElem (s : State) (t : Nat) (d : DWord) (k v : Nat) : State :=
  match s.spanHome t d with
  | none => s
  | some (core, carve, _) =>
    let a := elemAt carve d k
    let w := elemBits (spTag d)
    let s := s.setCore core { s.core core with pad := (s.core core).pad.setElem a.1 (spTag d) a.2 v }
    if w < 8 then s.touchPad core (a.1 + k * w / 8) ((k * w % 8 + w + 7) / 8) else s.touchPad core a.1 (w / 8)

/-- The state with bytes written at a carve offset of a task's span. -/
def State.setSpanBytes (s : State) (t : Nat) (d : DWord) (off : Nat) (bs : List Byte) : State :=
  match s.spanHome t d with
  | none => s
  | some (core, carve, _) => (s.writePad core (carve + off) bs).dropResidency core (carve + off) bs.length

/-- The checker's resource of an extent in the issuing task's own scratchpad (R218); a span of a member is in no set. -/
def padSet (carve : Nat) (d : DWord) (e : Option (Int × Int)) : List Resource :=
  match e with
  | none => []
  | some (lo, hi) => if spRemote d then [] else [.pad (carve + lo.toNat) (carve + hi.toNat)]

/-- Physical bytes of a span as (core, from, to), for overlap (R164, R439). -/
def State.spanPhys (s : State) (t : Nat) (d : DWord) (e : Option (Int × Int)) : Option (Nat × Int × Int) :=
  match e, s.spanHome t d with
  | some (lo, hi), some (core, carve, _) => some (core, lo + carve, hi + carve)
  | _, _ => none

/-- Two physical extents share a byte. -/
def physMeet (x y : Option (Nat × Int × Int)) : Bool :=
  match x, y with
  | some (c, a, b), some (d, e, f) => c == d && a < f && e < b
  | _, _ => false

/-! ## Bodies -/

/-- `sdef`. -/
def sdefBody (x : Gen) : M Flow := do
  let vs ← operands [x.a.toNat] none
  modify fun s => s.writeSpan x.d.toNat (vs.headD 0)
  pure .next

/-- `sset`. -/
def ssetBody (x : Gen) : M Flow := do
  let v ← operandB x.b none
  modify fun s =>
    let f := spanField (x.fn.toNat % 8)
    s.writeSpan x.d.toNat (setField (s.readSpan x.d.toNat) f.1 f.2 v)
  pure .next

/-- The value of `sget`. -/
def sgetValue (sel : Nat) (d : DWord) : DWord :=
  if sel = 7 then d
  else if sel = 1 then (d.extractLsb' 18 16).signExtend 64
  else
    let f := spanField sel
    BitVec.ofNat 64 (bitsOf d f.1 f.2)

/-- `sget`. -/
def sgetBody (x : Gen) : M Flow := do
  let _ ← operands [] (some x.d.toNat)
  let s ← get
  writeDst x.d.toNat (sgetValue (x.fn.toNat % 8) (s.readSpan x.a.toNat))
  pure .next

/-- `sadv`: the element width of a reserved tag is not stated, so the offset it then gives is a free value
(notes/assumptions/5.md). [DEDUCED: notes/assumptions/81.md] -/
def sadvBody (x : Gen) : M Flow := do
  let v ← operandB x.b none
  let s ← get
  let d := s.readSpan x.d.toNat
  let put (b : Int) : M Flow := do
    modify fun s => s.writeSpan x.d.toNat (setField d 0 18 (BitVec.ofInt 64 b))
    pure .next
  if x.fn.getLsbD 0 then put (spBase d + v.toInt)
  else
    let bits := v.toInt * spStride d * (elemBits (spTag d) : Nat)
    if reservedTag (spTag d) then do
      let r := s.fresh
      set r.2
      put r.1.toInt
    else if bits % 8 != 0 then raiseWord 25
    else put (spBase d + bits / 8)

/-- `sfmt` (R184). The count that a reserved old tag gives is a free value (notes/assumptions/5.md).
[DEDUCED: notes/assumptions/81.md] -/
def sfmtBody (x : Gen) : M Flow := do
  let s ← get
  let d := s.readSpan x.a.toNat
  let tag := x.fn.toNat % 64
  let bits := spCount d * elemBits (spTag d)
  let w := elemBits tag
  let put (n : DWord) : M Flow := do
    modify fun s => s.writeSpan x.d.toNat (setField (setField d 34 16 n) 50 6 (BitVec.ofNat 64 tag))
    pure .next
  if spCount d != 0 && spStride d != 1 then raiseWord 25
  else if spCount d != 0 && reservedTag (spTag d) then do
    let r := s.fresh
    set r.2
    put r.1
  else if bits % w != 0 || 65535 < bits / w then raiseWord 25
  else put (BitVec.ofNat 64 (bits / w))

/-! ## Meanings -/

/-- sdef. -/
def execSdef (x : Gen) (s : State) : Result := runStrand (.gen 0xB8 x) (sdefBody x) s

/-- sset. -/
def execSset (x : Gen) (s : State) : Result := runStrand (.gen 0xB9 x) (ssetBody x) s

/-- sget. -/
def execSget (x : Gen) (s : State) : Result := runStrand (.gen 0xBA x) (sgetBody x) s

/-- sadv. -/
def execSadv (x : Gen) (s : State) : Result := runStrand (.gen 0xBB x) (sadvBody x) s

/-- sfmt. -/
def execSfmt (x : Gen) (s : State) : Result := runStrand (.gen 0xBC x) (sfmtBody x) s

end Sys2Proof.Machine
end

