-- ==== Sys2Proof/Machine/Vector.lean ====
section
/-! DEFINITION. Vector instructions 0x90 to 0xB6 (spec/06_vector_spans.md): capture of operands and the issue checks (R154 to
R160), the result of one element (R161, R162, R167 to R171, R176 to R179), reductions (R172 to R175), set intersection and
hash probes (R180, R181). -/

namespace Sys2Proof.Machine

/-! ## Classes of tags -/

/-- FLT. -/
def isFlt (t : Nat) : Bool := t ≤ 3 || t == 0x1C

/-- INT. -/
def isIntTag (t : Nat) : Bool := (0x18 ≤ t && t ≤ 0x1B) || t == 0x09 || t == 0x0A

/-- The tags of the special functions (R170). -/
def isSpecTag (t : Nat) : Bool := t ≤ 5 || t == 0x0E

/-- The tags of an index span (R176). -/
def isIndexTag (t : Nat) : Bool := (0x18 ≤ t && t ≤ 0x1B) || t == 0x0A

/-- Table 6-2: format `f` widens exactly from tag `t`, other than `f` itself. -/
def widens (f t : Nat) : Bool :=
  match f with
  | 0x1C => t == 0
  | 0x00 => 1 ≤ t && t ≤ 5
  | 0x01 => 2 ≤ t && t ≤ 5
  | 0x02 | 0x03 => t == 4 || t == 5
  | 0x18 => t == 0x1A || t == 0x1B || t == 0x09 || t == 0x0A
  | 0x19 => t == 0x1B || t == 0x0A
  | 0x1A => t == 0x09 || t == 0x0A
  | 0x1B => t == 0x0A
  | _ => false

/-! ## Operands -/

/-- An instruction that reads B as a span operand or a literal. -/
def usesB (op : Nat) : Bool :=
  !(op == 0x96 || op == 0x97 || op == 0x9A || (0xA1 ≤ op && op ≤ 0xAB) || op == 0xB0 || op == 0xB1 || op == 0xB4 || op == 0xB5)

/-- n is A's COUNT (R173, R175 to R178, R181). -/
def countsFromA (op : Nat) : Bool :=
  op == 0xAA || op == 0xAC || op == 0xAF || op == 0xB3 || op == 0xB4 || op == 0xB5

/-- A span code's operand, after renaming (R154, Table 3-7). -/
def State.spanOper (s : State) (c : BitVec 9) : Oper :=
  if c.toNat < 384 then .span (s.readSpan c.toNat) else .queue ((c.toNat - 384) % 16) (400 ≤ c.toNat)

/-- The literal of a vector instruction as one element of a format (R166, Table 3-5). -/
def literalBits (tag : Nat) (w : Word) : DWord :=
  if tag = 0x1C then BitVec.ofNat 64 (convertBin { ovf := BitVec.ofNat 128 (2 ^ 56) } 0x1C 11 52 0 true true
    (decodeVal 0 false w.toNat)).1
  else BitVec.ofNat 64 (w.toNat % 2 ^ elemBits tag)

/-- COUNT of a span operand. -/
def Oper.count : Oper → Option Nat
  | .span d => some (spCount d)
  | _ => Option.none

/-- Tag of a span operand. -/
def Oper.tag? : Oper → Option Nat
  | .span d => some (spTag d)
  | _ => Option.none

/-- Queue number of a queue operand. -/
def Oper.queue? : Oper → Option Nat
  | .queue q _ => some q
  | _ => Option.none

/-- The span operands of a command, in the order of the checks: D, A, B, mask. -/
def VecCmd.opers (c : VecCmd) : List Oper := [c.d, c.a, c.b, c.m]

/-- The descriptors of a command's spans. -/
def VecCmd.spans (c : VecCmd) : List DWord := c.opers.filterMap fun o => match o with | .span d => some d | _ => none

/-- Tags of the operands: a queue takes `qt`, a literal A's tag, the scalar of `vfill` D's. -/
def VecCmd.tagD (c : VecCmd) : Nat := c.d.tag?.getD c.qt
def VecCmd.tagA (c : VecCmd) : Nat := c.a.tag?.getD (match c.a with | .queue _ _ => c.qt | _ => c.tagD)
def VecCmd.tagB (c : VecCmd) : Nat := c.b.tag?.getD (match c.b with | .queue _ _ => c.qt | _ => c.tagA)

/-- The opcode of a command. -/
def VecCmd.op (c : VecCmd) : Nat := c.hd.op

/-- The tag that queue operands take (R158). -/
def VecCmd.queueTag (c : VecCmd) : Option Nat := (c.d.tag?.or c.a.tag?).or c.b.tag?

/-- The span operands whose COUNT is tied to n when the operand that gives n is a queue (R156). -/
def VecCmd.tied (c : VecCmd) : List Oper :=
  if c.op = 0xAA ∨ c.op = 0xB4 ∨ c.op = 0xB5 then []
  else if c.op = 0xAC ∨ c.op = 0xAF ∨ c.op = 0xAD ∨ c.op = 0xAE then [c.b]
  else if c.op = 0xB3 then [c.d]
  else if c.op = 0xA0 ∨ c.op = 0xB6 then [c.a]
  else [c.a, c.b]

/-- The element count n (R156); `visect` has none and takes 1 here. [DEDUCED: notes/assumptions/15.md] -/
def VecCmd.count (c : VecCmd) : Option Nat :=
  if c.op = 0xB2 then some 1
  else
    ((if countsFromA c.op then c.a else c.d).count.or c.m.count).or
      (match c.tied.filterMap Oper.count with
       | [] => none
       | l => some (l.foldl max 0))

/-- The command as an instruction of the current strand captures it. The scalar of `vfill` is read later. -/
def State.captureVec (s : State) (op : Nat) (x : Vec) : VecCmd :=
  let d := s.spanOper x.d
  let a := if op = 0xB1 then Oper.none else s.spanOper x.a
  let b := if !usesB op then Oper.none else match x.b with
    | .code c => s.spanOper c
    | .lit w =>
      let at_ := a.tag?.getD (d.tag?.getD 0)
      .const (literalBits at_ w)
    | .imm _ => .none
  let m := if x.mask == noCode then Oper.none else s.spanOper x.mask
  let c : VecCmd := { hd := s.newHead (.vec op x) op (s.capture x.rnd.toNat) [] [], x, d, a, b, m }
  let c := { c with qt := c.queueTag.getD 0 }
  { c with f := if op = 0x98 then c.tagA else c.tagD, n := c.count.getD 0 }

/-! ## The issue checks (Table 6-3) -/

/-- Row 1. -/
def State.queueStateBad (s : State) (c : VecCmd) (srcs : List Nat) : Bool :=
  let me := s.cur.unit.code
  let bad (q : Nat) (cons : Bool) : Bool :=
    let r := s.curTask.queueReg q
    r.bind == .unbound || (if cons then r.cons.toNat else r.prod.toNat) != me
  (c.d.queue?.any fun q => bad q false || (c.op == 0x93 && bad q true)) ||
  ((c.a.queue?.toList ++ c.b.queue?.toList ++ srcs).any fun q => bad q true)

/-- A descriptor that may stand as an operand. -/
def spanFormOk (d : DWord) : Bool :=
  let t := spTag d
  !reservedTag t && !isBook t && ((8 ≤ elemBits t && !isBlock t) || spStride d == 1) && (!isBlock t || spCount d % 32 == 0)

/-- A source tag that F accepts (R155). -/
def srcTagOk (c : VecCmd) (t : Nat) : Bool :=
  if c.x.toBit then elemBits t == elemBits c.f else t == c.f || widens c.f t

/-- A source tag where nothing widens (R167, R176, R177). -/
def moveTagOk (c : VecCmd) (t : Nat) : Bool := if c.x.toBit then elemBits t == elemBits c.f else t == c.f

/-- The classes and tags of an instruction (Table 6-5, R167 to R181). -/
def VecCmd.tagsOk (c : VecCmd) : Bool :=
  let f := c.f
  let num := isFlt f || isIntTag f
  let sub := c.x.sub.toNat
  let a := srcTagOk c c.tagA
  let b := match c.b with | .none => true | _ => srcTagOk c c.tagB
  match c.op with
  | 0x98 => c.tagD == 0x1D && num && b && (if isFlt f then sub < 6 || 8 ≤ sub else sub < 8)
  | 0x99 => !isBlock f && a && b
  | 0x9A | 0xB1 => c.op == 0x9A || sub == 0 || isIntTag f
  | 0x9B | 0x9C | 0x9D => (isIntTag f || f == 0x1D) && a && b
  | 0x9E | 0x9F => isIntTag f && a && b
  | 0xAA => (if sub < 3 then num else isIntTag f || f == 0x1D) && a
  | 0xAD | 0xAE | 0xAF => !isBlock f && 8 ≤ elemBits f && moveTagOk c c.tagA && isIndexTag c.tagB
  | 0xB0 | 0xB5 => moveTagOk c c.tagA
  | 0xB2 =>
    let l := if c.x.toBit then f else c.tagA
    (if c.x.toBit then elemBits c.tagA == elemBits f && elemBits c.tagB == elemBits f else c.tagA == c.tagB) &&
    (l == 0x18 || l == 0x19) && (if sub == 0 then isIntTag f else f == l)
  | 0xB3 =>
    (c.tagB == 0x18 || c.tagB == 0x19) && (f == 0x18 || f == 0x19) &&
    (if c.x.toBit then elemBits c.tagA == 32 else c.tagA == c.tagB)
  | 0xB4 =>
    isIntTag f && (if sub == 0 then c.tagA == 0x1D else !isBlock c.tagA) && (!c.x.toBit || elemBits c.tagA == elemBits f)
  | 0xB6 => f ≤ 3 && a && c.tagB == 0x0A
  | op =>
    if 0xA1 ≤ op && op ≤ 0xA9 then isSpecTag f && isSpecTag c.tagA && (!c.x.toBit || elemBits c.tagA == elemBits f)
    else num && a && b

/-- The counts of an instruction (R156 and its own rule). [DEDUCED: notes/assumptions/15.md] -/
def VecCmd.countsOk (c : VecCmd) : Bool :=
  let has (p : Nat → Bool) (o : Oper) : Bool := match o.count with | some k => p k | none => true
  let same := has fun k => k == c.n
  let wide := has fun k => k == c.n || k == 1
  let one := has fun k => 1 ≤ k
  let pow2 (k : Nat) : Bool := k != 0 && 2 ^ k.log2 == k
  match c.op with
  | 0xA0 => same c.d && wide c.a && has (fun k => k == 2) c.b && same c.m
  | 0xAA | 0xB4 => one c.d && same c.a && same c.m
  | 0xAB => same c.d && same c.a && same c.m
  | 0xAC => one c.d && same c.a && wide c.b && same c.m
  | 0xAD => same c.d && one c.a && same c.b && same c.m
  | 0xAE => same c.d && wide c.b && same c.m
  | 0xAF => same c.a && same c.b && same c.m
  | 0xB2 => c.x.sub == 1 || has (fun k => k == 1) c.d
  | 0xB3 => same c.d && same c.a && has pow2 c.b && same c.m
  | 0xB5 => same c.a && same c.m
  | 0xB6 => same c.d && wide c.a && has (fun k => (c.n + 31) / 32 ≤ k) c.b && same c.m
  | _ => same c.d && wide c.a && wide c.b && same c.m

/-- A queue operand's element size and peek depth (R158). -/
def State.queueFormOk (s : State) (c : VecCmd) (o : Oper) : Bool :=
  match o with
  | .queue q peek =>
    let w := elemBits c.qt
    !isBlock c.qt && 8 ≤ w && 8 * (s.curTask.queueReg q).bytes == w && (!peek || c.n ≤ 8192 / w)
  | _ => true

/-- Row 2. -/
def State.formatOk (s : State) (c : VecCmd) : Bool :=
  c.spans.all spanFormOk && c.tagsOk && (c.m.tag?.all fun t => t == 0x1D) && c.opers.all (s.queueFormOk c) && c.countsOk

/-- D is the operand written; `vhash.ins` writes its table too. -/
def VecCmd.writesB (c : VecCmd) : Bool := c.op == 0xB3 && c.x.sub == 1

/-- The extent of an operand: a written stream at its greatest length, a read one as it stands (R153). -/
def State.operExtent (s : State) (t : Nat) (written : Bool) (o : Oper) : Option (Int × Int) :=
  match o with
  | .span d =>
    if written || !isBlock (spTag d) then spanExtent d none
    else
      match s.spanHome t d with
      | some (core, carve, _) => spanExtent d (some (s.streamLen core carve d))
      | none => spanExtent d none
  | _ => none

/-- Row 3: the value of the first misaligned BASE. [DEDUCED: notes/assumptions/20.md] -/
def baseTrap (ds : List DWord) : Option Nat :=
  (ds.find? fun d => 8 ≤ elemBits (spTag d) && spBase d % (elemBits (spTag d) / 8) != 0).map spBase

/-- Row 4: the first member that is none. [DEDUCED: notes/assumptions/20.md] -/
def State.memberTrap (s : State) (ds : List DWord) : Option Nat :=
  (ds.find? fun d => spRemote d && s.curTask.gsize ≤ spMember d).map spMember

/-- The lowest byte of an extent outside a carve of `cs` bytes. -/
def outside (cs : Nat) (e : Int × Int) : Option Int :=
  if e.1 < 0 then some e.1 else if (cs : Int) < e.2 then some (max e.1 cs) else none

/-- Row 5 for one operand. -/
def State.rangeTrap (s : State) (t : Nat) (written : Bool) (o : Oper) : Option Int :=
  match o, s.operExtent t written o with
  | .span d, some e =>
    match s.spanHome t d with
    | some h => outside h.2.2 e
    | none => none
  | _, _ => none

/-- The command reads the scales of A. -/
def VecCmd.readsScales (c : VecCmd) : Bool :=
  isBlock c.tagA && (c.op == 0x9A || (c.op == 0xB0 && isBlock c.tagD))

/-- The scratchpad bytes whose content an issue check reads: scale streams of sources at their greatest length, and B of
`vscale`. -/
def State.checkedBytes (s : State) (c : VecCmd) : List Resource :=
  let carve := s.curTask.carve
  let stream (o : Oper) : List Resource := match o with
    | .span d =>
      if isBlock (spTag d) then padSet carve d (some ((scaleStart d : Nat), ((scaleStart d + (3 * (spCount d / 32) + 1) / 2 : Nat) : Int)))
      else []
    | _ => []
  let b := if c.op = 0xB6 then (match c.b with | .span d => padSet carve d (spanExtent d none) | _ => []) else stream c.b
  stream c.a ++ b

/-- B of `vscale` holds 255 in an element that is used (R179). -/
def State.scaleElemBad (s : State) (c : VecCmd) : Bool :=
  match c.b with
  | .span d => c.op == 0xB6 && (List.range ((c.n + 31) / 32)).any fun k => s.spanElem s.cur.task d k == 255
  | _ => false

/-- The scales of A, or a scale-range fault. -/
def State.sourceScales (s : State) (c : VecCmd) : Except Unit (List Nat) :=
  if !c.readsScales then .ok []
  else
    match c.a with
    | .span d =>
      match s.spanHome s.cur.task d with
      | some (core, carve, _) =>
        let r := s.spanScales core carve d
        if r.2.isSome then .error () else .ok r.1
      | none => .ok []
    | _ => .ok []

/-- Two operands share a byte (R164, R181). -/
def State.operMeet (s : State) (t : Nat) (o p : Oper) (written : Bool) : Bool :=
  match o, p with
  | .span d, .span e =>
    physMeet (s.spanPhys t d (s.operExtent t true o)) (s.spanPhys t e (s.operExtent t written p))
  | _, _ => false

/-- The checks of Table 6-3, in order, for the current strand; the command with the scales it read. With n = 0 only row 1
counts (R156). -/
def checkVec (c : VecCmd) (srcs : List Nat) : M VecCmd := do
  let s ← get
  let t := s.cur.task
  if c.count.isNone || (c.queueTag.isNone && c.opers.any fun o => o.queue?.isSome) then raiseWord 2
  else if s.queueStateBad c srcs then raiseWord 10
  else if c.n = 0 then pure c
  else if !s.formatOk c then raiseWord 25
  else
    match baseTrap c.spans with
    | some v => raise 13 (BitVec.ofNat 64 v)
    | none =>
      match s.memberTrap c.spans with
      | some v => raise 16 (BitVec.ofNat 64 v)
      | none => do
        let older := ((s.cmdHeads t).filter fun h => anyHit h.writes (s.checkedBytes c)).map (·.id)
        if !older.isEmpty then stallOn (.older older)
        else
          match ([(true, c.d), (false, c.a), (c.writesB, c.b), (false, c.m)].findSome? fun e => s.rangeTrap t e.1 e.2) with
          | some v => raise 15 (BitVec.ofInt 64 v)
          | none =>
            match s.sourceScales c with
            | .error _ => raiseWord 26
            | .ok l =>
              if s.scaleElemBad c then raiseWord 26
              else if c.op == 0xB3 && (s.operMeet t c.d c.b true || (c.x.sub == 1 && s.operMeet t c.b c.a false)) then raiseWord 2
              else pure { c with scales := l }

/-! ## Issue -/

/-- The checker's sets of a command (R218). -/
def State.vecSets (s : State) (c : VecCmd) : List Resource × List Resource :=
  let carve := s.curTask.carve
  let set (written : Bool) (o : Oper) : List Resource := match o with
    | .span d => padSet carve d (s.operExtent s.cur.task written o)
    | _ => []
  (set false c.a ++ set false c.b ++ set false c.m ++ (if c.op == 0x93 then set true c.d else []),
   set true c.d ++ (if c.writesB then set true c.b else []))

/-- The command enters the core's queue (R165). A vector instruction of the vector strand with a queue operand holds its
strand (R159). -/
def enterVec (c : VecCmd) : M Flow := do
  let s ← get
  let sets := s.vecSets c
  let c := { c with hd := { c.hd with reads := sets.1, writes := sets.2 } }
  let core := s.curTask.core
  modify fun s => s.setCore core { s.core core with vq := (s.core core).vq ++ [c] }
  countCmd
  if s.cur.unit == .vector && c.opers.any fun o => o.queue?.isSome then holdOn (.vectorHold c.hd.id) else pure .next

/-- Room for a vector command (R165, R220). -/
def vecRoom : M Unit := do
  let s ← get
  if 16 ≤ (s.core s.curTask.core).vq.length then stallOn (.engineQueue 1 0) else checkerRoom 1 0

/-- A vector instruction issues; the older scratchpad accesses of its strand are before it (R261). -/
def issueVec (op : Nat) (x : Vec) : M Flow := do
  drainPad
  let s ← get
  let src : List Nat := if op = 0xB1 then (queueOf x.a.toNat).toList else []
  let c ← checkVec (s.captureVec op x) src
  if c.n = 0 then pure .next
  else if op = 0xB1 then do
    vecRoom
    let s ← get
    lateFor (s.vecSets c).1 (s.vecSets c).2
    match x.b with
    | .lit w => enterVec { c with a := .const (literalBits c.f w) }
    | _ => do
      let vs ← operands [x.a.toNat] none
      enterVec { c with a := .const (BitVec.ofNat 64 ((vs.headD 0).toNat % 2 ^ elemBits c.f)) }
  else do
    vecRoom
    let s ← get
    lateFor (s.vecSets c).1 (s.vecSets c).2
    enterVec c

/-- A vector instruction: it issues, or its completion ends its hold of the vector strand (R159).
[DEDUCED: notes/assumptions/41.md] -/
def vecBody (op : Nat) (x : Vec) : M Flow := do
  let s ← get
  match s.curStrand.wait with
  | some w =>
    match w.why with
    | .vectorHold id =>
      match s.curStrand.held with
      | none => holdOn (.vectorHold id)
      | some (.trap cause v) => throw (.trap { cause, value := some v, keep := true })
      | some _ => pure .next
    | _ => issueVec op x
  | none => issueVec op x

/-! ## One element (R161, R162) -/

/-- An integer result in the format of a tag: wrapped or clamped. -/
def placeInt (sat : Bool) (tag : Nat) (v : Int) : Nat :=
  let b := elemBits tag
  let sg := match kindOf tag with | some (.int s _) => s | _ => false
  let lo : Int := if sg then -(2 ^ (b - 1) : Nat) else 0
  let hi : Int := if sg then (2 ^ (b - 1) : Nat) - 1 else (2 ^ b : Nat) - 1
  ((if sat then max lo (min hi v) else v) % (2 ^ b : Nat)).toNat

/-- The integer value of an element. -/
def intOf (tag x : Nat) : Int :=
  match kindOf tag with
  | some (.int true b) => signedBits b x
  | _ => (x % 2 ^ elemBits tag : Nat)

/-- The modes with the overflow table that a command uses for tag `tag`: with SAT every infinite result is the largest
finite value (R161). -/
def VecCmd.mode (c : VecCmd) (tag : Nat) : FpMode :=
  if c.x.sat then { c.hd.mode with ovf := c.hd.mode.ovf &&& ~~~(BitVec.ofNat 128 (3 * 2 ^ (2 * tag))) } else c.hd.mode

/-- The bits in format `tag` of a value that it holds exactly, infinities kept. -/
def exactBits (tag : Nat) (v : Val) : Nat := (convert { ovf := BitVec.ofNat 128 (2 ^ (2 * tag)) } tag v).1

/-- The tag under which a source's bits are read (R155). -/
def VecCmd.readTag (c : VecCmd) (t : Nat) : Nat := if c.x.toBit then c.f else t

/-- The value of a source element of tag `t`, under the captured DAZ. -/
def VecCmd.val (c : VecCmd) (t x : Nat) : Val := c.hd.mode.decode (c.readTag t) x

/-- The integer of a source element of tag `t`. -/
def VecCmd.int (c : VecCmd) (t x : Nat) : Int := intOf (c.readTag t) x

/-- A source element as bits of F: exact widening, no DAZ. -/
def VecCmd.widen (c : VecCmd) (t x : Nat) : Nat :=
  if c.readTag t = c.f then x else exactBits c.f (decodeVal (c.readTag t) false x)

/-- An integer result of a command. -/
def VecCmd.putInt (c : VecCmd) (v : Int) : Nat × Flags := (placeInt c.x.sat c.f v, 0)

/-- `vabs` and `vneg` of a float: no rounding, no flag (R162); an infinite result goes by the captured overflow table
(R46, R161). -/
def VecCmd.signed (c : VecCmd) (x : Nat) : Nat :=
  let v := decodeVal (c.readTag c.tagA) false x
  let s := if c.op = 0x96 then false else !v.neg
  (convert { ovf := (c.mode c.f).ovf } c.f (v.withSign s)).1

/-- `vcmp` (Table 6-7). -/
def VecCmd.compare (c : VecCmd) (x y : Nat) : Nat × Flags :=
  let sub := c.x.sub.toNat
  let bit (b : Bool) : Nat := if b then 1 else 0
  if isFlt c.f then
    let a := c.val c.tagA x
    let b := c.val c.tagB y
    let un := a.isNan || b.isNan
    let nv : Flags := if un then flagNV else 0
    match sub with
    | 0 => (bit (!un && a.eq b), 0)
    | 1 => (bit (un || !a.eq b), 0)
    | 2 => (bit (!un && a.lt b), nv)
    | 3 => (bit (!un && !a.lt b), nv)
    | 4 => (bit (!un && !b.lt a), nv)
    | 5 => (bit (!un && b.lt a), nv)
    | 8 => (bit un, 0)
    | _ => (bit (!un), 0)
  else
    let a := c.int c.tagA x
    let b := c.int c.tagB y
    let w : Int := (2 ^ elemBits c.f : Nat)
    let both := (a % w).toNat &&& (b % w).toNat
    match sub with
    | 0 => (bit (a == b), 0)
    | 1 => (bit (a != b), 0)
    | 2 => (bit (a < b), 0)
    | 3 => (bit (b ≤ a), 0)
    | 4 => (bit (a ≤ b), 0)
    | 5 => (bit (b < a), 0)
    | 6 => (bit (both != 0), 0)
    | _ => (bit (both == 0), 0)

/-- The bitwise operations on bits of F. -/
def VecCmd.bitwise (c : VecCmd) (x y : Nat) : Nat :=
  let w : Int := (2 ^ elemBits c.f : Nat)
  let a := (c.int c.tagA x % w).toNat
  let b := (c.int c.tagB y % w).toNat
  let b := if c.x.sub.getLsbD 0 then 2 ^ elemBits c.f - 1 - b else b
  match c.op with
  | 0x9B => a &&& b
  | 0x9C => a ||| b
  | _ => a ^^^ b

/-- The shifts. -/
def VecCmd.shift (c : VecCmd) (x y : Nat) : Int :=
  let w := elemBits c.f
  let a := c.int c.tagA x
  let k := (c.int c.tagB y % (2 ^ w : Nat)).toNat % w
  if c.op = 0x9E then a * (2 ^ k : Nat) else a.fdiv (2 ^ k : Nat)

/-- An arithmetic result from integers: Table 6-5's INT column; `d` is D's old element. -/
def VecCmd.intArith (c : VecCmd) (a b d : Int) : Int :=
  match c.op with
  | 0x90 => a + b
  | 0x91 => a - b
  | 0x92 => a * b
  | 0x93 => (if c.x.sub.getLsbD 0 then -(a * b) else a * b) + (if c.x.sub.getLsbD 1 then -d else d)
  | 0x94 => min a b
  | 0x95 => max a b
  | 0x96 => a.natAbs
  | _ => -a

/-- An arithmetic result from floats. -/
def VecCmd.fltArith (c : VecCmd) (a b d : Val) : Nat × Flags :=
  let md := c.mode c.f
  match c.op with
  | 0x90 => fadd md c.f a b
  | 0x91 => fsub md c.f a b
  | 0x92 => fmul md c.f a b
  | 0x93 => ffma md c.f (if c.x.sub.getLsbD 0 then a.negate else a) b (if c.x.sub.getLsbD 1 then d.negate else d)
  | 0x94 => fmin md c.f a b
  | _ => fmax md c.f a b

/-- `vclamp` (R167). -/
def VecCmd.clamp (c : VecCmd) (x lo hi : Nat) : Nat × Flags :=
  if isFlt c.f then
    let a := c.val c.tagA x
    let l := c.val c.tagB lo
    let h := c.val c.tagB hi
    arith (c.mode c.f) c.f [a, l, h] (valMin (valMax a l) h)
  else c.putInt (min (max (c.int c.tagA x) (c.int c.tagB lo)) (c.int c.tagB hi))

/-- The value of a source of `vcvt`: a block-scaled element under its block's scale (R32). -/
def VecCmd.scaledVal (c : VecCmd) (i x : Nat) : Val :=
  let v := c.val c.tagA x
  match c.scales[i / 32]? with
  | some k => v.scale ((k : Int) - 127)
  | none => v

/-- The element that an element-wise instruction writes at position `i`: `a`, `b` the source elements, `d` D's old element,
`m` the mask bit (Table 6-5). [DEDUCED: notes/assumptions/16.md] -/
def VecCmd.element (c : VecCmd) (i a b d : Nat) (m : Bool) : Nat × Flags :=
  match c.op with
  | 0x98 => c.compare a b
  | 0x99 => (if m then c.widen c.tagA a else c.widen c.tagB b, 0)
  | 0x9A => convert (c.mode c.f) c.f (c.scaledVal i a)
  | 0x9B | 0x9C | 0x9D => (c.bitwise a b, 0)
  | 0x9E | 0x9F => c.putInt (c.shift a b)
  | 0xB0 | 0xAD | 0xAE | 0xB5 => (a, 0)
  | 0xB1 => if c.x.sub = 0 then (a, 0) else c.putInt (intOf c.f a + i)
  | 0xB6 =>
    let v := c.val c.tagA a
    arith (c.mode c.f) c.f [v] (v.scale (if c.x.sub = 0 then (b : Int) - 127 else 127 - (b : Int)))
  | op =>
    if 0xA1 ≤ op && op ≤ 0xA9 then
      let t := c.readTag c.tagA
      special (c.mode c.f) (op - 0xA1) t (c.hd.mode.decode t a) c.f
    else if isFlt c.f then
      if op = 0x96 ∨ op = 0x97 then (c.signed a, 0)
      else c.fltArith (c.val c.tagA a) (c.val c.tagB b) (c.hd.mode.decode c.f d)
    else c.putInt (c.intArith (c.int c.tagA a) (c.int c.tagB b) (intOf c.f d))

/-! ## Reductions (R172 to R175) -/

/-- Combine two elements of F by a kind of R173; DAZ has been applied to the elements. -/
def VecCmd.combine (c : VecCmd) (kind : Nat) (x y : Nat) : Nat × Flags :=
  if isFlt c.f then
    let a := decodeVal c.f false x
    let b := decodeVal c.f false y
    let md := c.mode c.f
    match kind with
    | 0 => fadd md c.f a b
    | 1 => fmin md c.f a b
    | _ => fmax md c.f a b
  else
    let a := intOf c.f x
    let b := intOf c.f y
    match kind with
    | 0 => c.putInt (a + b)
    | 1 => c.putInt (min a b)
    | 2 => c.putInt (max a b)
    | 3 => (x &&& y, 0)
    | 4 => (x ||| y, 0)
    | _ => (x ^^^ y, 0)

/-- Reduce of R172: the fixed tree. Seventeen levels of fuel reach every list that a COUNT admits.
[DEDUCED: notes/assumptions/17.md] -/
def reduceTree (f : Nat → Nat → Nat × Flags) : Nat → List Nat → Nat × Flags
  | 0, xs => (xs.headD 0, 0)
  | fuel + 1, xs =>
    match xs with
    | [] => (0, 0)
    | [x] => (x, 0)
    | _ =>
      let h := 2 ^ (xs.length - 1).log2
      let l := reduceTree f fuel (xs.take h)
      let r := reduceTree f fuel (xs.drop h)
      let v := f l.1 r.1
      (v.1, l.2 ||| r.2 ||| v.2)

/-- The kind of a reducing instruction: `vdot` adds. -/
def VecCmd.kind (c : VecCmd) : Nat := if c.op = 0xAC then 0 else c.x.sub.toNat

/-- Reduce of a list of elements of F, placed into F. [DEDUCED: notes/assumptions/17.md] -/
def VecCmd.reduce (c : VecCmd) (xs : List Nat) : Nat × Flags :=
  let r := reduceTree (c.combine c.kind) 20 xs
  if isFlt c.f then
    let v := decodeVal c.f false r.1
    let p := arith (c.mode c.f) c.f [v] v
    (p.1, r.2 ||| p.2)
  else r

/-- A contributing element of a reduction as an element of F; the products of `vdot` are rounded (R175). -/
def VecCmd.contribution (c : VecCmd) (a b : Nat) : Nat × Flags :=
  if c.op = 0xAC then
    (if isFlt c.f then fmul (c.mode c.f) c.f (c.val c.tagA a) (c.val c.tagB b)
     else c.putInt (c.int c.tagA a * c.int c.tagB b))
  else if isFlt c.f then (exactBits c.f (c.val c.tagA a), 0)
  else (((c.int c.tagA a) % (2 ^ elemBits c.f : Nat)).toNat, 0)

/-- An element that `vcnt` counts (R178). -/
def VecCmd.counted (c : VecCmd) (a : Nat) : Bool :=
  if c.x.sub = 0 then a % 2 == 1 else !(c.val c.tagA a).isZero

/-! ## Block-scaled destinations -/

/-- The scales and elements of a block-scaled destination (R35, R169): for each block its scale and its elements with their
mask bits. -/
def VecCmd.blockOut (c : VecCmd) (prev b : Nat) : Nat → List (Nat × Bool) → List Nat × List (Nat × Nat) × Flags
  | 0, _ => ([], [], 0)
  | fuel + 1, xs =>
    if xs.isEmpty then ([], [], 0)
    else
      let blk := xs.take 32
      let vals := blk.zipIdx.map fun e => (c.scaledVal (32 * b + e.2) e.1.1, e.1.2)
      let prev := if b * (4 * elemBits c.f) % 4096 = 0 then 127 else prev
      let k := chooseScale c.f prev (vals.map (·.1))
      let out := vals.map fun e => (convert (c.mode c.f) c.f (e.1.scale (127 - (k : Int))), e.2)
      let writes := out.zipIdx.filterMap fun e => if e.1.2 then some (32 * b + e.2, e.1.1.1) else none
      let fl := out.foldl (fun (acc : Flags) e => if e.2 then acc ||| e.1.2 else acc) 0
      let r := c.blockOut k (b + 1) fuel (xs.drop 32)
      (k :: r.1, writes ++ r.2.1, fl ||| r.2.2)

/-! ## Set intersection and hash probes -/

/-- HashProbe of R181 over the table of a command: the result, and the slot that the key is inserted into. -/
def probeTable (table : Nat → Nat) (nB key h : Nat) (ins : Bool) (j : Nat) : Nat → Nat × Option Nat
  | 0 => (2 ^ 32 - 1, none)
  | fuel + 1 =>
    let t := (h + j) % nB
    if table t = key then (t, none)
    else if table t = 2 ^ 32 - 1 then (if ins then (t, some t) else (2 ^ 32 - 1, none))
    else probeTable table nB key h ins (j + 1) fuel

/-- The first probed slot. -/
def hashOf (nB key : Nat) : Nat := key * 0x6F4A7C15 % 2 ^ 32 / 2 ^ (32 - nB.log2)

/-- One key of `vhash`. -/
def hashProbe (table : Nat → Nat) (nB key : Nat) (ins : Bool) : Nat × Option Nat :=
  if key = 2 ^ 32 - 1 then (2 ^ 32 - 1, none) else probeTable table nB key (hashOf nB key) ins 0 nB

end Sys2Proof.Machine
end

