-- ==== Sys2Proof/Machine/Matrix.lean ====
section
/-! DEFINITION. Matrix instructions 0xC0 to 0xCB (spec/07_matrix_array.md): the checks of Tables 7-3 and 7-4, claims (R199),
the lease (R194 to R197), chains (R198), and the entry of commands into the core's matrix queue (R200). -/

namespace Sys2Proof.Machine

/-! ## Format classes (Table 7-2) -/

/-- Class of a matrix tag: 0 FP32, 1 16-bit, 2 8-bit, 3 4-bit. -/
def matClass (t : Nat) : Option Nat :=
  match t with
  | 0x00 | 0x01 => some 0
  | 0x02 | 0x03 => some 1
  | 0x04 | 0x05 | 0x06 | 0x07 | 0x09 | 0x0A | 0x0E | 0x0F | 0x10 | 0x11 | 0x13 | 0x14 => some 2
  | 0x08 | 0x0B | 0x0C | 0x0D | 0x12 | 0x15 | 0x16 | 0x17 => some 3
  | _ => none

/-- Depth K of a command of a class. -/
def depthOf (c : Nat) : Nat := 32 * 2 ^ c

/-- Depth K of a tag. -/
def tagDepth (t : Nat) : Nat := depthOf ((matClass t).getD 0)

/-- The tags `mload` reads (R210). -/
def mloadTag (t : Nat) : Bool := t ≤ 3 || t == 0x18

/-- The tags `mstore` writes (R211). -/
def mstoreTag (t : Nat) : Bool := t ≤ 7 || t == 0x0E || t == 0x09 || t == 0x0A || (0x18 ≤ t && t ≤ 0x1B)

/-! ## The queue -/

/-- The state with a command of a task removed from the matrix queue, completed. -/
def State.dropMat (s : State) (c : MatCmd) (flags : Flags) : State :=
  let core := (s.task c.hd.task).core
  let base (k : MatCmd) : MatCmd := if k.hd.task == c.hd.task then { k with hd := { k.hd with awayBase := k.hd.away } } else k
  (s.setCore core { s.core core with mq := ((s.core core).mq.filter fun k => k.hd.id != c.hd.id).map base }).completeCmd c.hd flags

/-- The state after an unordered chain has ended: the flags of its additions, in the order that they had, reach the strands that
issued its commands (R42, R191). [DESIGN CHOICE: notes/assumptions/21.md] -/
def State.chainFlags (s : State) (t : Nat) : State :=
  (s.task t).mat.chainAccs.foldl (fun (s : State) a =>
    let fl := a.2.result.2
    a.2.units.foldl (fun (s : State) u => s.orFlags { task := t, unit := u } fl) s) s

/-- The state after the chain markers at the head of a task's matrix queue have taken effect (R196 event 1, R198). -/
def State.settleMarkers (s : State) (t : Nat) : Nat → State
  | 0 => s
  | fuel + 1 =>
    if !s.engineFree t then s
    else
      match s.matCmds t with
      | [] => s
      | c :: _ =>
        let x := s.task t
        let h := hoopOf x.core
        if c.hd.op = 0xC5 then
          ((s.setTask t { x with mat := { x.mat with qopen := true, qmul := 0, chainAccs := [] } }).dropMat c 0).settleMarkers t fuel
        else if c.hd.op = 0xC6 then
          let s' := s.chainFlags t
          let s' := s'.setTask t { s'.task t with mat := { x.mat with qopen := false, qmul := 0, chainAccs := [] } }
          let s' := if 0 < x.mat.qmul && (s'.hoop h).holder == some t && s'.rivals h t then s'.passLease h t .waiting else s'
          (s'.dropMat c 0).settleMarkers t fuel
        else s

/-- The state after a task's matrix queue has changed. -/
def State.settleMat (s : State) (t : Nat) : State := (s.settleMarkers t 16).settleLease (hoopOf (s.task t).core)

/-! ## The checks of Tables 7-3 and 7-4 -/

/-- Row 2 of Table 7-3. -/
def matFormatOk (op : Nat) (x : Mat) : Bool :=
  match op with
  | 0xC4 => mloadTag x.ta.toNat
  | 0xC7 => (matClass x.ta.toNat).isSome && matClass x.ta.toNat == matClass x.tb.toNat
  | 0xC9 => mstoreTag x.ta.toNat
  | 0xCA => (matClass x.ta.toNat).isSome
  | _ => true

/-- The logical slots and accumulators an instruction names. -/
def namedSlots (op : Nat) (x : Mat) : List Nat :=
  if op = 0xC7 then [x.a.toNat, x.b.toNat] else if op = 0xCA then [x.d.toNat] else []
def namedAccs (op : Nat) (x : Mat) : List Nat :=
  if op = 0xC4 ∨ op = 0xC7 ∨ op = 0xC8 then [x.d.toNat] else if op = 0xC9 then [x.a.toNat] else []

/-- The logical numbers that a mask names. -/
def maskBits (n : Nat) (v : DWord) : List Nat := (List.range n).filter fun k => v.getLsbD k

/-- Table 7-4: the first cause in the order of values; `v` is the mask of `mclaim` and `mrel`. -/
def Task.matrixState (t : Task) (op : Nat) (x : Mat) (v : DWord) : Option Nat :=
  let m := t.mat
  let isAcc := x.ta == 1
  let map := if isAcc then m.amap else m.smap
  let bits := maskBits (if isAcc then 8 else 32) v
  if isLeased op && (m.lease == .none || m.rpend) then some 1
  else if (namedSlots op x).any fun k => (Assoc.get? m.smap k).isNone then some 2
  else if (namedAccs op x).any fun k => (Assoc.get? m.amap k).isNone then some 3
  else if op == 0xC5 && m.open_ then some 4
  else if op == 0xC6 && !m.open_ then some 5
  else if op == 0xC7 && m.open_ && 256 ≤ m.count then some 6
  else if m.open_ && (op == 0xC8 || op == 0xC4 || op == 0xC9 || op == 0xC1 || op == 0xC2 || op == 0xC3) then some 7
  else if op == 0xC2 && (if isAcc then t.hdr.acc else t.hdr.slots) < map.length + bits.length then some 8
  else if op == 0xC2 && bits.any fun k => (Assoc.get? map k).isSome then some 9
  else if op == 0xC3 && bits.any fun k => (Assoc.get? map k).isNone then some 9
  else none

/-- Rows 4 and 5 of Table 7-3 for a range of rows: `w` bytes an element, `len` a row (R210). -/
def rowsTrap (cs w len : Nat) (off pitch : DWord) : Option (Nat × DWord) :=
  if off.toNat % w != 0 then some (13, off)
  else if pitch.toNat % w != 0 then some (13, pitch)
  else if cs < off.toNat + 127 * pitch.toNat + len then some (15, BitVec.ofNat 64 (max off.toNat cs))
  else none

/-- Rows 4 and 5 of Table 7-3; `vs` are the values of the instruction's registers. -/
def matRangeTrap (op : Nat) (x : Mat) (cs : Nat) (vs : List DWord) : Option (Nat × DWord) :=
  let w := elemBits x.ta.toNat / 8
  match op with
  | 0xC4 | 0xC9 => rowsTrap cs w (128 * w) (vs.headD 0) (second vs)
  | 0xCA => rowsTrap cs 2 (16 * tagDepth x.ta.toNat) (vs.headD 0) 0
  | _ => none

/-- The scratchpad ranges of rows in a carve; rows that overlap or touch are one range. -/
def rowRanges (base len : Nat) (off pitch : DWord) : List Resource :=
  let a := base + off.toNat
  if pitch.toNat ≤ len then [.pad a (a + 127 * pitch.toNat + len)]
  else (List.range 128).map fun i => .pad (a + i * pitch.toNat) (a + i * pitch.toNat + len)

/-! ## Issue -/

/-- Scalar codes that an instruction reads. -/
def matSources (op : Nat) (x : Mat) : List Nat :=
  match op with
  | 0xC2 | 0xC3 | 0xCA => [x.a.toNat]
  | 0xC4 => [x.a.toNat, x.b.toNat]
  | 0xC9 => [x.d.toNat, x.b.toNat]
  | _ => []

/-- The stores of a slot that `mmul` reads for a tag (R200). -/
def slotReads (n t : Nat) (sp : Bool) : List Resource :=
  [.slot n 0] ++ (if isBlock t then [.slot n 1] else []) ++ (if sp then [.slot n 2] else []) ++ (if isBook t then [.slot n 3] else [])

/-- The command that an instruction enters, with its sets (R200, R218). -/
def State.matCommand (s : State) (op : Nat) (x : Mat) (vs : List DWord) : MatCmd :=
  let t := s.curTask
  let m := t.mat
  let acc := Assoc.getD m.amap ((namedAccs op x).headD 0) 0
  let sa := Assoc.getD m.smap ((namedSlots op x).headD 0) 0
  let sb := Assoc.getD m.smap ((namedSlots op x).getLastD 0) 0
  let w := elemBits x.ta.toNat / 8
  let off := vs.headD 0
  let pitch := second vs
  let sets : List Resource × List Resource :=
    match op with
    | 0xC4 => (rowRanges t.carve (128 * w) off pitch, [.acc acc])
    | 0xC7 => (slotReads sa x.ta.toNat x.sp ++ slotReads sb x.tb.toNat x.sp ++ [.acc acc], [.acc acc])
    | 0xC8 => ([], [.acc acc])
    | 0xC9 => ([.acc acc], rowRanges t.carve (128 * w) off pitch)
    | 0xCA => (rowRanges t.carve (16 * tagDepth x.ta.toNat) off 0, [.slot sa 2])
    | _ => ([], [])
  { hd := s.newHead (.mat op x) op (s.capture x.rnd.toNat) sets.1 sets.2, x, acc, sa, sb,
    lacc := (namedAccs op x).headD 0, off, pitch, ordered := m.ordered }

/-- Room for a matrix command (R200, R220). -/
def matRoom : M Unit := do
  let s ← get
  if 16 ≤ (s.core s.curTask.core).mq.length then stallOn (.engineQueue 3 0) else checkerRoom 3 0

/-- A command enters the core's matrix queue (R200); the holder's next command can wait from now on (R196). -/
def enterMat (c : MatCmd) : M Unit := do
  modify fun s =>
    let core := s.curTask.core
    let h := hoopOf core
    let s := if (s.hoop h).holder == some s.cur.task && (s.matCmds s.cur.task).isEmpty then
      s.setHoop h { s.hoop h with blocked := some s.cycle } else s
    s.setCore core { s.core core with mq := (s.core core).mq ++ [c] }
  countCmd
  modify fun s => s.settleMat s.cur.task

/-- The effect of a marker or of `mmul` on the state that later issue checks read (R207). -/
def MatState.issued (m : MatState) (op : Nat) (x : Mat) : MatState :=
  match op with
  | 0xC1 => { m with rpend := true }
  | 0xC5 => { m with open_ := true, ordered := x.ord, count := 0 }
  | 0xC6 => { m with open_ := false, ordered := false, count := 0 }
  | 0xC7 => if m.open_ then { m with count := m.count + 1 } else m
  | _ => m

/-- An instruction that enters the queue (0xC1, 0xC4 to 0xCA). -/
def matBody (op : Nat) (x : Mat) : M Flow := do
  drainPad
  let vs ← peekOperands (matSources op x) none
  let s ← get
  if !matFormatOk op x then raiseWord 25
  else
    match s.curTask.matrixState op x 0 with
    | some v => raise 27 (BitVec.ofNat 64 v)
    | none =>
      match matRangeTrap op x s.curTask.hdr.cs vs with
      | some (cause, v) => raise cause v
      | none => do
        matRoom
        let c := s.matCommand op x vs
        lateFor c.hd.reads c.hd.writes
        popNow (matSources op x)
        modifyTask fun t => { t with mat := t.mat.issued op x }
        enterMat c
        pure .next

/-- `mfree` in lease state None has no effect (R207). -/
def mfreeBody (x : Mat) : M Flow := do
  let s ← get
  if s.curTask.mat.lease == .none && !s.curTask.mat.open_ then pure .next else matBody 0xC1 x

/-- `mlease` (R195, R207). -/
def mleaseBody : M Flow := do
  modify fun s =>
    let t := s.cur.task
    let x := s.curTask
    let h := hoopOf x.core
    match x.mat.lease with
    | .none =>
      if (s.hoop h).holder.isNone && (s.candidates h).isEmpty then s.giveLease h t
      else (s.setLease t .waiting).settleLease h
    | _ => s.setTask t { x with mat := { x.mat with rpend := false } }
  pure .next

/-- The slot after a claim by a context (R148, R199): all ones in its bitmap store, and zeroed when another context had it.
[DEDUCED: notes/assumptions/24.md] -/
def Slot.claim (ctx : Nat) (x : Slot) : Slot :=
  { x with absent := [], owner := some ctx, zeroing := x.zeroing || x.owner.any fun c => c != ctx }

/-- The accumulator after a claim by a context. [DEDUCED: notes/assumptions/24.md] -/
def Accum.claim (ctx : Nat) (x : Accum) : Accum :=
  { x with owner := some ctx, zeroing := x.zeroing || x.owner.any fun c => c != ctx }

/-- The state with one logical slot or accumulator of the current task bound to a reserved unit (R199). -/
def State.claimOne (s : State) (isAcc : Bool) (k : Nat) : State :=
  let x := s.curTask
  let m := x.mat
  let h := hoopOf x.core
  let hp := s.hoop h
  let free := if isAcc then m.accs.find? fun p => !(m.amap.any fun e => e.2 == p)
    else m.slots.find? fun p => !(m.smap.any fun e => e.2 == p)
  match free with
  | none => s
  | some p =>
    if isAcc then
      (s.setTask s.cur.task { x with mat := { m with amap := Assoc.set m.amap k p } }).setHoop h
        { hp with accs := Assoc.set hp.accs p ((Assoc.getD hp.accs p {}).claim x.ctx) }
    else
      (s.setTask s.cur.task { x with mat := { m with smap := Assoc.set m.smap k p } }).setHoop h
        { hp with slots := Assoc.set hp.slots p ((Assoc.getD hp.slots p {}).claim x.ctx) }

/-- `mclaim` and `mrel` (R199, R207). -/
def claimBody (op : Nat) (x : Mat) : M Flow := do
  let vs ← peekOperands [x.a.toNat] none
  let s ← get
  let v := vs.headD 0
  let isAcc := x.ta == 1
  match s.curTask.matrixState op x v with
  | some k => raise 27 (BitVec.ofNat 64 k)
  | none => do
    popNow [x.a.toNat]
    let bits := maskBits (if isAcc then 8 else 32) v
    if op = 0xC2 then modify fun s => bits.foldl (fun (s : State) k => s.claimOne isAcc k) s
    else
      modifyTask fun t => { t with mat :=
        if isAcc then { t.mat with amap := t.mat.amap.filter fun e => !bits.contains e.1 }
        else { t.mat with smap := t.mat.smap.filter fun e => !bits.contains e.1 } }
    pure .next

/-- Code of a lease state (Table 7-6). -/
def Lease.code : Lease → Nat
  | .none => 0
  | .waiting => 1
  | .held => 2

/-- The status word of Table 7-6; `q` is QCNT. -/
def MatState.word (m : MatState) (q : Nat) : DWord :=
  let mask (a : Assoc Nat) : Nat := (a.map fun e => 2 ^ e.1).sum
  let bit (b : Bool) (k : Nat) : Nat := if b then 2 ^ k else 0
  BitVec.ofNat 64 (mask m.smap + mask m.amap * 2 ^ 32 + m.lease.code * 2 ^ 40 + bit m.open_ 42 +
    bit (m.open_ && m.ordered) 43 + m.count * 2 ^ 44 + q * 2 ^ 53 + bit m.rpend 58 + bit (!m.late.isEmpty) 63)

/-- `mstat`: with QCNT 0 it is a join edge (R202, R204). -/
def mstatBody (x : Mat) : M Flow := do
  let s ← get
  let q := (s.matCmds s.cur.task).length
  if q = 0 then lateTrap .matrix fun _ => true
  let _ ← operands [] (some x.d.toNat)
  let s ← get
  writeDst x.d.toNat (s.curTask.mat.word q)
  pure .next

/-! ## Meanings -/

/-- mlease. -/
def execMlease (x : Mat) (s : State) : Result := runStrand (.mat 0xC0 x) mleaseBody s

/-- mfree. -/
def execMfree (x : Mat) (s : State) : Result := runStrand (.mat 0xC1 x) (mfreeBody x) s

/-- mclaim. -/
def execMclaim (x : Mat) (s : State) : Result := runStrand (.mat 0xC2 x) (claimBody 0xC2 x) s

/-- mrel. -/
def execMrel (x : Mat) (s : State) : Result := runStrand (.mat 0xC3 x) (claimBody 0xC3 x) s

/-- mload. -/
def execMload (x : Mat) (s : State) : Result := runStrand (.mat 0xC4 x) (matBody 0xC4 x) s

/-- mbeg. -/
def execMbeg (x : Mat) (s : State) : Result := runStrand (.mat 0xC5 x) (matBody 0xC5 x) s

/-- mend. -/
def execMend (x : Mat) (s : State) : Result := runStrand (.mat 0xC6 x) (matBody 0xC6 x) s

/-- mmul. -/
def execMmul (x : Mat) (s : State) : Result := runStrand (.mat 0xC7 x) (matBody 0xC7 x) s

/-- mzero. -/
def execMzero (x : Mat) (s : State) : Result := runStrand (.mat 0xC8 x) (matBody 0xC8 x) s

/-- mstore. -/
def execMstore (x : Mat) (s : State) : Result := runStrand (.mat 0xC9 x) (matBody 0xC9 x) s

/-- mbmap. -/
def execMbmap (x : Mat) (s : State) : Result := runStrand (.mat 0xCA x) (matBody 0xCA x) s

/-- mstat. -/
def execMstat (x : Mat) (s : State) : Result := runStrand (.mat 0xCB x) (mstatBody x) s

end Sys2Proof.Machine
end

