-- ==== Sys2Proof/Machine/MatrixArray.lean ====
section
/-! DEFINITION. The hoop matrix array in execution: the values that enter the array (R186, R190, R192), the commands (R208 to R212),
and the matrix events. -/

namespace Sys2Proof.Machine

/-! ## What enters the array (R190, R192) -/

/-- The value of an element that is not a codebook index, without its block scale (R31, R190). -/
def enterElem (t x : Nat) : Val :=
  if t = 0x0E ∨ t = 0x0F then decodeVal 0 false (convert arrayMode 0 (decodeVal t false x)).1 else decodeVal t false x

/-- Element `k` of line `y` of a slot as tag `t`. -/
def Slot.enter (x : Slot) (t y k : Nat) : Val :=
  let raw := x.data.elem (128 * y) t k
  if isBook t then decodeVal 0x03 false (x.table.nat (32 * (2 * y + k / 128) + 2 * raw) 2)
  else if isBlock t then
    (enterElem t raw).scale (((x.scale.byte (y * (tagDepth t / 32) + k / 32)).toNat : Int) - 127)
  else enterElem t raw

/-- The factor is present (R192). -/
def Slot.present (x : Slot) (t y k : Nat) (sp : Bool) : Bool :=
  !sp || !(x.absent.bit (2 * (y * (tagDepth t / 16) + k / 16)) (k % 16))

/-- Line `y` of a slot as the array takes it: none where the factor is absent. -/
def Slot.line (x : Slot) (t y : Nat) (sp : Bool) : List (Option Val) :=
  let x := { x with data := x.data.slice (128 * y) 128 (128 * y) }
  (List.range (tagDepth t)).map fun k => if x.present t y k sp then some (x.enter t y k) else none

/-- The lines of a slot. -/
def Slot.lines (x : Slot) (t : Nat) (sp : Bool) : List (List (Option Val)) := (List.range 128).map fun y => x.line t y sp

/-! ## Commands -/

/-- The state with an accumulator of a hoop replaced. -/
def State.setAcc (s : State) (h n : Nat) (a : Accum) : State :=
  let hp := s.hoop h
  s.setHoop h { hp with accs := Assoc.set hp.accs n a }

/-- `mmul` (R208): the state and its flags. In an unordered chain the sums join the chain's, and the flags of their additions are
those of the chain's end. [DESIGN CHOICE: notes/assumptions/21.md] -/
def State.runMmul (s : State) (c : MatCmd) : State × Flags :=
  let t := s.task c.hd.task
  let h := hoopOf t.core
  let hp := s.hoop h
  let ta := c.x.ta.toNat
  let sums := commandSums ((hp.slot c.sa).lines ta c.x.sp) ((hp.slot c.sb).lines c.x.tb.toNat c.x.sp)
  let fl := sums.foldl (fun (f : Flags) e => f ||| e.2) 0
  let a := hp.acc c.acc
  if t.mat.qopen && !c.ordered then
    let old := Assoc.getD t.mat.chainAccs c.lacc { base := a.data }
    let new := { old with terms := old.terms ++ [(s.free, tagDepth ta / 16, packWords32 (sums.flatMap (·.1)))], units := (c.hd.unit :: old.units).eraseDups }
    let s := s.setTask c.hd.task { t with mat := { t.mat with chainAccs := Assoc.set t.mat.chainAccs c.lacc new } }
    ({ s.setAcc h c.acc { a with data := packWords32 new.result.1 } with free := s.free + 1 }, fl)
  else
    let r := accumulate (a.data.words32 16384) (sums.map (·.1))
    (s.setAcc h c.acc { a with data := packWords32 r.1 }, fl ||| r.2)

/-- Row `i` of a command's scratchpad range, as elements of a tag. -/
def State.padRow (s : State) (core base i : Nat) (c : MatCmd) : List Nat :=
  let w := elemBits c.x.ta.toNat / 8
  let a := base + c.off.toNat + i * c.pitch.toNat
  groupNat w 128 (((s.core core).pad.slice a (128 * w) 0).dump 0 (128 * w))

/-- `mload` (R210). -/
def State.runMload (s : State) (c : MatCmd) : State × Flags :=
  let t := s.task c.hd.task
  let h := hoopOf t.core
  let tag := c.x.ta.toNat
  let elem (x : Nat) : Nat × Flags :=
    if tag = 0 then (x, 0)
    else if tag = 0x18 then convert { c.hd.mode with ovf := 1, fz := false } 0 (decodeVal tag false x)
    else (exactBits 0 (decodeVal tag false x), 0)
  let xs := (List.range 128).flatMap fun i => (s.padRow t.core t.carve i c).map elem
  let a := (s.hoop h).acc c.acc
  (s.setAcc h c.acc { a with data := packWords32 (xs.map (·.1)), poisoned := false, bad := false },
    xs.foldl (fun (f : Flags) e => f ||| e.2) 0)

/-- `mstore` (R211). -/
def State.runMstore (s : State) (c : MatCmd) : State × Flags :=
  let t := s.task c.hd.task
  let tag := c.x.ta.toNat
  let w := elemBits tag / 8
  let xs := (((s.hoop (hoopOf t.core)).acc c.acc).data.words32 16384).map fun x => convert c.hd.mode tag (c.hd.mode.decode 0 x)
  let s' := (chunks 128 128 xs).zipIdx.foldl (fun (s : State) r =>
    let a := t.carve + c.off.toNat + r.2 * c.pitch.toNat
    (s.writePad t.core a (r.1.flatMap fun e => leBytes e.1 w)).dropResidency t.core a (128 * w)) s
  (s', xs.foldl (fun (f : Flags) e => f ||| e.2) 0)

/-- `mbmap` (R212): the store holds the complement of each bit. -/
def State.runMbmap (s : State) (c : MatCmd) : State :=
  let t := s.task c.hd.task
  let h := hoopOf t.core
  let n := 16 * tagDepth c.x.ta.toNat
  let bs := ((s.core t.core).pad.slice (t.carve + c.off.toNat) n 0).dump 0 n
  let hp := s.hoop h
  let x := hp.slot c.sa
  let x := { x with absent := x.absent.paste 0 n (Memory.ofBytes 0 (bs.map fun b => ~~~b)) }
  s.setHoop h { hp with slots := Assoc.set hp.slots c.sa x }

/-- An uncorrectable error in the stores that a command reads, or an accumulator that may not be stored (R204). -/
def State.matError (s : State) (c : MatCmd) : Bool :=
  let hp := s.hoop (hoopOf (s.task c.hd.task).core)
  (c.hd.op == 0xC7 && ((hp.slot c.sa).bad || (hp.slot c.sb).bad || (hp.acc c.acc).bad)) ||
  (c.hd.op == 0xC9 && ((hp.acc c.acc).bad || (hp.acc c.acc).poisoned))

/-- The deferred matrix error of a command (R204): its destination is poisoned, and the next join edge takes the trap. -/
def State.deferError (s : State) (c : MatCmd) : State :=
  let t := s.task c.hd.task
  let h := hoopOf t.core
  let s := if c.hd.op == 0xC7 then s.setAcc h c.acc { (s.hoop h).acc c.acc with poisoned := true } else s
  let v := BitVec.ofNat 64 (2 ^ 63 + c.lacc)
  if t.life == .ended then s.orphanFault c.hd 23 v
  else s.setTask c.hd.task { t with mat := { t.mat with late := t.mat.late ++ [⟨c.hd, 23, v⟩] } }

/-- The effect of a matrix command: the state and its flags. An error does not stop it; a poisoned accumulator is not stored. -/
def State.runMatrix (s : State) (c : MatCmd) : State × Flags :=
  let bad := s.matError c
  let h := hoopOf (s.task c.hd.task).core
  let r : State × Flags :=
    match c.hd.op with
    | 0xC4 => s.runMload c
    | 0xC7 => s.runMmul c
    | 0xC8 => (s.setAcc h c.acc { (s.hoop h).acc c.acc with data := [], poisoned := false, bad := false }, 0)
    | 0xC9 => if ((s.hoop h).acc c.acc).poisoned then (s, 0) else s.runMstore c
    | 0xCA => (s.runMbmap c, 0)
    | _ => (s, 0)
  (if bad then r.1.deferError c else r.1, r.2)

/-! ## Events -/

/-- The head of a task's matrix queue. -/
def State.matHead (s : State) (t : Nat) : Option MatCmd := (s.matCmds t).head?

/-- The head may start: nothing conflicts, nothing is to be zeroed, and a leased command has the lease (R194, R200). -/
def State.matReady (s : State) (c : MatCmd) : Bool :=
  let x := s.task c.hd.task
  s.engineFree c.hd.task && !isMarker c.hd.op && !c.hd.started && !s.blocked c.hd && !s.meetsZeroing c.hd &&
  (!isLeased c.hd.op ||
    ((s.hoop (hoopOf x.core)).holder == some c.hd.task && x.mat.lease == .held && (s.hoop (hoopOf x.core)).gap ≤ s.cycle))

/-- The state with a matrix command of a core replaced. -/
def State.putMat (s : State) (c : MatCmd) : State :=
  let core := (s.task c.hd.task).core
  s.setCore core { s.core core with mq := (s.core core).mq.map fun k => if k.hd.id == c.hd.id then c else k }

/-- The record of a command's start: a lease wait when the lease was the last thing it waited for, else a command start
(R197, R404, R405). -/
def State.matStartEdge (s : State) (c : MatCmd) : State :=
  let x := s.task c.hd.task
  let hp := s.hoop (hoopOf x.core)
  let base := max c.hd.issued (Assoc.getD x.engineEnd 3 (0, 0)).1
  let waited := s.cycle - base - (c.hd.away - c.hd.awayBase)
  if isLeased c.hd.op && base < hp.granted && c.hd.cleared ≤ hp.granted && 0 < waited then
    s.taskEdge c.hd.task
      { waiter := s.taskParty c.hd.task 3, kind := 6, prod := hp.lastParty, saved := c.hd.saved, arrive := s.cycle, waited,
        obj := BitVec.ofNat 64 c.lacc }
  else s.startCmd c.hd

/-- The state after the head of a task's matrix queue has started. -/
def State.startMat (s : State) (t : Nat) : State :=
  match s.matHead t with
  | none => s
  | some c =>
    if !s.matReady c then s
    else
      let s := s.matStartEdge c
      let x := s.task t
      let s := s.setTask t { x with mat := { x.mat with qmul := if c.hd.op = 0xC7 then x.mat.qmul + 1 else x.mat.qmul } }
      let h := hoopOf x.core
      let s := if isLeased c.hd.op then s.setHoop h { s.hoop h with blocked := none } else s
      s.putMat { c with hd := { c.hd with started := true } }

/-- The engine may finish a started command: its task is not halted by the debug core; one that is stopping finishes what has
started (R203). -/
def State.mayFinish (s : State) (t : Nat) : Bool :=
  s.engineFree t || ((s.task t).life == .stopping && (s.task t).frozenBy.isNone)

/-- The state after a started command at the head of a task's matrix queue has completed: leased commands outside chains
count under the grant (R196). -/
def State.endMat (s : State) (t : Nat) : State :=
  match s.matHead t with
  | none => s
  | some c =>
    if !c.hd.started || !s.mayFinish t then s
    else
      let h := hoopOf (s.task t).core
      let counts := isLeased c.hd.op && !(s.task t).mat.qopen && (s.hoop h).holder == some t
      let r := s.runMatrix c
      let s := r.1.dropMat c r.2
      let s := if (s.hoop h).holder == some t then
          s.setHoop h { s.hoop h with blocked := some s.cycle, grant := (s.hoop h).grant + (if counts then 1 else 0) }
        else s
      if (s.task t).life == .stopping then s.stopArray t else (s.settleMarkers t 16).settleLease h

/-- The state after an `mfree` at the head of a task's matrix queue has taken effect (R196 event 4, R207). -/
def State.freeAtHead (s : State) (t : Nat) : State :=
  match s.matHead t with
  | none => s
  | some c =>
    if c.hd.op != 0xC1 || !s.engineFree t then s
    else
      let x := s.task t
      let h := hoopOf x.core
      let s :=
        if x.mat.rpend then (s.setTask t { x with mat := { x.mat with rpend := false } }).passLease h t .none
        else if (s.hoop h).holder == some t && s.rivals h t then s.passLease h t .waiting
        else s
      ((s.dropMat c 0).settleMarkers t 16).settleLease h

/-- The state after the lease of a hoop has passed from a holder that could not start for 256 cycles, or that has nothing
queued (R196 event 3). -/
def State.idleLease (s : State) (h : Nat) : State :=
  match (s.hoop h).holder with
  | none => s
  | some t =>
    let stuck :=
      match s.matHead t, (s.hoop h).blocked with
      | none, _ => true
      | some c, some since => !c.hd.started && !s.matReady c && since + 256 ≤ s.cycle
      | some _, none => false
    if !(s.task t).mat.qopen && stuck && s.rivals h t then s.passLease h t .waiting else s

/-- The state after the claims of an ended task whose matrix and copy commands have completed are free (R199). -/
def State.releaseClaims (s : State) (t : Nat) : State :=
  match Assoc.get? s.tasks t with
  | none => s
  | some x =>
    if x.life == .ended && (s.matCmds t).isEmpty && x.cpyHeads.isEmpty then
      s.setTask t { x with mat := { x.mat with smap := [], amap := [], slots := [], accs := [] } }
    else s

/-- LEASE_GRANT: the arbiter of hoop `arg.core`. -/
def execLeaseGrant (s : State) : Result := .next (s.grantLease s.arg.core)

/-- LEASE_IDLE_TIMEOUT: the arbiter of hoop `arg.core`. -/
def execLeaseIdleTimeout (s : State) : Result := .next (s.idleLease s.arg.core)

/-- MFREE_AT_HEAD: task `arg.task`. -/
def execMfreeAtHead (s : State) : Result := .next (s.freeAtHead s.arg.task)

/-- MATRIX_COMMAND_START: task `arg.task`. -/
def execMatrixCommandStart (s : State) : Result := .next (s.startMat s.arg.task)

/-- MATRIX_COMMAND_COMPLETE: task `arg.task`. -/
def execMatrixCommandComplete (s : State) : Result := .next (s.endMat s.arg.task)

/-- CLAIM_RELEASE_AT_EXIT: task `arg.task`. -/
def execClaimReleaseAtExit (s : State) : Result := .next (s.releaseClaims s.arg.task)

end Sys2Proof.Machine
end

