-- ==== Sys2Proof/Machine/Copy.lean ====
section
/-! DEFINITION. Copy instructions 0xD0 to 0xD7 as they issue (R214, R218, R237, R239; Table 8-3), `cwait` and `cpstat` (R247,
R248), layout records and tiles (R222 to R227). -/

namespace Sys2Proof.Machine

/-! ## Operands and checks (Tables 8-3 and 8-5) -/

/-- The command as an instruction of the current strand captures it; `vs` are the values of its g registers. -/
def State.captureCpy (s : State) (op : Nat) (x : Cpy) (vs : List DWord) : CpyCmd :=
  let d : Oper :=
    if op = 0xD7 then .none
    else if x.slot then .slot ((Assoc.get? s.curTask.mat.smap x.d.toNat).getD 0)
    else s.spanOper x.d
  { hd := s.newHead (.cpy op x) op (s.capture x.rnd.toNat) [] [], x, d, ga := vs.headD 0
    b0 := vs.getD 1 0, b1 := vs.getD 2 0, count := if op = 0xD7 then bitsOf (vs.getD 1 0) 0 32 else 0 }

/-- Row 1: a queue is Bound with the channel as the party the form needs. -/
def State.cpyQueueBad (s : State) (op : Nat) (c : CpyCmd) : Bool :=
  c.d.queue?.any fun q =>
    let r := s.curTask.queueReg q
    r.bind != .bound || (if cpyIsStore op c.x then r.cons else r.prod).toNat != 4 + c.x.ch.toNat

/-- A span that a copy may name (R230, R32, R240). -/
def cpySpanOk (op : Nat) (d : DWord) : Bool :=
  let t := spTag d
  !reservedTag t && !isBook t && spStride d == 1 && (!isBlock t || spCount d % 32 == 0) &&
  (op != 0xD0 || spCount d * elemBits t % 8 == 0)

/-- Row 2. -/
def cpyFormatOk (op : Nat) (c : CpyCmd) : Bool :=
  (match c.d with | .span d => cpySpanOk op d | _ => true) &&
  (op != 0xD5 || (!isBook c.x.tag.toNat && (!c.x.slot || c.x.tag.toNat < 0x18))) &&
  (op != 0xD7 || isBook c.x.tag.toNat)

/-- Row 3: the value of the first misaligned address. -/
def cpyMisaligned (op : Nat) (c : CpyCmd) : Option DWord :=
  match (match c.d with | .span d => baseTrap [d] | _ => none) with
  | some v => some (BitVec.ofNat 64 v)
  | none =>
    if (op == 0xD2 || op == 0xD3) && c.b0 &&& 7 != 0 then some c.b0
    else if op == 0xD7 && c.ga &&& 15 != 0 then some c.ga
    else none

/-- Row 4. -/
def State.cpyMember (s : State) (c : CpyCmd) : Option Nat :=
  match c.d with
  | .span d => s.memberTrap [d]
  | _ => none

/-- The scratchpad bytes whose content an issue check reads: the scale stream of a source (R153). -/
def State.cpyStream (s : State) (op : Nat) (c : CpyCmd) : List Resource :=
  match c.d with
  | .span d =>
    if cpyIsStore op c.x && isBlock (spTag d) then
      padSet s.curTask.carve d
        (some ((scaleStart d : Nat), ((scaleStart d + (3 * (spCount d / 32) + 1) / 2 : Nat) : Int)))
    else []
  | _ => []

/-- The checker's resources of a command's operand (R218, R231). -/
def State.cpySet (s : State) (op : Nat) (c : CpyCmd) : List Resource :=
  match c.d with
  | .span d => padSet s.curTask.carve d (s.operExtent s.cur.task (!cpyIsStore op c.x) c.d)
  | .slot n => (List.range 4).map fun k => .slot n k
  | _ => []

/-- The aperture entry of a `.x` copy that cannot hold it (R127, R240, R374): the trap's cause. -/
def State.cpyAperture (s : State) (op : Nat) (c : CpyCmd) : Option Nat :=
  if op = 0xD0 && c.x.sub.getLsbD 1 then
    let e := Assoc.getD s.curCtx.apertures (bitsOf c.ga 60 4) {}
    let n := match c.d with | .span d => spCount d * elemBits (spTag d) / 8 | _ => 16384
    if !e.valid || e.size.toNat < bitsOf c.ga 0 60 + n then some 20
    else if cpyIsStore op c.x && !e.w then some 19
    else none
  else none

/-- The checks of Table 8-3, in order, and then the aperture of R374. [DEDUCED: notes/assumptions/38.md] -/
def checkCpy (op : Nat) (c : CpyCmd) : M Unit := do
  let s ← get
  let t := s.curTask
  let ch := t.chan c.x.ch.toNat
  if s.cpyQueueBad op c then raiseWord 10
  else if !cpyFormatOk op c then raiseWord 25
  else
    match cpyMisaligned op c with
    | some v => raise 13 v
    | none =>
      match s.cpyMember c with
      | some v => raise 16 (BitVec.ofNat 64 v)
      | none => do
        let older := ((s.cmdHeads s.cur.task).filter fun h => anyHit h.writes (s.cpyStream op c)).map (·.id)
        if !older.isEmpty then stallOn (.older older)
        else
          match s.rangeTrap s.cur.task (!cpyIsStore op c.x) c.d with
          | some v => raise 15 (BitVec.ofInt 64 v)
          | none =>
            if c.x.slot && (Assoc.get? t.mat.smap c.x.d.toNat).isNone then raise 27 2
            else if ch.faulted || ch.stream.isSome then raiseWord 28
            else
              match s.cpyAperture op c with
              | some k => raise k c.ga
              | none => pure ()

/-- The g codes an instruction reads: A, the pair B, the count of `cpk`. -/
def cpyCodes (op : Nat) (x : Cpy) : List Nat :=
  if op = 0xD7 then [x.a.toNat, x.d.toNat]
  else if op = 0xD6 then (if x.sub.getLsbD 0 then [x.a.toNat] else [])
  else if op = 0xD0 then [x.a.toNat]
  else [x.a.toNat, x.b.toNat, x.b.toNat + 1]

/-- A copy instruction issues: its command enters the channel's queue with the next transfer identifier (R214).
[DEDUCED: notes/assumptions/41.md] -/
def cpyBody (op : Nat) (x : Cpy) : M Flow := do
  drainPad
  let vs ← peekOperands (cpyCodes op x) none
  let s ← get
  let c := s.captureCpy op x vs
  checkCpy op c
  let ch := x.ch.toNat
  if 8 ≤ (s.curTask.chan ch).cmds.length then stallOn (.engineQueue 2 ch)
  else do
    checkerRoom 2 ch
    let set := s.cpySet op c
    lateFor (if cpyIsStore op x then set else []) (if cpyIsStore op x then [] else set)
    popNow (cpyCodes op x)
    let hd := if cpyIsStore op x then { c.hd with reads := set } else { c.hd with writes := set }
    modifyTask fun t =>
      let k := t.chan ch
      t.setChan ch { k with issued := k.issued + 1, cmds := k.cmds ++ [{ c with hd, id := k.issued + 1 }] }
    countCmd
    pure .next

/-! ## cwait and cpstat -/

/-- Identifier `a` is at or after `b` (R214). [DEDUCED: notes/assumptions/44.md] -/
def idAtOrAfter (a b : Word) : Bool := (a - b).toNat < 2 ^ 31

/-- `cwait` (R247): an operand queue is popped when the instruction retires. [DEDUCED: notes/assumptions/44.md] -/
def cwaitBody (x : Gen) : M Flow := do
  let ch := x.fn.toNat % 4
  let vs ← peekOperands (Src.codes x.b) none
  let s ← get
  let id : Word := (srcVal x.b (vs.headD 0)).extractLsb' 0 32
  let c := s.curTask.chan ch
  if idAtOrAfter c.done id then do
    popNow (Src.codes x.b)
    pure .next
  else if !idAtOrAfter c.issued id then raiseWord 29
  else if c.faulted && idAtOrAfter id c.fid then raise 30 (copyFaultValue ch c)
  else stallOn (.transfer ch id)

/-- STATE of Table 8-7. -/
def Channel.stateCode (c : Channel) : Nat :=
  if c.faulted then 3
  else
    match c.stream with
    | some r => if r.started then 2 else 1
    | none => if c.cmds.isEmpty then 0 else 1

/-- The word of Table 8-7. -/
def Channel.status (c : Channel) : DWord :=
  BitVec.ofNat 64 (c.stateCode + c.fcode.toNat * 2 ^ 8 + c.cmds.length * 2 ^ 16 + c.tables.length * 2 ^ 24 +
    c.fid.toNat * 2 ^ 32)

/-- `cpstat` (R248). -/
def cpstatBody (x : Gen) : M Flow := do
  let _ ← operands [] (some x.d.toNat)
  let s ← get
  let c := s.curTask.chan (x.fn.toNat % 4)
  writeDst x.d.toNat
    (match x.fn.toNat / 4 % 4 with
     | 0 => c.done.zeroExtend 64
     | 1 => c.issued.zeroExtend 64
     | 2 => c.status
     | _ => c.faddr)
  pure .next

/-! ## Layout records (Table 8-2) -/

/-- The fields of a record: extents and tile sizes as counts. -/
structure Rec where
  base : Int
  tag : Nat
  e0 : Nat
  e1 : Nat
  e2 : Nat
  e3 : Nat
  p1 : Int
  p2 : Int
  p3 : Int
  t0 : Nat
  t1 : Nat
  t2 : Nat
  h0 : Nat
  h1 : Nat
  order : Nat
  inner : Nat
  swzm : Nat
  swzs : Nat
  pad : DWord
  scale : Int
  deriving DecidableEq, Repr

/-- The record of eight words. -/
def Rec.of (ws : List DWord) : Rec :=
  let f := bitsAt ws
  let g (lo n : Nat) : Int := signedBits n (f lo n)
  { base := g 0 55, tag := f 55 6, e0 := f 64 16 + 1, e1 := f 80 16 + 1, e2 := f 96 16 + 1, e3 := f 112 16 + 1
    p1 := g 128 40, p2 := g 168 40, p3 := g 208 40, t0 := f 256 8 + 1, t1 := f 264 8 + 1, t2 := f 272 8 + 1
    h0 := f 288 6, h1 := f 296 6, order := f 304 2, inner := f 306 2, swzm := f 308 4, swzs := f 312 4
    pad := BitVec.ofNat 64 (f 320 64), scale := g 384 55 }

/-- The format of a record (Table 8-4, code 2). -/
def recFormatOk (ws : List DWord) : Bool :=
  let r := Rec.of ws
  let f := bitsAt ws
  f 61 3 == 0 && f 248 8 == 0 && f 280 8 == 0 && f 294 2 == 0 && f 302 2 == 0 && f 316 4 == 0 && f 439 73 == 0 &&
  r.tag < 0x18 && !reservedTag r.tag && r.inner != 3 && (isBlock r.tag || r.scale == 0)

/-- Element width of a record's tag. -/
def Rec.w (r : Rec) : Nat := elemBits r.tag

/-- The pad element (R224). -/
def Rec.padElem (r : Rec) : Nat := r.pad.toNat % 2 ^ r.w

/-- The constraints of R227, for a shift `dx` and a command that writes the tensor or not. -/
def Rec.geometryOk (r : Rec) (dx : Int) (store : Bool) : Bool :=
  let dense := 8 * r.p1 == (r.e0 * r.w : Nat) && r.p2 == r.e1 * r.p1 && r.p3 == r.e2 * r.p2
  let mult (n : Nat) : Bool := r.e0 % n == 0 && r.t0 % n == 0 && dx % n == 0
  if isBlock r.tag then !store && dense && mult 32 && r.h0 == 0 && r.scale != 0
  else if isBook r.tag then !store && dense && mult 128 && r.h0 == 0
  else true

/-! ## Tiles (R223 to R226) -/

/-- A tile: its coordinates and shift, and whether it lies outside the grid whatever its halo. -/
structure Tile where
  tx : Nat := 0
  ty : Nat := 0
  tz : Nat := 0
  tw : Nat := 0
  dx : Int := 0
  dy : Int := 0
  off : Bool := false
  deriving DecidableEq, Repr

/-- Round-up division. -/
def ceilDiv (n k : Nat) : Nat := (n + k - 1) / k

/-- The tile grid. -/
def Rec.grid (r : Rec) : Nat × Nat × Nat × Nat := (ceilDiv r.e0 r.t0, ceilDiv r.e1 r.t1, ceilDiv r.e2 r.t2, r.e3)

/-- Even-numbered bits of a number, from bit 0 up; `n` of them. -/
def evenBits : Nat → Nat → Nat
  | 0, _ => 0
  | n + 1, t => t % 2 + 2 * evenBits n (t / 4)

/-- HilbertXY from scale `s`, `n` doublings from the end. [DEDUCED: notes/assumptions/82.md] -/
def hilbert : Nat → Nat → Nat → Int → Int → Int × Int
  | 0, _, _, x, y => (x, y)
  | n + 1, s, t, x, y =>
    let rx := t / 2 % 2
    let ry := (t ^^^ rx) % 2
    let q : Int × Int :=
      if ry = 0 then (if rx = 1 then ((s : Int) - 1 - y, (s : Int) - 1 - x) else (y, x)) else (x, y)
    hilbert n (2 * s) (t / 4) (q.1 + (s * rx : Nat)) (q.2 + (s * ry : Nat))

/-- The smallest `k` with n ≤ 2^k. -/
def log2Up (n : Nat) : Nat := if n ≤ 1 then 0 else (n - 1).log2 + 1

/-- TileXY of R223. [DEDUCED: notes/assumptions/82.md] -/
def Rec.tileXY (r : Rec) (t : Nat) : Nat × Nat :=
  let g := r.grid
  match r.order with
  | 0 => (t % g.1, t / g.1)
  | 1 => (t / g.2.1, t % g.2.1)
  | o =>
    let k := log2Up (max g.1 g.2.1)
    if 2 ^ (2 * k) ≤ t then (2 ^ k, 2 ^ k)
    else if o = 2 then (evenBits 32 t, evenBits 32 (t / 2))
    else
      let q := hilbert k 1 t 0 0
      (q.1.toNat, q.2.toNat)

/-- The tile that a command names (R241 to R243); `entry` is its list entry. [DEDUCED: notes/assumptions/36.md] -/
def Rec.tileOf (r : Rec) (op : Nat) (b0 b1 entry : DWord) : Tile :=
  let z := bitsOf b1 0 32
  let w := bitsOf b1 32 32
  match op with
  | 0xD1 | 0xD5 =>
    let p := r.tileXY b0.toNat
    let g := r.grid
    { tx := p.1, ty := p.2, tz := z, tw := w, off := g.1 ≤ p.1 || g.2.1 ≤ p.2 || g.2.2.1 ≤ z || g.2.2.2 ≤ w }
  | 0xD4 =>
    { tx := bitsOf b0 0 16, ty := bitsOf b0 16 16, tz := z, tw := w, dx := signedBits 12 (bitsOf b0 32 12)
      dy := signedBits 12 (bitsOf b0 44 12) }
  | _ => { tx := bitsOf entry 0 16, ty := bitsOf entry 16 16 }

/-- W, H and D of a block: with its halos for fetches (R224). -/
def Rec.dims (r : Rec) (store : Bool) : Nat × Nat × Nat :=
  if store then (r.t0, r.t1, r.t2) else (r.t0 + 2 * r.h0, r.t1 + 2 * r.h1, r.t2)

/-- Elements of a block. -/
def Rec.elems (r : Rec) (store : Bool) : Nat := let d := r.dims store; d.1 * d.2.1 * d.2.2

/-- Block coordinates of position `p` (R226). -/
def Rec.at_ (r : Rec) (store : Bool) (p : Nat) : Nat × Nat × Nat :=
  let (w, h, d) := r.dims store
  match r.inner with
  | 0 => (p % w, p / w % h, p / w / h)
  | 1 => (p / h % w, p % h, p / h / w)
  | _ => (p / d % w, p / d / w, p % d)

/-- Bytes of a block whose elements are `w` bits wide (R226). [DEDUCED: notes/assumptions/33.md] -/
def Rec.blockBytes (r : Rec) (store : Bool) (w : Nat) : Nat :=
  roundUp (ceilDiv (r.elems store * w) 8) (if r.swzm = 0 then 32 else 1024)

/-- The swizzled byte offset; it is its own inverse (R226). -/
def Rec.swizzle (r : Rec) (o : Nat) : Nat :=
  if r.swzm = 0 then o else o ^^^ (((o >>> (10 + r.swzs)) &&& r.swzm) <<< 6)

/-- The position whose element stands `j`th in a span's block, if one does. -/
def Rec.placeAt (r : Rec) (store : Bool) (w j : Nat) : Option Nat :=
  let p := (8 * r.swizzle (j * w / 8) + j * w % 8) / w
  if p < r.elems store then some p else none

/-- Tensor coordinates x, y, z of a block element (R224). -/
def Rec.coord (r : Rec) (store : Bool) (k : Tile) (e : Nat × Nat × Nat) : Int × Int × Nat :=
  let hx : Nat := if store then 0 else r.h0
  let hy : Nat := if store then 0 else r.h1
  (((k.tx * r.t0 : Nat) : Int) - hx + e.1 + k.dx, ((k.ty * r.t1 : Nat) : Int) - hy + e.2.1 + k.dy, k.tz * r.t2 + e.2.2)

/-- Tensor coordinates lie within the extents. [DEDUCED: notes/assumptions/36.md] -/
def Rec.inside (r : Rec) (k : Tile) (c : Int × Int × Nat) : Bool :=
  !k.off && 0 ≤ c.1 && c.1 < r.e0 && 0 ≤ c.2.1 && c.2.1 < r.e1 && c.2.2 < r.e2 && k.tw < r.e3

/-- The bit address of a tensor element (R224). -/
def Rec.bitAt (r : Rec) (k : Tile) (c : Int × Int × Nat) : Int :=
  8 * r.base + c.1 * r.w + 8 * (c.2.1 * r.p1 + c.2.2 * r.p2 + k.tw * r.p3)

/-- The number of an element in memory order of a dense tensor. -/
def Rec.index (r : Rec) (k : Tile) (c : Int × Int × Nat) : Nat :=
  c.1.toNat + r.e0 * (c.2.1.toNat + r.e1 * (c.2.2 + r.e2 * k.tw))

/-- Numbers of the inside blocks of `n` elements of a dense tensor that a tile holds, in memory order (R227, R235). -/
def Rec.blocks (r : Rec) (k : Tile) (n : Nat) : List Nat :=
  let (w, h, d) := r.dims false
  (List.range d).flatMap fun z => (List.range h).flatMap fun v => (List.range (w / n)).filterMap fun u =>
    let c := r.coord false k (n * u, v, z)
    if r.inside k c then some (r.index k c / n) else none

/-! ## Meanings -/

/-- cwait. -/
def execCwait (x : Gen) (s : State) : Result := runStrand (.gen 0x6E x) (cwaitBody x) s

/-- cpstat. -/
def execCpstat (x : Gen) (s : State) : Result := runStrand (.gen 0x6F x) (cpstatBody x) s

/-- cpy. -/
def execCpy (x : Cpy) (s : State) : Result := runStrand (.cpy 0xD0 x) (cpyBody 0xD0 x) s

/-- cpt. -/
def execCpt (x : Cpy) (s : State) : Result := runStrand (.cpy 0xD1 x) (cpyBody 0xD1 x) s

/-- cpg. -/
def execCpg (x : Cpy) (s : State) : Result := runStrand (.cpy 0xD2 x) (cpyBody 0xD2 x) s

/-- cps. -/
def execCps (x : Cpy) (s : State) : Result := runStrand (.cpy 0xD3 x) (cpyBody 0xD3 x) s

/-- cpm. -/
def execCpm (x : Cpy) (s : State) : Result := runStrand (.cpy 0xD4 x) (cpyBody 0xD4 x) s

/-- cpc. -/
def execCpc (x : Cpy) (s : State) : Result := runStrand (.cpy 0xD5 x) (cpyBody 0xD5 x) s

/-- cpz. -/
def execCpz (x : Cpy) (s : State) : Result := runStrand (.cpy 0xD6 x) (cpyBody 0xD6 x) s

/-- cpk. -/
def execCpk (x : Cpy) (s : State) : Result := runStrand (.cpy 0xD7 x) (cpyBody 0xD7 x) s

end Sys2Proof.Machine
end

