-- ==== Sys2Proof/Machine/Placement.lean ====
section
/-! DEFINITION. Placement: which cores offer room (R272, R301, R332), how they score (R309, R318, R319), and where the tasks of
a group go (R320, R333, R334). -/

namespace Sys2Proof.Machine

/-! ## What is free -/

/-- A context whose faults the hardware pager serves withholds the pager's core (R365). -/
def Context.pagerCore (c : Context) : Option Nat :=
  if c.state != .free && !c.modes.getLsbD 3 then some (Config.homeDie c.ptroot.toNat * 256 + 128 + 31 * 4 + 3) else none

/-- A core takes new work: its hoop is online and the core is not withheld (R9, R365, R433). -/
def State.online (s : State) (c : Nat) : Bool :=
  let h := s.hoop (hoopOf c)
  c < 1024 && !h.offline && !h.draining && !(s.contexts.any fun e => e.2.pagerCore == some c)

/-- A task is placed on a core. -/
def Task.placedNow (x : Task) : Bool := x.life == .running || x.life == .stopping

/-- Tasks placed on a core. -/
def State.residents (s : State) (c : Nat) : List (Nat × Task) := s.tasks.filter fun e => e.2.core == c && e.2.placedNow

/-- Carves of members that have ended and whose group is placed, as core, first granule, granules and context (R337). -/
def State.keptCarves (s : State) : List (Nat × Nat × Nat) :=
  s.groups.flatMap fun g => if g.2.state == .saved then [] else g.2.ended.map fun e => (e.core, e.gran0, e.gran)

/-- Tasks that have ended and whose commands have not finished with their carves (R280, R322). -/
def State.carveLeft (s : State) : List (Nat × Task) := s.tasks.filter fun e => e.2.life == .ended && s.carveUsers e.1

/-- Granules of a core that carves hold, as first granule and count. -/
def State.heldRuns (s : State) (c : Nat) : List (Nat × Nat) :=
  (((s.residents c) ++ s.carveLeft.filter fun e => e.2.core == c).map fun e => (e.2.gran0, e.2.hdr.gran)) ++
  (s.keptCarves.filter fun e => e.1 == c).map fun e => (e.2.1, e.2.2)

/-- Operand slots and accumulators of a hoop that are reserved or claimed. -/
def State.usedSlots (s : State) (h : Nat) : List Nat :=
  s.tasks.flatMap fun e => if hoopOf e.2.core == h && e.2.life != .saved then e.2.mat.slots else []
def State.usedAccs (s : State) (h : Nat) : List Nat :=
  s.tasks.flatMap fun e => if hoopOf e.2.core == h && e.2.life != .saved then e.2.mat.accs else []

/-- The free ones. -/
def State.freeSlots (s : State) (h : Nat) : List Nat := (List.range 32).filter fun k => !(s.usedSlots h).contains k
def State.freeAccs (s : State) (h : Nat) : List Nat := (List.range 8).filter fun k => !(s.usedAccs h).contains k

/-- The task slots of a core that no task holds (R6). -/
def State.freeTaskSlots (s : State) (c : Nat) : List Nat :=
  (List.range 16).filter fun k => !((s.residents c).any fun e => e.2.slot == k)

/-- Tasks of a context placed on the device, and granules its carves hold (R272). -/
def State.residentCount (s : State) (ctx : Nat) : Nat := (s.tasks.filter fun e => e.2.ctx == ctx && e.2.placedNow).length
def State.granuleCount (s : State) (ctx : Nat) : Nat :=
  (s.tasks.map fun e => if e.2.ctx == ctx && e.2.placedNow then e.2.hdr.gran else 0).sum +
  (s.carveLeft.map fun e => if e.2.ctx == ctx then e.2.hdr.gran else 0).sum +
  (s.groups.map fun g =>
    if g.2.state == .saved then 0
    else (g.2.ended.map fun e => if (s.queue (s.launch e.launch).queue).ctx == ctx then e.gran else 0).sum).sum

/-! ## Tile references (R309) -/

/-- A resolved reference: what it names, and the tile's bytes homed on a die. -/
structure Ref where
  record : BitVec 16
  key : Word
  ver : Word
  bytes : Nat := 0
  die : Option Nat := none
  deriving DecidableEq, Repr

/-- A layout record as the dispatcher reads it at its home L2 (R319): none when it cannot be read, is beyond RTLEN or holds a
reserved field. -/
def State.peekRecord (s : State) (ctx rid : Nat) : Option Rec :=
  let c := s.ctx ctx
  if c.rtlen ≤ rid then none
  else
    match s.peekMap ctx (c.rtbase + BitVec.ofNat 64 (64 * rid)) with
    | some (pa, pte) =>
      let ws := s.mem.words pa 8
      if pteSpace pte == 0 && !s.isBad pa 64 && recFormatOk ws then some (Rec.of ws) else none
    | none => none

/-- Bytes of a tile and the die that homes the page of its first element; none when that element is outside the tensor or its
page is not present (R319). -/
def State.tileHome (s : State) (ctx : Nat) (r : Rec) (tx ty : Nat) : Nat × Option Nat :=
  let k : Tile := { tx, ty }
  let c : Int × Int × Nat := (((tx * r.t0 : Nat) : Int), ((ty * r.t1 : Nat) : Int), 0)
  if !r.inside k c then (0, none)
  else
    match s.peekMap ctx (BitVec.ofInt 64 (r.bitAt k c / 8)) with
    | some (pa, pte) =>
      if pteSpace pte == 0 then (ceilDiv (r.t0 * r.t1 * r.t2 * r.w) 8, some (Config.homeDie pa)) else (0, none)
    | none => (0, none)

/-- A reference of a task resolved (R309, R319). -/
def State.resolve (s : State) (ctx : Nat) (ver : Word) (index : Nat) (entry : DWord) (f : TileRef) : Option Ref :=
  let ver' := ver + f.vdelta.signExtend 32
  let make (r : Option Rec) (tx ty : Nat) : Ref :=
    let b := match r with | some r => s.tileHome ctx r tx ty | none => (0, none)
    ⟨f.record, BitVec.ofNat 32 (ty % 2 ^ 16 * 2 ^ 16 + tx % 2 ^ 16), ver', b.1, b.2⟩
  match s.peekRecord ctx f.record.toNat with
  | none => if f.list then some (make none (bitsOf entry 0 16) (bitsOf entry 16 16)) else none
  | some r =>
    if f.list then some (make (some r) (bitsOf entry 0 16) (bitsOf entry 16 16))
    else
      let t := (f.imul.toNat * index + f.iadd.toNat) % 2 ^ 32
      some (make (some r) (t % r.grid.1) (t / r.grid.1))

/-! ## Members to place -/

/-- A member as placement sees it: what it needs, its references, whether it has ended and only its carve is placed, and
whether it is resumed, so that its S is 0 (R318). -/
structure Need where
  ctx : Nat
  hdr : TaskHeader
  refs : List Ref
  ended : Bool := false
  resumed : Bool := false
  deriving DecidableEq, Repr

/-- Where a member goes: core and first granule. -/
structure Spot where
  core : Nat
  gran0 : Nat
  deriving DecidableEq, Repr

/-- Members assigned so far with their places. -/
abbrev Assigned := List (Need × Spot)

/-- Members assigned to a core, or to its hoop. -/
def Assigned.onCore (as : Assigned) (c : Nat) : Assigned := as.filter fun a => a.2.core == c
def Assigned.onHoop (as : Assigned) (h : Nat) : Assigned := as.filter fun a => hoopOf a.2.core == h && !a.1.ended

/-- The granule runs of a core where a carve fits (R318). -/
def State.freeRuns (s : State) (as : Assigned) (c gran : Nat) : List Nat :=
  let held := s.heldRuns c ++ (Assigned.onCore as c).map fun a => (a.2.gran0, a.1.hdr.gran)
  (List.range (17 - gran)).filter fun g => held.all fun r => g + gran ≤ r.1 || r.1 + r.2 ≤ g

/-- The claims and the task slot of a member are free. -/
def State.claimsFit (s : State) (as : Assigned) (n : Need) (c : Nat) : Bool :=
  n.ended ||
  let on := Assigned.onHoop as (hoopOf c)
  (s.residents c).length + ((Assigned.onCore as c).filter fun a => !a.1.ended).length < 16 &&
  n.hdr.slots + (on.map fun a => a.1.hdr.slots).sum ≤ (s.freeSlots (hoopOf c)).length &&
  n.hdr.acc + (on.map fun a => a.1.hdr.acc).sum ≤ (s.freeAccs (hoopOf c)).length

/-- Sr of R318 for a run of a core. [DEDUCED: notes/assumptions/83.md] -/
def State.runScore (s : State) (n : Need) (c g : Nat) : Nat :=
  let es := (s.core c).residency.filter fun e =>
    e.2.state == .standing && e.2.ctx == n.ctx && g * granule ≤ e.2.off && e.2.off + e.2.len ≤ (g + n.hdr.gran) * granule
  (n.refs.map fun f => (es.foldl (fun (b : Nat) e =>
    if e.2.record == f.record && e.2.key == f.key && e.2.ver == f.ver then max b e.2.len else b) 0)).sum

/-- The layer of a core is in Migrate or Clamp (R319). -/
def State.throttled (s : State) (c : Nat) : Bool := (Assoc.getD (s.die (dieOf c)).layers (layerOf c % 2) {}).state != .normal

/-- What a core offers a member: its score and the first granule of the run that gives it; none when the member does not fit
(R301, R318, R319). -/
def State.offer (s : State) (as : Assigned) (n : Need) (c : Nat) : Option (Nat × Spot) :=
  if !s.online c || !s.claimsFit as n c then none
  else
    match s.freeRuns as c n.hdr.gran with
    | [] => none
    | g :: gs =>
      let best : Nat × Nat :=
        if n.resumed then (0, g)
        else gs.foldl (fun (b : Nat × Nat) k => let r := s.runScore n c k; if b.1 < r then (r, k) else b) (s.runScore n c g, g)
      let d := (n.refs.map fun f => if f.die == some (dieOf c) then f.bytes else 0).sum
      let score := 4 * best.1 + d
      some (if s.throttled c then score / 2 else score, ⟨c, best.2⟩)

/-- Tasks on a core with those assigned to it. -/
def State.crowd (s : State) (as : Assigned) (c : Nat) : Nat :=
  (s.residents c).length + ((Assigned.onCore as c).filter fun a => !a.1.ended).length

/-- The best core of a list for a member (R320): the highest score, then fewer resident tasks, then the lower number. The list
rises. [DEDUCED: notes/assumptions/83.md] -/
def State.bestCore (s : State) (as : Assigned) (n : Need) (cs : List Nat) : Option (Nat × Spot) :=
  cs.foldl (fun (b : Option (Nat × Spot)) c =>
    match s.offer as n c, b with
    | none, b => b
    | some o, none => some o
    | some o, some b => if b.1 < o.1 || (b.1 == o.1 && s.crowd as c < s.crowd as b.2.core) then some o else some b) none

/-- The members assigned in increasing index to cores of a list, the first of them to `first` when that is given (R333, R334):
their places and the sum of the scores. -/
def State.assign (s : State) (first : Option Nat) (cs : List Nat) : List Need → Assigned → Nat → Option (Nat × Assigned)
  | [], as, k => some (k, as)
  | n :: ns, as, k =>
    match s.bestCore as n (match first with | some c => [c] | none => cs) with
    | some (k', p) => State.assign s none cs ns (as ++ [(n, p)]) (k + k')
    | none => none

/-! ## Windows (R332) -/

/-- The cores of the window that starts at hoop `h` of the device, clipped at the last hoop of its layer. -/
def windowCores (h : Nat) : List Nat := (List.range (4 * (min (h % 32 + 3) 31 - h % 32 + 1))).map (4 * h + ·)

/-- The best window for a group (R333): the highest score, then member 0's lower core, then the lower start. -/
def State.bestWindow (s : State) (ns : List Need) (hs : List Nat) : Option (Nat × Assigned) :=
  let head (as : Assigned) : Nat := match as with | a :: _ => a.2.core | [] => 0
  hs.foldl (fun (b : Option (Nat × Assigned)) h =>
    match s.assign none (windowCores h) ns [] 0, b with
    | none, b => b
    | some w, none => some w
    | some w, some b => if b.1 < w.1 || (b.1 == w.1 && head w.2 < head b.2) then some w else some b) none

/-- The context's limits allow the members to be placed (R272). -/
def State.limitsAllow (s : State) (ctx : Nat) (ns : List Need) : Bool :=
  let c := s.ctx ctx
  (c.taskmax == 0 || s.residentCount ctx + (ns.filter fun n => !n.ended).length ≤ c.taskmax) &&
  (c.carvemax == 0 || s.granuleCount ctx + (ns.map fun n => n.hdr.gran).sum ≤ c.carvemax)

/-- Where the members of a group, or a single task, go: by hint when `hint` is given (R320, R334), else by score. `cs` are the
cores considered for a single task, `hs` the window starts for a group. -/
def State.whereIn (s : State) (hint : Option Nat) (ns : List Need) (cs hs : List Nat) : Option Assigned :=
  match hint with
  | some c => (s.assign (some c) (windowCores (hoopOf c)) ns [] 0).map (·.2)
  | none =>
    if ns.length ≤ 1 then (s.assign none cs ns [] 0).map (·.2) else (s.bestWindow ns hs).map (·.2)

/-- Every core, and every hoop as a window start. -/
def allCores : List Nat := List.range 1024
def allHoops : List Nat := List.range 256

/-- Where the members go, when they fit now (R301). -/
def State.placeFor (s : State) (ctx : Nat) (hint : Option Nat) (ns : List Need) : Option Assigned :=
  if s.limitsAllow ctx ns then s.whereIn hint ns allCores allHoops else none

/-- No hoop, or no window, of the idle device could hold the members (R303, R334). -/
def State.neverFits (s : State) (ns : List Need) : Bool :=
  let idle : State := { s with tasks := [], groups := [], contexts := [] }
  (idle.whereIn none ns allCores allHoops).isNone

end Sys2Proof.Machine
end

