-- ==== Sys2Proof/Machine/QueueRegs.lean ====
section
/-! DEFINITION. Binding instructions of queue and stream registers (R119, R249, R443), and the run of a stream (R250, R251). -/

namespace Sys2Proof.Machine

/-- The queue a binding instruction names by its pop code (R119). -/
def queueCode (d : BitVec 9) : Nat := (d.toNat - 64) % 16

/-- `qbind` (Table 4-12). -/
def qbindBody (x : Gen) : M Flow := do
  let s ← get
  let q := queueCode x.d
  if (s.curTask.queueReg q).bind != .unbound then raiseWord 10
  else do
    modifyTask fun t => t.setQueueReg q
      { bind := .bound, size := x.fn.extractLsb' 0 2, prod := x.fn.extractLsb' 2 3, cons := x.fn.extractLsb' 5 3 }
    pure .next

/-- The channel whose stream feeds a queue. -/
def Task.streamOf (x : Task) (q : Nat) : Option Nat :=
  (x.chans.find? fun c => match c.2.stream with | some r => r.q == q | none => false).map (·.1)

/-- The task with the stream of a queue stopped: its channel is Idle at once (R443). The beat in flight is completed (Table
4-12): an element that the stream has read is pushed when there is room. [DEDUCED: notes/assumptions/95.md] -/
def Task.stopStream (x : Task) (q : Nat) : Task :=
  match x.streamOf q with
  | some ch =>
    let c := x.chan ch
    let x := x.setChan ch { c with stream := none }
    let r := x.queueReg q
    match c.stream.bind (·.held) with
    | some v => if 0 < r.room then x.setQueueReg q (r.push v) else x
    | none => x
  | none => x

/-- An operand is a queue. -/
def Oper.isQueue (q : Nat) : Oper → Bool
  | .queue k _ => k == q
  | _ => false

/-- A copy command with its queue part abandoned when its queue is `q` (R232). -/
def CpyCmd.abandon (q : Nat) (c : CpyCmd) : CpyCmd := if c.d.isQueue q then { c with freed := true } else c

/-- A stall on a queue that is freed turns into a queue-state trap (R119). -/
def freeDoom (q : Nat) (y : Why) : Option (Nat × Option DWord) := if y == .pop q || y == .push q then some (10, none) else none

/-- The end of a queue that its stream is. -/
def streamEndOf (q k code : Nat) : Bool := k == q && 4 ≤ code

/-- The task with a queue freed (R119). -/
def Task.freeQueue (x : Task) (q : Nat) : Task :=
  let x := (x.doom (freeDoom q)).stopStream q
  let x := x.setQueueReg q {}
  { x with chans := x.chans.map fun c => (c.1, { c.2 with cmds := c.2.cmds.map (CpyCmd.abandon q) }) }

/-- The core's vector commands of a task that use a freed queue are marked (R119). -/
def State.markFreed (s : State) (t q : Nat) : State :=
  let c := (s.task t).core
  s.setCore c { s.core c with vq := (s.core c).vq.map fun v =>
    if v.hd.task == t && (v.d.isQueue q || v.a.isQueue q || v.b.isQueue q) then { v with freed := true } else v }

/-- `qfree` (Table 4-12). -/
def qfreeBody (x : Gen) : M Flow := do
  let s ← get
  let q := queueCode x.d
  if (s.curTask.queueReg q).bind == .unbound then raiseWord 10
  else do
    modifyTask fun t => t.freeQueue q
    modify fun s => s.markFreed s.cur.task q
    pure .next

/-- Code of a binding state (Table 4-13). -/
def Binding.code : Binding → Nat
  | .unbound => 0
  | .bound => 1
  | .stream => 2
  | .stopped => 3

/-- The status word of a queue register (Table 4-13). -/
def Task.queueStatus (x : Task) (q : QueueReg) : DWord :=
  BitVec.ofNat 64 (q.count * q.bytes + q.bind.code * 2 ^ 16 +
    (if x.endLive q q.prod.toNat then 2 ^ 18 else 0) + (if x.endLive q q.cons.toNat then 2 ^ 19 else 0) +
    q.size.toNat * 2 ^ 20 + q.prod.toNat * 2 ^ 24 + q.cons.toNat * 2 ^ 28)

/-- `qstat` (Table 4-12). -/
def qstatBody (x : Gen) : M Flow := do
  let _ ← operands [] (some x.d.toNat)
  let s ← get
  writeDst x.d.toNat (s.curTask.queueStatus (s.curTask.queueReg (queueCode x.a)))
  pure .next

/-! ## Streams -/

/-- Signed field of a stream descriptor. -/
def descSigned (ws : List DWord) (lo n : Nat) : Int := signedBits n (bitsAt ws lo n)

/-- The four operators of a descriptor: code and constant (Table 8-8). -/
def descOps (ws : List DWord) : List (Nat × Nat) :=
  (List.range 4).map fun j => (bitsAt ws (40 * j + 288) 4, bitsAt ws (40 * j + 296) 32)

/-- The reserved fields of a descriptor are zero and its operator codes are assigned (R249, R250). -/
def descOk (ws : List DWord) : Bool :=
  bitsAt ws 56 8 == 0 && bitsAt ws 272 16 == 0 && bitsAt ws 448 64 == 0 &&
  (List.range 4).all (fun j => bitsAt ws (40 * j + 292) 4 == 0) && (descOps ws).all fun o => o.1 ≤ 12

/-- The fields that must be multiples of the element size, in the order of R249 step 5. -/
def descAddrs (ws : List DWord) : List Int :=
  [descSigned ws 0 55, descSigned ws 128 48, descSigned ws 176 48, descSigned ws 224 48]

/-- `stbind` (R119, R249). -/
def stbindBody (x : Gen) : M Flow := do
  drainPad
  let vs ← operands [x.a.toNat] none
  let s ← get
  let t := s.curTask
  let q := queueCode x.d
  let off := (vs.headD 0).toNat
  let ch := bitsOf (x.fn.zeroExtend 64) 2 2
  if (t.queueReg q).bind != .unbound then raiseWord 10
  else if off % 64 != 0 then raise 13 (vs.headD 0)
  else if t.hdr.cs ≤ off then raise 15 (vs.headD 0)
  else do
    match ← padAccess { op := 0x4B, space := .s, a := vs.headD 0, size := 64 } t.core (t.carve + off) true with
    | .error e => throw (.trap e)
    | .ok _ => pure ()
    let ws := (s.core t.core).pad.words (t.carve + off) 8
    let c := t.chan ch
    if !descOk ws then raiseWord 25
    else
      match (descAddrs ws).find? fun v => v % 2 ^ (x.fn.toNat % 4) != 0 with
      | some v => raise 13 (BitVec.ofInt 64 v)
      | none =>
        if c.faulted || c.stream.isSome then raiseWord 28
        else do
          modifyTask fun t => (t.setQueueReg q
            { bind := .stream, size := x.fn.extractLsb' 0 2, prod := BitVec.ofNat 3 (4 + ch)
              cons := (x.fn.extractLsb' 4 2).zeroExtend 3 }).setChan ch
            { c with stream := some { q, desc := ws, started := c.cmds.isEmpty } }
          pure .next

/-- `ststop` (Table 4-12). -/
def ststopBody (x : Gen) : M Flow := do
  let s ← get
  let q := queueCode x.d
  if (s.curTask.queueReg q).bind != .stream then raiseWord 10
  else do
    modifyTask fun t => let t := t.stopStream q; t.setQueueReg q { t.queueReg q with bind := .stopped }
    modify fun s => s.dropEnds s.cur.task (streamEndOf q)
    pure .next

/-- Elements that a stream reads in all. -/
def descCount (ws : List DWord) : Nat := bitsAt ws 64 32 * (bitsAt ws 96 16 + 1) * (bitsAt ws 112 16 + 1)

/-- The address of element `k` of a stream, inner dimension first (R250). -/
def descAddr (ws : List DWord) (k : Nat) : DWord :=
  let n0 := bitsAt ws 64 32
  let n1 := bitsAt ws 96 16 + 1
  BitVec.ofInt 64 (descSigned ws 0 55 + (k % n0 : Nat) * descSigned ws 128 48 +
    (k / n0 % n1 : Nat) * descSigned ws 176 48 + (k / n0 / n1 : Nat) * descSigned ws 224 48)

/-- One operator of the chain on `w` bits: the value, or none when the element is dropped (R250). -/
def streamOp (w : Nat) (op c x : Nat) : Option Nat :=
  match op with
  | 1 => some ((x + c) % 2 ^ w)
  | 2 => some (x &&& c)
  | 3 => some (x ^^^ c)
  | 4 => some (x / 2 ^ (c % w))
  | 5 => some (x * 2 ^ (c % w) % 2 ^ w)
  | 6 => some (min x c)
  | 7 => some (max x c)
  | 8 => if x = c then none else some x
  | 9 => if x < c then none else some x
  | 10 => if c ≤ x then none else some x
  | 11 => if signedBits w x < signedBits w c then none else some x
  | _ => if signedBits w c ≤ signedBits w x then none else some x

/-- The operator chain: it ends at code 0 (R250). -/
def streamChain (w x : Nat) : List (Nat × Nat) → Option Nat
  | [] => some x
  | (op, c) :: t =>
    if op = 0 then some x
    else
      match streamOp w op ((signedBits 32 c % (2 ^ w : Nat)).toNat) x with
      | some y => streamChain w y t
      | none => none

/-! ## Meanings -/

/-- qbind. -/
def execQbind (x : Gen) (s : State) : Result := runStrand (.gen 0x48 x) (qbindBody x) s

/-- qfree. -/
def execQfree (x : Gen) (s : State) : Result := runStrand (.gen 0x49 x) (qfreeBody x) s

/-- qstat. -/
def execQstat (x : Gen) (s : State) : Result := runStrand (.gen 0x4A x) (qstatBody x) s

/-- stbind. -/
def execStbind (x : Gen) (s : State) : Result := runStrand (.gen 0x4B x) (stbindBody x) s

/-- ststop. -/
def execStstop (x : Gen) (s : State) : Result := runStrand (.gen 0x4C x) (ststopBody x) s

end Sys2Proof.Machine
end

