-- ==== Sys2Proof/Machine/VectorEngine.lean ====
section
/-! DEFINITION. The vector engine of a core (R157 to R159, R164, R165): the execution of a command position by position, and
the vector instructions. -/

namespace Sys2Proof.Machine

/-! ## Operands in execution -/

/-- The elements of a span operand as they stand. -/
def State.spanElems (s : State) (t : Nat) (o : Oper) : List Nat :=
  match o with
  | .span d => (List.range (spCount d)).map (s.spanElem t d)
  | _ => []

/-- Element `k` of a span of the command's task; elements of other operands are given by the caller. -/
def VecCmd.spanAt (c : VecCmd) (s : State) (snap : Option (List Nat)) (o : Oper) (k : Nat) : Nat :=
  match o with
  | .span d =>
    match snap with
    | some l => l.getD k 0
    | none => s.spanElem c.hd.task d k
  | .const b => b.toNat
  | _ => 0

/-- Position of a source element: the one element of a span of COUNT 1 is broadcast (R156). -/
def Oper.place (o : Oper) (i : Nat) : Nat :=
  match o with
  | .span d => if spCount d = 1 then 0 else i
  | _ => i

/-- The mask bit at a position (R157). -/
def VecCmd.maskAt (c : VecCmd) (s : State) (r : VecRun) (i : Nat) : Bool :=
  match c.m with
  | .span _ => c.spanAt s (r.snap.map fun e => e.2.2) c.m i == 1
  | _ => true

/-- Where a command goes at a position: on, into a wait, or into a trap (R159). -/
inductive VecOut where
  | go (s : State) (r : VecRun)
  | wait (y : Why) (prod : Party)
  | trap (cause : Nat) (v : DWord)
  | done

/-- The party of a binding code of a task (Table 18-2). -/
def State.endParty (s : State) (t code : Nat) : Party := s.taskParty t (if code < 4 then code else 2)

/-- A source queue that lacks the element a position needs (R115, R159, R251); `i` is the number of positions done. -/
def State.vecStarved (s : State) (c : VecCmd) (os : List Oper) (i : Nat) : Option VecOut :=
  (os.filterMap Oper.queue?).eraseDups.findSome? fun q =>
    let x := s.task c.hd.task
    let reg := x.queueReg q
    if (if popsQueue os q then 1 else i + 1) ≤ reg.count && !c.freed && !c.lost then none
    else if c.freed then some (.trap 10 (c.hd.w0.zeroExtend 64))
    else
      match reg.faulted with
      | some v => some (.trap 30 v)
      | none =>
        if c.lost || reg.prod.toNat == c.hd.unit.code || !x.endLive reg reg.prod.toNat then some (.trap 11 (BitVec.ofNat 64 i))
        else some (.wait (.pop q) (s.endParty c.hd.task reg.prod.toNat))

/-- The element of a source at a position, before the pops. -/
def VecCmd.sourceAt (c : VecCmd) (s : State) (snap : Option (List Nat)) (os : List Oper) (o : Oper) (i : Nat) : Nat :=
  match o with
  | .queue q _ =>
    let reg := (s.task c.hd.task).queueReg q
    if popsQueue os q then reg.head.toNat else (reg.all.getD i 0).toNat
  | _ => c.spanAt s snap o (o.place i)

/-- The element of D that `vfma` adds at a position: D as it stood before the instruction when its elements lie on each other
(R164), else as it stands when the position is reached (R439). -/
def VecCmd.addend (c : VecCmd) (s : State) (r : VecRun) (os : List Oper) (i : Nat) : Nat :=
  match c.d with
  | .span d => if spStride d = 0 then r.old.getD i 0 else s.spanElem c.hd.task d i
  | _ => c.sourceAt s none os c.d i

/-- The state after the sources of a position are popped. -/
def State.vecPop (s : State) (c : VecCmd) (os : List Oper) : State :=
  ((os.filterMap Oper.queue?).eraseDups.filter (popsQueue os)).foldl
    (fun s q => let x := s.task c.hd.task; s.setTask c.hd.task (x.setQueueReg q (x.queueReg q).pop)) s

/-- A result element: into D at an index, or for a queue to be pushed. -/
def State.vecPut (s : State) (c : VecCmd) (r : VecRun) (k v : Nat) : State × VecRun :=
  match c.d with
  | .span d => (s.setSpanElem c.hd.task d k v, r)
  | _ => (s, { r with out := r.out ++ [storedBits c.tagD v] })

/-- The position is done: with nothing left to push or to insert the next one begins. -/
def VecRun.advance (r : VecRun) : VecRun := if r.out.isEmpty && r.insert.isNone then { r with pos := r.pos + 1 } else r

/-- The next result of a command pushed into its destination queue (R116, R159). -/
def State.vecPush (s : State) (c : VecCmd) (r : VecRun) (q v : Nat) : VecOut :=
  let x := s.task c.hd.task
  let reg := x.queueReg q
  if c.freed then .trap 10 (c.hd.w0.zeroExtend 64)
  else if 0 < reg.room && !c.lost then
    let r := { r with out := r.out.tail }
    .go (s.setTask c.hd.task (x.setQueueReg q (reg.push (BitVec.ofNat 64 v)))) (if r.fin then r else r.advance)
  else if c.lost || reg.cons.toNat == c.hd.unit.code || !x.endLive reg reg.cons.toNat then .trap 12 (BitVec.ofNat 64 r.pos)
  else .wait (.push q) (s.endParty c.hd.task reg.cons.toNat)

/-! ## One position -/

/-- The probe of `vhash` for a key: the result, and the slot that the key is to be inserted into (R181). -/
def State.vecHash (s : State) (c : VecCmd) (key : Nat) : Nat × Option Nat :=
  match c.b with
  | .span d => hashProbe (fun k => s.spanElem c.hd.task d k) (spCount d) key (c.x.sub == 1)
  | _ => (2 ^ 32 - 1, none)

/-- The insertion that a probe of `vhash` has found a slot for: a move of its own, since R182 makes the read and the write of
an entry no atomic operation. -/
def State.vecInsert (s : State) (c : VecCmd) (r : VecRun) (slot key : Nat) : State × VecRun :=
  let s := match c.b with
    | .span d => s.setSpanElem c.hd.task d slot key
    | _ => s
  s.vecPut c { r with insert := none } r.pos slot

/-- The source elements of a position as the instruction takes them: `vclamp` has its bounds, `vperm` and `vgath` pick from
A, `vscale` takes one scale for 32 elements (R167, R176, R179). -/
def VecCmd.picked (c : VecCmd) (s : State) (r : VecRun) (i a b : Nat) : Nat × Nat :=
  let sa := r.snap.map fun e => e.1
  let sb := r.snap.map fun e => e.2.1
  match c.op with
  | 0xAD => (c.spanAt s sa c.a (b % max 1 (c.a.count.getD 1)), b)
  | 0xAE =>
    let k := intOf c.tagB b
    (if 0 ≤ k && k < (c.a.count.getD 0 : Nat) then c.spanAt s sa c.a k.toNat else 0, b)
  | 0xB6 => (a, c.spanAt s sb c.b (i / 32))
  | _ => (a, b)

/-- The bounds of `vclamp`. -/
def VecCmd.bounds (c : VecCmd) (s : State) (r : VecRun) : Nat × Nat :=
  let sb := r.snap.map fun e => e.2.1
  (c.spanAt s sb c.b 0, c.spanAt s sb c.b 1)

/-- What a position does once its sources are there and popped: `a`, `b`, `d` their elements, `m` the mask bit. -/
def State.vecElement (s : State) (c : VecCmd) (r : VecRun) (i a b d : Nat) (m : Bool) : State × VecRun :=
  let flagged (v : Nat × Flags) : VecRun := { r with flags := r.flags ||| v.2 }
  match c.op with
  | 0xAA | 0xAC =>
    if !m then (s, r)
    else
      let v := c.contribution a b
      (s, { flagged v with ka := r.ka ++ [(v.1, true)] })
  | 0xAB =>
    if !m then (s, r)
    else
      let r := { r with ka := r.ka ++ [((c.contribution a b).1, true)] }
      let v := c.reduce (r.ka.map (·.1))
      s.vecPut c { r with flags := r.flags ||| v.2 } i v.1
  | 0xAF => (s, { r with ka := r.ka ++ [(a, m)], kb := r.kb ++ [b] })
  | 0xB3 =>
    if !m then (s, r)
    else
      match s.vecHash c a with
      | (_, some k) => (s, { r with insert := some (k, a) })
      | (v, none) => s.vecPut c r i v
  | 0xB4 => (s, if m && c.counted a then { r with kept := r.kept + 1 } else r)
  | 0xB5 =>
    if !m then (s, r)
    else
      let r' := { r with kept := r.kept + 1 }
      match c.d with
      | .span x => if r.kept < spCount x then s.vecPut c r' r.kept a else (s, r')
      | _ => s.vecPut c r' r.kept a
  | 0xA0 =>
    if !m then (s, r)
    else
      let bs := c.bounds s r
      let v := c.clamp a bs.1 bs.2
      s.vecPut c (flagged v) i v.1
  | op =>
    if op = 0x9A && isBlock c.tagD then (s, { r with ka := r.ka ++ [(a, m)] })
    else if !m && op != 0x99 then (s, r)
    else
      let p := c.picked s r i a b
      let v := c.element i p.1 p.2 d m
      s.vecPut c (flagged v) i v.1

/-- One position of an instruction that takes its sources in element order. -/
def State.vecPosition (s : State) (c : VecCmd) (r : VecRun) : VecOut :=
  let i := r.pos
  let os := c.streamed
  match s.vecStarved c os i with
  | some o => o
  | none =>
    let a := c.sourceAt s (r.snap.map fun e => e.1) os c.a i
    let b := if c.op = 0xA0 ∨ c.op = 0xB6 then 0 else c.sourceAt s (r.snap.map fun e => e.2.1) os c.b i
    let d := if c.op = 0x93 then c.addend s r os i else 0
    let m := c.maskAt s r i
    let e := (s.vecPop c os).vecElement c r i a b d m
    .go e.1 e.2.advance

/-! ## Set intersection (R180) -/

/-- The next element of a list of `visect`: at index `i`, it ends a span list at COUNT and a queue list at all ones. -/
def VecCmd.listAt (c : VecCmd) (s : State) (snap : Option (List Nat)) (o : Oper) (i : Nat) : Option Nat :=
  match o with
  | .span d => if spCount d ≤ i then none else some (c.spanAt s snap o i)
  | _ =>
    let v := c.sourceAt s none [o] o i
    if v = 2 ^ 32 - 1 then none else some v

/-- Both lists are one queue. -/
def VecCmd.sameQueue (c : VecCmd) : Bool := c.a.queue?.isSome && c.a.queue? == c.b.queue?

/-- One step of the merge: a head is fetched, or the heads are compared. The heads are in `ka` and `kb`, the elements emitted
in `out`, the positions of the lists in `pos` and `kept`. -/
def State.vecMerge (s : State) (c : VecCmd) (r : VecRun) : VecOut :=
  if c.sameQueue && !r.endA && r.ka.isEmpty then
    match s.vecStarved c [c.a, c.b] r.pos with
    | some o => o
    | none =>
      let v := c.sourceAt s none [c.a, c.b] c.a r.pos
      let l := if v = 2 ^ 32 - 1 then [] else [v]
      .go (s.vecPop c [c.a, c.b])
        { r with pos := r.pos + 1, kept := r.kept + 1, ka := l.map fun v => (v, true), kb := l, endA := l.isEmpty, endB := l.isEmpty }
  else if !r.endA && r.ka.isEmpty then
    match s.vecStarved c [c.a] r.pos with
    | some o => o
    | none =>
      match c.listAt s (r.snap.map fun e => e.1) c.a r.pos with
      | some v => .go (s.vecPop c [c.a]) { r with pos := r.pos + 1, ka := [(v, true)] }
      | none => .go (s.vecPop c [c.a]) { r with pos := r.pos + 1, endA := true }
  else if !r.endB && r.kb.isEmpty then
    match s.vecStarved c [c.b] r.kept with
    | some o => o
    | none =>
      match c.listAt s (r.snap.map fun e => e.2.1) c.b r.kept with
      | some v => .go (s.vecPop c [c.b]) { r with kept := r.kept + 1, kb := [v] }
      | none => .go (s.vecPop c [c.b]) { r with kept := r.kept + 1, endB := true }
  else
    match r.ka, r.kb with
    | (a, _) :: _, b :: _ =>
      let t := c.readTag c.tagA
      if intOf t a < intOf t b then .go s { r with ka := [] }
      else if intOf t b < intOf t a then .go s { r with kb := [] }
      else .go s { r with ka := [], kb := [], out := r.out ++ [a] }
    | _ :: _, [] => if c.a.queue?.isSome then .go s { r with ka := [] } else .done
    | [], _ :: _ => if c.b.queue?.isSome then .go s { r with kb := [] } else .done
    | [], [] => .done

/-! ## Start and finish -/

/-- The run of a command that starts: the sources are read first when the destination overlaps them (R164). -/
def State.startVec (s : State) (c : VecCmd) : VecRun :=
  let t := c.hd.task
  let meets (o : Oper) : Bool := s.operMeet t c.d o false
  let snap :=
    if meets c.a || meets c.b || meets c.m then some (s.spanElems t c.a, s.spanElems t c.b, s.spanElems t c.m) else none
  { snap, old := if c.op = 0x93 then s.spanElems t c.d else [], scales := c.scales }

/-- The state with the scale stream of D written (R33, R35). -/
def State.putStream (s : State) (c : VecCmd) (scales : List Nat) : State :=
  match c.d with
  | .span d => s.setSpanBytes c.hd.task d (scaleStart d) (packNibbles (encodeScales (4 * elemBits (spTag d)) 0 127 scales))
  | _ => s

/-- What remains once every position is done. -/
def State.finishVec (s : State) (c : VecCmd) (r : VecRun) : State × VecRun :=
  let t := c.hd.task
  let r := { r with fin := true }
  match c.op with
  | 0xAA | 0xAC =>
    if r.ka.isEmpty then (s, r)
    else
      let v := c.reduce (r.ka.map (·.1))
      s.vecPut c { r with flags := r.flags ||| v.2 } 0 v.1
  | 0xB4 => s.vecPut c r 0 (placeInt c.x.sat c.f r.kept)
  | 0xAF =>
    match c.d with
    | .span d =>
      ((r.ka.zip r.kb).foldl (fun (s : State) e =>
        let k := intOf c.tagB e.2
        if e.1.2 && 0 ≤ k && k < (spCount d : Nat) then s.setSpanElem t d k.toNat e.1.1 else s) s, r)
    | _ => (s, r)
  | 0xB2 =>
    match c.d with
    | .span d =>
      if c.x.sub = 0 then
        (s.setSpanElem t d 0 (placeInt c.x.sat c.f (intOf c.f (s.spanElem t d 0) + r.out.length)), { r with out := [] })
      else
        ((List.range (spCount d)).foldl (fun (s : State) j => s.setSpanElem t d j (r.out.getD j (2 ^ 32 - 1))) s, { r with out := [] })
    | _ => (s, r)
  | 0x9A =>
    if !isBlock c.tagD then (s, r)
    else
      let b := c.blockOut 127 0 2048 r.ka
      let s := match c.d with
        | .span d => b.2.1.foldl (fun (s : State) (e : Nat × Nat) => s.setSpanElem t d e.1 e.2) s
        | _ => s
      (s.putStream c b.1, { r with flags := r.flags ||| b.2.2 })
  | 0xB0 =>
    if !isBlock c.tagD then (s, r)
    else (s.putStream c (if c.scales.isEmpty then List.replicate (c.n / 32) 127 else c.scales), r)
  | _ => (s, r)

/-- The run with the scale of the block that position `i` begins read again where A lies in N, whose bytes are read when the
engine reaches them (R439); a stream that no longer decodes leaves the scale that issue found.
[DEDUCED: notes/assumptions/93.md] -/
def State.reachScale (s : State) (c : VecCmd) (r : VecRun) : VecRun :=
  match c.a with
  | .span d =>
    if spRemote d && c.readsScales && r.pos % 32 == 0 then
      match s.spanHome c.hd.task d with
      | some (core, carve, _) => { r with scales := r.scales.set (r.pos / 32) (((s.spanScales core carve d).1[r.pos / 32]?).getD (r.scales.getD (r.pos / 32) 127)) }
      | none => r
    else r
  | _ => r

/-- One move of a command in execution. -/
def State.vecMove (s : State) (c : VecCmd) (r : VecRun) : VecOut :=
  let r := s.reachScale c r
  let c := { c with scales := r.scales }
  let finish (s : State) (r : VecRun) : VecOut := let e := s.finishVec c r; .go e.1 e.2
  if r.fin then
    match r.out, c.d with
    | v :: _, .queue q _ => s.vecPush c r q v
    | _, _ => .done
  else if c.op = 0xB2 then
    match s.vecMerge c r with
    | .done => finish s r
    | o => o
  else
    match r.insert with
    | some (k, key) => let e := s.vecInsert c r k key; .go e.1 e.2.advance
    | none =>
      match r.out, c.d with
      | v :: _, .queue q _ => s.vecPush c r q v
      | _, _ => if r.pos < c.n then s.vecPosition c r else finish s r

/-- Bits of the widest element among the operands. -/
def VecCmd.width (c : VecCmd) : Nat := (c.opers.filterMap Oper.tag?).foldl (fun m t => max m (elemBits t)) 8

/-- The positions done end a 256-byte beat of the widest operand, where the engine may stop (R288). A command that waits for a
queue, or whose positions are all done, may stop too. [DEDUCED: notes/assumptions/80.md] -/
def VecCmd.atBeat (c : VecCmd) : Bool :=
  c.hd.wait.isSome ||
  match c.run with
  | none => true
  | some r => r.fin || (r.pos * c.width % 2048 == 0 && r.insert.isNone && (c.op == 0xB2 || r.out.isEmpty))

/-- The vector engine works on a command: its task is not held, or it is being stopped and the command is inside a beat (R288). -/
def State.vecFree (s : State) (c : VecCmd) : Bool :=
  s.engineFree c.hd.task ||
  ((s.task c.hd.task).life == .stopping && (s.task c.hd.task).frozenBy.isNone && !c.atBeat)

/-- A command after as many moves as `fuel` allows, or at the beat's end where its task is to stop: the state, the command and
how it ended; `none` while it goes on. [DEDUCED: notes/assumptions/80.md] -/
def State.vecMoves (s : State) (c : VecCmd) (r : VecRun) : Nat → State × VecCmd × Option VecOut
  | 0 => (s, { c with run := some r }, none)
  | fuel + 1 =>
    match s.vecMove c r with
    | .go s' r' =>
      let s' := s'.endCmdWait c.hd
      let c := { c with hd := { c.hd with wait := none }, run := some r' }
      if s'.vecFree c then s'.vecMoves c r' fuel else (s', c, none)
    | .wait y p => (s.changeCmdWait c.hd y, { c with hd := c.hd.hold y p s.cycle, run := some r }, some (.wait y p))
    | o => (s.endCmdWait c.hd, { c with run := some r }, some o)

/-- Moves that end every command. -/
def VecCmd.fuel (c : VecCmd) : Nat := if c.op = 0xB2 then 2 ^ 19 else 3 * c.n + 8

/-! ## The engine -/

/-- The state with a vector command of a core replaced. -/
def State.putVec (s : State) (core : Nat) (c : VecCmd) : State :=
  s.setCore core { s.core core with vq := (s.core core).vq.map fun k => if k.hd.id == c.hd.id then c else k }

/-- The command holds the vector strand of its task (R159). -/
def VecCmd.holds (c : VecCmd) : Bool := c.hd.unit == .vector && c.opers.any fun o => o.queue?.isSome

/-- The state after the command of a core has ended, in a trap or not (R159, R444). -/
def State.endVec (s : State) (core : Nat) (c : VecCmd) (trap : Option (Nat × DWord)) : State :=
  let t := c.hd.task
  let s := s.setCore core { s.core core with vq := (s.core core).vq.filter fun k => k.hd.id != c.hd.id }
  let x := s.task t
  let s :=
    if x.life == .ended then
      match trap with
      | some (cause, v) => s.orphanFault c.hd cause v
      | none => s
    else if c.holds then
      s.setTask t { x with vector := { x.vector with
        held := some (match trap with | some (cause, v) => .trap cause v | none => .done) } }
    else
      match trap with
      | some (cause, v) => s.setTask t { x with late := x.late ++ [⟨c.hd, cause, v⟩] }
      | none => s
  s.completeCmd c.hd (match c.run with | some r => r.flags | none => 0)

/-- A span of the command lies in storage of a member that is still to be zeroed (R149). -/
def State.spanZeroing (s : State) (c : VecCmd) : Bool :=
  c.opers.any fun o => match o with
    | .span d =>
      match s.spanPhys c.hd.task d (spanExtent d none) with
      | some (core, lo, hi) => (s.core core).zeroingAt lo.toNat (hi - lo).toNat
      | none => false
    | _ => false

/-- A command that only pushes its results has finished with the carve (R322). -/
def VecCmd.leave (c : VecCmd) : VecCmd := if c.run.any VecRun.fin then { c with hd := { c.hd with off := true } } else c

/-- The state after a command may have finished with the carve. -/
def State.leaveCarve (s : State) (c : VecCmd) : State :=
  if c.hd.usesCarve && c.run.any VecRun.fin then
    s.setTask c.hd.task { s.task c.hd.task with carveEnd := s.taskParty c.hd.task 1 }
  else s

/-- The vector engine of a core moves its oldest command on (R165): it starts when no conflicting command is ahead of it, and
does `beats` moves, or with none named as many as it can. [DEDUCED: notes/assumptions/80.md] -/
def State.runVector (s : State) (core beats : Nat) : State :=
  match (s.core core).vq.find? s.vecFree with
  | none => s
  | some c =>
    if c.run.isNone && (s.blocked c.hd || s.meetsZeroing c.hd || s.spanZeroing c) then s
    else
      let st := if c.run.isNone then s.startCmd c.hd else s
      let r := match c.run with | some r => r | none => s.startVec c
      let e := st.vecMoves { c with hd := { c.hd with started := true } } r (if beats = 0 then c.fuel else beats)
      match e.2.2 with
      | some .done => e.1.endVec core e.2.1 none
      | some (.trap cause v) => e.1.endVec core e.2.1 (some (cause, v))
      | _ => (e.1.leaveCarve e.2.1).putVec core (e.2.1.leave)

/-- VECTOR_COMMAND_COMPLETE: the vector engine of core `arg.core` works for `arg.beats` positions, or to the end. -/
def execVectorCommandComplete (s : State) : Result := .next (s.runVector s.arg.core s.arg.beats)

/-! ## Meanings -/

/-- vadd. -/
def execVadd (x : Vec) (s : State) : Result := runStrand (.vec 0x90 x) (vecBody 0x90 x) s

/-- vsub. -/
def execVsub (x : Vec) (s : State) : Result := runStrand (.vec 0x91 x) (vecBody 0x91 x) s

/-- vmul. -/
def execVmul (x : Vec) (s : State) : Result := runStrand (.vec 0x92 x) (vecBody 0x92 x) s

/-- vfma. -/
def execVfma (x : Vec) (s : State) : Result := runStrand (.vec 0x93 x) (vecBody 0x93 x) s

/-- vmin. -/
def execVmin (x : Vec) (s : State) : Result := runStrand (.vec 0x94 x) (vecBody 0x94 x) s

/-- vmax. -/
def execVmax (x : Vec) (s : State) : Result := runStrand (.vec 0x95 x) (vecBody 0x95 x) s

/-- vabs. -/
def execVabs (x : Vec) (s : State) : Result := runStrand (.vec 0x96 x) (vecBody 0x96 x) s

/-- vneg. -/
def execVneg (x : Vec) (s : State) : Result := runStrand (.vec 0x97 x) (vecBody 0x97 x) s

/-- vcmp. -/
def execVcmp (x : Vec) (s : State) : Result := runStrand (.vec 0x98 x) (vecBody 0x98 x) s

/-- vsel. -/
def execVsel (x : Vec) (s : State) : Result := runStrand (.vec 0x99 x) (vecBody 0x99 x) s

/-- vcvt. -/
def execVcvt (x : Vec) (s : State) : Result := runStrand (.vec 0x9A x) (vecBody 0x9A x) s

/-- vand. -/
def execVand (x : Vec) (s : State) : Result := runStrand (.vec 0x9B x) (vecBody 0x9B x) s

/-- vor. -/
def execVor (x : Vec) (s : State) : Result := runStrand (.vec 0x9C x) (vecBody 0x9C x) s

/-- vxor. -/
def execVxor (x : Vec) (s : State) : Result := runStrand (.vec 0x9D x) (vecBody 0x9D x) s

/-- vshl. -/
def execVshl (x : Vec) (s : State) : Result := runStrand (.vec 0x9E x) (vecBody 0x9E x) s

/-- vshr. -/
def execVshr (x : Vec) (s : State) : Result := runStrand (.vec 0x9F x) (vecBody 0x9F x) s

/-- vclamp. -/
def execVclamp (x : Vec) (s : State) : Result := runStrand (.vec 0xA0 x) (vecBody 0xA0 x) s

/-- vexp. -/
def execVexp (x : Vec) (s : State) : Result := runStrand (.vec 0xA1 x) (vecBody 0xA1 x) s

/-- vexp2. -/
def execVexp2 (x : Vec) (s : State) : Result := runStrand (.vec 0xA2 x) (vecBody 0xA2 x) s

/-- vlog. -/
def execVlog (x : Vec) (s : State) : Result := runStrand (.vec 0xA3 x) (vecBody 0xA3 x) s

/-- vlog2. -/
def execVlog2 (x : Vec) (s : State) : Result := runStrand (.vec 0xA4 x) (vecBody 0xA4 x) s

/-- vrcp. -/
def execVrcp (x : Vec) (s : State) : Result := runStrand (.vec 0xA5 x) (vecBody 0xA5 x) s

/-- vrsq. -/
def execVrsq (x : Vec) (s : State) : Result := runStrand (.vec 0xA6 x) (vecBody 0xA6 x) s

/-- vsqrt. -/
def execVsqrt (x : Vec) (s : State) : Result := runStrand (.vec 0xA7 x) (vecBody 0xA7 x) s

/-- vtanh. -/
def execVtanh (x : Vec) (s : State) : Result := runStrand (.vec 0xA8 x) (vecBody 0xA8 x) s

/-- vsigm. -/
def execVsigm (x : Vec) (s : State) : Result := runStrand (.vec 0xA9 x) (vecBody 0xA9 x) s

/-- vred. -/
def execVred (x : Vec) (s : State) : Result := runStrand (.vec 0xAA x) (vecBody 0xAA x) s

/-- vscan. -/
def execVscan (x : Vec) (s : State) : Result := runStrand (.vec 0xAB x) (vecBody 0xAB x) s

/-- vdot. -/
def execVdot (x : Vec) (s : State) : Result := runStrand (.vec 0xAC x) (vecBody 0xAC x) s

/-- vperm. -/
def execVperm (x : Vec) (s : State) : Result := runStrand (.vec 0xAD x) (vecBody 0xAD x) s

/-- vgath. -/
def execVgath (x : Vec) (s : State) : Result := runStrand (.vec 0xAE x) (vecBody 0xAE x) s

/-- vscat. -/
def execVscat (x : Vec) (s : State) : Result := runStrand (.vec 0xAF x) (vecBody 0xAF x) s

/-- vmov. -/
def execVmov (x : Vec) (s : State) : Result := runStrand (.vec 0xB0 x) (vecBody 0xB0 x) s

/-- vfill. -/
def execVfill (x : Vec) (s : State) : Result := runStrand (.vec 0xB1 x) (vecBody 0xB1 x) s

/-- visect. -/
def execVisect (x : Vec) (s : State) : Result := runStrand (.vec 0xB2 x) (vecBody 0xB2 x) s

/-- vhash. -/
def execVhash (x : Vec) (s : State) : Result := runStrand (.vec 0xB3 x) (vecBody 0xB3 x) s

/-- vcnt. -/
def execVcnt (x : Vec) (s : State) : Result := runStrand (.vec 0xB4 x) (vecBody 0xB4 x) s

/-- vcmpr. -/
def execVcmpr (x : Vec) (s : State) : Result := runStrand (.vec 0xB5 x) (vecBody 0xB5 x) s

/-- vscale. -/
def execVscale (x : Vec) (s : State) : Result := runStrand (.vec 0xB6 x) (vecBody 0xB6 x) s

end Sys2Proof.Machine
end

