-- ==== Sys2Proof/Machine/CopyEngine.lean ====
section
/-! DEFINITION. The copy engine of a core (R214 to R217, R228 to R245): its accesses to memory, the beats of each command,
faults (R238), table queues (R235, R236), barrier posts (R233, R344), and the streams of its channels (R249 to R251). -/

namespace Sys2Proof.Machine

/-! ## Accesses -/

/-- What keeps a beat from being done: a wait of its channel with the producer known so far, or a fault of Table 8-4 with its
address. -/
inductive CpyStop where
  | wait (y : Why) (prod : Party)
  | fault (code : Nat) (addr : DWord)
  deriving DecidableEq, Repr

/-- The effect of a beat. -/
abbrev CM := EStateM CpyStop State

/-- Where a page of an access lies. -/
inductive CpyLoc where
  | home (pa : Nat)
  | host (pa : Nat)
  deriving DecidableEq, Repr

/-- The access of a channel of a task. -/
def State.copyAccess (s : State) (t ch : Nat) (write host : Bool) : Access :=
  let x := s.task t
  { ctx := x.ctx, die := dieOf x.core, write, host, eng := true, party := s.taskParty t 2, joined := .channel t ch }

/-- The fault code of a translation that fails (Table 8-4). -/
def copyCode (cause : Nat) : Nat :=
  match cause with
  | 18 => 5
  | 19 => 6
  | 21 => 7
  | 23 => 9
  | _ => 4

/-- A beat over a port: it fails when the port is Down or its completion is no success, and waits while the port trains
(R378, R380). [DESIGN CHOICE: notes/assumptions/99.md] -/
def linkGate (port : Nat) (va : DWord) : CM Unit := fun s =>
  match (s.port port).state with
  | .down => .error (.fault 8 va) s
  | .training | .retrain => .error (.wait (.port port) (partyOf s.cardUsed 0 6 port)) s
  | .up | .degraded =>
    match s.arg.answer with
    | .unsupported | .abort => .error (.fault 8 va) s
    | _ => .ok () s

/-- Translation of a byte of an access. -/
def copyPage (x : Access) (va : DWord) : CM CpyLoc := fun s =>
  match s.translate x va with
  | (.ok pa pte, s) => if pteSpace pte = 1 then (do linkGate 0 va; pure (.host pa) : CM CpyLoc) s else .ok (.home pa) s
  | (.stall y, s) => .error (.wait y (s.faultServer x.ctx va)) s
  | (.trap k, s) => .error (.fault (copyCode k) va) s

/-- The pieces of a range that lie in one page each. -/
def pagePieces (va : DWord) (n : Nat) : Nat → List (DWord × Nat)
  | 0 => []
  | fuel + 1 =>
    if n = 0 then []
    else
      let k := min n (65536 - va.toNat % 65536)
      (va, k) :: pagePieces (va + BitVec.ofNat 64 k) (n - k) fuel

/-- The first address of each page among a list of addresses. -/
def firstOfPages (vas : List DWord) : List DWord :=
  (vas.foldl (fun (l : List DWord) (va : DWord) => if l.any (fun o => o >>> (16 : Nat) == va >>> (16 : Nat)) then l else va :: l) []).reverse

/-- The pages of a list of addresses are translated, each once, by the first of them (R364). -/
def touchPages (x : Access) (vas : List DWord) : CM Unit := do
  for va in firstOfPages vas do
    let _ ← copyPage x va
  pure ()

/-- Bytes of G or H memory (R216): every page is translated before the first byte is read. -/
def copyRead (x : Access) (va : DWord) (n : Nat) : CM (List Byte) := do
  let ps := pagePieces va n (n / 65536 + 2)
  touchPages x (ps.map (·.1))
  let bs ← ps.mapM fun p => do
    match ← copyPage x p.1 with
    | .host pa => do
      let s ← get
      pure (s.host.bytes pa p.2)
    | .home pa => do
      let s ← get
      if s.dieBad x.ctx x.die pa p.2 then throw (.fault 9 p.1)
      else do
        let r := s.readDie x.ctx x.die pa p.2
        set r.2
        pure r.1
  pure bs.flatten

/-- Bytes written to G or H memory (R216). -/
def copyWrite (x : Access) (va : DWord) (bs : List Byte) : CM Unit := do
  let ps := pagePieces va bs.length (bs.length / 65536 + 2)
  touchPages x (ps.map (·.1))
  for p in ps do
    let part := (bs.drop (p.1 - va).toNat).take p.2
    match ← copyPage x p.1 with
    | .host pa => modify fun s => { s with host := s.host.write pa part }
    | .home pa => do
      let s ← get
      if s.writeBad x.die pa p.2 [] then throw (.fault 9 p.1)
      else set (s.writeDie x.die pa part x.party)
  pure ()

/-- The address of the byte that holds a bit. -/
def byteAddr (bit : Int) : DWord := BitVec.ofInt 64 (bit.fdiv 8)

/-- An element of `w` bits at a bit address. -/
def readBits (x : Access) (bit : Int) (w : Nat) : CM Nat := do
  let lo := bit.fdiv 8
  let n := ((bit + w - 1).fdiv 8 - lo + 1).toNat
  let bs ← copyRead x (BitVec.ofInt 64 lo) n
  pure (field (leNat bs) (bit - 8 * lo).toNat w)

/-- The byte writes of an element of `w` bits at a bit address: address, mask, bits. -/
def byteWrites (bit : Int) (w v : Nat) : List (Int × Nat × Nat) :=
  let k := (bit % 8).toNat
  if w < 8 then [(bit.fdiv 8, (2 ^ w - 1) * 2 ^ k, v % 2 ^ w * 2 ^ k)]
  else (List.range (w / 8)).map fun (i : Nat) => (bit.fdiv 8 + i, 255, v / 2 ^ (8 * i) % 256)

/-- Byte writes with neighbours of one byte joined. -/
def joinBytes (ws : List (Int × Nat × Nat)) : List (Int × Nat × Nat) :=
  (ws.foldl (fun (acc : List (Int × Nat × Nat)) e =>
    match acc with
    | (a, m, v) :: t => if a = e.1 then (a, m ||| e.2.1, (v &&& (255 - e.2.1)) ||| e.2.2) :: t else e :: acc
    | [] => [e]) []).reverse

/-- Runs of bytes at rising addresses. -/
def byteRuns (ws : List (Int × Byte)) : List (Int × List Byte) :=
  ((ws.foldl (fun (acc : List (Int × List Byte)) e =>
    match acc with
    | (a, bs) :: t => if a + bs.length = e.1 then (a, bs ++ [e.2]) :: t else (e.1, [e.2]) :: acc
    | [] => [(e.1, [e.2])]) []).reverse)

/-- The byte writes of a beat. The bits of a byte that no element covers stay. -/
def copyWriteBits (x : Access) (ws : List (Int × Nat × Nat)) : CM Unit := do
  touchPages x (ws.map fun e => BitVec.ofInt 64 e.1)
  let bs ← (joinBytes ws).mapM fun e => do
    if e.2.1 = 255 then pure (e.1, BitVec.ofNat 8 e.2.2)
    else do
      let old ← copyRead x (BitVec.ofInt 64 e.1) 1
      pure (e.1, BitVec.ofNat 8 (((leNat old) &&& (255 - e.2.1)) ||| e.2.2))
  for r in byteRuns bs do copyWrite x (BitVec.ofInt 64 r.1) r.2
  pure ()

/-- A free value. -/
def freshVal : CM DWord := do
  let s ← get
  set s.fresh.2
  pure s.fresh.1

/-! ## The record (R228) -/

/-- A layout record through the hoop's record cache. -/
def readRecord (t ch id : Nat) : CM (List DWord) := do
  let s ← get
  let x := s.task t
  let c := s.ctx x.ctx
  if c.rtlen ≤ id then throw (.fault 1 0)
  else
    let h := hoopOf x.core
    match (s.hoop h).record.find? fun e => e.ctx == x.ctx && e.id == id with
    | some e => pure e.words
    | none => do
      let va := c.rtbase + BitVec.ofNat 64 (64 * id)
      match ← copyPage (s.copyAccess t ch false false) va with
      | .host _ => throw (.fault 5 va)
      | .home pa => do
        let s ← get
        if s.isBad pa 64 then throw (.fault 9 va)
        else do
          let ws := s.mem.words pa 8
          set (s.setHoop h { s.hoop h with record := (⟨x.ctx, id, ws⟩ :: (s.hoop h).record).take 64 })
          pure ws

/-! ## Commands -/

/-- Opcode, task and channel of a command. -/
def CpyCmd.op (c : CpyCmd) : Nat := c.hd.op
def CpyCmd.store (c : CpyCmd) : Bool := cpyIsStore c.op c.x
def CpyCmd.chan (c : CpyCmd) : Nat := c.x.ch.toNat
def CpyCmd.posts (c : CpyCmd) : Bool := c.x.sub.getLsbD 3

/-- The access of a command's data. -/
def CpyCmd.access (c : CpyCmd) (s : State) (write : Bool) : Access := s.copyAccess c.hd.task c.chan write true

/-- Tag of the side that is not the record's (R230, R241). -/
def CpyCmd.sideTag (c : CpyCmd) (r : Rec) : Nat := if c.op = 0xD5 then c.x.tag.toNat else r.tag

/-- Tiles a command moves. -/
def CpyCmd.tiles (c : CpyCmd) : Nat := if c.op = 0xD2 ∨ c.op = 0xD3 then bitsOf c.b1 0 32 else 1

/-- The command moves tiles; it reads a record. -/
def CpyCmd.tiled (c : CpyCmd) : Bool := 0xD1 ≤ c.op && c.op ≤ 0xD5
def CpyCmd.usesRecord (c : CpyCmd) : Bool := (c.tiled && c.tiles != 0) || (c.op == 0xD6 && c.x.sub.getLsbD 0)

/-- The shift of a command, for R227. -/
def CpyCmd.dx (c : CpyCmd) : Int := if c.op = 0xD4 then signedBits 12 (bitsOf c.b0 32 12) else 0

/-- Elements of a slot line, and lines (R231). -/
def Rec.lineLen (r : Rec) : Nat := let d := r.dims false; if r.inner = 0 then d.1 else d.2.1
def Rec.lineCount (r : Rec) : Nat := let d := r.dims false; if r.inner = 0 then d.2.1 else d.1

/-- The geometry of R227 and R230 to R232 holds. [DEDUCED: notes/assumptions/33.md] -/
def CpyCmd.geometryOk (c : CpyCmd) (s : State) (r : Rec) : Bool :=
  let tag := c.sideTag r
  r.geometryOk c.dx c.store &&
  (c.op == 0xD6 ||
    match c.d with
    | .span d => spTag d == tag && c.tiles * r.blockBytes c.store (elemBits tag) ≤ dataBytes d
    | .queue q _ => c.freed || (8 * ((s.task c.hd.task).queueReg q).bytes == elemBits tag && !isBlock tag)
    | .slot _ => r.inner != 2 && (r.dims false).2.2 == 1 && r.lineLen ≤ tagDepth tag && r.lineCount ≤ 128
    | _ => true)

/-- The run of a command that starts: its record is read and checked. -/
def startRun (c : CpyCmd) : CM CpyRun := do
  if !c.usesRecord then pure {}
  else do
    let ws ← readRecord c.hd.task c.chan (bitsOf c.ga 0 16)
    let s ← get
    if !recFormatOk ws then throw (.fault 2 0)
    else if !c.geometryOk s (Rec.of ws) then throw (.fault 3 0)
    else pure { record := ws }

/-! ## cpy -/

/-- Bytes that `cpy` moves (R240). -/
def CpyCmd.length (c : CpyCmd) : Nat :=
  match c.d with
  | .span d => spCount d * elemBits (spTag d) / 8
  | _ => 16384

/-- The state with bytes landed that a `.bx` command will post (R233). [DEDUCED: notes/assumptions/27.md] -/
def CpyCmd.land (c : CpyCmd) (s : State) (n : Nat) : State :=
  if c.posts then
    let x := s.task c.hd.task
    let k := x.chan c.chan
    s.setTask c.hd.task (x.setChan c.chan { k with posts := k.posts + n })
  else s

/-- The state with a slot of the command's hoop replaced. -/
def CpyCmd.putSlot (c : CpyCmd) (s : State) (n : Nat) (f : Slot → Slot) : State :=
  let h := hoopOf (s.task c.hd.task).core
  let hp := s.hoop h
  s.setHoop h { hp with slots := Assoc.set hp.slots n (f (hp.slot n)) }

/-- The aperture entry of a `.x` copy (R127, R240, R374): the whole range is checked. [DEDUCED: notes/assumptions/38.md] -/
def CpyCmd.aperture (c : CpyCmd) (s : State) : Except Nat Aperture :=
  let e := Assoc.getD (s.ctx (s.task c.hd.task).ctx).apertures (bitsOf c.ga 60 4) {}
  if !e.valid || e.size.toNat < bitsOf c.ga 0 60 + c.length then .error 4
  else if c.store && !e.w then .error 6
  else .ok e

/-- The pieces of a request that crosses no 4 KiB boundary of the peer's addresses (R375): offset and bytes. -/
def requestPieces (a n : Nat) : List (Nat × Nat) :=
  let k := 4096 - a % 4096
  if n ≤ k then [(0, n)] else [(0, k), (k, n - k)]

/-- A request of a `.x` copy to another card (R372, R374). -/
def State.sendPeer (s : State) (ctx : Nat) (e : Aperture) (f : Nat) (act : PeerAct) : State :=
  { s with sent := s.sent ++ [⟨e.portNo,
      ⟨e.port, (s.port e.portNo).card, BitVec.ofNat 6 ctx, e.card, e.ctx, BitVec.ofNat 55 (e.tbase.toNat + f), act⟩⟩] }

/-- Bytes `pos` and on of a `cpy` read from memory or another card; the peer's bytes come with the event. -/
def CpyCmd.getBytes (c : CpyCmd) (pos k : Nat) : CM (List Byte) := do
  let s ← get
  if !c.x.sub.getLsbD 1 then copyRead (c.access s false) (c.ga + BitVec.ofNat 64 pos) k
  else
    match c.aperture s with
    | .error code => throw (.fault code c.ga)
    | .ok e => do
      linkGate e.portNo c.ga
      if s.arg.bytes.length < k then throw (.wait .channel 0)
      else do
        let f := bitsOf c.ga 0 60 + pos
        let s := (requestPieces (e.tbase.toNat + f) k).foldl (fun (s : State) p =>
          s.sendPeer (s.task c.hd.task).ctx e (f + p.1) (.read p.2)) s
        set { s with arg := { s.arg with bytes := s.arg.bytes.drop k } }
        pure (s.arg.bytes.take k)

/-- Bytes `pos` and on of a `cpy` written to memory or another card. -/
def CpyCmd.putBytes (c : CpyCmd) (pos : Nat) (bs : List Byte) : CM Unit := do
  let s ← get
  if !c.x.sub.getLsbD 1 then copyWrite (c.access s true) (c.ga + BitVec.ofNat 64 pos) bs
  else
    match c.aperture s with
    | .error code => throw (.fault code c.ga)
    | .ok e => do
      linkGate e.portNo c.ga
      let f := bitsOf c.ga 0 60 + pos
      set ((requestPieces (e.tbase.toNat + f) bs.length).foldl (fun (s : State) p =>
        s.sendPeer (s.task c.hd.task).ctx e (f + p.1) (.write ((bs.drop p.1).take p.2))) s)

/-- The scratchpad bytes of a span that a beat reads: an uncorrectable error in them is copy fault 9 (R140, Table 8-4). -/
def CpyCmd.padCheck (c : CpyCmd) (d : DWord) (off n : Nat) : CM Unit := do
  let s ← get
  match s.spanHome c.hd.task d with
  | some (core, carve, _) => if (s.core core).badAt (carve + off) n then throw (.fault 9 0) else pure ()
  | none => pure ()

/-- One beat of `cpy`: up to the next 128-byte boundary of what it writes. -/
def CpyCmd.byteBeat (c : CpyCmd) (r : CpyRun) : CM (CpyRun × Bool) := do
  let n := c.length
  if n ≤ r.pos then pure (r, true)
  else do
    let s ← get
    let t := c.hd.task
    match c.d with
    | .span d => do
      let at_ := if c.store then (c.ga + BitVec.ofNat 64 r.pos).toNat else (s.task t).carve + spBase d + r.pos
      let k := min (128 - at_ % 128) (n - r.pos)
      if c.store then do
        c.padCheck d (spBase d + r.pos) k
        let bs := match s.spanHome t d with
          | some (core, carve, _) => (s.core core).pad.bytes (carve + spBase d + r.pos) k
          | none => []
        c.putBytes r.pos bs
      else do
        let bs ← c.getBytes r.pos k
        modify fun s => c.land (s.setSpanBytes t d (spBase d + r.pos) bs) k
      pure ({ r with pos := r.pos + k }, n ≤ r.pos + k)
    | .slot p => do
      let bs ← c.getBytes r.pos 128
      modify fun s => c.land (c.putSlot s p fun x =>
        { x with data := x.data.write r.pos bs, absent := [], bad := x.bad && r.pos + 128 < n }) 128
      pure ({ r with pos := r.pos + 128 }, n ≤ r.pos + 128)
    | _ => pure (r, true)

/-! ## cpz -/

/-- A slot line that repeats an element of a tag (R244). -/
def padLine (tag v : Nat) : Memory :=
  (List.range (1024 / elemBits tag)).foldl (fun (m : Memory) k => m.setElem 0 tag k v) []

/-- Elements of `w` bits that a beat moves from bit `at_` of what it writes, where `v` is the larger of the two sides' element
widths: to the next boundary of the bytes that 128 bytes of the larger side make, 8 at least, so that no aligned word falls to
two beats (R215, R216). -/
def beatElems (at_ w v : Nat) : Nat :=
  let u := max 64 (1024 * w / v)
  (u - at_ % u) / w

/-- One beat of `cpz` (R244): up to 128 bytes. [DEDUCED: notes/assumptions/40.md] -/
def CpyCmd.fillBeat (c : CpyCmd) (r : CpyRun) : CM (CpyRun × Bool) := do
  let rec? := if r.record.isEmpty then none else some (Rec.of r.record)
  match c.d with
  | .span d => do
    let w := elemBits (spTag d)
    let v := match rec? with | some q => q.pad.toNat % 2 ^ w | none => 0
    let k := min (beatElems (8 * spBase d + r.pos * w) w w) (spCount d - r.pos)
    let bytes (n : Nat) : Nat := ceilDiv (n * w) 8
    modify fun s =>
      let s := (List.range k).foldl (fun (s : State) i => s.setSpanElem c.hd.task d (r.pos + i) v) s
      c.land s (bytes (r.pos + k) - bytes r.pos)
    pure ({ r with pos := r.pos + k }, spCount d ≤ r.pos + k)
  | .slot p => do
    let line : Memory := match rec? with | some q => padLine q.tag q.padElem | none => []
    modify fun s => c.land (c.putSlot s p fun x =>
      { x with data := x.data.paste r.pos 128 (line.map fun e => (e.1 + r.pos, e.2)), absent := [], bad := x.bad && r.pos + 128 < 16384 }) 128
    pure ({ r with pos := r.pos + 128 }, 16384 ≤ r.pos + 128)
  | _ => pure (r, true)

/-! ## cpk -/

/-- Channel whose table queue a `cpk` fills. -/
def CpyCmd.target (c : CpyCmd) : Nat := c.x.sub.toNat % 4

/-- One table of `cpk` (R236, R245). -/
def CpyCmd.tableBeat (c : CpyCmd) (r : CpyRun) : CM (CpyRun × Bool) := do
  if c.count ≤ r.pos then pure (r, true)
  else do
    let s ← get
    let n := if c.x.tag = 0x16 then 16 else 32
    let bs ← copyRead (s.copyAccess c.hd.task c.chan false false) (c.ga + BitVec.ofNat 64 (n * r.pos)) n
    let s ← get
    let x := s.task c.hd.task
    let k := x.chan c.target
    if 16 ≤ k.tables.length then
      (if c.target = c.chan then throw (.fault 12 0) else throw (.wait .channel 0))
    else do
      let e : Table := ⟨c.x.tag, (groupNat 2 (n / 2) bs).map (BitVec.ofNat 16)⟩
      set (s.setTask c.hd.task (x.setChan c.target { k with tables := k.tables ++ [e] }))
      pure ({ r with pos := r.pos + 1 }, c.count ≤ r.pos + 1)

/-! ## Tiles: what is read before the elements -/

/-- A `cpk` on another channel that has not faulted still fills the table queue of a channel (R236, R434). -/
def Task.tablesComing (x : Task) (ch : Nat) : Bool :=
  x.chans.any fun c => c.1 != ch && !c.2.faulted && c.2.cmds.any fun k => k.op == 0xD7 && k.target == ch

/-- One table popped for a codebook block (R235, R236). -/
def CpyCmd.popTable (c : CpyCmd) (tag : Nat) : CM Table := do
  let s ← get
  let x := s.task c.hd.task
  let k := x.chan c.chan
  match k.tables with
  | [] => if x.tablesComing c.chan then throw (.wait (.table c.chan) (s.taskParty c.hd.task 2)) else throw (.fault 11 0)
  | e :: rest => do
    set (s.setTask c.hd.task (x.setChan c.chan { k with tables := rest }))
    if e.tag.toNat != tag then throw (.fault 13 0) else pure e

/-- A nibble of a scale stream in memory. -/
def streamNibble (x : Access) (base : Int) (n : Nat) : CM Nat := do
  let b ← copyRead x (BitVec.ofInt 64 (base + (n / 2 : Nat))) 1
  pure (field (leNat b) (4 * (n % 2)) 4)

/-- DecodeScales of R33 over a stream in memory: `n` blocks from block `b`. -/
def scanScales (x : Access) (base : Int) (bpb b pos prev : Nat) : Nat → CM (List Nat)
  | 0 => pure []
  | n + 1 => do
    let prev := if b * bpb % 4096 = 0 then 127 else prev
    let d ← streamNibble x base pos
    if d = 8 then do
      let lo ← streamNibble x base (pos + 1)
      let hi ← streamNibble x base (pos + 2)
      if lo + 16 * hi = 255 then throw (.fault 10 (BitVec.ofInt 64 base))
      else do
        let t ← scanScales x base bpb (b + 1) (pos + 3) (lo + 16 * hi) n
        pure ((lo + 16 * hi) :: t)
    else do
      let v : Int := (prev : Int) + (if 8 ≤ d then (d : Int) - 16 else d)
      if v < 0 ∨ 254 < v then throw (.fault 10 (BitVec.ofInt 64 base))
      else do
        let t ← scanScales x base bpb (b + 1) (pos + 1) v.toNat n
        pure (v.toNat :: t)

/-- The scales of a source span's groups up to the last that a tile reaches (R33). -/
def CpyCmd.sourceScales (c : CpyCmd) (s : State) (d : DWord) (groups : Nat) : CM (Assoc Nat) := do
  match s.spanHome c.hd.task d with
  | none => pure []
  | some (core, carve, _) =>
    let r := s.spanScales core carve d
    if r.1.length < groups then throw (.fault 10 0) else pure (r.1.zipIdx.map fun e => (e.2, e.1))

/-- Byte offset of the tile in progress in the command's span (R242). -/
def CpyCmd.offset (c : CpyCmd) (q : Rec) (r : CpyRun) : Nat := r.tile * q.blockBytes c.store (elemBits (c.sideTag q))

/-- What a tile needs before its elements move: its list entry, the scales of its blocks. -/
def CpyCmd.prepare (c : CpyCmd) (q : Rec) (r : CpyRun) : CM CpyRun := do
  let s ← get
  let t := c.hd.task
  let entry ←
    if c.op = 0xD2 ∨ c.op = 0xD3 then do
      let bs ← copyRead (s.copyAccess t c.chan false false) (c.b0 + BitVec.ofNat 64 (8 * r.tile)) 8
      pure (BitVec.ofNat 64 (leNat bs))
    else pure r.entry
  let r := { r with entry }
  let k := q.tileOf c.op c.b0 c.b1 entry
  if c.store then do
    let scales ← match c.d with
      | .span d =>
        if isBlock (spTag d) then
          let w := elemBits (spTag d)
          c.sourceScales s d (ceilDiv (8 * c.offset q r / w + q.blockBytes true w * 8 / w) 32)
        else pure []
      | _ => pure []
    pure { r with scales, ready := true }
  else if isBlock q.tag then do
    let bs := q.blocks k 32
    let n := bs.foldl (fun (m : Nat) b => max m (b + 1)) 0
    let l ← scanScales (c.access s false) q.scale (4 * q.w) 0 0 127 n
    pure { r with scales := bs.map (fun b => (b, l.getD b 127)), ready := true }
  else pure { r with ready := true }

/-! ## Tiles: fetches -/

/-- A block element as fetched: its bits in the record's format, and its number in memory order when it is inside. -/
abbrev Got := Nat × Option Nat

/-- Elements of a fetched block at positions `ps` (R224, R225). -/
def CpyCmd.fetchElems (c : CpyCmd) (q : Rec) (k : Tile) (ps : List Nat) : CM (List Got) := do
  let s ← get
  let x := c.access s false
  let cs := ps.map fun p => q.coord false k (q.at_ false p)
  touchPages x ((cs.filter (q.inside k)).map fun e => byteAddr (q.bitAt k e))
  cs.mapM fun e =>
    if q.inside k e then do
      let v ← readBits x (q.bitAt k e) q.w
      pure (v, some (q.index k e))
    else pure (q.padElem, none)

/-- The BF16 pattern of a codebook element (R37, R235). [DEDUCED: notes/assumptions/37.md] -/
def CpyRun.pattern (r : CpyRun) (q : Rec) (e : Got) : Nat :=
  match e.2 with
  | some i => match Assoc.get? r.tables (i / 128) with
    | some t => (t.entries.getD e.1 0).toNat
    | none => 0
  | none => q.pad.toNat % 2 ^ 16

/-- The exact value of a fetched element (R234). [DEDUCED: notes/assumptions/35.md] [DEDUCED: notes/assumptions/37.md] -/
def CpyRun.value (r : CpyRun) (md : FpMode) (q : Rec) (e : Got) : Val :=
  if isBook q.tag then md.decode 3 (r.pattern q e)
  else
    let v := md.decode q.tag e.1
    match e.2 with
    | some i => if isBlock q.tag then v.scale (((Assoc.getD r.scales (i / 32) 127 : Nat) : Int) - 127) else v
    | none => v

/-- The scale that a group of fetched elements brings along unchanged: 127 outside; a free value when the group mixes blocks
of several scales (notes/assumptions/5.md). [DESIGN CHOICE: notes/assumptions/34.md] -/
def CpyRun.groupScale (r : CpyRun) (es : List Got) : CM Nat := do
  let l : List Nat := es.map fun e => match e.2 with | some i => Assoc.getD r.scales (i / 32) 127 | none => 127
  match l.eraseDups with
  | [v] => pure v
  | _ => do
    let v ← freshVal
    pure (v.toNat % 255)

/-- A group of at most 32 elements in the format of the other side: its bits, its scale when it is block-scaled, its flags.
`prev` is the scale of the block before it (R35). [DESIGN CHOICE: notes/assumptions/34.md]
[DEDUCED: notes/assumptions/35.md] -/
def CpyCmd.convertGroup (c : CpyCmd) (q : Rec) (r : CpyRun) (prev : Nat) (es : List Got) : CM (List Nat × Nat × Flags) := do
  let tag := c.sideTag q
  if c.op != 0xD5 then do
    let k ← if isBlock tag then r.groupScale es else pure 127
    pure (es.map (·.1), k, 0)
  else if isBook q.tag && tag == 3 then pure (es.map (r.pattern q), 127, 0)
  else
    let vs := es.map (r.value c.hd.mode q)
    let k := if isBlock tag then chooseScale tag prev vs else 127
    let out := vs.map fun v => convert c.hd.mode tag (v.scale (127 - (k : Int)))
    pure (out.map (·.1), k, out.foldl (fun (f : Flags) e => f ||| e.2) 0)

/-- The position after `n` positions of the tile are done and `m` elements moved; the next tile follows the last position. -/
def CpyRun.advanceTile (r : CpyRun) (n m total : Nat) : CpyRun :=
  if total ≤ r.pos + n then
    { r with tile := r.tile + 1, pos := 0, moved := 0, ready := false, scales := [], tables := [], staged := [], out := [] }
  else { r with pos := r.pos + n, moved := r.moved + m }

/-- Positions of a span's block, its elements `w` bits wide: the swizzle may use every byte of the block (R226). -/
def Rec.positions (q : Rec) (store : Bool) (w : Nat) : Nat :=
  if q.swzm = 0 then q.elems store else q.blockBytes store w * 8 / w

/-- The positions of a span's block that the next beat of a fetch moves, and how many it covers. A beat of a block-scaled span is
one block of 32. [DEDUCED: notes/assumptions/32.md] -/
def CpyCmd.spanWindow (c : CpyCmd) (q : Rec) (r : CpyRun) (d : DWord) : Nat × List (Nat × Nat) :=
  let w := elemBits (spTag d)
  let total := q.positions false w
  let n := if isBlock (spTag d) then 32 else beatElems (8 * (spBase d + c.offset q r) + r.pos * w) w (max w q.w)
  let js := (List.range (min n (total - r.pos))).map (r.pos + ·)
  (n, js.filterMap fun j => (q.placeAt false w j).map fun p => (j, p))

/-- Elements of a queue beat that the next engine beat adds: half of the beat (R215). -/
def CpyCmd.queueWindow (q : Rec) (r : CpyRun) (per : Nat) : List Nat :=
  (List.range (min (max 1 (per / 2)) (min (per - r.staged.length) (q.elems false - r.pos - r.staged.length)))).map
    (r.pos + r.staged.length + ·)

/-- The block positions that the next beat of a fetch reads. -/
def CpyCmd.window (c : CpyCmd) (s : State) (q : Rec) (r : CpyRun) : List Nat :=
  match c.d with
  | .span d => (c.spanWindow q r d).2.map (·.2)
  | .queue n _ => CpyCmd.queueWindow q r ((s.task c.hd.task).queueReg n).per
  | _ => (List.range q.lineLen).map (r.pos + ·)

/-- The block whose table is to be popped before the next beat of a codebook tile: tables are popped in memory order, each when
the elements reach its block (R235, R236). [DEDUCED: notes/assumptions/37.md] -/
def CpyCmd.tableDue (c : CpyCmd) (s : State) (q : Rec) (r : CpyRun) (k : Tile) : Option Nat :=
  let needed := (c.window s q r).filterMap fun p =>
    let e := q.coord false k (q.at_ false p)
    if q.inside k e then some (q.index k e / 128) else none
  if needed.all fun b => (Assoc.get? r.tables b).isSome then none
  else (q.blocks k 128).find? fun b => (Assoc.get? r.tables b).isNone

/-- A beat of a fetch into a span. [DEDUCED: notes/assumptions/32.md] -/
def CpyCmd.spanBeat (c : CpyCmd) (q : Rec) (r : CpyRun) (k : Tile) (d : DWord) : CM CpyRun := do
  let tag := spTag d
  let w := elemBits tag
  let (n, jp) := c.spanWindow q r d
  let first := c.offset q r * 8 / w
  let g := (first + r.pos) / 32
  let es ← c.fetchElems q k (jp.map (·.2))
  let prev := if g * (4 * w) % 4096 = 0 then 127 else Assoc.getD r.groups (g - 1) 127
  let out ← c.convertGroup q r prev es
  let bytes (n : Nat) : Nat := ceilDiv (n * w) 8
  modify fun s =>
    let s := (jp.zip out.1).foldl (fun (s : State) e => s.setSpanElem c.hd.task d (first + e.1.1) e.2) s
    c.land s (bytes (r.moved + jp.length) - bytes r.moved)
  let groups := if isBlock tag && !jp.isEmpty then Assoc.set r.groups g out.2.1 else r.groups
  pure ({ r with groups, flags := r.flags ||| out.2.2 }.advanceTile n jp.length (q.positions false w))

/-- A beat of a fetch into a queue: half of a queue beat, which is pushed when it is whole or the block ends (R215, R232). -/
def CpyCmd.queueBeat (c : CpyCmd) (q : Rec) (r : CpyRun) (k : Tile) (n : Nat) : CM CpyRun := do
  let s ← get
  let reg := (s.task c.hd.task).queueReg n
  let total := q.elems false
  if 4 ≤ reg.beats.length then throw (.wait .channel 0)
  else do
    let es ← c.fetchElems q k (CpyCmd.queueWindow q r reg.per)
    let out ← c.convertGroup q r 127 es
    let r := { r with flags := r.flags ||| out.2.2, staged := r.staged ++ out.1 }
    let m := r.staged.length
    if m < reg.per && r.pos + m < total then pure r
    else do
      modify fun s =>
        let x := s.task c.hd.task
        s.setTask c.hd.task (x.setQueueReg n ((x.queueReg n).pushBeat (r.staged.map (BitVec.ofNat 64))))
      pure ({ r with staged := [] }.advanceTile m m total)

/-- The table of a 128-element block of a slot line (R231): a free one when the block mixes tables
(notes/assumptions/5.md). -/
def CpyRun.lineTable (r : CpyRun) (q : Rec) (es : List Got) : CM (List (BitVec 16)) := do
  let n := if q.tag = 0x16 then 8 else 16
  let blocks : List (Option Nat) := es.map fun e => e.2.map (· / 128)
  match blocks.eraseDups with
  | [some b] => pure ((Assoc.get? r.tables b).map Table.entries |>.getD [])
  | [none] => pure (List.replicate n (q.pad.extractLsb' 0 16))
  | _ => (List.range n).mapM fun _ => do
    let v ← freshVal
    pure (v.extractLsb' 0 16)

/-- The groups of a slot line converted one after the other; the chain of scales starts anew in each line. -/
def CpyCmd.lineGroups (c : CpyCmd) (q : Rec) (r : CpyRun) (prev : Nat) : List (List Got) → CM (List Nat × List Nat × Flags)
  | [] => pure ([], [], 0)
  | es :: t => do
    let a ← c.convertGroup q r prev es
    let b ← CpyCmd.lineGroups c q r a.2.1 t
    pure (a.1 ++ b.1, a.2.1 :: b.2.1, a.2.2 ||| b.2.2)

/-- A beat of a fetch into a slot: one line (R231). -/
def CpyCmd.slotBeat (c : CpyCmd) (q : Rec) (r : CpyRun) (k : Tile) (n : Nat) : CM CpyRun := do
  let tag := c.sideTag q
  let len := q.lineLen
  let y := r.pos / len
  let total := q.elems false
  let es ← c.fetchElems q k ((List.range len).map (r.pos + ·))
  let out ← c.lineGroups q r 127 (chunks 32 (ceilDiv len 32) es)
  let tables ← if isBook tag then (chunks 128 (ceilDiv len 128) es).mapM (r.lineTable q) else pure []
  modify fun s =>
    let s := c.putSlot s n fun x =>
      let data := if r.pos = 0 then [] else x.data
      let data := out.1.zipIdx.foldl (fun (m : Memory) e => m.setElem (128 * y) tag e.2 e.1) data
      let scale := if isBlock tag then
          out.2.1.zipIdx.foldl (fun (m : Memory) e => m.setByte (y * (tagDepth tag / 32) + e.2) (BitVec.ofNat 8 e.1)) x.scale
        else x.scale
      let table := tables.zipIdx.foldl (fun (m : Memory) e =>
        m.write (32 * (2 * y + e.2)) (e.1.flatMap fun v => leBytes v.toNat 2)) x.table
      { x with data, scale, table, absent := [], bad := false }
    if total ≤ r.pos + len then c.land s 16384 else s
  pure ({ r with flags := r.flags ||| out.2.2 }.advanceTile len len total)

/-! ## Tiles: writes to the tensor -/

/-- Source elements at positions of the block converted into the record's format (R234). -/
def CpyCmd.toRecord (c : CpyCmd) (q : Rec) (r : CpyRun) (es : List (Nat × Nat)) : List Nat × Flags :=
  if c.op != 0xD5 then (es.map (·.2), 0)
  else
    let tag := c.x.tag.toNat
    let out := es.map fun e =>
      let v := c.hd.mode.decode tag e.2
      let v := if isBlock tag then v.scale (((Assoc.getD r.scales (e.1 / 32) 127 : Nat) : Int) - 127) else v
      convert c.hd.mode q.tag v
    (out.map (·.1), out.foldl (fun (f : Flags) e => f ||| e.2) 0)

/-- The words of memory to be written with byte writes added: a byte written twice holds the last. -/
def addWords (m : Assoc (Nat × Nat)) (ws : List (Int × Nat × Nat)) : Assoc (Nat × Nat) :=
  ws.foldl (fun (m : Assoc (Nat × Nat)) e =>
    let a := (BitVec.ofInt 64 e.1).toNat
    let sh := 256 ^ (a % 8)
    let o := Assoc.getD m (a / 8) (0, 0)
    Assoc.set m (a / 8) (o.1 ||| e.2.1 * sh, (o.2 &&& (2 ^ 64 - 1 - e.2.1 * sh)) ||| e.2.2 * sh)) m

/-- The byte writes of a word of memory. -/
def wordBytes (e : Nat × Nat × Nat) : List (Int × Nat × Nat) :=
  (List.range 8).filterMap fun i =>
    let m := e.2.1 / 256 ^ i % 256
    if m = 0 then none else some ((8 * e.1 + i : Nat), m, e.2.2 / 256 ^ i % 256)

/-- Elements that a channel may pop from a queue (R114): of a beat that takes no more, or the last ones of a block. -/
def QueueReg.drainable (q : QueueReg) (left : Nat) : Nat :=
  match q.beats.find? fun b => !b.1.isEmpty with
  | some b => if b.2 then min b.1.length left else if left ≤ q.count then left else 0
  | none => 0

/-- A beat of a write to the tensor. The tile's elements are read, converted and gathered by the word of memory they fall in,
128 bytes of the larger side at a time; then the words are written, 16 a beat, each once (R215, R216). Elements carry their
number in the span. [DEDUCED: notes/assumptions/40.md] -/
def CpyCmd.storeBeat (c : CpyCmd) (q : Rec) (r : CpyRun) (k : Tile) : CM CpyRun := do
  let s ← get
  let t := c.hd.task
  let total := match c.d with | .span d => q.positions true (elemBits (spTag d)) | _ => q.elems true
  let gather (r : CpyRun) (ps : List Nat) (es : List (Nat × Nat)) : CpyRun :=
    let out := c.toRecord q r es
    let ws := (ps.zip out.1).flatMap fun e =>
      let at_ := q.coord true k (q.at_ true e.1)
      if q.inside k at_ then byteWrites (q.bitAt k at_) q.w e.2 else []
    { r with out := addWords r.out ws, flags := r.flags ||| out.2 }
  if total ≤ r.pos then do
    copyWriteBits (c.access s true) ((r.out.take 16).flatMap wordBytes)
    let r := { r with out := r.out.drop 16 }
    pure (if r.out.isEmpty then r.advanceTile 0 0 0 else r)
  else
    match c.d with
    | .span d => do
      let w := elemBits (spTag d)
      let first := c.offset q r * 8 / w
      let n := min (beatElems (8 * spBase d + (first + r.pos) * w) w (max w q.w)) (total - r.pos)
      c.padCheck d (spBase d + (first + r.pos) * w / 8) (ceilDiv (n * w) 8)
      let js := (List.range n).map (r.pos + ·)
      let jp := js.filterMap fun j => (q.placeAt true w j).map fun p => (j, p)
      let r := gather r (jp.map (·.2)) (jp.map fun e => (first + e.1, s.spanElem t d (first + e.1)))
      pure { r with pos := r.pos + n }
    | .queue n _ => do
      let reg := (s.task t).queueReg n
      let m := min (reg.drainable (total - r.pos)) (128 / reg.bytes)
      if m = 0 then throw (.wait .channel 0)
      else do
        let ps := (List.range m).map (r.pos + ·)
        let r := gather r ps (ps.zip ((reg.all.take m).map (·.toNat)))
        modify fun s =>
          let x := s.task t
          s.setTask t (x.setQueueReg n ((List.range m).foldl (fun (g : QueueReg) _ => g.pop) (x.queueReg n)))
        pure { r with pos := r.pos + m }
    | _ => pure { r with tile := c.tiles }

/-- The state with the scale stream of a block-scaled destination span rewritten (R33, R227). -/
def CpyCmd.putScales (c : CpyCmd) (s : State) (r : CpyRun) : State :=
  match c.d with
  | .span d =>
    if isBlock (spTag d) && !c.store && c.tiles != 0 then
      let l := (List.range (spCount d / 32)).map fun g => Assoc.getD r.groups g 127
      s.setSpanBytes c.hd.task d (scaleStart d) (packNibbles (encodeScales (4 * elemBits (spTag d)) 0 127 l))
    else s
  | _ => s

/-- One beat of a command that moves tiles. A freed queue takes or gives no more (R232). -/
def CpyCmd.tileBeat (c : CpyCmd) (r : CpyRun) : CM (CpyRun × Bool) := do
  if c.tiles ≤ r.tile || c.freed then do
    modify fun s => c.putScales s r
    pure (r, true)
  else
    let q := Rec.of r.record
    if !r.ready then do
      let r ← c.prepare q r
      pure (r, false)
    else do
      let k := q.tileOf c.op c.b0 c.b1 r.entry
      let s ← get
      match if !c.store && isBook q.tag then c.tableDue s q r k else none with
      | some b => do
        let e ← c.popTable q.tag
        pure ({ r with tables := Assoc.set r.tables b e }, false)
      | none => do
        let r ←
          if c.store then c.storeBeat q r k
          else match c.d with
            | .span d => c.spanBeat q r k d
            | .queue n _ => c.queueBeat q r k n
            | .slot n => c.slotBeat q r k n
            | _ => pure { r with tile := c.tiles }
        pure (r, false)

/-- One beat of a command; the answer says whether all its work is done. [DEDUCED: notes/assumptions/32.md] -/
def CpyCmd.beat (c : CpyCmd) (r : CpyRun) : CM (CpyRun × Bool) :=
  match c.op with
  | 0xD0 => c.byteBeat r
  | 0xD6 => c.fillBeat r
  | 0xD7 => c.tableBeat r
  | _ => c.tileBeat r

/-! ## Completion and faults -/

/-- The state with the bytes that a channel's `.bx` commands have landed posted to barrier 12 + ch (R344). A task that has
ended posts to the group it left, while that stands. -/
def State.flushPosts (s : State) (t ch : Nat) : State :=
  let x := s.task t
  let c := x.chan ch
  let there : Bool := match x.group with
    | some g => (Assoc.get? s.groups g).isSome
    | none => x.life != .ended
  if c.posts = 0 then s
  else
    let s := s.setTask t (x.setChan ch { c with posts := 0 })
    if there then s.postBarrier t (12 + ch) c.posts (s.taskParty t 2) else s

/-- The state after the head of a channel has completed (R214, R216). -/
def State.completeCpy (s : State) (c : CpyCmd) (flags : Flags) : State :=
  let s := s.flushPosts c.hd.task c.chan
  let x := s.task c.hd.task
  let k := x.chan c.chan
  (s.setTask c.hd.task (x.setChan c.chan { k with cmds := k.cmds.tail, done := c.id })).completeCmd c.hd flags

/-- A queue after the channel that feeds it has faulted with a trap value (R238, R251): a stream stops. -/
def QueueReg.feedFault (q : QueueReg) (v : DWord) : QueueReg :=
  { q with faulted := some v, bind := if q.bind == .stream then .stopped else q.bind }

/-- The state after a channel has entered Faulted (R238, R251). [DEDUCED: notes/assumptions/39.md] -/
def State.faultChannel (s : State) (t ch code : Nat) (addr : DWord) (fid : Word) : State :=
  let s := s.flushPosts t ch
  let x := s.task t
  let c := { x.chan ch with faulted := true, fcode := BitVec.ofNat 8 code, faddr := addr, fid }
  let v := copyFaultValue ch c
  let fed := (c.cmds.filterMap fun k => if k.store || k.freed then none else k.d.queue?) ++
    (match c.stream with | some r => [r.q] | none => [])
  let x := fed.foldl (fun (x : Task) q => x.setQueueReg q ((x.queueReg q).feedFault v)) x
  let s := (s.setTask t (x.setChan ch { c with stream := none })).dropEnds t fun q code => fed.contains q && 4 ≤ code
  match c.cmds with
  | h :: _ =>
    if x.life == .ended then
      let s := s.orphanFault h.hd 30 v
      (s.setTask t ((s.task t).setChan ch { (s.task t).chan ch with cmds := [] })).finishEnded t
    else s
  | [] => s

/-! ## The channels -/

/-- The head of a channel's queue. -/
def State.cpyHead (s : State) (t ch : Nat) : Option CpyCmd :=
  let c := (s.task t).chan ch
  if c.faulted then none else c.cmds.head?

/-- The state with the head of its channel replaced. -/
def State.putCpy (s : State) (c : CpyCmd) : State :=
  let x := s.task c.hd.task
  let k := x.chan c.chan
  s.setTask c.hd.task (x.setChan c.chan { k with cmds := c :: k.cmds.tail })

/-- A command's span lies in storage of a member that is still to be zeroed (R149). -/
def State.cpyZeroing (s : State) (c : CpyCmd) : Bool :=
  match c.d with
  | .span d =>
    match s.spanPhys c.hd.task d (spanExtent d none) with
    | some (core, lo, hi) => (s.core core).zeroingAt lo.toNat (hi - lo).toNat
    | none => false
  | _ => false

/-- The state after the head of a channel has started, if it may (R218, R228). -/
def State.startCpy (s : State) (t ch : Nat) : State :=
  match s.cpyHead t ch with
  | none => s
  | some c =>
    if c.run.isSome || !s.engineFree t || s.blocked c.hd || s.meetsZeroing c.hd || s.cpyZeroing c then s
    else
      let s := if c.hd.started then s else s.startCmd c.hd
      let c := { c with hd := { c.hd with started := true } }
      match startRun c s with
      | .ok r s => (s.endCmdWait c.hd).putCpy { c with hd := { c.hd with wait := none }, run := some r }
      | .error (.wait y p) s => (s.changeCmdWait c.hd y).putCpy { c with hd := c.hd.hold y p s.cycle }
      | .error (.fault code addr) s => ((s.endCmdWait c.hd).putCpy c).faultChannel t ch code addr c.id

/-- A copy that has read every byte of the carve it reads (R322). -/
def CpyCmd.allRead (c : CpyCmd) (r : CpyRun) : Bool :=
  match c.d with
  | .span d =>
    c.store && (if c.op = 0xD0 then c.length ≤ r.pos
      else c.tiles ≤ r.tile + 1 && r.ready && (Rec.of r.record).positions true (elemBits (spTag d)) ≤ r.pos)
  | _ => false

/-- The state with the head of its channel after a beat; it may have finished with the carve. -/
def State.putCpyRun (s : State) (c : CpyCmd) (r : CpyRun) : State :=
  let off := c.hd.usesCarve && c.allRead r
  let s := s.putCpy { c with hd := { c.hd with wait := none, off := c.hd.off || off }, run := some r }
  if off then s.setTask c.hd.task { s.task c.hd.task with carveEnd := s.taskParty c.hd.task 2 } else s

/-- The state after as many beats of a started command as `fuel` allows. -/
def State.cpyMoves (s : State) (t ch : Nat) : Nat → State
  | 0 => s
  | fuel + 1 =>
    match s.cpyHead t ch with
    | none => s
    | some c =>
      match c.run with
      | none => s
      | some r =>
        match c.beat r s with
        | .ok (r', done) s' =>
          let s' := s'.endCmdWait c.hd
          if done then s'.completeCpy { c with hd := { c.hd with wait := none } } r'.flags
          else (s'.putCpyRun c r').cpyMoves t ch fuel
        | .error (.wait y p) s' => (s'.changeCmdWait c.hd y).putCpy { c with hd := c.hd.hold y p s.cycle }
        | .error (.fault code addr) s' => (s'.endCmdWait c.hd).faultChannel t ch code addr c.id

/-- The state after a channel has worked for `beats` beats, or with none named to the end of the command at its head. -/
def State.runCpy (s : State) (t ch beats : Nat) : State :=
  if s.engineFree t then s.cpyMoves t ch (if beats = 0 then 2 ^ 24 else beats) else s

/-! ## Streams (R249 to R251) -/

/-- A command head that stands for a stream in the records of its waits. -/
def streamHead (t : Nat) (r : StreamRun) : CmdHead := { task := t, op := 0xD0, wait := r.wait }

/-- The state with the run of a channel's stream. -/
def State.putStreamRun (s : State) (t ch : Nat) (r : Option StreamRun) : State :=
  let x := s.task t
  s.setTask t (x.setChan ch { x.chan ch with stream := r })

/-- The state after a stream that waited for its channel's commands has started (R249). -/
def State.startStream (s : State) (t ch : Nat) : State :=
  let c := (s.task t).chan ch
  match c.stream with
  | some r => if !r.started && c.cmds.isEmpty && s.engineFree t then s.putStreamRun t ch (some { r with started := true }) else s
  | none => s

/-- The next element of a stream: read and filtered, pushed, or the end (R250): `none` when nothing is left. -/
def streamMove (t ch : Nat) (r : StreamRun) : CM (Option StreamRun) := do
  let s ← get
  let x := s.task t
  let q := x.queueReg r.q
  match r.held with
  | some v =>
    if q.room = 0 then throw (.wait .channel 0)
    else do
      set (s.setTask t (x.setQueueReg r.q (q.push v)))
      pure (some { r with held := none })
  | none =>
    if r.pos < descCount r.desc then do
      let e := q.bytes
      let bs ← copyRead (s.copyAccess t ch false true) (descAddr r.desc r.pos) e
      pure (some { r with pos := r.pos + 1, held := (streamChain (8 * e) (leNat bs) (descOps r.desc)).map (BitVec.ofNat 64) })
    else if bitsAt r.desc 55 1 = 1 && !r.fin then pure (some { r with fin := true, held := some 0xFFFFFFFFFFFFFFFF })
    else pure none

/-- The state after as many moves of a started stream as `fuel` allows. -/
def State.streamMoves (s : State) (t ch : Nat) : Nat → State
  | 0 => s
  | fuel + 1 =>
    match ((s.task t).chan ch).stream with
    | none => s
    | some r =>
      if !r.started || !s.engineFree t then s
      else
        match streamMove t ch r s with
        | .ok (some r') s' => ((s'.endCmdWait (streamHead t r)).putStreamRun t ch (some { r' with wait := none })).streamMoves t ch fuel
        | .ok none s' =>
          let s' := s'.putStreamRun t ch none
          let x := s'.task t
          (s'.setTask t (x.setQueueReg r.q { x.queueReg r.q with bind := .stopped })).dropEnds t (streamEndOf r.q)
        | .error (.wait y p) s' => (s'.changeCmdWait (streamHead t r) y).putStreamRun t ch
            (some { r with wait := ((streamHead t r).hold y p s.cycle).wait })
        | .error (.fault code addr) s' => (s'.endCmdWait (streamHead t r)).faultChannel t ch code addr 0

/-- COPY_COMMAND_START: channel `arg.ch` of task `arg.task`. -/
def execCopyCommandStart (s : State) : Result := .next (s.startCpy s.arg.task s.arg.ch.toNat)

/-- COPY_COMMAND_COMPLETE: channel `arg.ch` of task `arg.task` works for `arg.beats` beats, or to the command's end. -/
def execCopyCommandComplete (s : State) : Result := .next (s.runCpy s.arg.task s.arg.ch.toNat s.arg.beats)

/-- TABLE_WAIT_END: the expansion at the head of channel `arg.ch` of task `arg.task` pops the table it waits for (R236). -/
def execTableWaitEnd (s : State) : Result :=
  let t := s.arg.task
  let ch := s.arg.ch.toNat
  .next
    (match s.cpyHead t ch with
     | some c =>
       if (c.hd.wait.any fun w => w.why == .table ch) && !((s.task t).chan ch).tables.isEmpty && s.engineFree t then
         s.cpyMoves t ch 1
       else s
     | none => s)

/-- STREAM_START: channel `arg.ch` of task `arg.task`. -/
def execStreamStart (s : State) : Result := .next (s.startStream s.arg.task s.arg.ch.toNat)

/-- STREAM_END: the stream of channel `arg.ch` of task `arg.task` works for `arg.beats` moves, or to its end. -/
def execStreamEnd (s : State) : Result :=
  .next (s.streamMoves s.arg.task s.arg.ch.toNat (if s.arg.beats = 0 then 2 ^ 24 else s.arg.beats))

/-- BARRIER_POST: the bytes landed by channel `arg.ch` of task `arg.task` are posted. -/
def execBarrierPost (s : State) : Result := .next (s.flushPosts s.arg.task s.arg.ch.toNat)

end Sys2Proof.Machine
end

