-- ==== Sys2Proof/Machine/Front.lean ====
section
/-! DEFINITION. The front end (spec/17_video_front_end.md): run instructions 0xE0 to 0xE3 (R381 to R383), how a run starts,
works and ends (R384 to R387), decoding (R388 to R394), change-masking (R395 to R398), flow (R399 to R401), encoding (R402). -/

namespace Sys2Proof.Machine

/-! ## Run instructions -/

/-- The mode bit of a kind of run: change-masking bit 0, decode bit 1 (R387, Table 17-1).
[DEDUCED: notes/assumptions/89.md] -/
def Context.runMode (c : Context) (kind : Nat) : Bool :=
  match kind with
  | 0 => c.modes.getLsbD 1
  | 3 => c.modes.getLsbD 0
  | _ => false

/-- Runs of a kind on a die, queued or in execution: each holds its queue entry until it ends (R381, R383). -/
def Die.runCount (d : Die) (kind : Nat) : Nat :=
  (Assoc.getD d.runs kind []).length + (d.active.filter fun e => e.1 / 8 == kind).length

/-- A run instruction (R383). -/
def runBody (kind : Nat) (x : Gen) : M Flow := do
  let vs ← operands [x.a.toNat] none
  let a := vs.headD 0
  if a &&& 127 != 0 then raise 13 a
  else do
    qMark .dev
    match ← translateCur false false a with
    | .error t => throw (.trap t)
    | .ok _ => do
      let s ← get
      let t := s.curTask
      let k := dieOf t.core
      let d := s.die k
      if 64 ≤ d.runCount kind then stallOn (.runQueue kind)
      else do
        let r : Run :=
          { ctx := t.ctx, kind, seq := s.nextRun, addr := a, hostMode := s.curCtx.runMode kind, party := s.strandParty s.cur
            step := t.step, queued := s.cycle }
        let s := s.setDie k { d with runs := Assoc.set d.runs kind (Assoc.getD d.runs kind [] ++ [r]) }
        set { s with nextRun := s.nextRun + 1 }
        pure .next

/-! ## Units -/

/-- Party of engine `e` of a kind on a die (Table 17-1). -/
def State.unitParty (s : State) (die kind e : Nat) : Party :=
  match kind with
  | 0 => partyOf s.cardUsed (die * 256) 4 e
  | 1 => partyOf s.cardUsed (die * 256) 5 (2 + e)
  | 2 => partyOf s.cardUsed (die * 256) 5 e
  | _ => partyOf s.cardUsed (die * 256) 4 8

/-- Engines of a kind on a die. -/
def engines (kind : Nat) : Nat := match kind with | 0 => 8 | 3 => 1 | _ => 2

/-- Kind and engine of a unit. -/
def unitOfFront (f : FrontUnit) : Nat × Nat :=
  match f with
  | .decode n => (0, n.toNat)
  | .encode n => (1, n.toNat)
  | .flow n => (2, n.toNat)
  | .cmu => (3, 0)

/-- The run of a unit. -/
def State.activeRun (s : State) (die kind e : Nat) : Option Run := Assoc.get? (s.die die).active (kind * 8 + e)

/-- The state with the run of a unit. -/
def State.putRun (s : State) (die kind e : Nat) (r : Run) : State :=
  let d := s.die die
  s.setDie die { d with active := Assoc.set d.active (kind * 8 + e) r }

/-- Word of a descriptor that names the state area (Tables 17-3 and 17-12). -/
def stateWord (kind : Nat) : Nat := if kind = 0 then 2 else 3

/-- The state area of a run (R385): none for flow runs; `none` inside when its descriptor cannot be read yet. -/
def State.stateArea (s : State) (r : Run) : Option (Option DWord) :=
  match r.kind with
  | 2 => none
  | 3 => some (some r.addr)
  | k =>
    if r.desc.isEmpty then
      match s.peekMap r.ctx r.addr with
      | some (pa, pte) => if pteSpace pte = 0 then some (some (s.mem.word (pa + 8 * stateWord k))) else some none
      | none => some none
    else some (some (r.desc.getD (stateWord k) 0))

/-- Two runs may name one state area. -/
def State.shareArea (s : State) (a b : Run) : Bool :=
  a.ctx == b.ctx &&
  match s.stateArea a, s.stateArea b with
  | some (some x), some (some y) => x == y
  | none, _ | _, none => false
  | _, _ => true

/-- A queued run may start: no earlier run of the die that has not ended names its state area (R385). -/
def State.runReady (s : State) (die : Nat) (r : Run) : Bool :=
  let d := s.die die
  !((d.runs.flatMap (·.2) ++ d.active.map (·.2)).any fun o => o.seq < r.seq && s.shareArea o r)

/-- The run that a free unit of a kind takes: the oldest it can start (R381), of a context that is not being destroyed (R274). -/
def State.nextRunOf (s : State) (die kind : Nat) : Option Run :=
  (Assoc.getD (s.die die).runs kind []).find? fun r => s.runReady die r && (s.ctx r.ctx).state != .destroying

/-- A run starts in a unit (R384): acquire of scope sys, and its start record (R405). -/
def State.takeRun (s : State) (die kind e : Nat) (r : Run) : State :=
  let d := s.die die
  let d := { d with
    runs := Assoc.set d.runs kind ((Assoc.getD d.runs kind []).filter fun o => o.seq != r.seq)
    rdc := d.rdc.filter fun x => x.ctx != r.ctx
    active := Assoc.set d.active (kind * 8 + e) r }
  (s.setDie die d).writeEdge r.ctx r.step
    { waiter := s.unitParty die kind e, kind := 15, prod := r.party, arrive := s.cycle, waited := s.cycle - r.queued }

/-! ## Accesses of a run -/

/-- Status code of a fault that a run meets (Table 17-4). [DEDUCED: notes/assumptions/46.md] -/
def runCode (code : Nat) : Nat :=
  match code with
  | 4 => 4
  | 9 => 7
  | _ => 6

/-- The access of a run (R384, R386). -/
def State.runAccess (s : State) (die kind e : Nat) (ctx : Nat) (write : Bool) : Access :=
  { ctx, die, write, eng := true, party := s.unitParty die kind e, joined := .front die kind e }

/-- The listed bytes of a range, by offset, read at their homes. -/
def frontRead (x : Access) (va : DWord) (n : Nat) : CM Memory := do
  let ps := pagePieces va n (n / 65536 + 2)
  touchPages x (ps.map (·.1))
  let ms ← ps.mapM fun p => do
    match ← copyPage x p.1 with
    | .host _ => throw (.fault 5 p.1)
    | .home pa => do
      let s ← get
      if s.isBad pa p.2 then throw (.fault 9 p.1) else pure (s.mem.slice pa p.2 (p.1 - va).toNat)
  pure ms.flatten

/-- The rows of a plane, by offset from its address. -/
def frontPlane (x : Access) (va : DWord) (pitch bytes rows : Nat) : CM Memory := do
  let ms ← (List.range rows).mapM fun y => do
    let m ← frontRead x (va + BitVec.ofNat 64 (y * pitch)) bytes
    pure (m.map fun e => (e.1 + y * pitch, e.2))
  pure ms.flatten

/-- A list of bytes by offset as writes at an address, byte by byte. -/
def memoryWrites (va : DWord) (m : Memory) : List (DWord × List Byte) := m.map fun e => (va + BitVec.ofNat 64 e.1, [e.2])

/-- A range replaced by bytes that are listed by offset: zero where nothing is listed, in pieces of 64 KiB. -/
def areaWrites (va : DWord) (m : Memory) (pages : Nat) : List (DWord × List Byte) :=
  (List.range pages).map fun k => (va + BitVec.ofNat 64 (65536 * k), (m.slice (65536 * k) 65536 0).dump 0 65536)

/-! ## Decoding -/

/-- Descriptor fields lie in range: reserved bits zero, addresses aligned (R390). [DEDUCED: notes/assumptions/46.md] -/
def decodeOk (ws : List DWord) : Bool :=
  let f := bitsAt ws
  f 99 1 == 0 && f 104 24 == 0 && f 288 32 == 0 && f 576 192 == 0 && f 864 160 == 0 && f 96 2 != 3 && f 64 32 != 0 &&
  f 128 16 == 0 && f 192 12 == 0 && f 256 16 % 256 == 0 && f 320 6 == 0 && f 384 3 == 0

/-- A sample as its bytes (R391). -/
def sampleBytes (ten : Bool) (v : BitVec 16) : List Byte :=
  if ten then leBytes (v.toNat % 1024 * 64) 2 else [v.truncate 8]

/-- A row of samples. -/
def sampleRow (ten : Bool) (n : Nat) (f : Nat → BitVec 16) : List Byte := (List.range n).flatMap fun x => sampleBytes ten (f x)

/-- The vector of a block with its index (R394): of list 0, else of list 1. -/
def blockVector (b : Config.Block) : Nat :=
  match b.list0, b.list1 with
  | some v, _ | none, some v => v.1.toNat + v.2.1.toNat * 2 ^ 16 + v.2.2.toNat * 2 ^ 56
  | none, none => 0

/-- The sum of the squared luma residuals of a cell that lie inside the picture (R394). -/
def cellEnergy (p : Config.Decoded) (cx cy : Nat) : Nat :=
  ((List.range 16).map fun j => ((List.range 16).map fun i =>
    let x := 16 * cx + i
    let y := 16 * cy + j
    if x < p.width.toNat && y < p.height.toNat then (p.residual y x).natAbs ^ 2 else 0).sum).sum

/-- The motion-tensor cell (R389, R392, R394, Table 17-5). -/
def cellWord (esh : Nat) (p : Config.Decoded) (cx cy : Nat) : DWord :=
  if p.concealed cy cx then BitVec.ofNat 64 (65535 * 2 ^ 32 + 2 ^ 50)
  else if p.existing then BitVec.ofNat 64 (2 ^ 49)
  else
    let b := p.block (min (16 * cx + 8) (p.width.toNat - 1)) (min (16 * cy + 8) (p.height.toNat - 1))
    BitVec.ofNat 64 ((if b.intra then 0 else blockVector b) + min 65535 (cellEnergy p cx cy / 2 ^ esh) * 2 ^ 32 +
      (if b.intra then 2 ^ 48 else 0) + (if b.skip then 2 ^ 49 else 0))

/-- The mid value of a sample (R391, R392). -/
def midSample (ten : Bool) : BitVec 16 := if ten then 512 else 128

/-- The samples of a picture as they are written: those of a concealed cell are those of the most recent picture, or the mid value
(R392); every chroma sample of a monochrome picture is the mid value (R391). -/
def lumaOut (p : Config.Decoded) (y x : Nat) : BitVec 16 :=
  if p.concealed (y / 16) (x / 16) then (match p.recent with | some r => r.1 y x | none => midSample p.ten) else p.luma y x
def chromaOut (p : Config.Decoded) (y x : Nat) : BitVec 16 × BitVec 16 :=
  let mid := (midSample p.ten, midSample p.ten)
  if p.mono then mid
  else if p.concealed (y / 8) (x / 8) then (match p.recent with | some r => r.2 y x | none => mid)
  else p.chroma y x

/-- The F of R390: 1.5 times the luma bytes, rounded up to 64 KiB. -/
def areaF (luma : Nat) : Nat := roundUp ((3 * luma + 1) / 2) 65536

/-- The writes of a decoded picture and its motion tensor (R389 to R394). -/
def pictureWrites (ws : List DWord) (p : Config.Decoded) : List (DWord × List Byte) :=
  let f := bitsAt ws
  let w := p.width.toNat
  let h := p.height.toNat
  let pitch := f 256 16
  let pic : DWord := BitVec.ofNat 64 (f 192 64)
  let at_ (b : DWord) (n : Nat) : DWord := b + BitVec.ofNat 64 n
  let luma := (List.range h).map fun y => (at_ pic (y * pitch), sampleRow p.ten w (lumaOut p y))
  let base := pitch * (16 * ceilDiv h 16)
  let chroma := (List.range (ceilDiv h 2)).map fun y =>
    (at_ pic (base + y * pitch), sampleRow p.ten w fun k =>
      let c := chromaOut p y (k / 2)
      if k % 2 = 0 then c.1 else c.2)
  let mtw := ceilDiv w 16
  let mt := (List.range (ceilDiv h 16)).flatMap fun cy => (List.range mtw).map fun cx =>
    (at_ (BitVec.ofNat 64 (f 320 64)) (8 * (cy * mtw + cx)), leBytes (cellWord (f 100 4) p cx cy).toNat 8)
  luma ++ chroma ++ mt

/-- Cells of a picture that are concealed. -/
def concealedCells (p : Config.Decoded) : Nat :=
  ((List.range (ceilDiv p.height.toNat 16)).map fun cy =>
    ((List.range (ceilDiv p.width.toNat 16)).filter fun cx => p.concealed cy cx).length).sum

/-- The standard, profile, level, picture size, depth and tools are those of Table 17-2 (R388). -/
def streamOk (codec : Nat) (p : Config.Decoded) : Bool :=
  !p.outside &&
  match codec with
  | 0 => (p.profile == .constrainedBaseline || p.profile == .main || p.profile == .high) && p.level ≤ 52 && p.seqWidth ≤ 4096 &&
      p.seqHeight ≤ 2304 && !p.ten && !p.fields && !p.mbaff
  | 1 => (p.profile == .main || p.profile == .main10) && p.level ≤ 61 && p.seqWidth ≤ 8192 && p.seqHeight ≤ 4320
  | _ => p.profile == .main && p.level ≤ 61 && p.seqWidth ≤ 8192 && p.seqHeight ≤ 4352 && !p.largeScale

/-- What a decode run finds and will write (R388 to R392). A unit that shows no picture updates only the state area (R389). -/
def decodeWork (x : Access) (r : Run) : CM Run := do
  let ws := r.desc
  let f := bitsAt ws
  if !decodeOk ws then pure { r with st := some 4 }
  else do
    let stream ← frontRead x (BitVec.ofNat 64 (f 0 64)) (f 64 32)
    touchPages { x with write := true } ((List.range (f 272 16)).map fun k => BitVec.ofNat 64 (f 128 64 + 65536 * k))
    let old ← frontRead x (BitVec.ofNat 64 (f 128 64)) (65536 * f 272 16)
    let p := Config.decodeUnit (f 96 2) (f 98 1 == 1) (f 64 32) stream (if f 98 1 = 1 then [] else old)
    let need := 2 ^ 20 + (if f 96 2 = 2 then 9 else 17) * areaF (p.seqWidth * p.seqHeight * if p.ten then 2 else 1)
    let area := areaWrites (BitVec.ofNat 64 (f 128 64)) p.state (f 272 16)
    if !streamOk (f 96 2) p then pure { r with st := some 3 }
    else if 65536 * f 272 16 < need then pure { r with st := some 5 }
    else if !p.shown then pure { r with pend := area, st := some 1 }
    else if f 256 16 < p.width.toNat * (if p.ten then 2 else 1) then pure { r with st := some 4 }
    else
      let bad := concealedCells p
      pure { r with
        pend := pictureWrites ws p ++ area ++ [(r.addr + 104, leBytes p.poc.toNat 4)]
        res := leBytes (p.width.toNat + p.height.toNat * 2 ^ 16) 4 ++ [if p.ten then 10 else 8] ++ leBytes (min bad 65535) 2
        st := some (if bad = 0 then 1 else 2) }

/-! ## Encoding -/

/-- Descriptor fields lie in range (Table 17-12). -/
def encodeOk (ws : List DWord) : Bool :=
  let f := bitsAt ws
  f 115 13 == 0 && f 136 8 == 0 && f 160 32 == 0 && f 272 48 == 0 && f 416 32 == 0 && f 552 472 == 0 && f 0 12 == 0 &&
  f 64 16 % 256 == 0 && 64 ≤ f 80 16 && f 80 16 ≤ 4096 && f 80 16 % 2 == 0 && 64 ≤ f 96 16 && f 96 16 ≤ 2176 &&
  f 96 16 % 2 == 0 && (f 113 1 == 1 || f 128 8 ≤ 51) && f 192 16 == 0 && f 320 6 == 0 && f 448 3 == 0

/-- Where the state area keeps the number of pictures coded since RESET: within its first MiB, which every area has. -/
def encodeAt : Nat := Config.encodeCountAt % (2 ^ 20 - 4)

/-- What an encode run finds and will write (R402): an intra picture is the first after RESET and every IPER pictures after it; a
picture that does not fit its buffer leaves the state area as it is. -/
def encodeWork (x : Access) (r : Run) : CM Run := do
  let ws := r.desc
  let f := bitsAt ws
  if !encodeOk ws then pure { r with st := some 4 }
  else
    let b := if f 112 1 = 1 then 2 else 1
    let w := f 80 16
    let h := f 96 16
    if 65536 * f 256 16 < 2 ^ 20 + 3 * areaF (w * h * b) then pure { r with st := some 5 }
    else do
      let src : DWord := BitVec.ofNat 64 (f 0 64)
      let luma ← frontPlane x src (f 64 16) (w * b) h
      let base := f 64 16 * (16 * ceilDiv h 16)
      let chroma ← frontPlane x (src + BitVec.ofNat 64 base) (f 64 16) (w * b) (h / 2)
      touchPages { x with write := true } ((List.range (f 256 16)).map fun k => BitVec.ofNat 64 (f 192 64 + 65536 * k))
      let old ← frontRead x (BitVec.ofNat 64 (f 192 64)) (65536 * f 256 16)
      let done := if f 114 1 = 1 then 0 else old.nat (encodeAt) 4
      let intra := done == 0 || (f 144 16 != 0 && done % f 144 16 == 0)
      let mode : Config.EncodeMode := { codec := f 113 1, ten := f 112 1 == 1, width := w, height := h, qp := f 128 8, intra }
      let o := Config.encodeUnit mode (luma ++ chroma.map fun e => (e.1 + base, e.2)) (if intra then [] else old)
      if f 384 32 < o.1.length then pure { r with res := leBytes 0 4, st := some 5 }
      else
        let area := Memory.setNat o.2 encodeAt 4 (done + 1)
        pure { r with
          pend := [(BitVec.ofNat 64 (f 320 64), o.1)] ++ areaWrites (BitVec.ofNat 64 (f 192 64)) area (f 256 16)
          res := leBytes o.1.length 4
          st := some 1 }

/-! ## Change-masking -/

/-- Rounding of n / d to the nearest integer, ties away from zero. -/
def roundAway (n : Int) (d : Nat) : Int :=
  let q : Int := ((2 * n.natAbs + d) / (2 * d) : Nat)
  if n < 0 then -q else q

/-- Header fields lie in range (Table 17-6). -/
def maskOk (ws : List DWord) : Bool :=
  let f := bitsAt ws
  let range (n : Nat) : Bool := 1 ≤ n && n ≤ 512
  f 0 6 == 0 && range (f 64 16) && range (f 80 16) && f 102 2 == 0 && f 122 6 == 0 && f 128 4 == 0 && f 192 32 % 16 == 0 &&
  f 256 6 == 0 && f 320 3 == 0

/-- The fields of a layer entry (Table 17-7). -/
structure LayerEntry where
  thr : Nat
  dbud : Nat
  rper : Nat
  rcnt : Nat
  tsz : Nat
  ht : Nat
  scl : Int
  fh : Nat
  lw : Nat
  lh : Nat
  doff : Nat
  deriving DecidableEq, Repr

/-- The layer entry of four words. -/
def LayerEntry.of (ws : List DWord) : LayerEntry :=
  let f := bitsAt ws
  { thr := f 0 16, dbud := f 16 16, rper := f 32 16, rcnt := f 48 16, tsz := f 64 8, ht := f 72 4, scl := signedBits 4 (f 80 4)
    fh := f 88 6, lw := f 96 16, lh := f 112 16, doff := f 128 32 }

/-- Tile edge in layer elements, times 16. -/
def LayerEntry.te16 (e : LayerEntry) : Nat := e.tsz * 2 ^ (e.scl + 4).toNat
def LayerEntry.te (e : LayerEntry) : Nat := e.te16 / 16

/-- The tile grid. -/
def LayerEntry.ntx (e : LayerEntry) : Nat := ceilDiv e.lw e.te
def LayerEntry.nty (e : LayerEntry) : Nat := ceilDiv e.lh e.te

/-- The fields of a layer entry lie in range, and its tile edge is an integer (R396). -/
def layerOk (ws : List DWord) : Bool :=
  let f := bitsAt ws
  let e := LayerEntry.of ws
  f 76 4 == 0 && f 84 4 == 0 && f 94 2 == 0 && f 160 96 == 0 && e.tsz != 0 && -4 ≤ e.scl && e.scl ≤ 4 && e.lw != 0 &&
  e.lh != 0 && e.doff % 2 == 0 && e.te16 % 16 == 0 && 16 ≤ e.te16

/-- A cell of a motion tensor held by offset. -/
def cellAt (mt : Memory) (mtw cx cy : Nat) : DWord := mt.word (8 * (cy * mtw + cx))

/-- Cells of R396 for tiles x0 to x1 and y0 to y1. -/
def LayerEntry.cells (e : LayerEntry) (mtw mth : Nat) (x0 x1 y0 y1 : Int) : List (Nat × Nat) :=
  let span (lo hi : Int) (n m : Nat) : List Nat :=
    let a := (max lo 0).toNat * e.tsz
    let b := min ((min hi ((n : Int) - 1) + 1).toNat * e.tsz) m
    (List.range (b - a)).map (a + ·)
  (span y0 y1 e.nty mth).flatMap fun cy => (span x0 x1 e.ntx mtw).map fun cx => (cx, cy)

/-- LayerMV of R396 for one axis; `lo` is the bit of the component in a cell. -/
def LayerEntry.motion (e : LayerEntry) (c : DWord) (lo : Nat) : Int :=
  max (-2048) (min 2047 (roundAway (signedBits 16 (bitsOf c lo 16) * (2 ^ (e.scl + 4).toNat : Nat)) 1024))

/-- Leaves of R396. -/
def LayerEntry.leaves (e : LayerEntry) (t : Nat) (m : Int) (ext : Nat) : Bool :=
  let lo : Int := max ((t * e.te : Nat) - (e.fh : Int)) 0
  let hi : Int := min (((t + 1) * e.te : Nat) - 1 + (e.fh : Int)) ((ext : Int) - 1)
  lo + m < 0 || (ext : Int) - 1 < hi + m

/-- A tile's reasons, its motion and its new drift (MarkLayer of R396). -/
def LayerEntry.mark (e : LayerEntry) (mt : Memory) (mtw mth : Nat) (expire : Bool) (drift tx ty : Nat) : Nat × Int × Int × Nat :=
  let wide := (e.cells mtw mth ((tx : Int) - e.ht) ((tx : Int) + e.ht) ((ty : Int) - e.ht) ((ty : Int) + e.ht)).map fun c =>
    cellAt mt mtw c.1 c.2
  let own := (e.cells mtw mth tx tx ty ty).map fun c => cellAt mt mtw c.1 c.2
  let c := cellAt mt mtw (min (tx * e.tsz + e.tsz / 2) (mtw - 1)) (min (ty * e.tsz + e.tsz / 2) (mth - 1))
  let mx := e.motion c 0
  let my := e.motion c 16
  let bit (b : Bool) (v : Nat) : Nat := if b then v else 0
  let r := bit (wide.any fun w => e.thr < bitsOf w 32 16) 1 + bit (wide.any fun w => w.getLsbD 48 || w.getLsbD 50) 2 +
    bit (e.leaves tx mx e.lw || e.leaves ty my e.lh) 4 + bit expire 16
  let en := own.foldl (fun (m : Nat) w => max m (bitsOf w 32 16)) 0
  let r := if r = 0 && e.dbud < drift + en then 8 else r
  (r, mx, my, if r = 0 then min (drift + en) 65535 else 0)

/-- A tile-list entry (Table 8-6). -/
def entryWord (tx ty : Nat) (mx my : Int) (r : Nat) : DWord :=
  BitVec.ofNat 64 (tx + ty * 2 ^ 16 + (mx % 4096).toNat * 2 ^ 32 + (my % 4096).toNat * 2 ^ 44 + r * 2 ^ 56)

/-- Bytes at an address as writes of aligned 8-byte words and the parts of words at the ends, so that each word is written at once
(R385). -/
def wordWrites (va : DWord) : List Byte → Nat → List (DWord × List Byte)
  | _, 0 => []
  | bs, fuel + 1 =>
    let n := 8 - va.toNat % 8
    if bs.isEmpty then [] else (va, bs.take n) :: wordWrites (va + BitVec.ofNat 64 n) (bs.drop n) fuel

/-- The writes of one layer, in the order of R398. -/
def layerWrites (ws : List DWord) (addr : DWord) (l : Nat) (e : LayerEntry) (mt drift : Memory) : List (DWord × List Byte) :=
  let f := bitsAt ws
  let at_ (b : DWord) (n : Nat) : DWord := b + BitVec.ofNat 64 n
  let expire := e.rper != 0 && e.rcnt ≤ 1
  let rcnt := if e.rper = 0 then e.rcnt else if e.rcnt ≤ 1 then e.rper else e.rcnt - 1
  let tiles := (List.range e.nty).flatMap fun ty => (List.range e.ntx).map fun tx => (tx, ty)
  let marks := tiles.map fun t =>
    (t, e.mark mt (f 64 16) (f 80 16) expire (drift.nat (2 * (t.2 * e.ntx + t.1)) 2) t.1 t.2)
  let list := BitVec.ofNat 64 (f 128 64 + l * f 192 32)
  let kept := marks.filter fun m => m.2.1 != 0
  wordWrites (BitVec.ofNat 64 (f 256 64 + e.doff)) (marks.flatMap fun m => leBytes m.2.2.2.2 2) (marks.length + 2) ++
  [(at_ addr (64 + 32 * l + 6), leBytes rcnt 2)] ++
  kept.zipIdx.map (fun m =>
    (at_ list (16 + 8 * m.2), leBytes (entryWord m.1.1.1 m.1.1.2 m.1.2.2.1 m.1.2.2.2.1 m.1.2.1).toNat 8)) ++
  [(list, leBytes (kept.length + f 224 32 * 2 ^ 32) 8 ++ leBytes (l + f 112 10 * 2 ^ 16) 8)]

/-- What a change-masking run does next: one layer, or the frame number after the last (R396, R398). -/
def maskWork (x : Access) (r : Run) : CM Run := do
  let ws := r.desc
  let f := bitsAt ws
  if r.pos = 0 && !maskOk ws then pure { r with st := some 4 }
  else if f 96 6 < r.pos then
    pure { r with pend := [(r.addr + 28, leBytes ((f 224 32 + 1) % 2 ^ 32) 4)], st := some 1 }
  else do
    let es ← frontRead x (r.addr + BitVec.ofNat 64 (64 + 32 * r.pos)) 32
    let le := es.words 0 4
    let e := LayerEntry.of le
    if !layerOk le then pure { r with st := some 4 }
    else if f 192 32 < 16 + 8 * (e.ntx * e.nty) then pure { r with st := some 5 }
    else do
      let mt ← frontRead x (BitVec.ofNat 64 (f 0 64)) (8 * (f 64 16 * f 80 16))
      let drift ← frontRead x (BitVec.ofNat 64 (f 256 64 + e.doff)) (2 * (e.ntx * e.nty))
      pure { r with pos := r.pos + 1, pend := layerWrites ws r.addr r.pos e mt drift }

/-! ## Flow -/

/-- A luma plane: samples by column and row, width, height. -/
structure Plane where
  at_ : Int → Int → Nat
  w : Int
  h : Int

/-- A block lies in the picture; `more` is 1 where a neighbour sample is needed. -/
def Plane.holds (p : Plane) (x y mx my : Int) : Bool := 0 ≤ x && x + 15 + mx < p.w && 0 ≤ y && y + 15 + my < p.h

/-- The sample at a position in quarter samples (R400). -/
def Plane.sub (p : Plane) (x y : Int) : Int :=
  let ix := x.fdiv 4
  let iy := y.fdiv 4
  let fx := x % 4
  let fy := y % 4
  let v (i j : Int) : Int := (p.at_ i j : Nat)
  ((4 - fx) * (4 - fy) * v ix iy + (if fx = 0 then 0 else fx * (4 - fy) * v (ix + 1) iy) +
    (if fy = 0 then 0 else (4 - fx) * fy * v ix (iy + 1)) +
    (if fx = 0 ∨ fy = 0 then 0 else fx * fy * v (ix + 1) (iy + 1)) + 8).fdiv 16

/-- The cost of a displacement in quarter samples: SAD over the block; none when it needs a sample outside (R400). -/
def flowCost (cur ref : Plane) (ox oy dx dy : Int) : Option Nat :=
  let x := 4 * ox + dx
  let y := 4 * oy + dy
  if ref.holds (x.fdiv 4) (y.fdiv 4) (if x % 4 = 0 then 0 else 1) (if y % 4 = 0 then 0 else 1) then
    some (((List.range 16).map fun (j : Nat) => ((List.range 16).map fun (i : Nat) =>
      ((cur.at_ (ox + i) (oy + j) : Nat) - ref.sub (x + 4 * i) (y + 4 * j)).natAbs).sum).sum)
  else none

/-- Clamp so that a block lies inside. -/
def clampTo (o p ext : Int) : Int := max (-o) (min (ext - 16 - o) p)

/-- A candidate is better (R400 step 2): SAD, then distance from the prediction, then dy, then dx. -/
def flowBetter (px py : Int) (a b : Nat × Int × Int) : Bool :=
  let far (c : Nat × Int × Int) : Nat := (c.2.1 - px).natAbs + (c.2.2 - py).natAbs
  a.1 < b.1 || (a.1 == b.1 && (far a < far b || (far a == far b && (a.2.2 < b.2.2 || (a.2.2 == b.2.2 && a.2.1 < b.2.1)))))

/-- One refinement step of `k` quarter samples around a best vector (R400 steps 3 and 4). -/
def flowRefine (cur ref : Plane) (ox oy k : Int) (b : Nat × Int × Int) : Nat × Int × Int :=
  [(-1, -1), (0, -1), (1, -1), (-1, 0), (1, 0), (-1, 1), (0, 1), (1, 1)].foldl
    (fun (best : Nat × Int × Int) (e : Int × Int) =>
      match flowCost cur ref ox oy (b.2.1 + k * e.1) (b.2.2 + k * e.2) with
      | some c => if c < best.1 then (c, b.2.1 + k * e.1, b.2.2 + k * e.2) else best
      | none => best) b

/-- The search of R400 from a prediction: cost and vector in quarter samples, and whether a candidate lay outside or the clamp
moved the prediction. -/
def flowSearch (cur ref : Plane) (ox oy p q : Int) : (Nat × Int × Int) × Bool :=
  let px := clampTo ox p ref.w
  let py := clampTo oy q ref.h
  let cands := (List.range 33).flatMap fun (j : Nat) => (List.range 33).map fun (i : Nat) => (px + i - 16, py + j - 16)
  let costs := cands.map fun e => (flowCost cur ref ox oy (4 * e.1) (4 * e.2), e)
  let edge := px != p || py != q || costs.any fun c => c.1.isNone
  let best := costs.foldl (fun (b : Option (Nat × Int × Int)) c =>
    match c.1, b with
    | some v, some w => if flowBetter px py (v, c.2.1, c.2.2) w then some (v, c.2.1, c.2.2) else b
    | some v, none => some (v, c.2.1, c.2.2)
    | none, _ => b) none
  match best with
  | some b => (flowRefine cur ref ox oy 1 (flowRefine cur ref ox oy 2 (b.1, 4 * b.2.1, 4 * b.2.2)), edge)
  | none => ((0, 0, 0), edge)

/-- The block of the current picture is flat (R401). -/
def flowFlat (cur : Plane) (ox oy : Int) (thr : Nat) : Bool :=
  let vs := (List.range 16).flatMap fun (j : Nat) => (List.range 16).map fun (i : Nat) => cur.at_ (ox + i) (oy + j)
  256 * (vs.map fun v => v * v).sum < thr * 65536 + vs.sum * vs.sum

/-- The flow cell of a motion cell (R400, R401, Table 17-11). -/
def flowCell (cur ref : Plane) (thr : Nat) (pred : DWord) (cx cy : Nat) : DWord :=
  let ox : Int := min (16 * cx : Nat) (cur.w - 16)
  let oy : Int := min (16 * cy : Nat) (cur.h - 16)
  let none? := pred.getLsbD 48 || pred.getLsbD 50
  let p := if none? then 0 else roundAway (signedBits 16 (bitsOf pred 0 16)) 4
  let q := if none? then 0 else roundAway (signedBits 16 (bitsOf pred 16 16)) 4
  let f := flowSearch cur ref ox oy p q
  let dx := f.1.2.1
  let dy := f.1.2.2
  let rx := (dx + 2).fdiv 4
  let ry := (dy + 2).fdiv 4
  let back := flowSearch ref cur (max 0 (min (cur.w - 16) (ox + rx))) (max 0 (min (cur.h - 16) (oy + ry))) (-rx) (-ry)
  let m := max (dx + back.1.2.1).natAbs (dy + back.1.2.2).natAbs
  let code := if f.2 then 3 else if flowFlat cur ox oy thr then 1 else if 4 < m then 2 else 0
  BitVec.ofNat 64 ((dx % 65536).toNat + (dy % 65536).toNat * 2 ^ 16 + min f.1.1 65535 * 2 ^ 32 + code * 2 ^ 48 + min m 255 * 2 ^ 56)

/-- Descriptor fields lie in range (Table 17-10). -/
def flowOk (ws : List DWord) : Bool :=
  let f := bitsAt ws
  f 177 15 == 0 && f 336 48 == 0 && f 456 568 == 0 && 16 ≤ f 144 16 && f 144 16 ≤ 8192 && 16 ≤ f 160 16 && f 160 16 ≤ 4352 &&
  f 256 6 == 0 && f 384 3 == 0

/-- A plane from its bytes by offset. -/
def planeOf (m : Memory) (pitch w h : Nat) (ten : Bool) : Plane :=
  { at_ := fun x y => if ten then m.nat (y.toNat * pitch + 2 * x.toNat) 2 / 64 else (m.byte (y.toNat * pitch + x.toNat)).toNat
    w := w, h := h }

/-- What a flow run finds and will write (R399 to R401). -/
def flowWork (x : Access) (r : Run) : CM Run := do
  let ws := r.desc
  let f := bitsAt ws
  if !flowOk ws then pure { r with st := some 4 }
  else do
    let w := f 144 16
    let h := f 160 16
    let ten := f 176 1 == 1
    let pitch := f 128 16
    let cm ← frontPlane x (BitVec.ofNat 64 (f 0 64)) pitch (if ten then 2 * w else w) h
    let rm ← frontPlane x (BitVec.ofNat 64 (f 64 64)) pitch (if ten then 2 * w else w) h
    let mtw := ceilDiv w 16
    let mth := ceilDiv h 16
    let pm ← if f 192 64 = 0 then pure [] else frontRead x (BitVec.ofNat 64 (f 192 64)) (8 * (mtw * mth))
    let cur := planeOf cm pitch w h ten
    let ref := planeOf rm pitch w h ten
    let cells := (List.range mth).flatMap fun cy => (List.range mtw).map fun cx =>
      (BitVec.ofNat 64 (f 256 64 + 8 * (cy * mtw + cx)), leBytes (flowCell cur ref (f 320 16) (cellAt pm mtw cx cy) cx cy).toNat 8)
    pure { r with pend := cells, st := some 1 }

/-! ## A run at work -/

/-- Words of a descriptor or header. -/
def descWords (kind : Nat) : Nat := if kind = 3 then 8 else 16

/-- Where a kind of descriptor keeps DONETL, HTL, HVAL (words), and ST (byte). -/
def doneWord (kind : Nat) : Nat := match kind with | 0 => 6 | 1 => 7 | 2 => 6 | _ => 5
def hostWord (kind : Nat) : Nat := if kind = 0 then 7 else 6
def statusByte (kind : Nat) : Nat := match kind with | 0 => 100 | 1 => 68 | 2 => 56 | _ => 13

/-- One move of a run: its descriptor, the next of its writes, or its next work. A run in the host's hands has the fields of its
descriptor checked (Table 17-4) and waits (R387).
[DEDUCED: notes/assumptions/45.md] -/
def runMove (die e : Nat) (r : Run) : CM Run := do
  let s ← get
  let rd := s.runAccess die r.kind e r.ctx false
  let wr := s.runAccess die r.kind e r.ctx true
  match r.pend with
  | (va, bs) :: rest => do
    copyWrite wr va bs
    pure { r with pend := rest }
  | [] =>
    if r.desc.isEmpty then do
      let m ← frontRead rd r.addr (8 * descWords r.kind)
      let r := { r with desc := m.words 0 (descWords r.kind) }
      let htl := r.desc.getD (hostWord r.kind) 0
      let ok := if r.kind = 0 then decodeOk r.desc else maskOk r.desc
      pure (if r.hostMode && (htl == 0 || htl &&& 7 != 0 || !ok) then { r with st := some 4 } else r)
    else if r.hostMode then pure r
    else
      match r.kind with
      | 0 => decodeWork rd r
      | 1 => encodeWork rd r
      | 2 => flowWork rd r
      | _ => maskWork rd r

/-- A command head that stands for a run in the records of its waits. -/
def Run.head (r : Run) : CmdHead := { wait := r.wait }

/-- The state with the record of a run's wait that ends now (R384, R404). -/
def State.endRunWait (s : State) (die e : Nat) (r : Run) : State :=
  match r.wait with
  | none => s
  | some w =>
    match w.why.edge with
    | none => s
    | some (k, obj) =>
      if w.cycles s.cycle = 0 then s
      else s.writeEdge r.ctx r.step
        { waiter := s.unitParty die r.kind e, kind := k, prod := w.prod, arrive := s.cycle, waited := w.cycles s.cycle, obj }

/-- A run stands between two frames: it has not begun its frame, or has written all of it (R274, R386). -/
def Run.atFrame (r : Run) : Bool := r.pend.isEmpty && (r.pos == 0 || r.st.isSome)

/-- A run has nothing left to do but end. -/
def Run.isDone (r : Run) : Bool := r.st.isSome && r.pend.isEmpty

/-- The state after as many moves of a unit's run as `fuel` allows. -/
def State.runMoves (s : State) (die kind e : Nat) : Nat → State
  | 0 => s
  | fuel + 1 =>
    match s.activeRun die kind e with
    | none => s
    | some r =>
      if r.isDone || (r.hostMode && !r.desc.isEmpty) || ((s.ctx r.ctx).state == .destroying && r.atFrame) then s
      else
        match runMove die e r s with
        | .ok r' s' => ((s'.endRunWait die e r).putRun die kind e { r' with wait := none }).runMoves die kind e fuel
        | .error (.wait y p) s' => s'.putRun die kind e { r with wait := (r.head.hold y p s.cycle).wait }
        | .error (.fault code _) s' =>
          (s'.endRunWait die e r).putRun die kind e { r with wait := none, pend := [], res := [], st := some (runCode code) }

/-- The state after a unit has taken a run, if it is free, and worked on it (R381, R384). -/
def State.runUnit (s : State) (die kind e beats : Nat) : State :=
  let n := if beats = 0 then 2 ^ 24 else beats
  if engines kind ≤ e then s
  else
    match s.activeRun die kind e with
    | some _ => s.runMoves die kind e n
    | none =>
      match s.nextRunOf die kind with
      | some r => (s.takeRun die kind e r).runMoves die kind e n
      | none => s

/-- The state after a run in the host's hands has seen its timeline at the threshold (R387). -/
def State.releaseHostRun (s : State) (die kind e : Nat) : State :=
  match s.activeRun die kind e with
  | none => s
  | some r =>
    if !r.hostMode || r.desc.isEmpty || r.st.isSome || (s.ctx r.ctx).state == .destroying then s
    else
      match copyPage (s.runAccess die kind e r.ctx false) (r.desc.getD (hostWord kind) 0) s with
      | .ok (.home pa) s' =>
        if s'.isBad pa 8 then (s'.endRunWait die e r).putRun die kind e { r with wait := none, st := some 7 }
        else if (r.desc.getD (hostWord kind + 1) 0).toNat ≤ s'.mem.nat pa 8 then
          (s'.endRunWait die e r).putRun die kind e { r with wait := none, st := some 8 }
        else s'
      | .ok (.host _) s' => s'.putRun die kind e { r with wait := none, st := some 6 }
      | .error (.wait y p) s' => s'.putRun die kind e { r with wait := (r.head.hold y p s.cycle).wait }
      | .error (.fault code _) s' => s'.putRun die kind e { r with wait := none, st := some (runCode code) }

/-- The strands that wait for an entry of a run queue know the unit that freed one (R383). -/
def State.noteRunFree (s : State) (die kind : Nat) (who : Party) : State :=
  { s with tasks := s.tasks.map fun t =>
      if dieOf t.2.core == die && (t.2.main.wait.any fun w => w.why == .runQueue kind) then
        (t.1, { t.2 with main := { t.2.main with wait := t.2.main.wait.map fun w => { w with prod := who } } })
      else t }

/-- The completion increment of a run (R384): the status code it ends with. A timeline that cannot be reached leaves 6, one in a
sector with an uncorrectable error, or that would wrap, 7. -/
def doneRun (x : Access) (a : DWord) (st : Nat) : CM Nat := do
  if a = 0 ∨ a &&& 7 ≠ 0 then pure st
  else
    match ← copyPage x a with
    | .host _ => pure 6
    | .home pa => do
      let s ← get
      if s.isBad pa 8 || 2 ^ 64 ≤ s.mem.nat pa 8 + 1 then pure 7
      else do
        set (s.deviceInc pa x.party)
        pure st

/-- ST of a run with the result fields of its word: where it goes and its bytes (Tables 17-3 and 17-12). -/
def statusWrite (r : Run) (st : Nat) : DWord × List Byte :=
  let v : List Byte := [BitVec.ofNat 8 st]
  if r.res.isEmpty then (r.addr + BitVec.ofNat 64 (statusByte r.kind), v)
  else if r.kind = 0 then (r.addr + 96, r.res.take 4 ++ v ++ r.res.drop 4)
  else (r.addr + 64, r.res ++ v)

/-- The end of a run (R384): ST, then the increment, with ST written again when the increment changes it. -/
def finishRun (x : Access) (r : Run) : CM Unit := do
  let st := r.st.getD 0
  let a := r.desc.getD (doneWord r.kind) 0
  let put (v : Nat) : CM Unit :=
    if r.mute then pure () else do
      let o := statusWrite r v
      copyWrite x o.1 o.2
  touchPages x ((if r.mute then [] else [r.addr]) ++ if a = 0 ∨ a &&& 7 ≠ 0 then [] else [a])
  put st
  let v ← doneRun x a st
  if v != st then put v else pure ()

/-- The state with a unit free. -/
def State.freeUnit (s : State) (die kind e : Nat) : State :=
  let d := s.die die
  (s.setDie die { d with active := Assoc.erase d.active (kind * 8 + e) }).noteRunFree die kind (s.unitParty die kind e)

/-- The state after a run that is done has ended (R384): one whose descriptor cannot be written ends with its increment alone, and
one whose context is being destroyed with neither (R274). -/
def State.endRun (s : State) (die kind e : Nat) : State :=
  match s.activeRun die kind e with
  | none => s
  | some r =>
    if (s.ctx r.ctx).state == .destroying then (if r.atFrame then (s.endRunWait die e r).freeUnit die kind e else s)
    else if !r.isDone then s
    else
      match finishRun (s.runAccess die kind e r.ctx true) r s with
      | .ok _ s' => (s'.endRunWait die e r).freeUnit die kind e
      | .error (.wait y p) s' => s'.putRun die kind e { r with wait := (r.head.hold y p s.cycle).wait }
      | .error (.fault code va) s' =>
        let s' := s'.endRunWait die e r
        if !r.mute && va &&& 0xFFFFFFFFFFFF0000 == r.addr &&& 0xFFFFFFFFFFFF0000 then
          s'.putRun die kind e { r with wait := none, mute := true }
        else s'.putRun die kind e { r with wait := none, st := some (runCode code), desc := r.desc.set (doneWord kind) 0 }

/-! ## Meanings -/

/-- vdec. -/
def execVdec (x : Gen) (s : State) : Result := runStrand (.gen 0xE0 x) (runBody 0 x) s

/-- venc. -/
def execVenc (x : Gen) (s : State) : Result := runStrand (.gen 0xE1 x) (runBody 1 x) s

/-- flow. -/
def execFlow (x : Gen) (s : State) : Result := runStrand (.gen 0xE2 x) (runBody 2 x) s

/-- cmrun. -/
def execCmrun (x : Gen) (s : State) : Result := runStrand (.gen 0xE3 x) (runBody 3 x) s

/-- DECODE_RUN: decode engine `arg.eng` of die `arg.die`, for `arg.beats` moves. -/
def execDecodeRun (s : State) : Result := .next (s.runUnit s.arg.die.toNat 0 s.arg.eng.toNat s.arg.beats)

/-- ENCODE_RUN: encode engine `arg.eng` of die `arg.die`. -/
def execEncodeRun (s : State) : Result := .next (s.runUnit s.arg.die.toNat 1 s.arg.eng.toNat s.arg.beats)

/-- FLOW_RUN: flow engine `arg.eng` of die `arg.die`. -/
def execFlowRun (s : State) : Result := .next (s.runUnit s.arg.die.toNat 2 s.arg.eng.toNat s.arg.beats)

/-- CHANGE_MASK_RUN: the change-mask unit of die `arg.die`. -/
def execChangeMaskRun (s : State) : Result := .next (s.runUnit s.arg.die.toNat 3 0 s.arg.beats)

/-- HOST_ASSISTED_RUN_RELEASE: unit `arg.front` of die `arg.die`. -/
def execHostAssistedRunRelease (s : State) : Result :=
  let u := unitOfFront s.arg.front
  .next (s.releaseHostRun s.arg.die.toNat u.1 u.2)

/-- RUN_END: unit `arg.front` of die `arg.die`. -/
def execRunEnd (s : State) : Result :=
  let u := unitOfFront s.arg.front
  .next (s.endRun s.arg.die.toNat u.1 u.2)

end Sys2Proof.Machine
end

