-- ==== Sys2Proof/Machine/Resume.lean ====
section
/-! DEFINITION. Events that let a stalled strand go on: each checks that the strand waits for it and that the wait is over,
and gives the strand the next turn at once; the strand's instruction then issues, or traps, and writes its record. With them
the return of loads (R138), the completions of links (R376), and the zeroing of buffers and frames (R149, R362). -/

namespace Sys2Proof.Machine

/-! ## Waking a strand -/

/-- The state in which a strand has the next turn, in the same cycle. -/
def State.wake (s : State) (r : StrandRef) : State := { s with turns := { who := .strand r, cycles := 0 } :: s.turns }

/-- The strand that an event names. -/
def State.argStrand (s : State) : StrandRef := ⟨s.arg.task, s.arg.unit⟩

/-- The strand is stalled and nothing holds its task (R288, R417). [DESIGN CHOICE: notes/assumptions/10.md] -/
def State.canResume (s : State) (r : StrandRef) : Bool :=
  let x := s.task r.task
  let d := s.strand r
  d.state == .stalled && d.stop == .none && x.frozenBy.isNone && (x.life == .running || x.life == .stopping)

/-- The state after the named strand is woken, when it waits for what `f` accepts.
[DESIGN CHOICE: notes/assumptions/10.md] -/
def State.wakeIf (s : State) (f : Task → Why → Bool) : State :=
  let r := s.argStrand
  if s.canResume r && ((s.strand r).wait.any fun w => f (s.task r.task) w.why) then s.wake r else s

/-- Commands of a list still stand in the engines' queues. -/
def State.anyLeft (s : State) (t : Nat) (ids : List Nat) : Bool := (s.cmdHeads t).any fun h => ids.contains h.id

/-- An engine queue has room again (R165, R200, R214, R220). -/
def State.engineRoom (s : State) (x : Task) (unit ch : Nat) : Bool :=
  s.tracked x.core < 64 &&
  match unit with
  | 1 => (s.core x.core).vq.length < 16
  | 2 => (x.chan ch).cmds.length < 8
  | _ => (s.core x.core).mq.length < 16

/-- A header's waits are all satisfied, or one can be no more (R79). -/
def sectionsOver (x : Task) (left : List (UnitId × BitVec 12)) : Bool :=
  (left.all fun w => atOrAfter (x.strand w.1).rs w.2) || left.any fun w => !(x.strand w.1).live

/-! ## Loads and links -/

/-- The task with a returned load written to its destination: a physical g register, or a queue. -/
def Task.returnLoad (x : Task) (u : UnitId) (l : PendLoad) : Task :=
  let d := x.strand u
  let d := { d with loads := d.loads.filter fun o => o.id != l.id }
  match l.dest with
  | .reg n => x.setStrand u { d with g := Assoc.set d.g n l.value }
  | .queue q => (x.setStrand u d).setQueueReg q ((x.queueReg q).push l.value)

/-- The state after a load's value has returned (R138); it reads its place now if it has not yet (R254). -/
def State.returnLoad (s : State) (r : StrandRef) (id : Nat) : State :=
  let s := s.readLate r id
  let x := s.task r.task
  match (s.strand r).loads.find? fun l => l.id == id with
  | some l =>
    if x.frozenBy.isNone && (x.life == .running || x.life == .stopping) then s.setTask r.task (x.returnLoad r.unit l) else s
  | none => s

/-- An AtomicOp on 8 × `size` bits: the new value (R141, R369). -/
def hostAtomicNew (f : HostAtomic) (size old x y : Nat) : Nat :=
  atomicNew (match f with | .fetchAdd => 0 | .swap => 1 | .cas => 2) (8 * size) old (x % 2 ^ (8 * size)) (y % 2 ^ (8 * size))

/-- What data bring to the strand of a read or an atomic: a read of no bytes is the flush of a release (R376). -/
def LinkReq.result (q : LinkReq) (v : Nat) : Held := if q.size = 0 then .flushed else .value (BitVec.ofNat 64 (v % 2 ^ (8 * q.size)))

/-- What a completion brings to the strand of a request, and the host's memory after it (R143, R376, R378). -/
def LinkReq.complete (q : LinkReq) (host : Memory) (a : LinkAnswer) : Held × Memory :=
  let at_ := q.addr.toNat
  match a with
  | .abort => (.trap 22 q.tval, host)
  | .unsupported => (.trap (match q.kind with | .atomic _ => 24 | _ => 22) q.tval, host)
  | .data v =>
    match q.kind with
    | .write => (.done, host)
    | _ => (q.result v.toNat, host)
  | .served =>
    let old := host.nat at_ q.size
    match q.kind with
    | .read => (q.result (if q.port = 0 then old else 0), host)
    | .write => (.done, if q.port = 0 then host.setNat at_ q.size q.x.toNat else host)
    | .atomic f =>
      (q.result (if q.port = 0 then old else 0),
        if q.port = 0 then host.setNat at_ q.size (hostAtomicNew f q.size old q.x.toNat q.y.toNat) else host)

/-- The state with an answer held for a strand that waits for a request. -/
def State.holdAnswer (s : State) (r : StrandRef) (h : Held) : State :=
  if (Assoc.get? s.tasks r.task).isSome then s.setStrand r { s.strand r with held := some h } else s

/-- A peer's read or atomic is answered by data. -/
def LinkReq.answers (q : LinkReq) (a : LinkAnswer) : Bool :=
  match q.kind, a with
  | .write, _ => true
  | _, .served => q.port == 0
  | _, _ => true

/-- The port is Up or Degraded: it carries requests (Table 16-5). -/
def State.portOpen (s : State) (p : Nat) : Bool :=
  match (s.port p).state with
  | .up | .degraded => true
  | _ => false

/-- The H stores of a context that a completion adds to those to be flushed, or that a flush takes from them (R376). -/
def LinkReq.postedAfter (q : LinkReq) (h : Held) (n : Nat) : Nat :=
  match h with
  | .done => if q.port = 0 then n + 1 else n
  | .flushed => n - q.x.toNat
  | _ => n

/-- The state after request `k` has been answered: it is outstanding no more, the host's memory follows, and the strand holds what
came. -/
def State.answerLink (s : State) (k : Nat) (q : LinkReq) (a : LinkAnswer) : State :=
  let e := q.complete s.host a
  let s := { s with host := e.2, reqs := Assoc.erase s.reqs k }
  (s.setCtx q.ctx { s.ctx q.ctx with posted := q.postedAfter e.1 (s.ctx q.ctx).posted }).holdAnswer q.strand e.1

/-- The state after the completion of an outstanding request (R376): while its port trains it waits (R380). The strand gets the
next turn when it may issue. -/
def State.completeLink (s : State) (k : Nat) (a : LinkAnswer) : State :=
  match Assoc.get? s.reqs k with
  | none => s
  | some q =>
    if !s.portOpen q.port || !q.answers a || (s.task q.strand.task).life == .saved then s
    else
      let s := s.answerLink k q a
      if s.canResume q.strand then s.wake q.strand else s

/-! ## Zeroing -/

/-- The state after a part of a buffer has been zeroed for its new owner (R149). -/
def State.zeroPart (s : State) (z : ZeroPart) : State :=
  match z with
  | .granule c n =>
    let k := s.core c
    if k.zeroing.contains n then
      s.setCore c { k with
        pad := k.pad.clear (n * granule) granule, zeroing := k.zeroing.filter fun g => g != n
        bad := k.bad.filter fun b => b / granule != n }
    else s
  | .slot h n =>
    let hp := s.hoop h
    let x := hp.slot n
    if x.zeroing then
      s.setHoop h { hp with slots := Assoc.set hp.slots n { x with data := [], scale := [], table := [], zeroing := false, bad := false } }
    else s
  | .acc h n =>
    let hp := s.hoop h
    let x := hp.acc n
    if x.zeroing then s.setHoop h { hp with accs := Assoc.set hp.accs n { x with data := [], poisoned := false, zeroing := false, bad := false } }
    else s

/-- The state after a frame has been zeroed for the context that claims it, which then owns it (R362): its sectors are whole
again, and cached copies of it are gone. -/
def State.zeroFrame (s : State) (frame : Nat) : State :=
  match Assoc.get? s.zeroing frame with
  | none => s
  | some ctx =>
    let a := frame * 65536
    let cut (l : List Sector) : List Sector := l.filter fun e => e.addr / 65536 != frame
    { s with
      mem := s.mem.clear a 65536
      bad := s.bad.filter fun k => k / 2048 != frame
      cores := s.cores.map fun c => (c.1, { c.2 with l1 := cut c.2.l1 })
      dies := s.dies.map fun d => (d.1, { d.2 with rdc := cut d.2.rdc })
      owners := Assoc.set s.owners frame (.ctx ctx)
      zeroing := Assoc.erase s.zeroing frame }

/-! ## Meanings -/

/-- SECTION_WAIT_SATISFIED: strand `arg.unit` of task `arg.task`, and so for the events below. -/
def execSectionWaitSatisfied (s : State) : Result :=
  .next (s.wakeIf fun x y => match y with | .sections left _ => sectionsOver x left | _ => false)

/-- The named strand's stall on a queue has turned into a trap (R115, R116, R119). -/
def State.doomed (s : State) : Bool := match (s.strand s.argStrand).held with | some (.doom _ _) => true | _ => false

/-- QUEUE_POP_RESUME: an element has come, or none can come any more. -/
def execQueuePopResume (s : State) : Result :=
  .next (s.wakeIf fun x y => match y with
    | .pop q => s.doomed || 0 < (x.queueReg q).count || (x.popTrap s.arg.unit.code (x.queueReg q)).isSome
    | _ => false)

/-- QUEUE_PUSH_RESUME. -/
def execQueuePushResume (s : State) : Result :=
  .next (s.wakeIf fun x y => match y with
    | .push q => s.doomed || 0 < (x.queueReg q).room || (x.pushTrap s.arg.unit.code 0 (x.queueReg q)).isSome
    | _ => false)

/-- JOIN_COMPLETE. -/
def execJoinComplete (s : State) : Result :=
  .next (s.wakeIf fun _ y => match y with
    | .join m => (joinUnits m.toNat).all fun u => s.joined s.arg.task u
    | _ => false)

/-- TRANSFER_WAIT_END: DONE has reached the identifier, or the channel has faulted. -/
def execTransferWaitEnd (s : State) : Result :=
  .next (s.wakeIf fun x y => match y with
    | .transfer ch id => idAtOrAfter (x.chan ch).done id || (x.chan ch).faulted
    | _ => false)

/-- ENGINE_QUEUE_SPACE. -/
def execEngineQueueSpace (s : State) : Result :=
  .next (s.wakeIf fun x y => match y with
    | .engineQueue u ch => s.engineRoom x u ch
    | _ => false)

/-- SCALAR_ENGINE_WAIT_END. -/
def execScalarEngineWaitEnd (s : State) : Result :=
  .next (s.wakeIf fun _ y => match y with
    | .engines _ ids => !s.anyLeft s.arg.task ids
    | _ => false)

/-- EXIT_CARVE_STALL_END: no command of the task reads or writes its carve any more (R322). -/
def execExitCarveStallEnd (s : State) : Result :=
  .next (s.wakeIf fun _ y => match y with
    | .exitCarve => !s.carveUsers s.arg.task
    | _ => false)

/-- TIMELINE_WAIT_RELEASE: the monitor has seen the value, or the timeline is poisoned (R349, R351). -/
def execTimelineWaitRelease (s : State) : Result :=
  .next (s.wakeIf fun _ y => match y with
    | .timeline _ _ =>
      match s.monitorOf s.arg.task with
      | some e => e.released.isSome || e.poisoned
      | none => false
    | _ => false)

/-- RUN_QUEUE_ENTRY_FREE. -/
def execRunQueueEntryFree (s : State) : Result :=
  .next (s.wakeIf fun x y => match y with
    | .runQueue k => (s.die (dieOf x.core)).runCount k < 64
    | _ => false)

/-- LOAD_DATA_RETURN: load `arg.k` of strand `arg.unit` of task `arg.task`. -/
def execLoadDataReturn (s : State) : Result := .next (s.returnLoad s.argStrand s.arg.k)

/-- LINK_COMPLETION: request `arg.k` is answered by `arg.answer`. -/
def execLinkCompletion (s : State) : Result := .next (s.completeLink s.arg.k s.arg.answer)

/-- ZEROING_COMPLETE: part `arg.zero`. -/
def execZeroingComplete (s : State) : Result := .next (s.zeroPart s.arg.zero)

/-- FRAME_ZEROING_COMPLETE: frame `arg.k`. -/
def execFrameZeroingComplete (s : State) : Result := .next (s.zeroFrame s.arg.k)

end Sys2Proof.Machine
end

