-- ==== Sys2Proof/Machine/Stop.lean ====
section
/-! DEFINITION. Stop requests (R287 to R290, R339): how one is sent, its arrival at a task, the freeze at the end of the boundary
window; the discard of a task (R274, R306, R307); the run limit (R272); and the parking of timeline waits (R350). -/

namespace Sys2Proof.Machine

/-! ## Sending -/

/-- Reasons of Table 10-10. -/
def forPreemption : BitVec 6 := 1
def forParking : BitVec 6 := 2
def forMigration : BitVec 6 := 4
def forSuspend : BitVec 6 := 8
def forDrain : BitVec 6 := 16

/-- A stop of the task is asked for or in progress. -/
def Task.asked (x : Task) : Bool := x.sent.isSome || x.stopReq.isSome

/-- The request with more reasons (R290). -/
def StopReq.merge (r : StopReq) (k : BitVec 6) (discard : Bool) : StopReq :=
  { r with reasons := r.reasons ||| k, discard := r.discard || discard }

/-- A strand that has not halted by the end of the window is frozen (R288 step 2). -/
def Strand.freeze (d : Strand) : Strand := if d.live && d.stop == .none then { d with stop := .frozen } else d

/-- The task with every strand changed. -/
def Task.mapStrands (x : Task) (f : Strand → Strand) : Task :=
  { x with main := f x.main, vector := f x.vector, copy := f x.copy, matrix := f x.matrix }

/-- A debug-halted task, frozen already, that is to be discarded is halted no more (R418). -/
def Task.unhalt (x : Task) (now : Nat) : Task :=
  if x.frozenBy.isSome then { x.mapStrands Strand.freeze with frozenBy := none, placed := now } else x

/-- The task with a request sent to it, merged with one on its way or in progress (R290). -/
def Task.ask (x : Task) (k : BitVec 6) (discard : Bool) (now : Nat) : Task :=
  let x := if discard then x.unhalt now else x
  match x.sent, x.stopReq with
  | some r, _ => { x with sent := some (r.merge k discard) }
  | none, some r => { x with stopReq := some (r.merge k discard) }
  | none, none => { x with sent := some { arrived := now, reasons := k, discard } }

/-- Image slots of a context that are free, lowest first (R292). -/
def Context.freeImages (c : Context) (n : Nat) : List Nat := ((List.range c.savecnt).filter fun k => !c.slots.contains k).take n

/-- Members of a task's group that have ended. -/
def State.endedMembers (s : State) (t : Nat) : List EndedMember :=
  match (s.task t).group with
  | some g => (s.group g).ended
  | none => []

/-- The state with one image slot allotted to each live member, and to each ended one, of a task's group (R339); none when
the context has too few. -/
def State.allotImages (s : State) (t : Nat) : Option State :=
  let x := s.task t
  let live := s.members t
  let ended := s.endedMembers t
  let c := s.ctx x.ctx
  let free := c.freeImages (live.length + ended.length)
  if free.length < live.length + ended.length then none
  else
    let s := s.setCtx x.ctx { c with slots := c.slots ++ free }
    let s := (live.zip free).foldl (fun (s : State) e => s.setTask e.1 { s.task e.1 with image := some e.2 }) s
    match x.group with
    | none => some s
    | some g =>
      let gr := s.group g
      some (s.setGroup g { gr with
        state := .stopping
        ended := (gr.ended.zip (free.drop live.length)).map fun e => { e.1 with image := some e.2 } })

/-- Pre-emption and migration of a task that is debug-halted, or has such a member in its group, are refused (R339, R418). -/
def State.refusesStop (s : State) (t : Nat) (k : BitVec 6) : Bool :=
  (k == forPreemption || k == forMigration) && (s.members t).any fun m => (s.task m).frozenBy.isSome

/-- The state with a stop request sent to a task, and so to every live member of its group (R287, R339); none when it is
refused for want of image slots (R290), or for a debug halt (R418). A discard needs no slot. -/
def State.sendStop (s : State) (t : Nat) (k : BitVec 6) (discard : Bool) : Option State :=
  let live := s.members t
  let ready := discard || live.any fun m => (s.task m).asked
  let s' := if s.refusesStop t k then none else if ready then some s else s.allotImages t
  s'.map fun s => live.foldl (fun (s : State) m => s.setTask m ((s.task m).ask k discard s.cycle)) s

/-! ## Arrival and freeze -/

/-- A strand at the arrival of a stop (R288 step 1): one in Rendezvous, or live with no loop, halts. -/
def Strand.arriveStop (d : Strand) : Strand :=
  if d.live && d.stop == .none && (d.state == .rendezvous || d.loops.isEmpty) then { d with stop := .boundary } else d

/-- The state after the request sent to a task has arrived at its core (R288, R203). A debug-halted task is frozen already and takes
it when it runs again. -/
def State.arriveAt (s : State) (t : Nat) : State :=
  let x := s.task t
  match x.sent with
  | none => s
  | some r =>
    if x.frozenBy.isSome || !x.placedNow then s
    else (s.setTask t { x.mapStrands Strand.arriveStop with
      sent := none, stopReq := some { r with arrived := s.cycle }, life := .stopping }).stopArray t

/-- The controller asks again for the stop of a task that its context's Suspend or its hoop's drain needs, once slots are free
(Table 10-3, R433). -/
def State.askAgain (s : State) (t : Nat) : State :=
  match Assoc.get? s.tasks t with
  | none => s
  | some x =>
    if x.asked || !x.placedNow then s
    else if (s.ctx x.ctx).state == .suspending then (s.sendStop t forSuspend false).getD s
    else if (s.hoop (hoopOf x.core)).draining then (s.sendStop t forDrain false).getD s
    else s

/-- The strands of a task have all halted (R288). -/
def Task.halted (x : Task) : Bool :=
  [x.main, x.vector, x.copy, x.matrix].all fun d => !d.live || d.stop != .none

/-! ## Discard -/

/-- The state without a task: its commands, requests' answers, claims and entries go with it (R274, R306, R307).
[DEDUCED: notes/assumptions/53.md] -/
def State.discardTask (s : State) (t : Nat) : State :=
  let x := s.task t
  let s := s.chargeTask t
  let s := s.dropLease t
  let k := s.core x.core
  let s := s.setCore x.core { k with
    vq := k.vq.filter fun c => c.hd.task != t
    mq := k.mq.filter fun c => c.hd.task != t
    residency := k.residency.map fun e => (e.1, if e.2.state == .owned && e.2.task == t then {} else e.2) }
  let s := s.freeImage x.ctx x.image
  let s := s.updLaunch x.launch fun l => { l with faulted := true }
  let s := match x.group with
    | none => s
    | some g =>
      let gr := s.group g
      let live := Assoc.erase gr.live x.member
      if live.isEmpty then
        gr.ended.foldl (fun (s : State) (m : EndedMember) => s.freeImage x.ctx m.image) { s with groups := Assoc.erase s.groups g }
      else s.setGroup g { gr with live }
  (s.dropMonitor t).eraseTask t

/-! ## Parking -/

/-- The main strand of a task waits on a timeline that has not released it: the cycles it has waited. -/
def State.timelineWait (s : State) (t : Nat) : Option Nat :=
  match (s.task t).main.wait with
  | some w =>
    match w.why, s.monitorOf t with
    | .timeline _ _, some e => if e.released.isNone && !e.poisoned then some (w.cycles s.cycle) else none
    | _, _ => none
  | none => none

/-- The state after the dispatcher parks a task whose `tlwait` has stalled for 4,096 cycles (R340, R350). A refused request
leaves the task resident, and is repeated every further 4,096 cycles. -/
def State.park (s : State) (t : Nat) : State :=
  let x := s.task t
  if x.placedNow && x.frozenBy.isNone && !x.parked && (s.timelineWait t).any fun n => 4096 * (x.refused + 1) ≤ n then
    match s.sendStop t forParking false with
    | some s => s.setTask t { s.task t with parked := true }
    | none => s.setTask t { x with refused := x.refused + 1 }
  else s

/-- The state after the dispatcher has read again the word of a wait that no monitor entry holds (R350). -/
def State.rereadWait (s : State) (t : Nat) : State :=
  let who (a : Nat) : Party := dispatcherParty s (Config.homeDie a)
  let see (e : Monitor) : Monitor :=
    if e.task == t && e.inImage && e.released.isNone && !e.poisoned && e.threshold ≤ s.mem.nat e.addr 8 then
      { e with released := some (s.mem.word e.addr, who e.addr) }
    else e
  let s := { s with dies := s.dies.map fun (d : Nat × Die) => (d.1, { d.2 with monitor := d.2.monitor.map see }) }
  s.settleQueue (s.task t).queue

/-! ## Run limit -/

/-- A task's charged run time exceeds the limit of its context (R272). [DEDUCED: notes/assumptions/50.md] -/
def State.overLimit (s : State) (t : Nat) : Bool :=
  let x := s.task t
  let n := (s.ctx x.ctx).runlim
  n != 0 && x.placedNow && n * 4096 < x.runTime s.cycle

/-! ## Meanings -/

/-- RUN_LIMIT_EXPIRY: task `arg.task` faults with cause 36 (Table 10-6). [DEDUCED: notes/assumptions/50.md] -/
def execRunLimitExpiry (s : State) : Result :=
  let t := s.arg.task
  let x := s.task t
  .next (if (Assoc.get? s.tasks t).isSome && s.overLimit t then
    s.taskFault t ⟨36, BitVec.ofNat 64 (x.runTime s.cycle / 4096), x.main.pc, s.taskParty t 0, x.main.lvl⟩ else s)

/-- STOP_REQUEST: the request sent to task `arg.task` arrives, or one is sent again. -/
def execStopRequest (s : State) : Result :=
  let t := s.arg.task
  .next (if (s.task t).sent.isSome then s.arriveAt t else s.askAgain t)

/-- FREEZE_WINDOW_EXPIRY: 600 cycles after the arrival at task `arg.task` (R288). -/
def execFreezeWindowExpiry (s : State) : Result :=
  let t := s.arg.task
  let x := s.task t
  .next (match x.stopReq with
    | some r => if r.arrived + 600 ≤ s.cycle && x.frozenBy.isNone && x.life == .stopping then s.setTask t (x.mapStrands Strand.freeze) else s
    | none => s)

/-- PARK_TIMEOUT: task `arg.task`. -/
def execParkTimeout (s : State) : Result :=
  .next (if (Assoc.get? s.tasks s.arg.task).isSome then s.park s.arg.task else s)

/-- PARKED_WAIT_REREAD: task `arg.task`. -/
def execParkedWaitReread (s : State) : Result := .next (s.rereadWait s.arg.task)

end Sys2Proof.Machine
end

