-- ==== Sys2Proof/Machine/DebugOps.lean ====
section
/-! DEFINITION. Debug stops (R417 to R419): when a debugger is attached, and a task frozen in place and resumed. -/

namespace Sys2Proof.Machine

/-- The debugger is attached to a task (R417). -/
def State.attached (s : State) (t : Nat) : Bool :=
  let x := s.task t
  let g := (s.die (dieOf x.core)).dbg
  g.att && g.brk && g.ctx.toNat == x.ctx

/-- The state with a task debug-halted: every strand is frozen in place, its accesses performed (R269), and its cycles count no
more (R418). -/
def State.debugStop (s : State) (t : Nat) (cause : Nat) (code : Word) (here : Option (UnitId × DWord)) : State :=
  let s := s.drainTask t
  let x := s.task t
  s.setTask t { x with
    runtime := x.runTime s.cycle
    frozenBy := some { cause := BitVec.ofNat 4 cause, code, since := s.cycle, at_ := here } }

/-- A wait that was interrupted for `n` cycles (R403). -/
def Wait.skip (n : Nat) (w : Wait) : Wait := { w with away := w.away + n, saved := true }

/-- A strand whose wait was interrupted. -/
def Strand.skip (n : Nat) (d : Strand) : Strand := { d with wait := d.wait.map (Wait.skip n) }

/-- A command whose wait was interrupted. -/
def CmdHead.skip (n : Nat) (h : CmdHead) : CmdHead :=
  let h := { h with wait := h.wait.map (Wait.skip n) }
  if h.started then h else { h with away := h.away + n, saved := true }

/-- The state in which the waits of a task were interrupted for `n` cycles (R291, R403). -/
def State.skipTask (s : State) (t n : Nat) : State :=
  let x := s.task t
  let x := { x with
    main := x.main.skip n, vector := x.vector.skip n, copy := x.copy.skip n, matrix := x.matrix.skip n
    chans := x.chans.map fun c => (c.1, { c.2 with
      cmds := c.2.cmds.map fun k => { k with hd := k.hd.skip n }
      stream := c.2.stream.map fun r => { r with wait := r.wait.map (Wait.skip n) } }) }
  let k := s.core x.core
  let own (h : CmdHead) : CmdHead := if h.task == t then h.skip n else h
  (s.setTask t x).setCore x.core { k with
    vq := k.vq.map fun c => { c with hd := own c.hd }
    mq := k.mq.map fun c => { c with hd := own c.hd } }

/-- The state with a debug-halted task running again (R419), after an acquire of scope dev (R269). -/
def State.debugResume (s : State) (t : Nat) : State :=
  let x := s.task t
  match x.frozenBy with
  | none => s
  | some d => ((s.acquire x.ctx x.core .dev).setTask t { x with frozenBy := none, placed := s.cycle }).skipTask t (s.cycle - d.since)

end Sys2Proof.Machine
end

