-- ==== Sys2Proof/Machine/System.lean ====
section
/-! DEFINITION. System instructions and CSRs (R276, R281 to R286), `halt` (R111), and the step and observation instructions
(R409 to R411). -/

namespace Sys2Proof.Machine

/-! ## Traps by instruction -/

/-- `sys` (R282): its operand is popped, its trap PC is the next instruction. -/
def sysBody (x : Gen) : M Flow := do
  let s ← get
  let v ← operandB x.b none
  throw (.trap { cause := 33, value := some (v &&& 0xFFFF), data := v, tpc := some (s.curStrand.after 8), keep := true })

/-- `trap` (R282). -/
def trapBody (x : Gen) : M Flow := do
  let v ← operandB x.b none
  throw (.trap { cause := 34, value := some v, data := v, keep := true })

/-- `eret` (R283). -/
def eretBody : M Flow := do
  let s ← get
  let t := s.curStrand.tpc
  if t &&& 3 != 0 then raise 6 t
  else do
    modifyCur Strand.leave
    pure (.jump t)

/-- `halt` (R111): an engine strand enters Halted; the main strand makes a debug stop when a debugger is attached, and else
ends its task with a halt fault. -/
def haltBody (size : Nat) : M Flow := do
  let s ← get
  match s.cur.unit with
  | .main =>
    if s.attached s.cur.task then do
      issueNow
      let d := s.curStrand
      modifyCur fun e => { e with pc := d.after size, held := none }
      modify fun s => s.debugStop s.cur.task 3 0 (some (.main, d.pc))
      pure .gone
    else raiseWord 37
  | u => do
    modify fun s => s.dropEnds s.cur.task (strandEnd u)
    leaveAs .halted size

/-! ## CSRs -/

/-- A trap status word (Table 10-5). -/
def Strand.tstat (d : Strand) : DWord :=
  BitVec.ofNat 64 ((if d.pp then 1 else 0) + (if d.ih then 2 else 0) + (if d.lvl then 4 else 0))

/-- The value of a CSR for a strand (Table 10-4). -/
def State.csr (s : State) (r : StrandRef) (n : Nat) : DWord :=
  let x := s.task r.task
  let d := s.strand r
  match n with
  | 0x000 => d.fcsr
  | 0x001 => d.bg.zeroExtend 64
  | 0x002 => d.bp.zeroExtend 64
  | 0x003 => d.bs.zeroExtend 64
  | 0x004 => BitVec.ofNat 64 s.cycle
  | 0x005 => BitVec.ofNat 64 (d.rs.toNat + d.xs.toNat * 2 ^ 16)
  | 0x010 => x.povf
  | 0x020 => d.tcause
  | 0x021 => d.tval
  | 0x022 => d.tpc
  | 0x023 => d.tstat
  | 0x024 => d.tscratch
  | 0x025 => d.tdata
  | 0x030 => BitVec.ofNat 64 (x.ctx % 64)
  | 0x031 => BitVec.ofNat 64 (x.index % 2 ^ 32)
  | 0x032 =>
    let g := match x.group with | some g => (s.group g).index | none => x.index
    BitVec.ofNat 64 (g % 2 ^ 32 + x.member % 16 * 2 ^ 32 + (x.gsize - 1) % 16 * 2 ^ 36)
  | 0x033 => (s.strandParty r).zeroExtend 64
  | 0x040 => (s.ctx x.ctx).tvec
  | 0x041 => (s.ctx x.ctx).trapmask
  | _ => if 0x100 ≤ n then Assoc.getD (s.die (dieOf x.core)).sensors (n - 0x100) 0 else 0

/-- The state with a CSR of a strand written: reserved bits are ignored (R2, R39, R284); read-only CSRs keep their value. -/
def State.setCsr (s : State) (r : StrandRef) (n : Nat) (v : DWord) : State :=
  let d := s.strand r
  match n with
  | 0x000 => s.setStrand r { d with fcsr := fcsrWrite d.fcsr v }
  | 0x001 => s.setStrand r { d with bg := v.extractLsb' 0 5 }
  | 0x002 => s.setStrand r { d with bp := v.extractLsb' 0 5 }
  | 0x003 => s.setStrand r { d with bs := v.extractLsb' 0 7 }
  | 0x010 => s.setTask r.task { s.task r.task with povf := v &&& 0xFFFFFFFFFFFFFF80 }
  | 0x020 => s.setStrand r { d with tcause := v &&& 0xFF }
  | 0x021 => s.setStrand r { d with tval := v }
  | 0x022 => s.setStrand r { d with tpc := v }
  | 0x023 => s.setStrand r { d with pp := v.getLsbD 0, ih := v.getLsbD 1 }
  | 0x024 => s.setStrand r { d with tscratch := v }
  | 0x025 => s.setStrand r { d with tdata := v }
  | _ => s

/-- `csrr` (R284): the value as read at issue. -/
def csrrBody (x : Gen) : M Flow := do
  let _ ← operands [] (some x.d.toNat)
  let s ← get
  writeDst x.d.toNat (s.csr s.cur x.fn.toNat)
  pure .next

/-- `csrw` (R284). -/
def csrwBody (x : Gen) : M Flow := do
  let v ← operandB x.b none
  modify fun s => s.setCsr s.cur x.fn.toNat v
  pure .next

/-- `ovtld` (R285). -/
def ovtldBody (x : Gen) : M Flow := do
  let vs ← operands [x.a.toNat, x.a.toNat + 1] none
  let t : BitVec 128 := second vs ++ vs.headD 0
  match (List.range 64).find? fun k => ovfEntry t k == 3 with
  | some k => raise 25 (BitVec.ofNat 64 k)
  | none => do
    modify fun s => s.setCtx s.curTask.ctx { s.curCtx with ovf := t }
    pure .next

/-! ## Translation invalidation -/

/-- An invalidation covers a cached translation: pages `lo` to `hi` of a context. -/
def TlbEntry.inPages (e : TlbEntry) (ctx lo hi : Nat) : Bool :=
  let n := 2 ^ (e.size - 16)
  e.ctx == ctx && e.vpn / n * n ≤ hi && lo < e.vpn / n * n + n

/-- The state without the cached translations of some pages of a context, on every die (R286). -/
def State.invalidate (s : State) (ctx lo hi : Nat) : State :=
  let cut (l : List TlbEntry) := l.filter fun e => !e.inPages ctx lo hi
  { s with
    cores := s.cores.map fun c => (c.1, { c.2 with tlb := cut c.2.tlb })
    dies := s.dies.map fun d => (d.1, { d.2 with tlb := cut d.2.tlb }) }

/-- The virtual pages, by their low 39 bits, that `len` bytes from an address meet: those of the two canonical halves (R126). -/
def pageRanges (va : DWord) (len : Nat) : List (Nat × Nat) :=
  let p := va.toNat / 65536
  let l := (va.toNat + len - 1) / 65536
  let piece (a b off : Nat) : List (Nat × Nat) := if max p a ≤ min l b then [(max p a - off, min l b - off)] else []
  if len = 0 then []
  else
    piece 0 (2 ^ 38 - 1) 0 ++ piece (2 ^ 48 - 2 ^ 38) (2 ^ 48 - 1) (2 ^ 48 - 2 ^ 39) ++
    piece (2 ^ 48) (2 ^ 48 + 2 ^ 38 - 1) (2 ^ 48) ++ piece (2 ^ 49 - 2 ^ 38) (2 ^ 49 - 1) (2 ^ 49 - 2 ^ 39)

/-- The pages that `tlbinv` covers: of an address, of a range, or all (R286). -/
def tlbinvPages (kind : Nat) (va : DWord) (len : Nat) : List (Nat × Nat) :=
  if kind = 2 then [(0, 2 ^ 39)] else if kind = 0 then [(vpnOf va, vpnOf va)] else pageRanges va len

/-- `tlbinv` (R286): it holds the strand until the context's accesses that used a covered translation have performed. -/
def tlbinvBody (x : Gen) : M Flow := do
  let kind := x.fn.toNat % 4
  let vs ← operands ((if kind = 2 then [] else [x.a.toNat]) ++ (if kind = 1 then Src.codes x.b else [])) none
  let va := vs.headD 0
  let ps := tlbinvPages kind va (srcVal x.b (second vs)).toNat
  let s ← get
  let ctx := s.curTask.ctx
  if kind != 2 && !canonical va then raise 17 va
  else
    match s.reqs.find? fun r => r.2.xlat.any fun e => ps.any fun p => e.inPages ctx p.1 p.2 with
    | some (k, _) => stallOn (.link k)
    | none => do
      if !ps.isEmpty then modify fun s => s.drainCtx ctx
      modify fun s => ps.foldl (fun s p => s.invalidate ctx p.1 p.2) s
      pure .next

/-! ## Steps and observation -/

/-- Sequence numbers of steps are 22 bits wide and skip 0 (R407). -/
def nextStepSeq (n : Nat) : Nat := if 2 ^ 22 ≤ n + 1 then 1 else n + 1

/-- The state with a step mark written and, when the step chains on the host, posted to the trace (R410, R412). -/
def State.stepMark (s : State) (r : StrandRef) (finish : Bool) : State :=
  let x := s.task r.task
  let p := s.strandParty r
  let s := s.taskEdge r.task { waiter := p, kind := 16, prod := p, arrive := s.cycle, obj := if finish then 1 else 0 }
  if x.step.any Step.host then
    s.postPacket p x.ctx (if finish then 4 else 3) 0 [(stepId x.step).zeroExtend 64]
  else s

/-- `cpmark.beg` (R410). -/
def cpmarkBegBody (x : Gen) : M Flow := do
  let _ ← operands [] (some x.d.toNat)
  let s ← get
  let t := s.curTask
  if t.step.isSome then raiseWord 9
  else do
    let q := s.queue t.queue
    let id : Word := BitVec.ofNat 32 (t.queue * 2 ^ 22 + q.nextStep)
    issueNow
    modify fun s => s.setQueue t.queue { q with nextStep := nextStepSeq q.nextStep }
    modifyTask fun t => { t with step := some ⟨id, s.curCtx.modes.getLsbD 4, s.cycle⟩ }
    modify fun s => s.stepMark s.cur false
    writeDst x.d.toNat (id.zeroExtend 64)
    pure .next

/-- `cpmark.end` (R410): its mark is written once, before it waits for the walk queue. -/
def cpmarkEndBody (x : Gen) : M Flow := do
  let vs ← operands [x.a.toNat] none
  let a := vs.headD 0
  let s ← get
  let t := s.curTask
  match t.step with
  | none => raiseWord 9
  | some k =>
    if a != 0 && a &&& 7 != 0 then raise 13 a
    else if a != 0 && !canonical a then raise 17 a
    else do
      if s.curStrand.held.isNone then do
        issueNow
        modify fun s => s.stepMark s.cur true
      let die := dieOf t.core
      if 16 ≤ (s.die die).walks.length then do
        modifyCur fun d => { d with held := some .done }
        holdOn .walkQueue
      else do
        let w : Walk :=
          { step := k.id, beg := k.beg, fin := s.cycle, party := s.strandParty s.cur, tl := a, ctx := t.ctx, hostMode := k.host }
        modify fun s => s.setDie die { s.die die with walks := (s.die die).walks ++ [w] }
        modifyTask fun t => { t with step := none }
        pure .next

/-- `tmark` (R411). -/
def tmarkBody (x : Gen) : M Flow := do
  let (a, b) ← operandsAB x.a x.b none
  modify fun s => s.postPacket (s.strandParty s.cur) s.curTask.ctx 1 (x.fn.toNat % 256) [a, b]
  pure .next

/-- `brk` (R411, R417). -/
def brkBody (x : Gen) : M Flow := do
  let v ← operandB x.b none
  let s ← get
  if s.attached s.cur.task then do
    issueNow
    let d := s.curStrand
    let code : Word := v.extractLsb' 0 32
    modifyCur fun e => { e with pc := d.after 8, held := none }
    modify fun s =>
      let die := dieOf s.curTask.core
      (s.setDie die { s.die die with dbg := { (s.die die).dbg with bcode := code } }).debugStop s.cur.task 2 code
        (some (s.cur.unit, d.pc))
    pure .gone
  else raiseWord 35

/-- `ccnt` (R411). -/
def ccntBody (x : Alu) : M Flow := do
  let _ ← operands [] (some x.d.toNat)
  let s ← get
  writeDst x.d.toNat (BitVec.ofNat 64 (if x.sub = 1 then s.curTask.runTime s.cycle else s.cycle))
  pure .next

/-! ## Meanings -/

/-- halt, short form. -/
def execHalt (x : Short) (s : State) : Result := runStrand (.short 0x43 x) (haltBody 4) s

/-- halt, long form. -/
def execHaltLong (x : Gen) (s : State) : Result := runStrand (.gen 0x43 x) (haltBody 8) s

/-- cpmark.beg. -/
def execCpmarkBeg (x : Gen) (s : State) : Result := runStrand (.gen 0x78 x) (cpmarkBegBody x) s

/-- cpmark.end. -/
def execCpmarkEnd (x : Gen) (s : State) : Result := runStrand (.gen 0x78 x) (cpmarkEndBody x) s

/-- tmark. -/
def execTmark (x : Gen) (s : State) : Result := runStrand (.gen 0x79 x) (tmarkBody x) s

/-- brk. -/
def execBrk (x : Gen) (s : State) : Result := runStrand (.gen 0x7A x) (brkBody x) s

/-- ccnt, short form. -/
def execCcnt (x : Short) (s : State) : Result := runStrand (.short 0x7B x) (ccntBody x.toAlu) s

/-- ccnt, long form. -/
def execCcntLong (x : Alu) (s : State) : Result := runStrand (.alu 0x7B x) (ccntBody x) s

/-- sys. -/
def execSys (x : Gen) (s : State) : Result := runStrand (.gen 0x7C x) (sysBody x) s

/-- eret. -/
def execEret (x : Gen) (s : State) : Result := runStrand (.gen 0x7D x) eretBody s

/-- csrr. -/
def execCsrr (x : Gen) (s : State) : Result := runStrand (.gen 0x7E x) (csrrBody x) s

/-- csrw. -/
def execCsrw (x : Gen) (s : State) : Result := runStrand (.gen 0x7F x) (csrwBody x) s

/-- ovtld. -/
def execOvtld (x : Gen) (s : State) : Result := runStrand (.gen 0x80 x) (ovtldBody x) s

/-- tlbinv. -/
def execTlbinv (x : Gen) (s : State) : Result := runStrand (.gen 0x81 x) (tlbinvBody x) s

/-- trap. -/
def execTrap (x : Gen) (s : State) : Result := runStrand (.gen 0x82 x) (trapBody x) s

end Sys2Proof.Machine
end

