-- ==== Sys2Proof/Machine/Save.lean ====
section
/-! DEFINITION. The task image: its bytes (R292, R446, Tables 10-9 to 10-11), the save of a task (R203, R217, R288, R317, R338),
results that return into it (R293), and its restoring on another core (R185, R269, R291, R317). -/

namespace Sys2Proof.Machine

/-! ## The bytes of an image -/

/-- Words at an address, as listed bytes. -/
def wordsAt (a : Nat) (ws : List DWord) : Memory := Memory.ofBytes a (ws.flatMap fun w => leBytes w.toNat 8)

/-- STOP of a strand (Table 10-10): a strand in Rendezvous counts as halted at a boundary. -/
def Strand.stopCode (d : Strand) : Nat :=
  if !d.live then 0
  else match d.stop with
    | .frozen => 2
    | _ => 1

/-- Code of a strand state (Table 10-11). -/
def StrandState.code : StrandState → Nat
  | .idle => 0
  | .running => 1
  | .stalled => 2
  | .rendezvous => 3
  | .halted => 4

/-- The predicates as 96 bits, bit 0 written as 1. -/
def Strand.predBits (d : Strand) : Nat :=
  ((List.range 96).map fun k => if k = 0 || Assoc.getD d.p k false then 2 ^ k else 0).sum

/-- The loop-index entries of a strand, entry 0 the top, six of them. -/
def Strand.loopWords (d : Strand) : List DWord :=
  (d.loops.map fun e => e.1 ++ e.2) ++ List.replicate (6 - d.loops.length) 0

/-- The words of a strand record but for the items of the main strand (Table 10-11). -/
def Strand.record (d : Strand) : List DWord :=
  [d.pc] ++ (List.range 64).map (fun n => Assoc.getD d.g n 0) ++
  [BitVec.ofNat 64 (d.predBits % 2 ^ 64), BitVec.ofNat 64 (d.predBits / 2 ^ 64), BitVec.ofNat 64 d.loops.length] ++ d.loopWords ++
  [d.bg.zeroExtend 64, d.bp.zeroExtend 64, d.bs.zeroExtend 64, BitVec.ofNat 64 (d.rs.toNat + d.xs.toNat * 2 ^ 16),
   d.fcsr, d.tcause, d.tval, d.tpc, d.tstat, d.tscratch, d.tdata,
   BitVec.ofNat 64 (d.state.code + if d.live && d.stop == .frozen then 8 else 0)]

/-- The items of the task in the main strand's record. -/
def Task.taskWords (x : Task) (now : Nat) : List DWord :=
  [BitVec.ofNat 64 ((stepId x.step).toNat + (if x.step.isSome then 2 ^ 32 else 0) + (if x.step.any Step.host then 2 ^ 33 else 0)),
   if x.taken then 1 else 0, x.povf, BitVec.ofNat 64 (x.runTime now)]

/-- A strand of the task was frozen. -/
def Task.anyFrozen (x : Task) : Bool := [x.main, x.vector, x.copy, x.matrix].any fun d => d.live && d.stop == .frozen

/-- Loads and atomics of a task that are still to return (Table 10-10, PENDING). -/
def State.outstanding (s : State) (t : Nat) : Nat :=
  let x := s.task t
  ([x.main, x.vector, x.copy, x.matrix].map fun d => d.loads.length).sum +
  (s.reqs.filter fun q => q.2.strand.task == t && q.2.kind != .write).length

/-- The header of a task's image (Table 10-10). [DESIGN CHOICE: notes/assumptions/9.md] -/
def State.imageHeader (s : State) (t : Nat) : List DWord :=
  let x := s.task t
  let mask (m : Assoc Nat) : Nat := (m.map fun e => 2 ^ e.1).sum
  let reasons := match x.stopReq with | some r => r.reasons.toNat % 32 | none => 0
  [BitVec.ofNat 64 (1 + x.main.stopCode * 2 ^ 8 + x.vector.stopCode * 2 ^ 10 + x.copy.stopCode * 2 ^ 12 +
      x.matrix.stopCode * 2 ^ 14 + reasons * 2 ^ 16 + s.outstanding t % 2 ^ 16 * 2 ^ 32 +
      (if x.anyFrozen then Config.implCode * 2 ^ 48 else 0)),
   BitVec.ofNat 64 (mask x.mat.smap + mask x.mat.amap * 2 ^ 32 + (s.taskParty t 0).toNat * 2 ^ 40),
   BitVec.ofNat 64 (x.hdr.cs + x.hdr.ps * 2 ^ 19), 0]

/-- The words of a residency entry (Table 12-5); its offset counts from the carve. -/
def Residency.words (e : Residency) (carve : Nat) : List DWord :=
  [BitVec.ofNat 64 (1 + e.record.toNat * 2 ^ 16 + e.key.toNat * 2 ^ 32), BitVec.ofNat 64 (e.ver.toNat + (e.off - carve) * 2 ^ 32),
   BitVec.ofNat 64 e.len, 0]

/-- The Owned entries of a task, in the order of their declaration. -/
def State.ownedEntries (s : State) (t : Nat) : List Residency :=
  ((s.core (s.task t).core).residency.filter fun e => e.2.state == .owned && e.2.task == t).map (·.2)

/-- The carve's bytes, its granules not yet zeroed for the task taken as zero (R149). -/
def State.carveBytes (s : State) (t b : Nat) : Memory :=
  let x := s.task t
  let k := s.core x.core
  let pad := k.zeroing.foldl (fun (m : Memory) g => m.clear (g * granule) granule) k.pad
  pad.slice x.carve (x.hdr.cs + x.hdr.ps) b

/-- A slot or accumulator as its claimant sees it (R149). -/
def Slot.settled (x : Slot) : Slot := if x.zeroing then { x with data := [], scale := [], table := [], zeroing := false } else x
def Accum.settled (x : Accum) : Accum := if x.zeroing then { x with data := [], zeroing := false } else x

/-- The stores of a slot at an offset: data, scale, bitmap and table (Tables 7-1, 10-9). -/
def Slot.image (x : Slot) (b : Nat) : Memory :=
  let x := x.settled
  let part (m : Memory) (n a : Nat) : Memory := m.slice 0 n a
  part x.data 16384 b ++ part x.scale 1024 (b + 16384) ++
  Memory.ofBytes (b + 17408) ((x.absent.bytes 0 4096).map fun v => ~~~v) ++ part x.table 8192 (b + 21504)

/-- The claimed units of a map by rising logical number. -/
def claimed (m : Assoc Nat) (n : Nat) : List Nat := (List.range n).filterMap (Assoc.get? m)

/-- A list of numbers after its length. -/
def counted (l : List Nat) : List Nat := l.length :: l

/-- Numbers of a queue register: its binding, and its contents (Tables 4-13, 10-9). -/
def QueueReg.bindNats (q : QueueReg) : List Nat :=
  [match q.bind with | .unbound => 0 | .bound => 1 | .stream => 2 | .stopped => 3, q.size.toNat, q.prod.toNat, q.cons.toNat,
   (q.faulted.map fun v => v.toNat + 1).getD 0]
def QueueReg.nats (q : QueueReg) : List Nat :=
  q.fill :: q.beats.flatMap fun b => (if b.2 then 1 else 0) :: counted (b.1.map BitVec.toNat)

/-- Numbers of a command's head. -/
def CmdHead.nats (h : CmdHead) : List Nat :=
  [h.id, h.w0.toNat, h.unit.code, h.op, h.issued, h.mode.rm, if h.mode.fz then 1 else 0, if h.mode.daz then 1 else 0, h.mode.ovf.toNat,
   if h.started then 1 else 0, h.away]

/-- Numbers of a copy command with its position. -/
def CpyCmd.nats (c : CpyCmd) : List Nat :=
  let d := match c.d with | .span d => [1, d.toNat] | .queue q _ => [2, q] | .slot p => [3, p] | _ => [0]
  let r := match c.run with
    | some r => [1, r.tile, r.entry.toNat, r.pos, r.moved] ++ counted (r.record.map BitVec.toNat) ++ counted r.staged
    | none => [0]
  c.hd.nats ++ [c.id.toNat, c.ga.toNat, c.b0.toNat, c.b1.toNat, c.count] ++ d ++ r

/-- Numbers of a channel: Table 8-1, its table queue and its stream's position. -/
def Channel.nats (c : Channel) : List Nat :=
  [c.issued.toNat, c.done.toNat, c.fcode.toNat, c.faddr.toNat, c.fid.toNat, if c.faulted then 1 else 0, c.posts, c.cmds.length] ++
  c.cmds.flatMap CpyCmd.nats ++ counted (c.tables.flatMap fun t => t.tag.toNat :: t.entries.map BitVec.toNat) ++
  match c.stream with
  | some r => [1, r.q, if r.started then 1 else 0, r.pos, (r.held.map fun v => v.toNat + 1).getD 0] ++ counted (r.desc.map BitVec.toNat)
  | none => [0]

/-- Numbers of the matrix queue, the chain state and the maps (R203). -/
def MatState.nats (m : MatState) (q : List MatCmd) : List Nat :=
  [m.lease.code, if m.rpend then 1 else 0, if m.open_ then 1 else 0, if m.ordered then 1 else 0, m.count, m.qmul] ++
  counted (m.smap.flatMap fun e => [e.1, e.2]) ++ counted (m.amap.flatMap fun e => [e.1, e.2]) ++
  q.flatMap fun c => c.hd.nats ++ [c.acc, c.sa, c.sb, c.off.toNat, c.pitch.toNat]

/-- What a strand's freeze capture holds: its accesses in flight, and of a vector command its position (R288). -/
def Strand.captured (d : Strand) : List Nat :=
  counted (d.loads.flatMap fun l => [l.id, (match l.dest with | .reg n => n | .queue q => 64 + q), l.value.toNat]) ++
  [match d.held with | some (.value v) => v.toNat + 1 | _ => 0]

/-- The contents of a part of a task's image whose layout the spec leaves open: offset, words and contents (Table 10-9). The
freeze capture holds what a part's pipelines hold too, so a free value is among its contents.
[DESIGN CHOICE: notes/assumptions/51.md] -/
def State.openPart (s : State) (t part : Nat) : Nat × Nat × List Nat :=
  let x := s.task t
  let qs := (List.range 16).map x.queueReg
  let cs := (List.range 4).map x.chan
  match part with
  | 0 => (0x20, 124, qs.flatMap QueueReg.bindNats ++ (cs.flatMap fun c => [c.issued.toNat, c.done.toNat, c.fcode.toNat]) ++ x.mat.nats [])
  | 1 => (0x1400, 2048, (Config.freeValue s.free).toNat :: [x.main, x.vector, x.copy, x.matrix].flatMap Strand.captured ++
      (s.vecCmds t).flatMap fun c => c.hd.nats ++ [(c.run.map VecRun.pos).getD 0])
  | 2 => (0x6000, 2048, qs.flatMap QueueReg.nats)
  | 3 => (0xA000, 512, cs.flatMap Channel.nats)
  | _ => (0xB800, 256, x.mat.nats (s.matCmds t))

/-- The words of such a part at their offset of the image. [DESIGN CHOICE: notes/assumptions/51.md] -/
def State.openWords (s : State) (t part : Nat) : Memory :=
  let p := s.openPart t part
  wordsAt p.1 ((List.range p.2.1).map (Config.imageWord part p.2.2))

/-- The image of a task, its addresses counted from its slot's start (Table 10-9). -/
def State.imageOf (s : State) (t : Nat) : Memory :=
  let x := s.task t
  let h := s.hoop (hoopOf x.core)
  let free := s.openWords t
  let slots := claimed x.mat.smap 32
  let accs := claimed x.mat.amap 8
  let sb := 0xC000 + x.hdr.cs + x.hdr.ps
  let ab := sb + 32768 * slots.length
  wordsAt 0 (s.imageHeader t) ++ free 0 ++
  wordsAt 0x400 (x.main.record ++ x.taskWords s.cycle) ++ wordsAt 0x800 x.vector.record ++ wordsAt 0xC00 x.copy.record ++
  wordsAt 0x1000 x.matrix.record ++ free 1 ++
  wordsAt 0x5400 ((List.range 384).map fun n => Assoc.getD x.spans n 0) ++ free 2 ++ free 3 ++
  wordsAt 0xB000 ((s.ownedEntries t).flatMap fun e => e.words x.carve) ++ free 4 ++ s.carveBytes t 0xC000 ++
  (slots.zipIdx.flatMap fun e => (h.slot e.1).image (sb + 32768 * e.2)) ++
  (accs.zipIdx.flatMap fun e => (h.acc e.1).settled.data.slice 0 65536 (ab + 65536 * e.2))

/-- Bytes of the image of a task. -/
def Task.imageLength (x : Task) : Nat :=
  0xC000 + x.hdr.cs + x.hdr.ps + 32768 * x.mat.smap.length + 65536 * x.mat.amap.length

/-! ## Writing an image -/

/-- The state with `n` bytes from `a` replaced at their home L2. -/
def State.pasteHome (s : State) (a n : Nat) (src : Memory) (who : Party) : State :=
  let m := s.mem.paste a n src
  { s with
    mem := m
    bad := if s.bad.isEmpty then [] else s.bad.filter fun k => !(wholeSectors a n).contains k
    dies := if s.dies.all fun d => d.2.monitor.isEmpty then s.dies
      else s.dies.map fun d => (d.1, d.2.observe m a n who) }

/-- The address of an offset of an image slot (R292). -/
def Context.imageAt (c : Context) (k off : Nat) : DWord := c.savebase + BitVec.ofNat 64 (k * c.savesz * 65536 + off)

/-- The state with the pages of an image written with G writes of the context, from page `k` on, or what keeps one from being
written: the page's address and its wait or trap. `fuel` is the number of pages left. -/
def State.writeImage (s : State) (ctx slot len : Nat) (img : Memory) (k : Nat) : Nat → Option (DWord × Xlat) × State
  | 0 => (none, s)
  | fuel + 1 =>
    let va := (s.ctx ctx).imageAt slot (65536 * k)
    let n := min 65536 (len - 65536 * k)
    match s.translate (s.dispatcherAccess ctx true jobImage (65536 * ctx + slot)) va with
    | (.ok pa _, s) =>
      (s.pasteHome pa n (img.slice (65536 * k) n pa) (dispatcherParty s (Config.homeDie pa))).writeImage ctx slot len img (k + 1) fuel
    | (r, s) => (some (va, r), s)

/-- Pages of an image. -/
def pagesOf (len : Nat) : Nat := (len + 65535) / 65536

/-! ## Saving -/

/-- The units that a task has claimed or that its commands name: by physical number. -/
def State.usedUnits (s : State) (t : Nat) (slot : Bool) : List Nat :=
  let x := s.task t
  let rs := (s.cmdHeads t).flatMap fun h => h.reads ++ h.writes
  let named (p : Nat) : Bool := rs.any fun r => match r with | .slot n _ => slot && n == p | .acc n => !slot && n == p | _ => false
  if slot then x.mat.slots.filter fun p => (x.mat.smap.any fun e => e.2 == p) || named p
  else x.mat.accs.filter fun p => (x.mat.amap.any fun e => e.2 == p) || named p

/-- The state with a task saved: everything of it leaves its core and hoop for the image, and it is carried under another
number (R203, R217, R288 step 3, R317). -/
def State.saveTask (s : State) (t : Nat) : State :=
  let x := s.task t
  let h := s.hoop (hoopOf x.core)
  let k := s.core x.core
  let put {α : Type} (f : Nat → α) (l : List Nat) : Assoc α := l.foldl (fun (m : Assoc α) p => Assoc.set m p (f p)) []
  let y := { x with
    life := .saved, savedAt := s.cycle, pending := s.outstanding t, oldParty := s.taskParty t 0
    reasons := (x.stopReq.map StopReq.reasons).getD 0, stopReq := none, stopFor := none, runtime := x.runTime s.cycle
    savedVec := s.vecCmds t, savedMat := s.matCmds t, savedCarve := s.carveBytes t 0
    savedSlots := put (fun p => (h.slot p).settled) (s.usedUnits t true)
    savedAccs := put (fun p => (h.acc p).settled) (s.usedUnits t false)
    savedRes := (s.ownedEntries t).map fun e => { e with off := e.off - x.carve }
    mat := { x.mat with lease := if x.mat.lease == .held then .waiting else x.mat.lease } }
  let s := s.dropLease t
  let s := s.setTask t y
  let s := s.setCore x.core { k with
    vq := k.vq.filter fun c => c.hd.task != t
    mq := k.mq.filter fun c => c.hd.task != t
    residency := k.residency.map fun e => (e.1, if e.2.state == .owned && e.2.task == t then {} else e.2) }
  let b := s.zombieKey t
  { s.renameTask t b with nextZombie := s.nextZombie + 1 }

/-- A task is ready for its image: its strands have halted, no vector command is inside a beat and no matrix command that has
started is left (R203, R288), and its stores over a link have performed (R269). -/
def State.stopped (s : State) (t : Nat) : Bool :=
  let x := s.task t
  x.life == .stopping && x.stopReq.isSome && x.frozenBy.isNone && x.halted && (s.vecCmds t).all VecCmd.atBeat && !((s.matCmds t).any fun c => c.hd.started) &&
  !(s.reqs.any fun q => q.2.strand.task == t && (q.2.kind == .write || q.2.size == 0))

/-- The images of the live members of a group written in order (R338). -/
def State.writeImages (s : State) : List Nat → Option (Nat × DWord × Xlat) × State
  | [] => (none, s)
  | t :: ts =>
    let x := s.task t
    match s.writeImage x.ctx (x.image.getD 0) x.imageLength (s.imageOf t) 0 (pagesOf x.imageLength) with
    | (some (va, r), s) => (some (t, va, r), s)
    | (none, s) => ({ s with free := s.free + 1 } : State).writeImages ts

/-- The carve of an ended member: its shared and private parts (Table 10-9). -/
def State.endedBytes (s : State) (e : EndedMember) (b : Nat) : Memory :=
  (s.core e.core).pad.slice (e.gran0 * granule) (e.cs + e.ps) b

/-- The carves of ended members written at the carve's place of their slots. -/
def State.writeEnded (s : State) (ctx t : Nat) : List EndedMember → Option (Nat × DWord × Xlat) × State
  | [] => (none, s)
  | e :: es =>
    let len := 0xC000 + e.cs + e.ps
    match s.writeImage ctx (e.image.getD 0) len (s.endedBytes e 0xC000) 0 (pagesOf len) with
    | (some (va, r), s) => (some (t, va, r), s)
    | (none, s) => s.writeEnded ctx t es

/-- The state after every member of a stopped group is saved (Table 13-1). [DEDUCED: notes/assumptions/59.md] -/
def State.saveGroup (s : State) (t : Nat) : State :=
  let x := s.task t
  let s := match x.group with
    | some g =>
      let gr := s.group g
      let keep (e : EndedMember) : EndedMember := { e with shared := s.endedBytes e 0 }
      s.setGroup g { gr with state := .saved, ended := gr.ended.map keep }
    | none => s
  (s.members t).foldl State.saveTask s

/-- The cause of the fault of a task whose image cannot be written (R292). -/
def imageFault (s : State) (t : Nat) (va : DWord) (cause : Nat) : State :=
  let x := s.task t
  s.taskFault t ⟨cause, va, x.main.pc, s.taskParty t 0, x.main.lvl⟩

/-- The state after the stop of a task, and of its group, is complete: discarded, or saved with its images written (R290, R292).
An image that waits for a page or for a free slot is tried again. [DEDUCED: notes/assumptions/59.md] -/
def State.completeStop (s : State) (t : Nat) : State :=
  let x := s.task t
  let ms := s.members t
  let q := x.queue
  if (Assoc.get? s.tasks t).isNone || !(ms.all fun m => s.stopped m) || x.group.any fun g => !(s.group g).faults.isEmpty then s
  else
  let s := ms.foldl State.drainTask s
  if ms.any fun m => (s.task m).stopReq.any StopReq.discard then ms.foldl State.discardTask s
  else
    match s.writeImages ms with
    | (some (m, va, .trap k), s) => imageFault s m va k
    | (some _, s) => s
    | (none, s) =>
      match s.writeEnded x.ctx t (s.endedMembers t) with
      | (some (m, va, .trap k), s) => imageFault s m va k
      | (some _, s) => s
      | (none, s) =>
        if (s.queue q).state == .poisoned || (s.queue q).state == .free then ms.foldl State.discardTask s
        else (s.saveGroup t).settleQueue q

/-! ## Results that return into an image -/

/-- The state with `n` bytes of a saved task's image written, when its page is mapped for writing. -/
def State.pokeImage (s : State) (t off n v : Nat) : State :=
  let x := s.task t
  match s.peekMap x.ctx ((s.ctx x.ctx).imageAt (x.image.getD 0) off) with
  | some (pa, pte) =>
    if pteSpace pte == 0 && pteW pte then s.setHome pa n v (dispatcherParty s (Config.homeDie pa)) else s
  | none => s

/-- The state with a part of a saved task's image written anew from the task. -/
def State.pokePart (s : State) (t part : Nat) : State :=
  let x := s.task t
  let p := s.openPart t part
  match s.peekMap x.ctx ((s.ctx x.ctx).imageAt (x.image.getD 0) p.1) with
  | some (pa, pte) =>
    if pteSpace pte == 0 && pteW pte then
      s.pasteHome pa (8 * p.2.1) ((s.openWords t part).slice p.1 (8 * p.2.1) pa) (dispatcherParty s (Config.homeDie pa))
    else s
  | none => s

/-- The state with a result written into the image of its saved task (R293): into the strand's record, or the contents of the
queue. -/
def State.pokeResult (s : State) (r : StrandRef) (d : LoadDest) (v : DWord) : State :=
  match d with
  | .reg n => s.pokeImage r.task (0x408 + 0x400 * r.unit.code + 8 * n) 8 v.toNat
  | .queue _ => s.pokePart r.task 2

/-- The state after one of the results that a saved task waits for has been written: PENDING falls by one (R293). -/
def State.countResult (s : State) (t : Nat) : State :=
  let x := s.task t
  let s := s.setTask t { x with pending := x.pending - 1 }
  (s.pokeImage t 4 2 (x.pending - 1)).settleQueue x.queue

/-- The state after load `id` of a saved strand has returned. -/
def State.imageLoad (s : State) (r : StrandRef) (l : PendLoad) : State :=
  ((s.setTask r.task ((s.task r.task).returnLoad r.unit l)).pokeResult r l.dest l.value).countResult r.task

/-- The state after request `k` of a saved task is answered. -/
def State.imageLink (s : State) (k : Nat) (q : LinkReq) (a : LinkAnswer) : State :=
  let s := s.answerLink k q a
  let s := match (s.strand q.strand).held, q.dest with
    | some (.value v), some (.reg n) => s.pokeResult q.strand (.reg n) v
    | some (.value _), _ => s.pokePart q.strand.task 1
    | _, _ => s
  s.countResult q.strand.task

/-! ## Restoring -/

/-- A resource of a command on its new core and hoop. -/
def Resource.move (a b : Nat) (slots accs : Nat → Nat) : Resource → Resource
  | .pad lo hi => .pad (lo + b - a) (hi + b - a)
  | .slot n k => .slot (slots n) k
  | .acc n => .acc (accs n)

/-- A command's head with its resources moved. -/
def CmdHead.move (f : Resource → Resource) (h : CmdHead) : CmdHead := { h with reads := h.reads.map f, writes := h.writes.map f }

/-- A copy command with its slot moved. -/
def CpyCmd.move (f : Resource → Resource) (slots : Nat → Nat) (c : CpyCmd) : CpyCmd :=
  { c with hd := c.hd.move f, d := match c.d with | .slot p => .slot (slots p) | o => o }

/-- The number that takes another's place. -/
def renumber (old new : List Nat) (n : Nat) : Nat := (((old.zip new).find? fun e => e.1 == n).map (·.2)).getD n

/-- The state with a carve allocated to context `ctx` on a core: granules of another context are to be zeroed (R148), and entries
over it adopted by task `t` or freed (R317). -/
def State.takeCarve (s : State) (c g gran ctx t : Nat) (adopt : Bool) : State :=
  let k := s.core c
  let run := (List.range gran).map (g + ·)
  let foreign := run.filter fun i => (Assoc.get? k.owner i).any fun o => o != ctx
  let lo := g * granule
  let hi := (g + gran) * granule
  s.setCore c { k with
    owner := run.foldl (fun (m : Assoc Nat) i => Assoc.set m i ctx) k.owner
    zeroing := k.zeroing ++ foreign.filter fun i => !k.zeroing.contains i
    residency := k.residency.map fun e =>
      let r := e.2
      if r.state == .free || r.off + r.len ≤ lo || hi ≤ r.off then e
      else if adopt && r.ctx == ctx && lo ≤ r.off && r.off + r.len ≤ hi then (e.1, { r with state := .owned, task := t })
      else (e.1, {}) }

/-- The state with bytes restored over a whole carve: nothing of it is left to be zeroed.
[DEDUCED: notes/assumptions/60.md] -/
def State.fillCarve (s : State) (c g gran : Nat) (src : Memory) : State :=
  let k := s.core c
  s.setCore c { k with
    pad := k.pad.paste (g * granule) (gran * granule) (src.slice 0 (gran * granule) (g * granule))
    zeroing := k.zeroing.filter fun i => i < g || g + gran ≤ i
    bad := k.bad.filter fun b => b < g * granule || (g + gran) * granule ≤ b }

/-- The state with an image entry restored (R317): it takes a Free entry or the oldest Standing one, or is dropped. -/
def State.restoreEntry (s : State) (c t carve : Nat) (e : Residency) : State :=
  let k := s.core c
  let at_ : Option Nat :=
    match (List.range 64).find? fun i => (k.resident i).state == .free with
    | some i => some i
    | none => k.oldestStanding
  match at_ with
  | some i => s.setCore c { k with residency := Assoc.set k.residency i { e with task := t, off := carve + e.off } }
  | none => s

/-- The matrix state on its new hoop. -/
def MatState.move (m : MatState) (slots accs : List Nat) : MatState :=
  let fs := renumber m.slots slots
  let fa := renumber m.accs accs
  { m with
    smap := m.smap.map fun e => (e.1, fs e.2)
    amap := m.amap.map fun e => (e.1, fa e.2)
    slots, accs }

/-- The state with a saved task placed at a spot, in a task slot, and everything of it restored (R185, R203, R217, R269, R291).
[DEDUCED: notes/assumptions/60.md] -/
def State.restoreTask (s : State) (t slot : Nat) (p : Spot) : State :=
  let b := 16 * p.core + slot
  let s := s.renameTask t b
  let x := s.task b
  let h := hoopOf p.core
  let slots := (s.freeSlots h).take x.hdr.slots
  let accs := (s.freeAccs h).take x.hdr.acc
  let fs := renumber x.mat.slots slots
  let fa := renumber x.mat.accs accs
  let carve := p.gran0 * granule
  let move := Resource.move x.carve carve fs fa
  let unhalt (d : Strand) : Strand := { d with stop := .none }
  let y := { x with
    core := p.core, slot, gran0 := p.gran0, life := .running, placed := s.cycle, complete := true, parked := false, image := none
    main := { unhalt x.main with fresh := true }, vector := unhalt x.vector, copy := unhalt x.copy, matrix := unhalt x.matrix
    mat := x.mat.move slots accs
    chans := x.chans.map fun c => (c.1, { c.2 with cmds := c.2.cmds.map (CpyCmd.move move fs) })
    savedVec := [], savedMat := [], savedCarve := [], savedSlots := [], savedAccs := [], savedRes := [] }
  let s := s.freeImage x.ctx x.image
  let s := s.setTask b y
  let s := (s.takeCarve p.core p.gran0 x.hdr.gran x.ctx b false).fillCarve p.core p.gran0 x.hdr.gran x.savedCarve
  let s := x.savedRes.foldl (fun (s : State) e => s.restoreEntry p.core b carve e) s
  let hp := s.hoop h
  let s := s.setHoop h { hp with
    slots := x.savedSlots.foldl (fun (m : Assoc Slot) e => Assoc.set m (fs e.1) { e.2 with owner := some x.ctx }) hp.slots
    accs := x.savedAccs.foldl (fun (m : Assoc Accum) e => Assoc.set m (fa e.1) { e.2 with owner := some x.ctx }) hp.accs }
  let k := s.core p.core
  let s := s.setCore p.core { k with
    vq := k.vq ++ x.savedVec.map fun c => { c with hd := { c.hd.move move with task := b } }
    mq := k.mq ++ x.savedMat.map fun c =>
      { c with hd := { c.hd.move move with task := b }, acc := fa c.acc, sa := fs c.sa, sb := fs c.sb } }
  ((s.acquire x.ctx p.core .dev).skipTask b (s.cycle - x.savedAt)).settleLease h

/-- IMPL of a saved task's image as it stands in memory (R293). -/
def State.imageImpl (s : State) (t : Nat) : Nat :=
  let x := s.task t
  match s.peekMap x.ctx ((s.ctx x.ctx).imageAt (x.image.getD 0) 0) with
  | some (pa, _) => s.mem.nat (pa + 6) 2
  | none => Config.implCode

/-- A frozen strand whose IMPL differs from the part's code does not resume (R293). -/
def State.resumeFault (s : State) (t : Nat) : Option Nat :=
  if (s.task t).anyFrozen && s.imageImpl t != Config.implCode then some (s.imageImpl t) else none

/-! ## Meanings -/

/-- IMAGE_COMPLETE: the stop of task `arg.task`, and of its group, completes. -/
def execImageComplete (s : State) : Result := .next (s.completeStop s.arg.task)

/-- IMAGE_RESULT_RETURN: load `arg.k` of strand `arg.unit` of saved task `arg.task`, or link request `arg.k` of it answered by
`arg.answer`; while its port trains a request waits (R380). -/
def execImageResultReturn (s : State) : Result :=
  let t := s.arg.task
  .next (if (s.task t).life != .saved then s
    else
      match (s.strand s.argStrand).loads.find? fun l => l.id == s.arg.k with
      | some l => s.imageLoad s.argStrand l
      | none =>
        match Assoc.get? s.reqs s.arg.k with
        | some q => if q.strand.task == t && s.portOpen q.port && q.answers s.arg.answer then s.imageLink s.arg.k q s.arg.answer else s
        | none => s)

end Sys2Proof.Machine
end

