-- ==== Sys2Proof/Machine/Dispatcher.lean ====
section
/-! DEFINITION. The dispatcher: the start of tasks (R313, R335), the choice of the next one (R300 to R305), pre-emption (R304,
R438), the acceptance of host launches (R298, R299) and the completion of launches (R315, R437). -/

namespace Sys2Proof.Machine

/-! ## Candidates -/

/-- The head launch of a queue: the oldest with an undispatched task (R300). -/
def State.headLaunch (s : State) (q : Nat) : Option Nat := (s.queue q).launches.find? fun l => (s.launch l).undispatched

/-- First tasks of the undispatched groups of a launch from task `i` on, `n` of them at most; the fuel bounds the search. -/
def Launch.waiting (l : Launch) (i n : Nat) : Nat → List Nat
  | 0 => []
  | fuel + 1 =>
    if n = 0 || l.count ≤ i then []
    else if l.ahead.contains i then l.waiting (i + l.gsize) n fuel
    else i :: l.waiting (i + l.gsize) (n - 1) fuel

/-- The groups of its head launch that a queue may give, the head first (R303). -/
def State.offered (s : State) (q l : Nat) : List Nat :=
  let x := s.launch l
  x.waiting x.next (if (s.queue q).state == .drain then 1 else 16) (16 + x.ahead.length)

/-- The hint of a launch, in the host-assisted placement mode (R320). -/
def State.hintOf (s : State) (l : Nat) : Option Nat :=
  if (s.ctx (s.queue (s.launch l).queue).ctx).modes.getLsbD 2 then (s.launch l).hint else none

/-- What the members of a new group need; `entry` is the tile-list entry of a list-driven task. -/
def State.newNeeds (s : State) (ctx l i : Nat) (entry : DWord) : List Need :=
  let x := s.launch l
  (List.range x.gsize).map fun m => { ctx, hdr := x.hdr, refs := x.refs.filterMap (s.resolve ctx x.ver (i + m) entry) }

/-- A member of a saved group: a live task, or an ended member. -/
inductive SavedMember where
  | task (t : Nat)
  | ended (e : EndedMember)
  deriving DecidableEq, Repr

/-- The members of a saved task's group in increasing index. -/
def State.savedMembers (s : State) (t : Nat) : List SavedMember :=
  match (s.task t).group with
  | none => [.task t]
  | some g =>
    let gr := s.group g
    (List.range 16).flatMap fun m =>
      (match Assoc.get? gr.live m with | some u => [.task u] | none => []) ++
      ((gr.ended.filter fun e => e.member == m).map .ended)

/-- What a member of a saved group needs (R318, R338). -/
def State.savedNeed (s : State) : SavedMember → Need
  | .task t =>
    let x := s.task t
    let l := s.launch x.launch
    { ctx := x.ctx, hdr := x.hdr, refs := l.refs.filterMap (s.resolve x.ctx l.ver x.index x.entry), resumed := true }
  | .ended e =>
    let l := s.launch e.launch
    let c := (s.queue l.queue).ctx
    { ctx := c, hdr := l.hdr, refs := l.refs.filterMap (s.resolve c l.ver e.index 0), ended := true, resumed := true }

/-- No hoop of a window is offline: a saved group is resumed only in such a window (R340). -/
def State.windowWhole (s : State) (h : Nat) : Bool :=
  (windowCores h).all fun c => let x := s.hoop (hoopOf c); !x.offline && !x.draining

/-- The candidate of a queue as placement sees it: which one it is, its context, what its members need, its hint; `free` when it
is a saved group of several members, which goes to any window by score whatever its hint (R340). -/
structure Candidate where
  key : Waiting
  ctx : Nat
  needs : List Need
  hint : Option Nat
  free : Bool
  deriving DecidableEq, Repr

/-- Where a candidate goes: `cs` are the cores considered for a single task, `hs` the window starts for a group. -/
def State.placeIn (s : State) (k : Candidate) (cs hs : List Nat) : Option Assigned :=
  if !s.limitsAllow k.ctx k.needs then none
  else if k.free then (s.bestWindow k.needs (hs.filter s.windowWhole)).map (·.2)
  else s.whereIn k.hint k.needs cs hs

/-- Where a candidate goes, when it fits now (R301). -/
def State.placeNow (s : State) (k : Candidate) : Option Assigned := s.placeIn k allCores allHoops

/-- The candidate that a saved task's group is. -/
def State.savedCandidate (s : State) (t : Nat) : Candidate :=
  let ms := s.savedMembers t
  ⟨.saved t, (s.task t).ctx, ms.map s.savedNeed, s.hintOf (s.task t).launch, 1 < ms.length⟩

/-- Where a saved group goes, when it fits now. -/
def State.placeSaved (s : State) (t : Nat) : Option Assigned := s.placeNow (s.savedCandidate t)

/-! ## Placing -/

/-- The context of a queue's tasks. -/
def State.queueCtx (s : State) (q : Nat) : Nat := (s.queue q).ctx

/-- A new task as it starts (R313, Table 4-1). -/
def State.newTask (s : State) (q l i m : Nat) (entry : DWord) (p : Spot) (slot : Nat) (g : Option Nat) : Task :=
  let x := s.launch l
  let lvl := (s.queue q).supv
  let h := hoopOf p.core
  { ctx := s.queueCtx q, queue := q, launch := l, index := i + m, group := g, member := m, gsize := x.gsize, code := x.code
    hdr := x.hdr, core := p.core, slot, gran0 := p.gran0
    main := { startMain (x.code + x.entry.zeroExtend 64) lvl
        [(1, x.args.getD 0 0), (2, x.args.getD 1 0), (3, x.args.getD 2 0), (4, BitVec.ofNat 64 (i + m)), (5, x.ver.zeroExtend 64)] with
      fresh := true }
    vector := { lvl }, copy := { lvl }, matrix := { lvl }
    mat := { slots := (s.freeSlots h).take x.hdr.slots, accs := (s.freeAccs h).take x.hdr.acc }
    step := x.step, entry, taken := !x.list, placed := s.cycle }

/-- The state with one member of a new group placed (R148, R313, R317): its core and die acquire at scope dev, so that what is
before the launch is before its first instruction (R259, R326). -/
def State.startMember (s : State) (q l i m : Nat) (entry : DWord) (p : Spot) (g : Option Nat) : State :=
  let slot := (s.freeTaskSlots p.core).headD 0
  let t := 16 * p.core + slot
  let x := s.newTask q l i m entry p slot g
  let s := ((s.setTask t x).takeCarve p.core p.gran0 x.hdr.gran x.ctx t true).acquire x.ctx p.core .dev
  match g with
  | none => s
  | some n => s.setGroup n { s.group n with live := Assoc.set (s.group n).live m t }

/-- The state with a new group placed: every member passes to Running (R335). -/
def State.startGroup (s : State) (q l i : Nat) (entry : DWord) (as : Assigned) : State :=
  let x := s.launch l
  let several := 1 < x.gsize
  let n := s.nextGroup
  let s := if several then
      { s.setGroup n { index := i / x.gsize, size := x.gsize } with nextGroup := n + 1 } else s
  as.zipIdx.foldl (fun (s : State) e => s.startMember q l i e.2 entry e.1.2 (if several then some n else none)) s

/-- The launch after group `i` of it is dispatched. -/
def Launch.skip (l : Launch) : Nat → Launch
  | 0 => l
  | fuel + 1 => if l.ahead.contains l.next then ({ l with next := l.next + l.gsize, ahead := l.ahead.filter fun k => k != l.next } : Launch).skip fuel else l
def Launch.dispatched (l : Launch) (i : Nat) : Launch :=
  if i = l.next then ({ l with next := l.next + l.gsize } : Launch).skip l.ahead.length else { l with ahead := l.ahead ++ [i] }

/-- The age limit of a queue (Table 11-1). -/
def Queue.limit (x : Queue) : Nat := if x.agelim = 0 then 8 else x.agelim

/-- The queue after it has given a group: the head, or one past it (R303). -/
def Queue.gave (x : Queue) (head : Bool) : Queue :=
  let x := { x with unfit := none }
  if head then { x with passed := 0, state := if x.state == .drain then .ready else x.state }
  else { x with passed := x.passed + 1, state := if x.limit ≤ x.passed + 1 then .drain else x.state }

/-- The state after a queue has given group `i` of launch `l`, placed as `as`. -/
def State.give (s : State) (q l i : Nat) (entry : DWord) (as : Assigned) : State :=
  let x := s.launch l
  let s := s.startGroup q l i entry as
  let s := s.setLaunch l (x.dispatched i)
  (s.setQueue q ((s.queue q).gave (i == x.next))).settleQueue q

/-- The state with an ended member's carve placed again and restored. -/
def State.restoreEnded (s : State) (g : Nat) (e : EndedMember) (p : Spot) (ctx : Nat) : State :=
  let s := (s.takeCarve p.core p.gran0 e.gran ctx 0 false).fillCarve p.core p.gran0 e.gran e.shared
  let s := s.freeImage ctx e.image
  let gr := s.group g
  s.setGroup g { gr with ended := gr.ended.map fun o =>
    if o.member == e.member then { o with core := p.core, gran0 := p.gran0, shared := [], image := none } else o }

/-- The state with a saved group placed again: every image restored (R293, R338). A frozen strand of another part's code makes
its task fault instead. -/
def State.resumeGroup (s : State) (t : Nat) (as : Assigned) : State :=
  let x := s.task t
  match (s.members t).findSome? fun m => (s.resumeFault m).map fun k => (m, k) with
  | some (m, k) =>
    let y := s.task m
    s.taskFault m ⟨25, BitVec.ofNat 64 k, y.main.pc, s.taskParty m 0, y.main.lvl⟩
  | none =>
    let ms := s.savedMembers t
    let s := match x.group with
      | some g => s.setGroup g { s.group g with state := .running }
      | none => s
    let s := (ms.zip as).foldl (fun (s : State) e =>
      match e.1 with
      | .task u => s.restoreTask u ((s.freeTaskSlots e.2.2.core).headD 0) e.2.2
      | .ended o => match x.group with | some g => s.restoreEnded g o e.2.2 x.ctx | none => s) s
    (s.setQueue x.queue { s.queue x.queue with unfit := none }).settleQueue x.queue

/-! ## One queue -/

/-- What an attempt to give one group ends in. -/
inductive Attempt where
  | given
  | noFit
  | stopped
  deriving DecidableEq, Repr

/-- The tile-list entry of task `i`, read as it is dispatched (R312). -/
def State.readEntry (s : State) (q l i : Nat) : DevRead × State :=
  let x := s.launch l
  if x.list then s.devRead (s.dispatcherAccess (s.queueCtx q) false jobEntry q) (x.tlist + BitVec.ofNat 64 (16 + 8 * i)) 1 else (.ok [0], s)

/-- The state after group `i` of launch `l` has been tried (R303, R312): given, without room, or its queue stopped by a fault. -/
def State.tryNew (s : State) (q l i : Nat) : Attempt × State :=
  let fault (s : State) (code task : Nat) : State := (s.setLaunch l { s.launch l with faulted := true }).launchFault q l code task
  match s.readEntry q l i with
  | (.wait _, s) => (.noFit, s)
  | (.bad, s) => (.stopped, fault s 3 (2 ^ 32 - 1))
  | (.ok ws, s) =>
    let ns := s.newNeeds (s.queueCtx q) l i (ws.headD 0)
    match s.placeFor (s.queueCtx q) (s.hintOf l) ns with
    | some as => (.given, s.give q l i (ws.headD 0) as)
    | none => if i == (s.launch l).next && s.neverFits ns then (.stopped, fault s 0 i) else (.noFit, s)

/-- The state after the groups of a list have been tried in order, to the first that fits. -/
def State.tryAll (s : State) (q l : Nat) : List Nat → Attempt × State
  | [] => (.noFit, s)
  | i :: is =>
    match s.tryNew q l i with
    | (.noFit, s) => s.tryAll q l is
    | r => r

/-- The resumable saved tasks of a queue, saved earliest first, one for each group. -/
def State.savedOrder (s : State) (q : Nat) : List Nat :=
  let ts := (s.resumables q).filter fun t => (s.members t).head? == some t
  ts.mergeSort fun a b => (s.task a).savedAt ≤ (s.task b).savedAt

/-- Which candidate a queue has now. -/
def State.candidateKey (s : State) (q : Nat) : Option Waiting :=
  match s.savedOrder q, s.headLaunch q with
  | t :: _, _ => some (.saved t)
  | [], some l => some (.fresh l (s.launch l).next)
  | [], none => none

/-- The candidate of a queue; none without one, or while its tile-list entry cannot be read. -/
def State.candidate (s : State) (q : Nat) : Option Candidate :=
  match s.candidateKey q with
  | some (.saved t) => some (s.savedCandidate t)
  | some (.fresh l i) =>
    match s.readEntry q l i with
    | (.ok ws, _) => some ⟨.fresh l i, s.queueCtx q, s.newNeeds (s.queueCtx q) l i (ws.headD 0), s.hintOf l, false⟩
    | _ => none
  | none => none

/-- The queue whose candidate has just been found not to fit: the cycles are counted anew for another candidate (R304). -/
def Queue.misfit (x : Queue) (key : Waiting) (now : Nat) : Queue :=
  match x.unfit with
  | some (k, c) => { x with unfit := some (key, if k == key then c else now) }
  | none => { x with unfit := some (key, now) }

/-- The state after a queue has been asked for one task (R301 steps 2 and 3). -/
def State.serveQueue (s : State) (q : Nat) : Attempt × State :=
  match (s.savedOrder q).findSome? fun t => (s.placeSaved t).map fun as => (t, as) with
  | some (t, as) => (.given, s.resumeGroup t as)
  | none =>
    let r := match s.headLaunch q with
      | some l => s.tryAll q l (s.offered q l)
      | none => (.noFit, s)
    match r, s.candidateKey q with
    | (.noFit, s), some key => (.noFit, s.setQueue q ((s.queue q).misfit key s.cycle))
    | (r, s), _ => (r, s)

/-- The state in which a queue whose candidate is another one, or fits, counts no cycles (R304). -/
def State.settleUnfit (s : State) (q : Nat) : State :=
  match (s.queue q).unfit, s.candidate q with
  | none, _ => s
  | some (k, _), some x =>
    if k == x.key && (s.placeNow x).isNone then s else s.setQueue q { s.queue q with unfit := none }
  | some _, none => s.setQueue q { s.queue q with unfit := none }

/-! ## The choice (R301) -/

/-- Queues of a level that are Ready or in Drain. -/
def State.levelQueues (s : State) (k : Nat) : List Nat :=
  (s.queues.filter fun e => e.2.prio == k && !e.2.destroying && (e.2.state == .ready || e.2.state == .drain)).map (·.1)

/-- Rounds until one of the queues has a deficit above 0. -/
def State.roundsFor (s : State) (qs : List Nat) : Nat :=
  let need (q : Nat) : Nat :=
    let x := s.queue q
    let w := max 1 (x.weight * 4096)
    ((1 - x.deficit).toNat + w - 1) / w
  match qs with
  | [] => 0
  | q :: t => t.foldl (fun (b : Nat) k => min b (need k)) (need q)

/-- The state after the rounds of a level: as many as it takes for a queue to have a deficit above 0. -/
def State.round (s : State) (qs : List Nat) : State :=
  if qs.any fun q => 0 < (s.queue q).deficit then s
  else
    let n := s.roundsFor qs
    qs.foldl (fun (s : State) q =>
      let x := s.queue q
      s.setQueue q { x with deficit := satDeficit (x.deficit + ((n * x.weight * 4096 : Nat) : Int)) }) s

/-- The first queue of a list that gives a task. -/
def State.firstServed (s : State) : List Nat → Option Nat × State
  | [] => (none, s)
  | q :: qs =>
    let x := s.queue q
    if x.deficit ≤ 0 || (s.ctx x.ctx).state != .active then s.firstServed qs
    else
      match s.serveQueue q with
      | (.given, s) => (some q, s)
      | (_, s) => s.firstServed qs

/-- The queues of a level in the order of R301: after the one last served, wrapping round. -/
def State.levelOrder (s : State) (k : Nat) : List Nat :=
  let qs := s.levelQueues k
  match Assoc.get? s.served k with
  | some last => qs.filter (fun q => last < q) ++ qs.filter fun q => q ≤ last
  | none => qs

/-- The choice among the levels of a list. -/
def State.chooseFrom (s : State) : List Nat → State
  | [] => s
  | k :: ks =>
    match (s.round (s.levelQueues k)).firstServed (s.levelOrder k) with
    | (some q, s) => { s with served := Assoc.set s.served k q }
    | (none, s) => s.chooseFrom ks

/-- The state with every queue Ready or Idle as its work has it (Table 11-3). -/
def State.settleQueues (s : State) : State := (s.queues.map (·.1)).foldl State.settleQueue s

/-! ## Pre-emption (R304, R438) -/

/-- The state as if a task's group were stopped. -/
def State.asStopped (s : State) (t : Nat) : State :=
  let s' := match (s.task t).group with
    | some g => s.setGroup g { s.group g with state := .saved }
    | none => s
  (s.members t).foldl (fun (s : State) m => s.setTask m { s.task m with life := .saved }) s'

/-- Hoops of the members of a task's group, of those that have ended too (R339). -/
def State.groupHoops (s : State) (t : Nat) : List Nat :=
  ((s.members t).map fun m => hoopOf (s.task m).core) ++ (s.endedMembers t).map fun e => hoopOf e.core

/-- The stop of a task would free enough for a candidate: on its hoop, or for a group in a window with that hoop; with a hint,
on the hinted core or window (R304, R339, R438). -/
def State.stopHelps (s : State) (t : Nat) (k : Candidate) : Bool :=
  let hs := s.groupHoops t
  let cs := (List.range 1024).filter fun c => hs.contains (hoopOf c)
  let ws := allHoops.filter fun h => (windowCores h).any fun c => hs.contains (hoopOf c)
  let here := match k.hint with
    | none => true
    | some c => if k.needs.length ≤ 1 then (s.task t).core == c else (windowCores (hoopOf c)).contains (s.task t).core
  here && ((s.asStopped t).placeIn k cs (match k.hint with | some c => [hoopOf c] | none => ws)).isSome

/-- `a` comes before `b` in the order of R304. -/
def State.stopBefore (s : State) (a b : Nat) : Bool :=
  let x := s.task a
  let y := s.task b
  let p := s.queue x.queue
  let r := s.queue y.queue
  if p.prio != r.prio then r.prio < p.prio
  else if p.deficit != r.deficit then p.deficit < r.deficit
  else if x.core != y.core then x.core < y.core
  else x.slot ≤ y.slot

/-- Running tasks of queues of lower levels, in the order of R304. -/
def State.victims (s : State) (q : Nat) : List Nat :=
  let ts := (s.tasks.filter fun e => e.2.life == .running && !e.2.asked && !s.refusesStop e.1 forPreemption &&
    (s.queue e.2.queue).state != .free && (s.queue q).prio < (s.queue e.2.queue).prio).map (·.1)
  ts.mergeSort s.stopBefore

/-- A request for the candidate of a queue is outstanding. -/
def State.preempting (s : State) (q : Nat) : Bool := s.tasks.any fun e => e.2.stopFor == some q && e.2.asked

/-- The state after the first of the tasks whose stop helps, and is not refused, is asked to stop. -/
def State.stopFirst (s : State) (q : Nat) (k : Candidate) : List Nat → State
  | [] => s
  | t :: ts =>
    if s.stopHelps t k then
      match s.sendStop t forPreemption false with
      | some s => s.setTask t { s.task t with stopFor := some q }
      | none => s.stopFirst q k ts
    else s.stopFirst q k ts

/-- The state after the scheduler looks for a task to pre-empt for a queue (R304). -/
def State.preempt (s : State) (q : Nat) : State :=
  let s := s.settleUnfit q
  let x := s.queue q
  let due := (x.state == .ready || x.state == .drain) && 0 < x.deficit && (s.ctx x.ctx).state == .active && !s.preempting q &&
    x.unfit.any fun c => c.2 + 4096 ≤ s.cycle
  match if due then s.candidate q else none with
  | some k => s.stopFirst q k (s.victims q)
  | none => s

/-! ## Host launches and completion -/

/-- Party of the host (Table 0-2): unit 7, and client 0 also where a host write or AtomicOp is the producer.
[DESIGN CHOICE: notes/assumptions/98.md] -/
def hostParty (s : State) : Party := partyOf s.cardUsed 0 7 0

/-- The state with a timeline of a context incremented by the device at its home (R268): done, or waiting for its page. One that
cannot be reached is not incremented. -/
def State.incAt (s : State) (x : Access) (va : DWord) (who : Nat → Party) : Bool × State :=
  match s.translate x va with
  | (.ok pa _, s) => (true, if va &&& 7 == 0 then s.deviceInc pa (who pa) else s)
  | (.stall _, s) => (false, s)
  | (.trap _, s) => (true, s)

/-- The state after the dispatcher has observed the submit timeline above the host's count and accepted a launch (R298). -/
def State.acceptHost (s : State) (q : Nat) : State :=
  let x := s.queue q
  let a := s.dispatcherAccess x.ctx false jobHost q
  if x.state == .free then s
  else
    match s.devRead a x.subtl 1 with
    | (.ok ws, s1) =>
      if (ws.headD 0).toNat ≤ x.hostCount then s
      else
        match s1.devRead a (x.lwbase + BitVec.ofNat 64 (64 * (x.hostCount % max 1 x.lwlen))) 8 with
        | (.wait _, s1) => s1
        | (r, s1) =>
          match s1.translate (s1.dispatcherAccess x.ctx true jobHost q) x.acctl with
          | (.stall _, s1) => s1
          | (_, s1) =>
            match s1.acceptLaunch q (match r with | .ok rec => some rec | _ => none) (hostParty s1) none with
            | (.error _, s1) => s1
            | (.ok _, s1) =>
              let s1 := s1.setQueue q { s1.queue q with hostCount := x.hostCount + 1 }
              (s1.incAt (s1.dispatcherAccess x.ctx true jobHost q) x.acctl fun pa => dispatcherParty s1 (Config.homeDie pa)).2
    | (_, s1) => s1

/-- The state after a launch whose tasks are all complete has signalled it (R315, R437). -/
def State.completeLaunch (s : State) (l : Nat) : State :=
  match Assoc.get? s.launches l with
  | none => s
  | some x =>
    if x.faulted || x.undispatched || x.complete < x.count then s
    else
      let done (s : State) : State :=
        let q := s.queue x.queue
        { s.setQueue x.queue { q with launches := q.launches.filter fun k => k != l } with launches := Assoc.erase s.launches l }
      if x.donetl == 0 then done s
      else
        let who (pa : Nat) : Party := if x.count = 0 then dispatcherParty s (Config.homeDie pa) else x.lastParty
        match s.incAt (s.dispatcherAccess (s.queueCtx x.queue) true jobDone l) x.donetl who with
        | (true, s) => done s
        | (false, s) => s

/-! ## Meanings -/

/-- DISPATCH_CHOICE: one choice of R301. -/
def execDispatchChoice (s : State) : Result :=
  let s := s.settleQueues
  .next (((s.queues.map (·.1)).foldl State.settleUnfit s).chooseFrom [0, 1, 2, 3])

/-- PREEMPTION_TIMEOUT: for the candidate of queue `arg.queue`. -/
def execPreemptionTimeout (s : State) : Result := .next (s.preempt s.arg.queue.toNat)

/-- HOST_LAUNCH_ACCEPT: for queue `arg.queue`. -/
def execHostLaunchAccept (s : State) : Result := .next (s.acceptHost s.arg.queue.toNat)

/-- LAUNCH_COMPLETE: launch `arg.k`. -/
def execLaunchComplete (s : State) : Result := .next (s.completeLaunch s.arg.k)

end Sys2Proof.Machine
end

