-- ==== Sys2Proof/Machine/Controller.lean ====
section
/-! DEFINITION. What the management controller's commands share: which entry it serves next (R271, R295, R426), control words,
status and event timelines, aperture tables (R373), and frames returned to no owner (R150, R363). -/

namespace Sys2Proof.Machine

/-! ## Which command comes next -/

/-- Physical addresses of entries of the context and queue tables (R270, R294) and of the management block (R426).
[DESIGN CHOICE: notes/assumptions/4.md] -/
def State.ctxEntry (s : State) (c : Nat) : Nat := s.ctxtab + 512 * c
def State.queueEntry (s : State) (q : Nat) : Nat := s.qtab + 128 * q
/-- [DEDUCED: notes/assumptions/58.md] -/
def State.ctxWord (s : State) (c : Nat) : Nat := s.ctxEntry c + 256
/-- [DEDUCED: notes/assumptions/58.md] -/
def State.queueWord (s : State) (q : Nat) : Nat := s.queueEntry q + 64
def State.mcmdAt (s : State) : Nat := s.mgmttl + 16
def State.marg (s : State) (k : Nat) : DWord := s.mem.word (s.mgmttl + 24 + 8 * k)

/-- CMD of an entry's control word. -/
def State.ctxCmd (s : State) (c : Nat) : Nat := (s.mem.byte (s.ctxWord c)).toNat % 16
def State.queueCmd (s : State) (q : Nat) : Nat := (s.mem.byte (s.queueWord q)).toNat % 16
def State.mcmd (s : State) : Nat := (s.mem.byte s.mcmdAt).toNat

/-- An entry that the controller may serve. -/
inductive Command where
  | block
  | context (c : Nat)
  | queue (q : Nat)
  deriving DecidableEq, Repr

/-- The entry the controller serves next: the block's command, then contexts, then queues (R426). -/
def State.nextCommand (s : State) : Option Command :=
  if s.mcmd != 0 then some .block
  else
    match (List.range 64).find? fun c => s.ctxCmd c != 0 with
    | some c => some (.context c)
    | none => ((List.range 1024).find? fun q => s.queueCmd q != 0).map .queue

/-- The controller has seen an increment of the management timeline it has not finished serving. -/
def State.called (s : State) : Bool := s.booted && s.powered && s.mem.nat s.mgmttl 8 != s.mgmtServed

/-- The controller serves this entry now: with every image bad it serves only Stage (R431). -/
def State.serves (s : State) (c : Command) : Bool :=
  s.called && s.nextCommand == some c && (!s.recovery || c == .block)

/-- The state once nothing is left to serve for the increments seen. -/
def State.settleCalls (s : State) : State :=
  if s.nextCommand.isNone then { s with mgmtServed := s.mem.nat s.mgmttl 8 } else s

/-! ## Control words and timelines -/

/-- Codes of context and queue states (Tables 10-2, 11-2). -/
def CtxState.code : CtxState → Nat
  | .free => 0
  | .active => 1
  | .suspending => 2
  | .suspended => 3
  | .destroying => 4
def QState.code : QState → Nat
  | .free => 0
  | .idle => 1
  | .ready => 2
  | .drain => 3
  | .stopped => 4
  | .faulted => 5
  | .poisoned => 6

/-- The control word of a context, with a CMD (Table 10-2). -/
def Context.word (c : Context) (cmd : Nat) : DWord := BitVec.ofNat 64 (cmd + c.status * 2 ^ 8 + c.state.code * 2 ^ 16)

/-- The control word of a queue, with a CMD (Table 11-2). -/
def Queue.word (q : Queue) (cmd : Nat) : DWord :=
  BitVec.ofNat 64 (cmd + q.status * 2 ^ 8 + q.state.code * 2 ^ 16 + min q.passed 255 * 2 ^ 19 + (if q.frlost then 2 ^ 27 else 0)) |||
    (BitVec.ofInt 32 q.deficit).zeroExtend 64 <<< 32

/-- The state with a context's STATUS set and its control word written, CMD clear (R271). -/
def State.putCtxStatus (s : State) (c status : Nat) : State :=
  let s := s.setCtx c { s.ctx c with status }
  s.setHome (s.ctxWord c) 8 ((s.ctx c).word 0).toNat (controllerParty s)

/-- The state with a context's control word written again after a change of STATE, CMD kept. -/
def State.putCtxState (s : State) (c : Nat) : State :=
  s.setHome (s.ctxWord c) 8 ((s.ctx c).word (s.ctxCmd c)).toNat (controllerParty s)

/-- The state with a queue's STATUS set and its control word written, CMD clear (R295). -/
def State.putQueueStatus (s : State) (q status : Nat) : State :=
  let s := s.setQueue q { s.queue q with status }
  s.setHome (s.queueWord q) 8 ((s.queue q).word 0).toNat (controllerParty s)

/-- The state with a queue's control word written again, CMD kept. -/
def State.putQueueState (s : State) (q : Nat) : State :=
  s.setHome (s.queueWord q) 8 ((s.queue q).word (s.queueCmd q)).toNat (controllerParty s)

/-- The access of the controller in a context. -/
def State.controllerAccess (s : State) (c : Nat) (write : Bool) : Access :=
  { ctx := c, die := Config.homeDie (s.ctx c).ptroot.toNat, write, eng := true, party := controllerParty s, joined := .controller }

/-- The state after as many of a context's owed STATTL increments as its page allows (R271).
[DEDUCED: notes/assumptions/55.md] -/
def State.payStat (s : State) (c : Nat) : Nat → State
  | 0 => s
  | fuel + 1 =>
    if (s.ctx c).owed = 0 then s
    else
      match s.incAt (s.controllerAccess c true) (s.ctx c).stattl fun _ => controllerParty s with
      | (true, s) => (s.setCtx c { s.ctx c with owed := (s.ctx c).owed - 1 }).payStat c fuel
      | (false, s) => s

/-- The state with STATTL of a context incremented, or owed. [DEDUCED: notes/assumptions/55.md] -/
def State.incStat (s : State) (c : Nat) : State :=
  let s := s.setCtx c { s.ctx c with owed := (s.ctx c).owed + 1 }
  s.payStat c (s.ctx c).owed

/-- The state with EVTL incremented (R426). -/
def State.incEvtl (s : State) : State := s.deviceInc (s.mgmttl + 8) (controllerParty s)

/-- STATTL of a context may be incremented: it is not trusted while the context is Free, and its last increment has been made
once steps 1 to 6 of its Destroy are done (R271, R274). -/
def Context.trusted (c : Context) : Bool :=
  match c.state with
  | .active | .suspending | .suspended => true
  | .destroying => !c.torn
  | .free => false

/-- The state after a command of a context is done with a status (R271). -/
def State.doneCtx (s : State) (c status : Nat) : State :=
  let s := s.putCtxStatus c status
  (if (s.ctx c).trusted then s.incStat c else s).settleCalls

/-- The state after a command of a queue is done: its owning context's STATTL is incremented (R295). -/
def State.doneQueue (s : State) (q c status : Nat) : State :=
  let s := s.putQueueStatus q status
  (if (s.ctx c).trusted then s.incStat c else s).settleCalls

/-! ## Management commands (R426, R427) -/

/-- The state after the command of the management block is done: MSTAT written and MCMD clear, then EVTL. -/
def State.doneBlock (s : State) (status : Nat) : State :=
  (s.setHome s.mcmdAt 2 (status * 256) (controllerParty s)).incEvtl.settleCalls

/-- A command of the management block that `sel` picks is served when the controller comes to it. `act` gives its status and
the state, or nothing while it waits. In recovery only Stage is served (R431). [DEDUCED: notes/assumptions/52.md] -/
def State.serveBlock (s : State) (sel : State → Bool) (act : State → Option (Nat × State)) : State :=
  if s.serves .block && sel s then
    if s.recovery && s.mcmd != 8 then s.doneBlock 1
    else
      match act s with
      | some r => r.2.doneBlock r.1
      | none => s
  else s

/-! ## Frames (R150, R362, R363) -/

/-- The entries of a page table that are not zero, by index. -/
def State.tableEntries (s : State) (a : Nat) : List DWord :=
  let ks := (s.mem.filter fun e => a ≤ e.1 && e.1 < a + 65536).map fun e => (e.1 - a) / 8
  (ks.foldl (fun (l : List Nat) k => if l.head? == some k then l else k :: l) []).map fun k => s.mem.word (a + 8 * k)

/-- The leaves and blocks that a table of some level reaches: entry and log2 of the bytes it maps.
[DEDUCED: notes/assumptions/69.md] -/
def State.leavesOf (s : State) (a : Nat) : Nat → List (DWord × Nat)
  | 0 => []
  | n + 1 =>
    (s.tableEntries a).flatMap fun e =>
      if !pteP e then []
      else if pteLeaf e then [(e, 16 + 13 * n)]
      else s.leavesOf (ptePa e) n

/-- A frame's last mapping carries the zero-on-free attribute: a mapping of context `c` that covers it now, or the one that was
walked last (R363). [DEDUCED: notes/assumptions/69.md] -/
def State.frameZf (s : State) (c frame : Nat) : Bool :=
  s.zfs.contains frame ||
  (s.leavesOf (s.ctx c).ptroot.toNat 3).any fun e =>
    pteSpace e.1 == 0 && pteZf e.1 && ptePa e.1 / 65536 ≤ frame && frame < ptePa e.1 / 65536 + 2 ^ (e.2 - 16)

/-- The state with a frame zeroed: its sectors are whole, and copies of it are gone. -/
def State.clearFrame (s : State) (frame : Nat) : State :=
  let cut (l : List Sector) : List Sector := l.filter fun e => e.addr / 65536 != frame
  { s with
    mem := s.mem.clear (frame * 65536) 65536
    bad := s.bad.filter fun k => k / 2048 != frame
    cores := s.cores.map fun c => (c.1, { c.2 with l1 := cut c.2.l1 })
    dies := s.dies.map fun d => (d.1, { d.2 with rdc := cut d.2.rdc }) }

/-- The state with a frame freed: its owner none, and zeroed at once when its last mapping carried ZF (R363). -/
def State.freeFrame (s : State) (frame : Nat) (zf : Bool) : State :=
  let s := if zf then s.clearFrame frame else s
  { s with
    owners := Assoc.erase s.owners frame, zeroing := Assoc.erase s.zeroing frame, zfs := s.zfs.filter fun f => f != frame }

/-- The state with a frame claimed for a context whose walk has reached it: zeroed and owned by the context, unless it owns it or
the frame is shared (R362). -/
def State.claimNow (s : State) (c frame : Nat) : State :=
  if s.owned c frame then s
  else { s.clearFrame frame with owners := Assoc.set s.owners frame (.ctx c), zeroing := Assoc.erase s.zeroing frame }

/-! ## Aperture tables (R373) -/

/-- Bytes at a virtual address, read without service; none when a page is not present, not of space device, or bad. -/
def State.peekBytes (s : State) (c : Nat) (va : DWord) : Nat → Option (List Byte)
  | 0 => some []
  | n + 1 =>
    match s.peekMap c va with
    | some (pa, pte) =>
      if pteSpace pte != 0 || s.isBad pa 1 then none else (s.peekBytes c (va + 1) n).map fun l => s.mem.byte pa :: l
    | none => none

/-- A 256-bit entry is well formed when it is valid (Table 16-4). -/
def apertureOk (v : Nat) (import_ : Bool) : Bool :=
  v % 2 == 0 ||
  (v / 2 ^ 3 % 2 ^ 5 == 0 && v / 2 ^ 12 % 2 ^ 4 == 0 && v / 2 ^ 22 % 2 ^ 42 == 0 && v / 2 ^ 192 == 0 &&
    !(import_ && v / 4 % 2 == 1) && v / 2 ^ 64 % 2 ^ 64 != 0 && v / 2 ^ 64 % 2 ^ 16 == 0 && v / 2 ^ 128 % 2 ^ 16 == 0)

/-- The entry of 256 bits. -/
def apertureOf (v : Nat) : Aperture :=
  { valid := v % 2 == 1, w := v / 2 % 2 == 1, port := v / 4 % 2 == 1, card := BitVec.ofNat 4 (v / 2 ^ 8)
    ctx := BitVec.ofNat 6 (v / 2 ^ 16), size := BitVec.ofNat 64 (v / 2 ^ 64), tbase := BitVec.ofNat 64 (v / 2 ^ 128) }

/-- Entries of a table of 16, by number. -/
def apertureList (bs : List Byte) (k : Nat) : List Nat := (List.range 16).map fun i => leNat ((bs.drop (512 * k + 32 * i)).take 32)

/-- The state with the frames of the pages from `va` to `va + 1023` claimed for a context, as the walks of the read of its aperture
table claim them (R362). -/
def State.claimTable (s : State) (c : Nat) (va : DWord) : State :=
  if va == 0 then s
  else
    [va, va + 1023].foldl (fun (s : State) a =>
      match s.peekMap c a with
      | some (pa, pte) => if pteSpace pte == 0 then s.claimNow c (pa / 65536) else s
      | none => s) s

/-- The aperture and import entries that PAPT names, in the tables of context `c`; none when they cannot be read or one is
malformed (R373). -/
def State.loadApertures (s : State) (c : Nat) (papt : DWord) : Option (Assoc Aperture × Assoc Aperture) :=
  if papt == 0 then some ([], [])
  else
    match s.peekBytes c papt 1024 with
    | none => none
    | some bs =>
      let as := apertureList bs 0
      let is := apertureList bs 1
      if as.all (fun v => apertureOk v false) && is.all fun v => apertureOk v true then
        some (as.zipIdx.map fun e => (e.2, apertureOf e.1), is.zipIdx.map fun e => (e.2, apertureOf e.1))
      else none

end Sys2Proof.Machine
end

