-- ==== Sys2Proof/Machine/Contexts.lean ====
section
/-! DEFINITION. Context commands (R270 to R274, Table 10-3). -/

namespace Sys2Proof.Machine

/-! ## Descriptors (Table 10-1) -/

/-- The 32 words of a context's descriptor. -/
def State.descriptor (s : State) (c : Nat) : List DWord := s.mem.words (s.ctxEntry c) 32

/-- Reserved fields of a descriptor are zero (R2). [DEDUCED: notes/assumptions/54.md] -/
def descReservedOk (ws : List DWord) : Bool :=
  let f := bitsAt ws
  f 48 16 == 0 && f 150 42 == 0 && f 624 16 == 0 && f 768 1280 == 0

/-- The overflow table that a descriptor selects has no reserved entry (R45). -/
def descOvtOk (ws : List DWord) : Bool :=
  bitsAt ws 149 1 == 1 || (List.range 64).all fun k => ovfEntry (BitVec.ofNat 128 (bitsAt ws 192 128)) k != 3

/-- The status of a descriptor (Table 10-2); Create checks the fields that Update ignores. -/
def descStatus (ws : List DWord) (create : Bool) : Nat :=
  let f := bitsAt ws
  if !descReservedOk ws || !descOvtOk ws || (create && f 512 16 == 0) then 2
  else if create && (f 0 16 != 0 || f 64 6 != 0 || f 448 16 != 0) then 3
  else if create && f 528 16 < 29 then 4
  else if f 320 2 != 0 then 5
  else 0

/-- The overflow table of a descriptor (R45). -/
def descOvf (ws : List DWord) : BitVec 128 :=
  if bitsAt ws 149 1 == 1 then defaultOvf else BitVec.ofNat 128 (bitsAt ws 192 128)

/-- The fields that Create and Update load. -/
def Context.reload (c : Context) (ws : List DWord) (as is : Assoc Aperture) : Context :=
  let f := bitsAt ws
  { c with
    modes := BitVec.ofNat 5 (f 144 5), odef := f 149 1 == 1, ovt := BitVec.ofNat 128 (f 192 128), ovf := descOvf ws
    tvec := BitVec.ofNat 64 (f 320 64), trapmask := BitVec.ofNat 64 (f 384 64), taskmax := f 544 16, qmax := f 560 16
    runlim := f 576 32, carvemax := f 608 16, papt := BitVec.ofNat 64 (f 640 64), apertures := as, imports := is }

/-- The fields that only Create loads. -/
def contextOf (ws : List DWord) : Context :=
  let f := bitsAt ws
  { state := .active, ptroot := BitVec.ofNat 64 (f 0 48), rtbase := BitVec.ofNat 64 (f 64 64), rtlen := f 128 16
    savebase := BitVec.ofNat 64 (f 448 64), savecnt := f 512 16, savesz := f 528 16, stattl := BitVec.ofNat 64 (f 704 64) }

/-! ## Commands -/

/-- Create (Table 10-3): STATUS, and the state with the context loaded. -/
def State.createCtx (s : State) (c : Nat) : Nat × State :=
  let ws := s.descriptor c
  if (s.ctx c).state != .free then (1, s)
  else if descStatus ws true != 0 then (descStatus ws true, s)
  else
    let papt := BitVec.ofNat 64 (bitsAt ws 640 64)
    let s' := (s.setCtx c (contextOf ws)).claimTable c papt
    match s'.loadApertures c papt with
    | some (as, is) => (0, s'.setCtx c ((contextOf ws).reload ws as is))
    | none => (2, s'.setCtx c (s.ctx c))

/-- Update (Table 10-3): checked whole before anything is loaded. -/
def State.updateCtx (s : State) (c : Nat) : Nat × State :=
  let ws := s.descriptor c
  if (s.ctx c).state != .active then (1, s)
  else if descStatus ws false != 0 then (descStatus ws false, s)
  else
    let papt := BitVec.ofNat 64 (bitsAt ws 640 64)
    let s' := s.claimTable c papt
    match s'.loadApertures c papt with
    | some (as, is) => (0, s'.setCtx c ((s'.ctx c).reload ws as is))
    | none => (2, s')

/-- The tasks of a context placed on the device. -/
def State.placedTasks (s : State) (c : Nat) : List Nat := (s.tasks.filter fun e => e.2.ctx == c && e.2.placedNow).map (·.1)

/-- The state with a stop request sent to every task of a list; one that is refused is asked for again (R290). -/
def State.stopAll (s : State) (k : BitVec 6) (ts : List Nat) : State :=
  ts.foldl (fun (s : State) t => (s.sendStop t k false).getD s) s

/-- Suspend (Table 10-3). -/
def State.suspendCtx (s : State) (c : Nat) : Nat × State :=
  if (s.ctx c).state != .active then (1, s)
  else
    let s := s.setCtx c { s.ctx c with state := .suspending }
    (0, s.stopAll forSuspend ((s.placedTasks c).filter fun t => (s.members t).head? == some t))

/-- Resume (Table 10-3). -/
def State.resumeCtx (s : State) (c : Nat) : Nat × State :=
  if (s.ctx c).state != .suspended then (1, s) else (0, s.setCtx c { s.ctx c with state := .active })

/-! ## Destroy (R274) -/

/-- An X or H access of the context is in flight. -/
def State.linkBusy (s : State) (c : Nat) : Bool := s.reqs.any fun q => q.2.ctx == c

/-- The state without a queue: its launches go with it, and no task is charged to it any more (R302). -/
def State.eraseQueue (s : State) (q : Nat) : State :=
  { s with
    queues := Assoc.erase s.queues q, launches := s.launches.keep fun _ l => l.queue != q
    tasks := s.tasks.map fun t => if t.2.queue == q then (t.1, { t.2 with queue := 1024 }) else t }

/-- The queues of a context. -/
def State.queuesOf (s : State) (c : Nat) : List Nat := (s.queues.filter fun e => e.2.ctx == c && e.2.state != .free).map (·.1)

/-- The saved tasks for which a test holds, one of each group. -/
def State.savedWhere (s : State) (f : Task → Bool) : List Nat :=
  (s.tasks.filter fun e => e.2.life == .saved && f e.2 && (s.members e.1).head? == some e.1).map (·.1)

/-- The state with the groups of saved tasks discarded. -/
def State.discardSaved (s : State) (ts : List Nat) : State :=
  ts.foldl (fun (s : State) t => (s.members t).foldl State.discardTask s) s

/-- The state with tasks asked to stop so as to be discarded (R274, R307). [DEDUCED: notes/assumptions/53.md] -/
def State.discardPlaced (s : State) (ts : List Nat) : State := ts.foldl (fun (s : State) t => (s.sendStop t 0 true).getD s) s

/-- The command of Destroy (R274): the context is Destroying, its queues cease to exist, its tasks are asked to stop without an
image and its saved images are discarded; what is queued for the front end is gone. -/
def State.startDestroy (s : State) (c : Nat) : State :=
  let s := (s.setCtx c { s.ctx c with state := .destroying, torn := false }).putCtxState c
  let s := (s.queuesOf c).foldl (fun (s : State) q => (s.eraseQueue q).putQueueState q) s
  let s := s.discardSaved (s.savedWhere fun t => t.ctx == c)
  s.discardPlaced (s.placedTasks c)

/-- What steps 2, 3 and 5 of R274 wait for: the context's tasks have stopped, its commands in the matrix arrays and its runs have
come to a boundary, and no access of it over a link is in flight. -/
def State.destroyable (s : State) (c : Nat) : Bool :=
  (s.placedTasks c).isEmpty && !s.linkBusy c &&
  s.tasks.all (fun e => e.2.ctx != c || !((s.matCmds e.1).any fun m => m.hd.started)) &&
  s.dies.all fun d => d.2.active.all fun r => r.2.ctx != c || r.2.atFrame

/-- Steps 3 to 6 of R274: commands that are left, runs, walks, timeline waits and residency entries of the context go. -/
def State.tearDown (s : State) (c : Nat) : State :=
  let s := ((s.tasks.filter fun e => e.2.ctx == c).map (·.1)).foldl State.discardTask s
  { s with
    cores := s.cores.map fun k => (k.1, { k.2 with residency := k.2.residency.map fun e => (e.1, if e.2.ctx == c then {} else e.2) })
    dies := s.dies.map fun d => (d.1, { d.2 with
      runs := d.2.runs.map fun r => (r.1, r.2.filter fun x => x.ctx != c)
      active := d.2.active.filter fun r => r.2.ctx != c
      walks := d.2.walks.filter fun w => w.ctx != c })
    zeroing := s.zeroing.keep fun _ o => o != c }

/-- Destroy goes on: once everything of the context has stopped, steps 1 to 6 are done; STATUS follows them, and STATTL
(Table 10-3). -/
def State.goDestroy (s : State) (c : Nat) : State :=
  if s.destroyable c then
    let s := (s.tearDown c).doneCtx c 0
    s.setCtx c { s.ctx c with torn := true }
  else s

/-- Destroy is at work on steps 1 to 6 of a context. -/
def Context.dying (c : Context) : Bool := c.state == .destroying && !c.torn

/-- Destroy (Table 10-3). -/
def State.destroyCtx (s : State) (c : Nat) : State :=
  match (s.ctx c).state with
  | .active | .suspending | .suspended => (s.startDestroy c).goDestroy c
  | _ => s.doneCtx c 1

/-- Steps 7 and 8 of R274: frames freed, those with the zero-on-free attribute zeroed, and cached translations, records and
remote lines dropped; the context is Free. -/
def State.finishCtx (s : State) (c : Nat) : State :=
  let fs := (s.owners.filter fun e => e.2 == .ctx c).map (·.1)
  let zs := fs.filter fun f => s.frameZf c f
  let s := fs.foldl (fun (s : State) f => s.freeFrame f (zs.contains f)) s
  let cutTlb (l : List TlbEntry) : List TlbEntry := l.filter fun e => e.ctx != c
  let s := { s with
    cores := s.cores.map fun (k : Nat × Core) => (k.1, { k.2 with tlb := cutTlb k.2.tlb })
    hoops := s.hoops.map fun (h : Nat × Hoop) => (h.1, { h.2 with record := h.2.record.filter fun e => e.ctx != c })
    dies := s.dies.map fun (d : Nat × Die) => (d.1, { d.2 with tlb := cutTlb d.2.tlb, rdc := d.2.rdc.filter fun e => e.ctx != c }) }
  (s.setCtx c { status := (s.ctx c).status }).putCtxState c

/-! ## Meanings -/

/-- A context command with its code: served when the controller comes to its entry. -/
def State.serveCtx (s : State) (code : Nat → Bool) (act : State → Nat → State) : State :=
  let c := s.arg.ctx.toNat
  if s.serves (.context c) && code (s.ctxCmd c) then act s c else s

/-- CONTEXT_CREATE: context `arg.ctx`. A refused Create increments no timeline. No context becomes Active before the card has
loaded its cycle counter (R379): until then the command waits. [DEDUCED: notes/assumptions/71.md] -/
def execContextCreate (s : State) : Result :=
  .next (s.serveCtx (· == 1) fun s c =>
    let r := s.createCtx c
    if r.1 = 0 && !s.timed then s else r.2.doneCtx c r.1)

/-- CONTEXT_UPDATE: context `arg.ctx`; with it the reserved codes, which change nothing (Table 10-3). -/
def execContextUpdate (s : State) : Result :=
  .next (s.serveCtx (fun k => k == 2 || 5 < k) fun s c =>
    let r := if s.ctxCmd c == 2 then s.updateCtx c else (2, s)
    r.2.doneCtx c r.1)

/-- CONTEXT_SUSPEND: context `arg.ctx`. -/
def execContextSuspend (s : State) : Result :=
  .next (s.serveCtx (· == 3) fun s c => let r := s.suspendCtx c; r.2.doneCtx c r.1)

/-- CONTEXT_SUSPENDED: the last task of context `arg.ctx` has been saved. -/
def execContextSuspended (s : State) : Result :=
  let c := s.arg.ctx.toNat
  .next (if (s.ctx c).state == .suspending && (s.placedTasks c).isEmpty then
    ((s.setCtx c { s.ctx c with state := .suspended }).putCtxState c).incStat c else s)

/-- CONTEXT_RESUME: context `arg.ctx`. -/
def execContextResume (s : State) : Result :=
  .next (s.serveCtx (· == 4) fun s c => let r := s.resumeCtx c; r.2.doneCtx c r.1)

/-- CONTEXT_DESTROY: context `arg.ctx`; the command is served, and goes on until what belongs to the context has stopped. -/
def execContextDestroy (s : State) : Result :=
  let c := s.arg.ctx.toNat
  .next (if (s.ctx c).dying then s.goDestroy c else s.serveCtx (· == 5) State.destroyCtx)

/-- CONTEXT_DESTROY_FINISH: context `arg.ctx`, once its STATTL increment is made. -/
def execContextDestroyFinish (s : State) : Result :=
  let c := s.arg.ctx.toNat
  .next (if (s.ctx c).state == .destroying && (s.ctx c).torn then
    let s := s.payStat c (s.ctx c).owed
    if (s.ctx c).owed = 0 then (s.finishCtx c).incEvtl else s
  else s)

end Sys2Proof.Machine
end

