-- ==== Sys2Proof/Machine/QueueCmds.lean ====
section
/-! DEFINITION. Queue commands (R294 to R296, R305 to R307, Table 11-3). -/

namespace Sys2Proof.Machine

/-- The eight words of a queue's descriptor. -/
def State.queueDesc (s : State) (q : Nat) : List DWord := s.mem.words (s.queueEntry q) 8

/-- Reserved values of a queue descriptor (Table 11-1). [DEDUCED: notes/assumptions/54.md] -/
def queueReservedOk (ws : List DWord) : Bool :=
  let f := bitsAt ws
  f 6 2 == 0 && f 11 5 == 0 && f 32 32 == 0 && f 144 48 == 0 && f 448 64 == 0 && f 16 8 != 0 && f 128 16 != 0

/-- Misaligned addresses of a queue descriptor. -/
def queueAligned (ws : List DWord) : Bool :=
  let f := bitsAt ws
  f 64 6 == 0 && f 192 3 == 0 && f 256 3 == 0 && f 320 12 == 0 && f 384 12 == 0

/-- The queue of a descriptor as Create leaves it. -/
def newQueue (ws : List DWord) : Queue :=
  let f := bitsAt ws
  { state := .idle, ctx := f 0 6, prio := f 8 2, supv := f 10 1 == 1, weight := f 16 8, agelim := f 24 8
    lwbase := BitVec.ofNat 64 (f 64 64), lwlen := f 128 16, subtl := BitVec.ofNat 64 (f 192 64)
    acctl := BitVec.ofNat 64 (f 256 64), faulta := BitVec.ofNat 64 (f 320 64), rpta := BitVec.ofNat 64 (f 384 64) }

/-- The context of a queue command: the queue's own, or the descriptor's while it is Free. -/
def State.ownerOf (s : State) (q : Nat) : Nat :=
  if (s.queue q).state == .free then bitsAt (s.queueDesc q) 0 6 else (s.queue q).ctx

/-- Create (Table 11-3). -/
def State.createQueue (s : State) (q : Nat) : Nat × State :=
  let ws := s.queueDesc q
  let x := newQueue ws
  let c := s.ctx x.ctx
  if (s.queue q).state != .free then (1, s)
  else if !queueReservedOk ws then (2, s)
  else if !queueAligned ws then (3, s)
  else if c.state != .active || (if c.qmax = 0 then 1024 else c.qmax) ≤ (s.queuesOf x.ctx).length then (4, s)
  else (0, s.setQueue q x)

/-- Update (R295). -/
def State.updateQueue (s : State) (q : Nat) : Nat × State :=
  let n := newQueue (s.queueDesc q)
  if (s.queue q).state == .free then (1, s)
  else if n.weight = 0 then (2, s)
  else (0, s.setQueue q { s.queue q with prio := n.prio, weight := n.weight, agelim := n.agelim })

/-- Stop (Table 11-3). -/
def State.stopQueue (s : State) (q : Nat) : Nat × State :=
  match (s.queue q).state with
  | .idle | .ready | .drain => (0, s.setQueue q { s.queue q with state := .stopped })
  | _ => (1, s)

/-- The state with the undispatched tasks of a launch discarded: it never completes. -/
def State.dropLaunch (s : State) (l : Nat) : State :=
  let x := s.launch l
  s.setLaunch l { x with faulted := true, count := x.next, ahead := [] }

/-- Restart (Table 11-3): the faulted launch's undispatched and saved tasks are discarded, and FRLOST is cleared (Table 11-2). -/
def State.restartQueue (s : State) (q : Nat) : Nat × State :=
  let x := s.queue q
  let go (s : State) : State := (s.setQueue q { s.queue q with state := .idle, unfit := none, frlost := false }).settleQueue q
  match x.state with
  | .stopped => (0, go s)
  | .faulted =>
    let bad := x.launches.filter fun l => (s.launch l).faulted
    let s := bad.foldl State.dropLaunch s
    let s := s.discardSaved (s.savedWhere fun t => t.queue == q && (s.launch t.launch).faulted)
    let lost := (bad.map fun l => (s.launch l).donetl).filter fun a => a != 0
    (0, go (s.setQueue q { s.queue q with
      badLaunch := none, launches := x.launches.filter fun l => !bad.contains l, lost := x.lost ++ lost }))
  | _ => (1, s)

/-- The completion timelines of a queue's accepted launches that have not signalled (R306). -/
def State.unsignalled (s : State) (q : Nat) : List DWord :=
  (s.queue q).lost ++ ((s.queue q).launches.map fun l => (s.launch l).donetl).filter fun a => a != 0

/-- The state with timelines poisoned (R306 step 2), or the wait for a page of one. [DEDUCED: notes/assumptions/56.md] -/
def State.poisonDone (s : State) (q : Nat) : List DWord → Bool × State
  | [] => (true, s)
  | a :: as =>
    match s.translate (s.dispatcherAccess (s.queueCtx q) true jobPoison q) a with
    | (.ok pa _, s) => (s.poison pa).poisonDone q as
    | (.stall _, s) => (false, s)
    | (.trap _, s) => s.poisonDone q as

/-- Poison (R306); it waits while the page of a completion timeline is not present. [DEDUCED: notes/assumptions/56.md] -/
def State.poisonQueue (s : State) (q c : Nat) : State :=
  if (s.queue q).state == .free then s.doneQueue q c 1
  else
    match s.poisonDone q (s.unsignalled q) with
    | (false, s) => s
    | (true, s) =>
      let s := (s.queue q).launches.foldl State.dropLaunch s
      let s := s.discardSaved (s.savedWhere fun t => t.queue == q)
      (s.setQueue q { s.queue q with state := .poisoned, launches := [], lost := [] }).doneQueue q c 0

/-- The tasks of a queue still on the device. -/
def State.queueTasks (s : State) (q : Nat) : List Nat := (s.tasks.filter fun e => e.2.queue == q && e.2.placedNow).map (·.1)

/-- Destroy (R307): resident tasks are asked to stop without an image, saved tasks and launches are discarded; the command is
completed by QUEUE_DESTROY_FINISH, so its CMD stays until then. -/
def State.destroyQueue (s : State) (q : Nat) : State :=
  let s := s.setQueue q { s.queue q with destroying := true }
  let s := (s.queue q).launches.foldl State.dropLaunch s
  let s := s.discardSaved (s.savedWhere fun t => t.queue == q)
  s.discardPlaced (s.queueTasks q)

/-! ## Meanings -/

/-- A queue command with its code: served when the controller comes to its entry. One that a Destroy is still at work on is not
served again. -/
def State.serveQueueCmd (s : State) (code : Nat → Bool) (act : State → Nat → Nat → State) : State :=
  let q := s.arg.queue.toNat
  if s.serves (.queue q) && code (s.queueCmd q) && !(s.queue q).destroying then act s q (s.ownerOf q) else s

/-- QUEUE_CREATE: queue `arg.queue`. -/
def execQueueCreate (s : State) : Result :=
  .next (s.serveQueueCmd (· == 1) fun s q c => let r := s.createQueue q; r.2.doneQueue q c r.1)

/-- QUEUE_UPDATE: queue `arg.queue`; with it the reserved codes. -/
def execQueueUpdate (s : State) : Result :=
  .next (s.serveQueueCmd (fun k => k == 2 || 6 < k) fun s q c =>
    let r := if s.queueCmd q == 2 then s.updateQueue q else (2, s)
    r.2.doneQueue q c r.1)

/-- QUEUE_STOP: queue `arg.queue`. -/
def execQueueStop (s : State) : Result :=
  .next (s.serveQueueCmd (· == 3) fun s q c => let r := s.stopQueue q; r.2.doneQueue q c r.1)

/-- QUEUE_RESTART: queue `arg.queue`. -/
def execQueueRestart (s : State) : Result :=
  .next (s.serveQueueCmd (· == 4) fun s q c => let r := s.restartQueue q; r.2.doneQueue q c r.1)

/-- QUEUE_POISON: queue `arg.queue`. -/
def execQueuePoison (s : State) : Result := .next (s.serveQueueCmd (· == 5) State.poisonQueue)

/-- QUEUE_DESTROY: queue `arg.queue`. -/
def execQueueDestroy (s : State) : Result :=
  .next (s.serveQueueCmd (· == 6) fun s q c => if (s.queue q).state == .free then s.doneQueue q c 1 else s.destroyQueue q)

/-- QUEUE_DESTROY_FINISH: the last task of queue `arg.queue` has stopped; the queue is Free. -/
def execQueueDestroyFinish (s : State) : Result :=
  let q := s.arg.queue.toNat
  .next (if (s.queue q).destroying && (s.queueTasks q).isEmpty then (s.eraseQueue q).doneQueue q (s.queue q).ctx 0 else s)

end Sys2Proof.Machine
end

