-- ==== Sys2Proof/Machine/Links.lean ====
section
/-! DEFINITION. The states of the three ports (R371, R378, R380), outstanding requests that fail, and the time of the card
(R379). Ports are numbered host 0, peer 1 and 2. -/

namespace Sys2Proof.Machine

/-! ## Requests that fail -/

/-- The state after request `k` has failed (R378): its strand takes the link fault when it issues again. -/
def State.failReq (s : State) (k : Nat) (q : LinkReq) : State :=
  if (s.task q.strand.task).life == .saved then s.imageLink k q .abort
  else
    let s := s.answerLink k q .abort
    if s.canResume q.strand then s.wake q.strand else s

/-- The state after every outstanding request of a port has failed. -/
def State.failPort (s : State) (p : Nat) : State :=
  (s.reqs.filter fun e => e.2.port == p).foldl (fun (s : State) e => s.failReq e.1 e.2) s

/-! ## States of a port (Table 16-5) -/

/-- The port trains. -/
def State.portTraining (s : State) (p : Nat) : Bool :=
  match (s.port p).state with
  | .training | .retrain => true
  | _ => false

/-- The port that leads toward card 0 (R379). [DEDUCED: notes/assumptions/71.md] -/
def State.timingPort (s : State) : Nat := if s.cardUsed == 0 then 0 else 1

/-- The state with SYNC clear when the timing path is Down. [DEDUCED: notes/assumptions/71.md] -/
def State.checkTiming (s : State) : State := if (s.port s.timingPort).state == .down then { s with sync := false } else s

/-- The state with a port Down: its outstanding accesses fail. -/
def State.portDown (s : State) (p : Nat) : State :=
  ((s.setPort p { corr := (s.port p).corr, uncorr := (s.port p).uncorr }).failPort p).checkTiming

/-- The state with a port that begins to train. -/
def State.startTraining (s : State) (p : Nat) : State :=
  s.setPort p { s.port p with state := .training, width := 0, since := s.cycle }

/-- The state with a port in Retrain; outstanding accesses wait. -/
def State.retrain (s : State) (p : Nat) : State := s.setPort p { s.port p with state := .retrain, width := 0, since := s.cycle }

/-- R371 lets a peer port train: CNV is 1 on both sides and the numbers differ. -/
def State.mayTrain (s : State) (partner : BitVec 4) (valid : Bool) : Bool := s.cnv && valid && partner != s.cardno

/-- Lanes a port may train at. -/
def legalWidth (w : BitVec 5) : Bool := [1, 2, 4, 8, 16].contains w.toNat

/-- The state of a port trained at a width. [DEDUCED: notes/assumptions/70.md] -/
def trainedState (w : BitVec 5) : LinkState := if w == 16 then .up else .degraded

/-- The state after a port has trained: a peer port takes its role, and CARDNO takes effect (R370, R371).
[DEDUCED: notes/assumptions/70.md] -/
def State.trained (s : State) (p : Nat) (w : BitVec 5) (partner : BitVec 4) (valid : Bool) : State :=
  let x := s.port p
  match x.state with
  | .training =>
    if p == 0 then s.setPort p { x with state := trainedState w, width := w }
    else if s.mayTrain partner valid then
      ({ s with cardUsed := s.cardno }.setPort p { x with
        state := trainedState w, width := w, role := s.cardno < partner, card := s.cardno, pcard := partner }).checkTiming
    else s.portDown p
  | .retrain => s.setPort p { x with state := trainedState w, width := w }
  | _ => s

/-- An error counter plus one, saturating. -/
def satErrors (n : Nat) : Nat := min (n + 1) 65535

/-! ## Time (R379) -/

/-- The counter is within 16 cycles of a time. -/
def nearTime (c t : Nat) : Bool := c ≤ t + 16 && t ≤ c + 16

/-- The state with the counter slewed toward a time, by at most one cycle per 1,024: it gains one, or stands for the next one. -/
def State.slew (s : State) (t : Nat) : State :=
  if s.cycle < s.slewAt + 1024 then s
  else if s.cycle < t then { s with cycle := s.cycle + 1, slewAt := s.cycle }
  else if t < s.cycle then { s with lag := 1, slewAt := s.cycle }
  else s

/-- The state after the card has received PTM time: the counter is loaded once before any context is Active, and only slewed later.
-/
def State.receiveTime (s : State) (t : Nat) : State :=
  if !s.portOpen s.timingPort then s
  else if !s.timed && s.contexts.all fun c => c.2.state == .free then { s with cycle := t, timed := true, sync := true }
  else
    let s := s.slew t
    { s with sync := s.sync || nearTime s.cycle t }

/-! ## Meanings -/

/-- The arguments of the link command are within their limits (Table 19-2). -/
def State.linkArgsOk (s : State) : Bool := (s.marg 0).toNat ≤ 2 && (s.marg 1).toNat ≤ 2

/-- The link command with an action code. -/
def State.linkCommand (s : State) (k : Nat) : Bool := s.mcmd == 7 && s.linkArgsOk && (s.marg 1).toNat == k

/-- LINK_DISABLE; with it the link commands whose arguments break their limits, which set MSTAT 2. -/
def execLinkDisable (s : State) : Result :=
  .next (s.serveBlock (fun s => s.linkCommand 0 || (s.mcmd == 7 && !s.linkArgsOk)) fun s =>
    some (if s.linkArgsOk then (0, s.portDown (s.marg 0).toNat) else (2, s)))

/-- LINK_ENABLE: a Down port begins to train; another one refuses. -/
def execLinkEnable (s : State) : Result :=
  .next (s.serveBlock (·.linkCommand 1) fun s =>
    let p := (s.marg 0).toNat
    some (if (s.port p).state == .down then (0, s.startTraining p) else (1, s)))

/-- LINK_RETRAIN: a port that is Up or Degraded trains again; another one refuses. -/
def execLinkRetrain (s : State) : Result :=
  .next (s.serveBlock (·.linkCommand 2) fun s =>
    let p := (s.marg 0).toNat
    some (if s.portOpen p then (0, s.retrain p) else (1, s)))

/-- LINK_TRAINED: port `arg.port` has trained at `arg.width` lanes with card `arg.partner`, whose CNV is `arg.pass`. -/
def execLinkTrained (s : State) : Result :=
  .next (if s.arg.port.toNat ≤ 2 && legalWidth s.arg.width then
    s.trained s.arg.port.toNat s.arg.width s.arg.partner s.arg.pass else s)

/-- LINK_TRAINING_TIMEOUT: port `arg.port` has not trained within 100 ms, or R371 forbids it, given the partner's number
`arg.partner` and CNV `arg.pass`. -/
def execLinkTrainingTimeout (s : State) : Result :=
  let p := s.arg.port.toNat
  let x := s.port p
  let late := x.since + 120000000 ≤ s.cycle
  let forbidden := p != 0 && x.state == .training && !s.mayTrain s.arg.partner s.arg.pass
  .next (if p ≤ 2 && s.portTraining p && (late || forbidden) then s.portDown p else s)

/-- LINK_UNCORRECTABLE_ERROR: on port `arg.port`. -/
def execLinkUncorrectableError (s : State) : Result :=
  let p := s.arg.port.toNat
  .next (if s.portOpen p then
    ((s.retrain p).setPort p { (s.retrain p).port p with uncorr := satErrors (s.port p).uncorr }).failPort p else s)

/-- SURPRISE_REMOVAL: of the partner of port `arg.port`. -/
def execSurpriseRemoval (s : State) : Result := .next (if s.arg.port.toNat ≤ 2 then s.portDown s.arg.port.toNat else s)

/-- COMPLETION_TIMEOUT: of request `arg.k`, 1,200,000 cycles after it left (Table 16-1). -/
def execCompletionTimeout (s : State) : Result :=
  .next (match Assoc.get? s.reqs s.arg.k with
    | some q => if q.since + 1200000 ≤ s.cycle then s.failReq s.arg.k q else s
    | none => s)

/-- LINK_CORRECTABLE_ERROR: on port `arg.port`. -/
def execLinkCorrectableError (s : State) : Result :=
  let p := s.arg.port.toNat
  .next (if p ≤ 2 && (s.port p).state != .down then s.setPort p { s.port p with corr := satErrors (s.port p).corr } else s)

/-- PTM_TIME_UPDATE: the time is `arg.time`. -/
def execPtmTimeUpdate (s : State) : Result := .next (s.receiveTime s.arg.time.toNat)

end Sys2Proof.Machine
end

