-- ==== Sys2Proof/Machine/Management.lean ====
section
/-! DEFINITION. The other commands of the management block (R427), throttle states (R428, R429), soft errors (R19), boot and
attestation (R431), firmware (R432), and hoops (R433). -/

namespace Sys2Proof.Machine

/-! ## Device modes, timelines, frames, trace -/

/-- The low 16 bits of a value from bit `lo` as a temperature in 1/16 °C. [DEDUCED: notes/assumptions/66.md] -/
def degrees (x : DWord) (lo : Nat) : Int := (x.extractLsb' lo 16).toInt

/-- THRESHOLDS; with it the codes that are no command, which set MSTAT 2 (R427). [DEDUCED: notes/assumptions/66.md] -/
def execThresholds (s : State) : Result :=
  .next (s.serveBlock (fun s => s.mcmd == 1 || 10 < s.mcmd) fun s =>
    let lo := degrees (s.marg 0) 0
    let hi := degrees (s.marg 0) 16
    some (if s.mcmd == 1 && lo < hi && hi ≤ 1760 then (0, { s with tmig := lo, tclamp := hi }) else (2, s)))

/-- DEVICE_MODES: the migration mode is read at throttle-state transitions, the staging mode from the next switch on (R17). -/
def execDeviceModes (s : State) : Result :=
  .next (s.serveBlock (·.mcmd == 2) fun s =>
    some (0, { s with thermalHost := (s.marg 0).getLsbD 0, stagingNext := (s.marg 0).getLsbD 1 }))

/-- The Poison command (R351, Table 19-2): status and state. -/
def State.poisonCommand (s : State) : Nat × State :=
  let a := s.marg 0
  let c := (s.marg 1).toNat
  if a &&& 7 != 0 || !canonical a || 64 ≤ c then (2, s)
  else if (s.ctx c).state != .active then (1, s)
  else
    match s.peekMap c a with
    | some (pa, pte) => if pteSpace pte == 0 then (0, s.poison pa) else (2, s)
    | none => (2, s)

/-- TIMELINE_POISON_COMMAND. -/
def execTimelinePoisonCommand (s : State) : Result := .next (s.serveBlock (·.mcmd == 3) fun s => some s.poisonCommand)

/-- The arguments of the frame-owner command are within their limits. -/
def State.frameArgsOk (s : State) : Bool :=
  (s.marg 0).toNat % 65536 == 0 && (s.marg 0).toNat < 2 ^ 39 && (s.marg 1).toNat ≤ 2

/-- The frame that the command names. -/
def State.argFrame (s : State) : Nat := (s.marg 0).toNat / 65536

/-- The last mapping of a frame carries the zero-on-free attribute, as its owner's tables have it (R363). -/
def State.ownerZf (s : State) (frame : Nat) : Bool :=
  match s.owner frame with
  | .ctx c => s.frameZf c frame
  | .shared => s.contexts.any fun e => e.2.trusted && s.frameZf e.1 frame
  | .none => false

/-- The state with a frame given an owner; a claim of it in progress ends. -/
def State.setOwner (s : State) (frame : Nat) (o : Owner) : State :=
  { s with owners := Assoc.set s.owners frame o, zeroing := Assoc.erase s.zeroing frame }

/-- The frame-owner command with an action code. -/
def State.frameCommand (s : State) (k : Nat) : Bool := s.mcmd == 4 && s.frameArgsOk && (s.marg 1).toNat == k

/-- FRAME_OWNER_NONE; with it the frame-owner commands whose arguments break their limits. -/
def execFrameOwnerNone (s : State) : Result :=
  .next (s.serveBlock (fun s => s.frameCommand 0 || (s.mcmd == 4 && !s.frameArgsOk)) fun s =>
    some (if s.frameArgsOk then (0, s.freeFrame s.argFrame (s.ownerZf s.argFrame)) else (2, s)))

/-- FRAME_OWNER_SHARED. -/
def execFrameOwnerShared (s : State) : Result :=
  .next (s.serveBlock (·.frameCommand 1) fun s => some (0, s.setOwner s.argFrame .shared))

/-- The state with a frame assigned to a context, zeroed first unless it is the context's already or shared (R362). -/
def State.assignFrame (s : State) (frame c : Nat) : State :=
  (if s.owned c frame then s else s.clearFrame frame).setOwner frame (.ctx c)

/-- FRAME_OWNER_CONTEXT. -/
def execFrameOwnerContext (s : State) : Result :=
  .next (s.serveBlock (·.frameCommand 2) fun s => some (0, s.assignFrame s.argFrame (bitsOf (s.marg 2) 0 6)))

/-- The trace-ring command (R422): a ring of 2^MARG1 bytes at an aligned base in memory. A ring at another place or of another
size starts empty. [DEDUCED: notes/assumptions/65.md] -/
def State.setTrace (s : State) : Nat × State :=
  let base := (s.marg 0).toNat
  let n := (s.marg 1).toNat
  if n < 24 || 32 < n || base % 2 ^ n != 0 || 2 ^ 39 < base + 2 ^ n then (2, s)
  else
    let same := s.traceBase == base && s.traceSize == 2 ^ n
    let s := { s with traceBase := base, traceSize := 2 ^ n, traceMask := s.marg 2 }
    (0, if same then s else { s with wptr := 0, mem := s.mem.clear base 24 })

/-- TRACE_RING. [DEDUCED: notes/assumptions/65.md] -/
def execTraceRing (s : State) : Result := .next (s.serveBlock (·.mcmd == 5) fun s => some s.setTrace)

/-! ## Hoops (R433) -/

/-- The state with HOFF of the management block as the hoops are (Table 19-1). -/
def State.putHoff (s : State) : State :=
  s.setHome (s.mgmttl + 64) 32 ((s.hoops.map fun h => if h.2.offline then 2 ^ h.1 else 0).sum) (controllerParty s)

/-- The tasks placed on a hoop. [DEDUCED: notes/assumptions/74.md] -/
def State.hoopTasks (s : State) (h : Nat) : List Nat :=
  (s.tasks.filter fun e => hoopOf e.2.core == h && e.2.placedNow).map (·.1)

/-- The state with a hoop on its way offline (R433 steps 1 and 2): placement stops and its tasks are asked to stop.
[DEDUCED: notes/assumptions/74.md] -/
def State.drainHoop (s : State) (h : Nat) : State :=
  if (s.hoop h).draining then s else (s.setHoop h { s.hoop h with draining := true }).stopAll forDrain (s.hoopTasks h)

/-- The state with a hoop offline, once no task is placed on it: its residency entries are Free, HOFF shows it, and EVTL counts a
hoop that was online (R426, R433). -/
def State.hoopOff (s : State) (h : Nat) : State :=
  let was := (s.hoop h).offline
  let s := s.setHoop h { s.hoop h with offline := true, draining := true }
  let s := { s with cores := s.cores.map fun (c : Nat × Core) => if hoopOf c.1 == h then (c.1, { c.2 with residency := [] }) else c }
  if was then s.putHoff else s.putHoff.incEvtl

/-- The state after the controller has looked at a draining hoop: it is offline when its last task has gone.
[DEDUCED: notes/assumptions/74.md] -/
def State.finishDrain (s : State) (h : Nat) : State :=
  let x := s.hoop h
  if x.draining && !x.offline && (s.hoopTasks h).isEmpty then s.hoopOff h else s

/-- The hoop command's arguments (Table 19-2). -/
def State.argHoop (s : State) : Nat := bitsOf (s.marg 0) 0 8

/-- HOOP_OFFLINE; with it the hoop commands whose arguments break their limits. The command waits until the hoop has drained. The
event also ends the drain of hoop `arg.core` that PATROL_SCRUB began. -/
def execHoopOffline (s : State) : Result :=
  let h := s.argHoop
  let go := s.serves .block && s.mcmd == 6 && s.marg 1 == 0 && !s.recovery
  let s := (if go then s.drainHoop h else s).finishDrain s.arg.core
  .next (s.serveBlock (fun s => s.mcmd == 6 && (s.marg 1).toNat != 1) fun s =>
    if s.marg 1 != 0 then some (2, s)
    else if (s.hoop h).offline || (s.hoopTasks h).isEmpty then some (0, s.hoopOff h)
    else none)

/-- HOOP_ONLINE: `arg.pass` is the verdict of the self-test. -/
def execHoopOnline (s : State) : Result :=
  .next (s.serveBlock (fun s => s.mcmd == 6 && (s.marg 1).toNat == 1) fun s =>
    some (if s.arg.pass then
      (0, (s.setHoop s.argHoop { s.hoop s.argHoop with offline := false, draining := false, errors := [] }).putHoff) else (1, s)))

/-! ## Throttle states (R428, R429) -/

/-- Logic layer die × 2 + layer. -/
def State.layer (s : State) (k : Nat) : Layer := Assoc.getD (s.die (k / 2)).layers (k % 2) {}
def State.setLayer (s : State) (k : Nat) (x : Layer) : State :=
  s.setDie (k / 2) { s.die (k / 2) with layers := Assoc.set (s.die (k / 2)).layers (k % 2) x }

/-- Codes of throttle states (Table 19-1). -/
def Throttle.code : Throttle → Nat
  | .normal => 0
  | .migrate => 1
  | .clamp => 2

/-- The state with LSTATE of the management block as the layers are. -/
def State.putLstate (s : State) : State :=
  s.setHome (s.mgmttl + 48) 2 (((List.range 8).map fun k => (s.layer k).state.code * 4 ^ k).sum) (controllerParty s)

/-- A sensor of a die (Table 19-3). -/
def State.sensor (s : State) (die n : Nat) : DWord := Assoc.getD (s.die die).sensors n 0

/-- The temperature of a logic layer: the largest valid one among its 16 sensors (R428). -/
def State.layerTemp (s : State) (k : Nat) : Option Int :=
  let vs := (List.range 16).map fun i => s.sensor (k / 2) (16 * (k % 2) + i)
  (vs.filter fun v => v.getLsbD 16).foldl
    (fun (m : Option Int) v => some (match m with | none => degrees v 0 | some t => max t (degrees v 0))) none

/-- A layer after a sample of its temperature (Table 19-4); one without a valid sensor is held in Clamp.
[DEDUCED: notes/assumptions/67.md] -/
def Layer.sample (x : Layer) (tmig tclamp : Int) (now : Nat) (t : Option Int) : Layer :=
  let clamped : Layer := { state := .clamp, point := 1, since := now }
  match x.state, t with
  | .clamp, none => x
  | _, none => clamped
  | .normal, some t => if tmig ≤ t then { state := .migrate } else x
  | .migrate, some t => if tclamp ≤ t then clamped else if t < tmig - 80 then {} else x
  | .clamp, some t => if t < tclamp - 80 then { state := .migrate } else x

/-- The tasks of a layer that a thermal migration asks to stop: the request for a debug-halted one is refused (R418). -/
def State.layerTasks (s : State) (k : Nat) : List Nat :=
  (s.tasks.filter fun e => layerOf e.2.core == k && e.2.placedNow && (s.members e.1).all fun m => (s.task m).frozenBy.isNone).map (·.1)

/-- The state after layer `k` has taken a sample: a change of state is shown in LSTATE and EVTL, and one to a hotter state sends
the stop requests of R429 in the hardware mode. [DEDUCED: notes/assumptions/67.md] -/
def State.sampleLayer (s : State) (k : Nat) : State :=
  let x := s.layer k
  let y := x.sample s.tmig s.tclamp s.cycle (s.layerTemp k)
  if y.state == x.state then s
  else
    let s := ((s.setLayer k y).putLstate).incEvtl
    if x.state.code < y.state.code && !s.thermalHost then s.stopAll forMigration (s.layerTasks k) else s

/-- The state with the latest samples in the sensors, each with the throttle state of its layer. -/
def State.putSensors (s : State) (f : Nat → Nat → Nat) : State :=
  (List.range 4).foldl (fun (s : State) d =>
    s.setDie d { s.die d with sensors := (List.range 40).map fun i =>
      (i, BitVec.ofNat 64 (f d i % 2 ^ 17 + (if i < 32 then (s.layer (2 * d + i / 16)).state.code * 2 ^ 17 else 0))) }) s

/-- The state after the logic layers have lost power (Table 19-4): what they and the contexts held is lost, the host port is
Down. -/
def State.powerOff (s : State) : State :=
  let s := s.portDown 0
  { s with
    powered := false, tasks := [], cores := [], hoops := [], groups := [], launches := [], contexts := [], queues := [], reqs := []
    rings := [], zeroing := []
    dies := s.dies.map fun (d : Nat × Die) =>
      (d.1, { d.2 with rdc := [], tlb := [], runs := [], active := [], monitor := [], walks := [] }) }

/-- The state after every sensor has been sampled: `arg.samples` lists TEMP and VALID of sensor `n` of die `d` at 40 d + n. -/
def State.sample (s : State) : State :=
  let got (d i : Nat) : Nat := (s.arg.samples.getD (40 * d + i) 0).toNat
  let s := { s.putSensors got with sampled := s.cycle }
  if (List.range 8).any fun k => (s.layerTemp k).any fun t => 1920 ≤ t then s.powerOff
  else ((List.range 8).foldl State.sampleLayer s).putSensors got

/-- SENSOR_SAMPLE: 1,200 cycles or more after the last one, on a card that has booted. -/
def execSensorSample (s : State) : Result :=
  .next (if s.booted && s.powered && s.sampled + 1200 ≤ s.cycle then s.sample else s)

/-- CLAMP_POINT2_TIMEOUT: layer `arg.layer`. -/
def execClampPoint2Timeout (s : State) : Result :=
  let k := s.arg.layer.toNat
  let x := s.layer k
  .next (if x.state == .clamp && x.point == 1 && x.since + 1200000 ≤ s.cycle && (s.layerTemp k).any fun t => s.tclamp ≤ t then
    s.setLayer k { x with point := 2 } else s)

/-! ## Soft errors -/

/-- The state with corrected errors added to a die's CORR, saturating (Table 19-1). -/
def State.addCorr (s : State) (die n : Nat) : State :=
  let v := min (Assoc.getD s.corr die 0 + n) (2 ^ 64 - 1)
  { s with corr := Assoc.set s.corr die v }.setHome (s.mgmttl + 96 + 8 * die) 8 v (controllerParty s)

/-- A hoop's SRAMs have reported 16 uncorrectable errors within 1.2 × 10^9 cycles. -/
def Hoop.failing (x : Hoop) (now : Nat) : Bool := 16 ≤ x.errors.length && x.errors.all fun c => now ≤ c + 1200000000

/-- PATROL_SCRUB: `arg.scrub` holds the corrected errors by die, sectors found with an uncorrectable error, and the hoops whose
count of SRAM errors the controller looks at: those that fail drain, to go offline. -/
def execPatrolScrub (s : State) : Result :=
  let r := s.arg.scrub
  .next (if s.booted && s.powered then
    let s := ((r.corrected.take 4).zipIdx.filter fun e => e.1 != 0).foldl (fun (s : State) e => s.addCorr e.2 e.1) s
    let s := { s with bad := s.bad ++ (r.bad.filter fun k => k < 2 ^ 34 && !s.bad.contains k).eraseDups }
    (r.hoops.filter fun h => h < 256 && (s.hoop h).failing s.cycle).foldl (fun (s : State) h => (s.drainHoop h).finishDrain h) s
  else s)

/-- HBM_RECALIBRATION: memory channel `arg.k` recalibrates for `arg.cycles` cycles, 2,400 at most. Accesses to it wait at the L2,
which delays them and changes nothing else. [DESIGN CHOICE: notes/assumptions/75.md] -/
def execHbmRecalibration (s : State) : Result :=
  .next { s with recal := Assoc.set s.recal s.arg.k (s.cycle + min s.arg.cycles 2400) }

/-! ## Boot and firmware (R431, R432) -/

/-- A firmware pair after its images are verified: the active slot, or the other when the active one is bad; none when both
are. [DEDUCED: notes/assumptions/64.md] -/
def Firmware.verify (x : Firmware) (okA okB : Bool) : Option Firmware :=
  if if x.slotB then okB else okA then some x
  else if okA || okB then some { x with slotB := !x.slotB }
  else none

/-- A firmware of the pair: 0 management, 1 front end. -/
def State.firmware (s : State) (k : Nat) : Firmware := Assoc.getD s.fw k {}

/-- The state after the boot ROM's steps 3 to 7: hoops that failed stay offline, the context and queue tables are zero, the
counter is loaded when the host gave its time, and the ports train. [DEDUCED: notes/assumptions/64.md] -/
def State.startUp (s : State) : State :=
  let r := s.arg.boot
  let s := (r.failed.filter fun h => h < 256).foldl (fun (s : State) h => s.setHoop h { s.hoop h with offline := true }) s
  let s := s.putHoff
  let s := { s with mem := (s.mem.clear s.ctxtab (512 * 64)).clear s.qtab (128 * 1024) }
  let s := match r.time with
    | some t => { s with cycle := t.toNat, timed := true, sync := true }
    | none => s
  { (((s.startTraining 0).startTraining 1).startTraining 2) with booted := true, sampled := s.cycle }

/-- BOOT: `arg.boot` holds the verdicts on the four images, the hoops that fail their self-test, and PTM time. With no good image
of a pair the card stays in recovery, with its host port enabled so that Stage can be given. -/
def execBoot (s : State) : Result :=
  let r := s.arg.boot
  .next (if s.booted then s
  else
    match (s.firmware 0).verify r.mgmtA r.mgmtB, (s.firmware 1).verify r.frontA r.frontB with
    | some m, some f => { s with fw := Assoc.set (Assoc.set s.fw 0 m) 1 f }.startUp
    | _, _ => { s.startTraining 0 with booted := true, recovery := true, sampled := s.cycle })

/-- Stage (R432): the status and the state, or nothing while the host port trains. `arg.pass` is the verdict on the image.
[DEDUCED: notes/assumptions/52.md] -/
def State.stageImage (s : State) : Option (Nat × State) :=
  let a := (s.marg 0).toNat
  let n := (s.marg 1).toNat
  let k := (s.marg 2).toNat
  if 1 < k || (s.stagingHost && 2 ^ 39 < a + n) then some (2, s)
  else if !s.stagingHost && s.portTraining 0 then none
  else if !s.stagingHost && !s.portOpen 0 then some (1, s)
  else if !s.arg.pass then some (3, s)
  else
    let x := s.firmware k
    let image := (if s.stagingHost then s.mem else s.host).bytes a n
    some (0, { s with fw := Assoc.set s.fw k (if x.slotB then { x with a := image, staged := true } else { x with b := image, staged := true }) })

/-- STAGE. -/
def execStage (s : State) : Result := .next (s.serveBlock (·.mcmd == 8) State.stageImage)

/-- Switch (R432): the staged image becomes active, and the staging mode last set is in force (R17). -/
def State.switchImage (s : State) : Nat × State :=
  let k := (s.marg 0).toNat
  let x := s.firmware k
  if 1 < k then (2, s)
  else if !x.staged then (1, s)
  else (0, { s with fw := Assoc.set s.fw k { x with slotB := !x.slotB, staged := false }, stagingHost := s.stagingNext })

/-- SWITCH. -/
def execSwitch (s : State) : Result := .next (s.serveBlock (·.mcmd == 9) fun s => some s.switchImage)

/-- The state with the debug cores of a set of dies unlocked (R416, R431). -/
def State.unlock (s : State) (dies : BitVec 4) : State :=
  ((List.range 4).filter fun d => dies.getLsbD d).foldl
    (fun (s : State) d => s.setDie d { s.die d with dbg := { (s.die d).dbg with att := true } }) s

/-- DEBUG_UNLOCK: `arg.token` is the token at MARG0 as the controller finds it. [DEDUCED: notes/assumptions/68.md] -/
def execDebugUnlock (s : State) : Result :=
  .next (s.serveBlock (·.mcmd == 10) fun s =>
    let t := s.arg.token
    some (if t.valid && s.nonce == some t.nonce then (0, s.unlock t.dies) else (3, s)))

/-- SPDM_REQUEST: request `arg.spdm`; the answer's certificate and measurement bytes are the part's own.
[DEDUCED: notes/assumptions/68.md] -/
def execSpdmRequest (s : State) : Result :=
  .next (match s.arg.spdm with
    | .certificates => { s with answer := .bytes Config.certificates }
    | .measurement n =>
      if n == 0 || 4 < n.toNat then { s with answer := .unsupported }
      else
        let active (k : Nat) : List Byte := let x := s.firmware k; if x.slotB then x.b else x.a
        { s with answer := .bytes (Config.measurement n.toNat (active 0) (active 1) (s.mem.nat (s.mgmttl + 64) 32)
            (s.thermalHost, s.stagingHost)) }
    | .nonce f => { s with nonce := some f, answer := .words [f] })

end Sys2Proof.Machine
end

