-- ==== Sys2Proof/Machine/Host.lean ====
section
/-! DEFINITION. What the host and other cards do to this one over the ports: reads, writes and AtomicOps of the two BARs (R370,
R377), and peer requests (R372, R374). -/

namespace Sys2Proof.Machine

/-! ## BAR0 (Table 16-2) -/

/-- Codes of link states (Table 16-3). -/
def LinkState.code : LinkState → Nat
  | .down => 0
  | .training => 1
  | .up => 2
  | .degraded => 3
  | .retrain => 4

/-- A link status word. -/
def Port.word (x : Port) : Nat :=
  x.state.code + x.width.toNat * 2 ^ 8 + (if x.role then 2 ^ 16 else 0) + x.pcard.toNat * 2 ^ 20 + x.corr % 65536 * 2 ^ 32 +
    x.uncorr % 65536 * 2 ^ 48

/-- The 64 bytes of the control page; every other byte of BAR0 reads as zero. [DEDUCED: notes/assumptions/86.md] -/
def State.controlPage (s : State) : List Byte :=
  leBytes s.ctxtab 8 ++ leBytes s.qtab 8 ++ leBytes s.mgmttl 8 ++
  leBytes (s.cardno.toNat + (if s.cnv then 16 else 0) + (if s.sync then 32 else 0)) 8 ++
  leBytes (s.port 0).word 8 ++ leBytes (s.port 1).word 8 ++ leBytes (s.port 2).word 8 ++ leBytes 0 8

/-- A byte of BAR0. [DEDUCED: notes/assumptions/86.md] -/
def State.bar0Byte (s : State) (a : Nat) : Byte := s.controlPage.getD a 0

/-- The state with a byte of BAR0 written: CARDNO and CNV alone can be (R377). -/
def State.setBar0 (s : State) (a : Nat) (v : Byte) : State :=
  if a = 24 then { s with cardno := v.extractLsb' 0 4, cnv := v.getLsbD 4 } else s

/-! ## BAR2 -/

/-- Byte `k` of a control word that the device shows at an address. -/
def wordByte (w : DWord) (k : Nat) : Byte := w.extractLsb' (8 * k) 8

/-- The control words of the two tables that an address lies in: entry and byte. -/
def State.ctxWordAt (s : State) (a : Nat) : Option (Nat × Nat) :=
  if s.ctxtab ≤ a && a < s.ctxtab + 512 * 64 && 256 ≤ (a - s.ctxtab) % 512 && (a - s.ctxtab) % 512 < 264 then
    some ((a - s.ctxtab) / 512, (a - s.ctxtab) % 512 - 256)
  else none
def State.queueWordAt (s : State) (a : Nat) : Option (Nat × Nat) :=
  if s.qtab ≤ a && a < s.qtab + 128 * 1024 && 64 ≤ (a - s.qtab) % 128 && (a - s.qtab) % 128 < 72 then
    some ((a - s.qtab) / 128, (a - s.qtab) % 128 - 64)
  else none

/-- A byte of BAR2: memory at the home L2, with the control words of contexts and queues as their states are now. -/
def State.hostByte (s : State) (a : Nat) : Byte :=
  match s.ctxWordAt a, s.queueWordAt a with
  | some (c, k), _ => wordByte ((s.ctx c).word (s.ctxCmd c)) k
  | none, some (q, k) => wordByte (((s.settleQueue q).queue q).word (s.queueCmd q)) k
  | none, none => s.mem.byte a

/-- The bits of a byte that the host can write: of a control word CMD, of the management block MTL, MCMD and the arguments, of
the trace ring's control words RPTR; elsewhere all. -/
def State.hostMask (s : State) (a : Nat) : Byte :=
  match s.ctxWordAt a, s.queueWordAt a with
  | some (_, k), _ => if k = 0 then 15 else 0
  | none, some (_, k) => if k = 0 then 15 else 0
  | none, none =>
    let m := a - s.mgmttl
    let t := a - s.traceBase
    if s.mgmttl ≤ a && m < 4096 then (if m < 8 || m = 16 || (24 ≤ m && m < 48) then 255 else 0)
    else if s.traceSize != 0 && s.traceBase ≤ a && t < 65536 then (if 8 ≤ t && t < 16 then 255 else 0)
    else 255

/-- The state with bytes of BAR2 written at their home L2s; a write of part of a poisoned sector changes nothing (R140). -/
def State.hostWrite (s : State) (a : Nat) (bs : List Byte) : State :=
  if s.partBad a bs.length then s
  else
    s.writeHome a (bs.zipIdx.map fun e => (s.mem.byte (a + e.2) &&& ~~~ s.hostMask (a + e.2)) ||| (e.1 &&& s.hostMask (a + e.2)))
      (hostParty s)

/-! ## The host's requests -/

/-- Bytes of a BAR. -/
def barSize (bar2 : Bool) : Nat := if bar2 then 2 ^ 39 else 2 ^ 20

/-- A byte of a BAR. -/
def State.barByte (s : State) (bar2 : Bool) (a : Nat) : Byte := if bar2 then s.hostByte a else s.bar0Byte a

/-- `n` bytes of a BAR. -/
def State.barBytes (s : State) (bar2 : Bool) (a n : Nat) : List Byte := (List.range n).map fun k => s.barByte bar2 (a + k)

/-- The state with bytes of a BAR written. -/
def State.barWrite (s : State) (bar2 : Bool) (a : Nat) (bs : List Byte) : State :=
  if bar2 then s.hostWrite a bs else bs.zipIdx.foldl (fun (s : State) e => s.setBar0 (a + e.2) e.1) s

/-- A write meets a page under a migration lock, at which host writes wait (R367). -/
def State.frameLocked (s : State) (a n : Nat) : Bool :=
  s.contexts.any fun c => c.2.lock.any fun l => let f := ptePa l.pte; f < a + n && a < f + 65536

/-- The state with an answer for the world outside. -/
def State.answerWith (s : State) (a : Answer) : State := { s with answer := a }

/-- A host read of `n` bytes of a BAR. -/
def State.hostRead (s : State) (bar2 : Bool) (a n : Nat) : State :=
  if barSize bar2 < a + n || 4096 < n then s.answerWith .unsupported
  else if bar2 && s.isBad a n then s.answerWith .abort
  else s.answerWith (.bytes (s.barBytes bar2 a n))

/-- A host AtomicOp of 4 or 8 aligned bytes; any other, a 128-bit CAS among them, is an unsupported request. -/
def State.hostAtomic (s : State) (bar2 : Bool) (a n : Nat) (f : HostAtomic) (x y : Nat) : State :=
  if (n != 4 && n != 8) || a % n != 0 || barSize bar2 < a + n then s.answerWith .unsupported
  else if bar2 && s.isBad a n then s.answerWith .abort
  else
    let old := s.barBytes bar2 a n
    (s.barWrite bar2 a (leBytes (hostAtomicNew f n (leNat old) x y) n)).answerWith (.bytes old)

/-- HOST_MRD: `arg.len` bytes at offset `arg.off` of BAR2 when `arg.bar2`, else of BAR0. -/
def execHostMrd (s : State) : Result := .next (if s.portOpen 0 then s.hostRead s.arg.bar2 s.arg.off s.arg.len else s)

/-- HOST_MWR: `arg.bytes` at offset `arg.off`, up to 512 of them. -/
def execHostMwr (s : State) : Result :=
  let n := s.arg.bytes.length
  .next (if s.portOpen 0 && !(s.arg.bar2 && s.frameLocked s.arg.off n) then
    if barSize s.arg.bar2 < s.arg.off + n || 512 < n then s.answerWith .unsupported
    else (s.barWrite s.arg.bar2 s.arg.off s.arg.bytes).answerWith .none
  else s)

/-- HOST_ATOMICOP: `arg.atomic` on `arg.size` bytes at offset `arg.off`, with operands `arg.x` and `arg.y`. -/
def execHostAtomicop (s : State) : Result :=
  .next (if s.portOpen 0 && !(s.arg.bar2 && s.frameLocked s.arg.off s.arg.size) then
    s.hostAtomic s.arg.bar2 s.arg.off s.arg.size s.arg.atomic s.arg.x.toNat s.arg.y.toNat
  else s)

/-! ## Peer requests (R372, R374) -/

/-- Bytes that a request covers, and whether it writes. -/
def actBytes : PeerAct → Nat
  | .read n => n
  | .write bs => bs.length
  | .atomic _ n _ _ => n
def actWrites : PeerAct → Bool
  | .read _ => false
  | _ => true

/-- The virtual address of a request: bits 54:0, canonical (R126, R372). -/
def peerVa (r : PeerReq) : DWord := r.addr.signExtend 64

/-- An import entry admits a request (R374 step 3). -/
def Aperture.admits (e : Aperture) (r : PeerReq) : Bool :=
  e.valid && e.card == r.srcCard && e.ctx == r.srcCtx && e.tbase.toNat ≤ (peerVa r).toNat &&
  (peerVa r).toNat + actBytes r.act ≤ e.tbase.toNat + e.size.toNat && (e.w || !actWrites r.act)

/-- The state after a request has been performed at its home L2, with its answer. [DEDUCED: notes/assumptions/72.md] -/
def State.performPeer (s : State) (pa : Nat) (act : PeerAct) (who : Party) : State :=
  match act with
  | .read n => if s.isBad pa n then s.answerWith .abort else s.answerWith (.bytes (s.mem.bytes pa n))
  | .write bs => if s.partBad pa bs.length then s.answerWith .abort else (s.writeHome pa bs who).answerWith .none
  | .atomic f n x y =>
    if (n != 4 && n != 8) || pa % n != 0 then s.answerWith .unsupported
    else if s.isBad pa n then s.answerWith .abort
    else
      (s.setHome pa n (hostAtomicNew f n (s.mem.nat pa n) x.toNat y.toNat) who).answerWith (.bytes (s.mem.bytes pa n))

/-- A request to this card: import check, translation in the target context's tables, and its effect. A missing page holds it;
any other refusal answers Completer Abort. -/
def State.targetPeer (s : State) (port : Nat) (r : PeerReq) : State :=
  let c := r.dstCtx.toNat
  if !((s.ctx c).imports.any fun e => e.2.admits r) || 4096 < (peerVa r).toNat % 4096 + actBytes r.act then s.answerWith .abort
  else
    let who := partyOf s.cardUsed 0 6 port
    let x : Access :=
      { ctx := c, die := Config.homeDie (s.ctx c).ptroot.toNat, write := actWrites r.act, eng := true, party := who, joined := .link port }
    match s.translate x (peerVa r) with
    | (.ok pa _, s) => s.performPeer pa r.act who
    | (.stall _, s) => s
    | (.trap _, s) => s.answerWith .abort

/-- A request for another card leaves by the other peer port; it is refused when that port is Down or leads back to its source,
and waits while it trains. [DEDUCED: notes/assumptions/72.md] -/
def State.forwardPeer (s : State) (port : Nat) (r : PeerReq) : State :=
  let out := 3 - port
  if s.portTraining out then s
  else if (s.port out).state == .down || (s.port out).pcard == r.srcCard then s.answerWith .abort
  else { s with sent := s.sent ++ [⟨out, r⟩] }

/-- PEER_REQUEST: `arg.peer` comes in by peer port `arg.port`. -/
def execPeerRequest (s : State) : Result :=
  let p := s.arg.port.toNat
  .next (if 1 ≤ p && p ≤ 2 && s.portOpen p then
    if s.arg.peer.dstCard == (s.port p).card then s.targetPeer p s.arg.peer else s.forwardPeer p s.arg.peer
  else s)

end Sys2Proof.Machine
end

