-- ==== Sys2Proof/Machine/CordonnetWalk.lean ====
section
/-! DEFINITION. The Cordonnet unit of a die: the chain of edge records back from the end of a step (R412, R413), and its report
(R414, R415). -/

namespace Sys2Proof.Machine

/-! ## Edges -/

/-- Card and unit of a party (Table 0-1). -/
def partyCard (p : Party) : Nat := p.toNat / 2 ^ 20
def partyUnit (p : Party) : Nat := p.toNat / 2 ^ 7 % 8

/-- A party that keeps no ring: link and host parties, and those of R445. -/
def ringless (p : Party) : Bool := partyUnit p == 6 || partyUnit p == 7 || (partyUnit p == 4 && 9 ≤ p.toNat % 2 ^ 7)

/-- Followable (R412). -/
def Edge.followable (e : Edge) : Bool := 0 < e.waited || e.kind == 15 || e.kind == 17 || e.kind == 18 || (e.kind == 16 && e.obj == 0)

/-- WAITED as a record holds it. -/
def Edge.waitedField (e : Edge) : Nat := min e.waited (2 ^ 32 - 1)

/-- The record of four words that another card returned (Table 18-1). -/
def edgeOfRemote (r : RemoteEdge) : Edge :=
  { waiter := r.w0.extractLsb' 0 24, kind := bitsOf r.w0 24 8, prod := r.w0.extractLsb' 32 24, saved := r.w0.getLsbD 56
    arrive := r.w1.toNat, waited := bitsOf r.w2 0 32, step := r.w2.extractLsb' 32 32, obj := r.w3 }

/-- Of a ring, newest first, the record with its place that a walk takes: not yet taken, followable, arrived by `t`, of the
largest ARRIVE; of two equal ones the one written later. -/
def takeEdge (ring : List Edge) (taken : List Nat) (t : Nat) : Option (Edge × Nat) :=
  (ring.zipIdx.filter fun e => !taken.contains e.2 && e.1.arrive ≤ t && e.1.followable).foldl
    (fun (m : Option (Edge × Nat)) e => match m with
      | some b => if b.1.arrive < e.1.arrive then some e else some b
      | none => some e) none

/-! ## The walk -/

/-- A segment of the path, in cycles of the counter (Table 18-5). -/
structure Segment where
  party : Party
  kind : Nat
  saved : Bool
  remote : Bool
  start : Nat
  stop : Nat
  waited : Nat
  obj : DWord
  deriving DecidableEq, Repr

/-- Where a walk is: the party, the time, edges taken in all and by ring, records of other cards still to come, and the
segments so far, last first. -/
structure WalkPos where
  p : Party
  t : Nat
  n : Nat := 0
  taken : List (Nat × Nat) := []
  remote : List RemoteEdge := []
  segs : List Segment := []
  deriving DecidableEq, Repr

/-- The position with a segment added. -/
def WalkPos.add (w : WalkPos) (home : Nat) (p : Party) (start stop : Nat) (e : Edge) (saved : Bool) : WalkPos :=
  { w with segs := ⟨p, e.kind, saved, partyCard p != home, start, stop, e.waitedField, e.obj⟩ :: w.segs }

/-- The next edge of a walk from the card's rings or from another card, and the position with it taken.
[DEDUCED: notes/assumptions/73.md] -/
def State.nextEdge (s : State) (home : Nat) (w : WalkPos) : Option (Edge × WalkPos) :=
  if partyCard w.p == home then
    let k := ringOf w.p
    (takeEdge (Assoc.getD s.rings k []) ((w.taken.filter fun e => e.1 == k).map (·.2)) w.t).map fun e =>
      (e.1, { w with taken := (k, e.2) :: w.taken })
  else
    match w.remote with
    | r :: rest =>
      let e := edgeOfRemote r
      if r.ring == w.p && e.arrive ≤ w.t + 16 && e.followable then some (e, { w with remote := rest }) else none
    | [] => none

/-- Chain (R412): the END code and where the walk ended. [DEDUCED: notes/assumptions/73.md] -/
def State.chain (s : State) (home tBeg : Nat) (step : Word) (reachable : Nat → Bool) : Nat → WalkPos → Nat × WalkPos
  | 0, w => (4, w)
  | fuel + 1, w =>
    if ringless w.p then (3, w)
    else if fuel = 0 then (4, w)
    else if partyCard w.p != home && !reachable (partyCard w.p) then (5, w)
    else
      match s.nextEdge home w with
      | none => (2, w)
      | some (e, w) =>
        let w := { w with n := w.n + 1 }
        if e.arrive < tBeg then (7, w.add home w.p tBeg w.t e false)
        else
          let w := w.add home w.p (min e.arrive w.t) w.t e false
          if e.kind == 16 && e.step == step && e.obj == 0 then (1, w)
          else if e.kind == 18 then
            s.chain home tBeg step reachable fuel
              { w.add home e.prod e.obj.toNat e.arrive e true with t := e.obj.toNat, p := e.prod }
          else s.chain home tBeg step reachable fuel { w with t := e.arrive, p := e.prod }

/-! ## The report (Tables 18-4, 18-5) -/

/-- A cycle after TBEG, saturating. -/
def afterBeg (tBeg c : Nat) : Nat := min (c - tBeg) (2 ^ 32 - 1)

/-- The 32 bytes of a segment. -/
def Segment.bytes (g : Segment) (tBeg : Nat) : List Byte :=
  leBytes (g.party.toNat + g.kind % 256 * 2 ^ 24 + (if g.saved then 2 ^ 32 else 0) + (if g.remote then 2 ^ 33 else 0)) 8 ++
  leBytes (afterBeg tBeg g.start + afterBeg tBeg g.stop * 2 ^ 32) 8 ++ leBytes g.waited 8 ++ leBytes g.obj.toNat 8

/-- The bytes of a report: header and the first 126 segments. -/
def reportBytes (step : Word) (tBeg tEnd end_ nedge : Nat) (segs : List Segment) : List Byte :=
  let omitted := segs.drop 126
  let n := min segs.length 126
  leBytes (step.toNat + end_ * 2 ^ 32 + n * 2 ^ 40) 8 ++ leBytes tBeg 8 ++ leBytes tEnd 8 ++ leBytes nedge 8 ++
  leBytes omitted.length 8 ++ leBytes ((omitted.map fun g => g.stop - g.start).sum) 8 ++ leBytes 0 16 ++
  (segs.take 126).flatMap fun g => g.bytes tBeg

/-- The queue of a step (R407). -/
def stepQueue (step : Word) : Nat := step.toNat / 2 ^ 22

/-- Another die still has an earlier walk of the same queue, whose report comes first (R410). -/
def State.walkBehind (s : State) (w : Walk) : Bool :=
  s.dies.any fun d => d.2.walks.any fun o => stepQueue o.step == stepQueue w.step && o.fin < w.fin

/-- The report of a walk: what the chain gives, or the header alone in host-assisted mode. -/
def State.reportOf (s : State) (w : Walk) (reachable : Nat → Bool) (remote : List RemoteEdge) : List Byte :=
  if w.hostMode then reportBytes w.step w.beg w.fin 6 0 []
  else
    let r := s.chain (partyCard w.party) w.beg w.step reachable 4097 { p := w.party, t := w.fin, remote }
    reportBytes w.step w.beg w.fin r.1 r.2.n r.2.segs.reverse

/-- The state after the unit of a die has walked the oldest step of its queue and written its report; a report whose queue is
gone, or whose place cannot be written, is dropped. -/
def State.walkStep (s : State) (die : Nat) (reachable : Nat → Bool) (remote : List RemoteEdge) : State :=
  match (s.die die).walks with
  | [] => s
  | w :: _ =>
    let q := s.queue (stepQueue w.step)
    let who := partyOf s.cardUsed (die * 256) 4 10
    let x : Access := { ctx := w.ctx, die, write := true, eng := true, party := who, joined := .walk die }
    let pop (s : State) : State := s.setDie die { s.die die with walks := (s.die die).walks.tail }
    if s.cycle < w.fin + 128 || s.walkBehind w then s
    else if q.state == .free then pop s
    else
      match s.translate x q.rpta with
      | (.stall _, s) => s
      | (rp, s) =>
        match if w.tl == 0 then (.trap 0, s) else s.translate x w.tl with
        | (.stall _, s) => s
        | (tp, s) =>
          let s := match rp with
            | .ok pa _ => s.writeHome pa (s.reportOf w reachable remote) who
            | _ => s
          let s := match tp with
            | .ok pa _ => s.deviceInc pa who
            | _ => s
          pop s

/-- A card of the peer-joined set can be reached (R412): through a peer port of this card that is Up or Degraded, over a route that
goes on beyond it as `arg.reach0` and `arg.reach1` say. -/
def State.reachable (s : State) (card : Nat) : Bool :=
  (s.portOpen 1 && s.arg.reach0.getLsbD card) || (s.portOpen 2 && s.arg.reach1.getLsbD card)

/-- CORDONNET_WALK: on die `arg.die`; `arg.reach0` and `arg.reach1` tell which cards are reachable beyond this card's peer ports, and
`arg.remote` holds the records their units return. -/
def execCordonnetWalk (s : State) : Result := .next (s.walkStep s.arg.die.toNat s.reachable s.arg.remote)

end Sys2Proof.Machine
end

