-- ==== Sys2Proof/Machine/Debug.lean ====
section
/-! DEFINITION. The debug cores (R416 to R421): a write of the block that carries a command, its checks, and the four commands.
A command is executed within the step of its write, but for an access to memory that waits for storage being zeroed or for a
locked page: BUSY is set until it has gone on. -/

namespace Sys2Proof.Machine

/-! ## The block (Table 18-6) -/

/-- Causes of ERR. -/
def errLocked : Nat := 1
def errBusy : Nat := 2
def errReserved : Nat := 3
def errTarget : Nat := 4
def errNotHalted : Nat := 5
def errHalted : Nat := 6
def errRegister : Nat := 7
def errMemory : Nat := 8
def errNotRunning : Nat := 9

/-- The block with the writable fields of a write. -/
def DebugCore.load (b : DebugCore) (w : DebugWrite) : DebugCore :=
  { b with brk := w.brk, ctx := w.ctx, sel := w.sel, regno := w.regno, wr := w.wr, space := w.space, size := w.size, addr := w.addr,
           data := w.data }

/-- The debug core of the die that an event names. -/
def State.debugBlock (s : State) : DebugCore := (s.die s.arg.die.toNat).dbg
def State.putBlock (s : State) (b : DebugCore) : State := s.setDie s.arg.die.toNat { s.die s.arg.die.toNat with dbg := b }

/-- The state with ERR set. -/
def State.debugErr (s : State) (n : Nat) : State := s.putBlock { s.debugBlock with err := BitVec.ofNat 4 n }

/-- The fields of SEL: linear core number, unit, task slot. -/
def selCore (p : Party) : Nat := p.toNat / 2 ^ 10 % 2 ^ 10
def selUnit (p : Party) : Nat := p.toNat / 2 ^ 7 % 8
def selSlot (p : Party) : Nat := p.toNat % 2 ^ 7

/-- The task that SEL names: a strand's party of the block's die and this card, in whose slot a task of CTX is placed. -/
def State.debugTarget (s : State) : Option Nat :=
  let b := s.debugBlock
  let c := selCore b.sel
  if b.sel.toNat / 2 ^ 20 != s.cardUsed.toNat || dieOf c != s.arg.die.toNat || 3 < selUnit b.sel then none
  else (s.tasks.find? fun e => e.2.core == c && e.2.slot == selSlot b.sel && e.2.placedNow && e.2.ctx == b.ctx.toNat).map (·.1)

/-- The strand that SEL names, of a task. -/
def State.selStrand (s : State) (t : Nat) : StrandRef := ⟨t, unitOf (selUnit s.debugBlock.sel)⟩

/-- HCAUSE and HPC of SEL's task and strand: of a `brk` or `halt` stop, the instruction's address (R417). -/
def State.hcause (s : State) : BitVec 4 :=
  match s.debugTarget.bind fun t => (s.task t).frozenBy with
  | some d => d.cause
  | none => 0
def State.hpc (s : State) : DWord :=
  match s.debugTarget with
  | some t =>
    let r := s.selStrand t
    match (s.task t).frozenBy.bind (·.at_) with
    | some (u, pc) => if u == r.unit then pc else (s.strand r).pc
    | none => (s.strand r).pc
  | none => 0

/-- The state after a command of the block: its fields are written, and its checks come before its effect. A write while BUSY is 1
starts nothing. [DEDUCED: notes/assumptions/63.md] -/
def State.debugCommand (s : State) (act : State → State) : State :=
  if s.arg.dbg.again then s
  else if s.debugBlock.busy then s.debugErr errBusy
  else
  let s := s.putBlock (s.debugBlock.load s.arg.dbg)
  if !s.debugBlock.att then s.debugErr errLocked
  else if s.arg.dbg.reserved then s.debugErr errReserved
  else act s

/-- The state after a command on SEL's task. [DEDUCED: notes/assumptions/63.md] -/
def State.onTarget (s : State) (act : State → Nat → State) : State :=
  match s.debugTarget with
  | some t => act s t
  | none => s.debugErr errTarget

/-! ## Registers (R420) -/

/-- Registers that access register reaches. -/
inductive DebugReg where
  | g (n : Nat)
  | p (n : Nat)
  | span (n : Nat)
  | csr (n : Nat)
  | pc
  | loop (n : Nat)
  deriving DecidableEq, Repr

/-- The register of a number. -/
def debugReg (n : Nat) : Option DebugReg :=
  if n < 0x40 then some (.g n)
  else if 0x100 ≤ n && n < 0x160 then some (.p (n - 0x100))
  else if 0x200 ≤ n && n < 0x380 then some (.span (n - 0x200))
  else if 0x1000 ≤ n && n < 0x2000 && csrKnown (n - 0x1000) then some (.csr (n - 0x1000))
  else if n = 0x2000 then some .pc
  else if 0x2010 ≤ n && n ≤ 0x2015 then some (.loop (n - 0x2010))
  else none

/-- The value of a register; g0 reads 0 and p0 reads 1 (R93), a stack entry beyond the depth reads 0. -/
def State.readDebug (s : State) (r : StrandRef) (k : DebugReg) : DWord :=
  let d := s.strand r
  match k with
  | .g n => if n = 0 then 0 else Assoc.getD d.g n 0
  | .p n => if n = 0 || Assoc.getD d.p n false then 1 else 0
  | .span n => Assoc.getD (s.task r.task).spans n 0
  | .csr n => s.csr r n
  | .pc => d.pc
  | .loop n =>
    match d.loops[n]? with
    | some (n, i) => BitVec.ofNat 64 (n.toNat * 2 ^ 32 + i.toNat)
    | none => 0

/-- The state with a register written, reserved bits not stored (R2, R152); writes of g0, p0, read-only CSRs and absent stack entries are ignored. -/
def State.writeDebug (s : State) (r : StrandRef) (k : DebugReg) (v : DWord) : State :=
  let d := s.strand r
  match k with
  | .g n => if n = 0 then s else s.setStrand r { d with g := Assoc.set d.g n v }
  | .p n => if n = 0 then s else s.setStrand r { d with p := Assoc.set d.p n (v.getLsbD 0) }
  | .span n => s.setTask r.task { s.task r.task with spans := Assoc.set (s.task r.task).spans n (v &&& 0x1FFFFFFFFFFFFFFF) }
  | .csr n => if csrWritable n then s.setCsr r n v else s
  | .pc => s.setStrand r { d with pc := v }
  | .loop n => s.setStrand r { d with loops := d.loops.set n (v.extractLsb' 32 32, v.extractLsb' 0 32) }

/-- The state after access register. -/
def State.debugRegister (s : State) (t : Nat) : State :=
  let b := s.debugBlock
  if (s.task t).frozenBy.isNone then s.debugErr errNotHalted
  else
    match debugReg b.regno.toNat with
    | none => s.debugErr errRegister
    | some k =>
      if b.wr then s.writeDebug (s.selStrand t) k b.data
      else s.putBlock { b with data := s.readDebug (s.selStrand t) k }

/-! ## Memory (R421) -/

/-- Bytes of an access. -/
def DebugCore.bytes (b : DebugCore) : Nat := 2 ^ b.size.toNat

/-- The state after an access of the debug core at a physical address, at the home L2. -/
def State.debugHome (s : State) (pa : Nat) : State :=
  let b := s.debugBlock
  let n := b.bytes
  if b.wr then (if s.partBad pa n then s.debugErr errMemory else s.setHome pa n b.data.toNat 0)
  else if s.isBad pa n then s.debugErr errMemory
  else s.putBlock { b with data := BitVec.ofNat 64 (s.mem.nat pa n) }

/-- SPACE 0: the carve of SEL's task; none while what it names is being zeroed (R149). -/
def State.debugCarve (s : State) (t : Nat) : Option State :=
  let b := s.debugBlock
  let x := s.task t
  let a := b.addr.toNat
  let n := b.bytes
  let at_ := x.gran0 * granule + a
  if x.hdr.gran * granule < a + n then some (s.debugErr errMemory)
  else if (s.core x.core).zeroingAt at_ n then none
  else if (s.core x.core).bad.any fun k => at_ ≤ k && k < at_ + n then some (s.debugErr errMemory)
  else if b.wr then
    let s := s.writePad x.core at_ (leBytes b.data.toNat n)
    some (if a < x.hdr.cs then s.dropResidency x.core at_ n else s)
  else some (s.putBlock { b with data := BitVec.ofNat 64 ((s.core x.core).pad.nat at_ n) })

/-- SPACE 1: a virtual address of CTX, translated without a fault; the walk claims its frame (R362). None for a write of a page
under a migration lock, which waits. -/
def State.debugVirtual (s : State) : Option State :=
  let b := s.debugBlock
  let c := b.ctx.toNat
  match s.peekMap c b.addr with
  | none => some (s.debugErr errMemory)
  | some (pa, pte) =>
    if pteSpace pte != 0 || (b.wr && !pteW pte) then some (s.debugErr errMemory)
    else if b.wr && (s.ctx c).locks b.addr then none
    else some ((s.claimNow c (pa / 65536)).debugHome pa)

/-- SPACE 3: the edge ring of SEL, a party of this card and die, the newest record first. -/
def State.debugRing (s : State) : State :=
  let b := s.debugBlock
  let a := b.addr.toNat
  let ring := Assoc.getD s.rings (ringOf b.sel) []
  if b.sel.toNat / 2 ^ 20 != s.cardUsed.toNat || b.sel.toNat / 2 ^ 18 % 4 != s.arg.die.toNat then s.debugErr errTarget
  else
    match ring[a / 32]?, b.wr with
    | some e, false =>
      let bs := e.words.flatMap fun w => leBytes w.toNat 8
      s.putBlock { b with data := BitVec.ofNat 64 (leNat ((bs.drop (a % 32)).take b.bytes)) }
    | _, _ => s.debugErr errMemory

/-- The state after access memory; none while it waits. -/
def State.debugMemory (s : State) : Option State :=
  let b := s.debugBlock
  if 3 < b.space.toNat then some (s.debugErr errReserved)
  else if b.addr.toNat % b.bytes != 0 then some (s.debugErr errMemory)
  else
    match b.space.toNat with
    | 0 => match s.debugTarget with | some t => s.debugCarve t | none => some (s.debugErr errTarget)
    | 1 => s.debugVirtual
    | 2 => some (if 2 ^ 39 < b.addr.toNat + b.bytes then s.debugErr errMemory else s.debugHome b.addr.toNat)
    | _ => some s.debugRing

/-- The state after the debug core has tried its access to memory: BUSY while it waits. -/
def State.tryMemory (s : State) : State :=
  match s.debugMemory with
  | some s => s.putBlock { s.debugBlock with busy := false }
  | none => s.putBlock { s.debugBlock with busy := true }

/-! ## Meanings -/

/-- DEBUG_HALT: on die `arg.die`, with the block written as `arg.dbg`, and so for the three commands below. -/
def execDebugHalt (s : State) : Result :=
  .next (s.debugCommand fun s => s.onTarget fun s t =>
    let x := s.task t
    if x.frozenBy.isSome then s.debugErr errHalted
    else if x.life != .running then s.debugErr errNotRunning
    else s.debugStop t 1 0 none)

/-- DEBUG_RESUME. -/
def execDebugResume (s : State) : Result :=
  .next (s.debugCommand fun s => s.onTarget fun s t =>
    if (s.task t).frozenBy.isNone then s.debugErr errNotHalted else s.debugResume t)

/-- ACCESS_REGISTER. -/
def execAccessRegister (s : State) : Result := .next (s.debugCommand fun s => s.onTarget State.debugRegister)

/-- ACCESS_MEMORY; with `arg.dbg.again` an access that waits goes on. -/
def execAccessMemory (s : State) : Result :=
  .next (if s.arg.dbg.again && s.debugBlock.busy then s.tryMemory else s.debugCommand State.tryMemory)

/-- DEBUG_ERR_CLEAR: ones in `arg.mask` clear bits of ERR of die `arg.die`. -/
def execDebugErrClear (s : State) : Result := .next (s.putBlock { s.debugBlock with err := s.debugBlock.err &&& ~~~ s.arg.mask })

end Sys2Proof.Machine
end

