-- ==== Sys2Proof/Machine/Pages.lean ====
section
/-! DEFINITION. Fault service (R365, R366) and live migration (R367). -/

namespace Sys2Proof.Machine

/-! ## Frames filled by the device -/

/-- The state with the 64 KiB frame at `a` holding `src`, whose addresses lie in it; its sectors are whole, monitors have observed
the write, and cached copies of it are gone. -/
def State.fillFrame (s : State) (a : Nat) (src : Memory) (who : Party) : State :=
  let s := s.clearFrame (a / 65536)
  let m := s.mem.paste a 65536 src
  { s with mem := m, dies := s.dies.map fun d => (d.1, d.2.observe m a 65536 who) }

/-! ## The pager (R365) -/

/-- Address of fault descriptor `n` of a context. -/
def Context.descAt (c : Context) (n : Nat) : Nat := c.pageArea + 0x40 + 32 * (n % 1022)

/-- A leaf that the pager fills: at level 2, absent, backed, of space device, and valid as if present. -/
def fillable (pte : DWord) : Bool := pteBk pte && pteSpace pte == 0 && pteLeafOk pte 16 && pteLeaf pte

/-- The fill of a page: the leaf's frame is claimed and holds the host's 64 KiB, and the leaf is present.
[DEDUCED: notes/assumptions/62.md] -/
def State.fillPage (s : State) (c : Nat) (pte : DWord) (leafAt back : Nat) : State :=
  let frame := ptePa pte / 65536
  let who := s.pagerParty c
  let s := ((s.claimNow c frame).noteZf frame (pteZf pte)).fillFrame (ptePa pte) (s.host.slice back 65536 (ptePa pte)) who
  s.setHome leafAt 8 ((pte ||| 1) &&& ~~~ 0x800).toNat who

/-- What the pager does for a descriptor: RESULT and the state, or nothing while the host port trains. The reserved bits of the
backing word are ignored. [DEDUCED: notes/assumptions/62.md] -/
def State.servePage (s : State) (c n : Nat) : Option (Nat × State) :=
  let d := (s.ctx c).descAt n
  match s.walk (s.ctx c).ptroot.toNat (bitsOf (s.mem.word d) 0 55) with
  | .absent 2 pte at_ =>
    let back := at_ / 65536 * 65536 + 0x10000 + at_ % 65536
    if bitsOf (s.mem.word (d + 8)) 2 2 != 2 || !fillable pte || s.isBad back 8 then some (2, s)
    else if s.portTraining 0 then none
    else if !s.portOpen 0 then some (2, s)
    else some (1, s.fillPage c pte at_ (bitsOf (s.mem.word back) 16 32 * 65536))
  | _ => some (2, s)

/-- PAGER_SERVICE: the hardware pager serves the next descriptor of context `arg.ctx`, in order of SEQ: one posted in hardware
mode. -/
def State.pagerStep (s : State) (c : Nat) : State :=
  let x := s.ctx c
  let n := s.mem.nat (x.pageArea + 8) 8
  if !(x.posts.any fun p => p.n == n && !p.hostMode) then s
  else
    match s.servePage c n with
    | none => s
    | some (r, s) =>
      let who := s.pagerParty c
      (s.setHome (x.descAt n + 10) 1 r who).setHome (x.pageArea + 8) 8 (n + 1) who

/-! ## The end of a service (R366) -/

/-- What joined a descriptor and is still there to be failed. -/
def State.stillJoined (s : State) (vpn : Nat) (j : Joined) : Bool :=
  match j with
  | .strand r => s.waitsPage r vpn
  | .channel t _ => (Assoc.get? s.tasks t).isSome
  | _ => true

/-- The state in which the strands of a list that wait for a page have the next turns. -/
def State.wakeJoined (s : State) (vpn : Nat) (js : List Joined) : State :=
  js.foldl (fun (s : State) j => match j with
    | .strand r => if s.waitsPage r vpn && s.canResume r then s.wake r else s
    | _ => s) s

/-- The state after the device has observed that descriptor `n` of a context is served: with RESULT 1 its accesses walk again,
with any other each fails when it is next made. -/
def State.observeService (s : State) (c n : Nat) : State :=
  let x := s.ctx c
  match x.posts.find? fun p => p.n == n with
  | none => s
  | some p =>
    if s.mem.nat (x.pageArea + 8) 8 ≤ n then s
    else
      let ok := s.mem.byte (x.descAt n + 10) == 1
      let failed := if ok then [] else (p.joined.filter (s.stillJoined p.vpn)).map fun j => (p.vpn, j)
      let s := s.setCtx c { x with posts := x.posts.filter fun o => o.n != n, failed := x.failed ++ failed }
      let s := if p.joined.contains .controller then s.payStat c (s.ctx c).owed else s
      let s := p.joined.foldl (fun (s : State) j => match j with
        | .dispatcher job q => if job == jobRecord then s.flushRecords q (s.queue q).pendingRecords.length else s
        | _ => s) s
      s.wakeJoined p.vpn p.joined

/-! ## Migration (R367) -/

/-- Address of migration request `n` of a context. -/
def Context.reqAt (c : Context) (n : Nat) : Nat := c.pageArea + 0x8040 + 32 * (n % 1022)

/-- The state after request `n` is finished: RESULT and MDONE. -/
def State.endMigration (s : State) (c n r : Nat) : State :=
  let x := s.ctx c
  let who := controllerParty s
  (s.setHome (x.reqAt n + 16) 1 r who).setHome (x.pageArea + 0x8008) 8 (n + 1) who

/-- The state without any cached translation of a page of a context. -/
def State.dropPage (s : State) (c vpn : Nat) : State :=
  let cut (l : List TlbEntry) : List TlbEntry := l.filter fun e => !e.covers c vpn
  { s with
    cores := s.cores.map fun (k : Nat × Core) => (k.1, { k.2 with tlb := cut k.2.tlb })
    dies := s.dies.map fun (d : Nat × Die) => (d.1, { d.2 with tlb := cut d.2.tlb }) }

/-- Page locks held of frames of a die. -/
def State.locksOf (s : State) (die : Nat) : Nat :=
  (s.contexts.filter fun c => c.2.lock.any fun l => Config.homeDie (ptePa l.pte) == die).length

/-- The leaf that a request moves: a present page of space device. -/
def State.movable (s : State) (c : Nat) (va : DWord) : Option (DWord × Nat) :=
  if !canonical va then none
  else
    match s.walk (s.ctx c).ptroot.toNat (bitsOf va 0 55) with
    | .leaf pte 16 at_ => if pteSpace pte == 0 then some (pte, at_) else none
    | _ => none

/-- Steps 1 and 2 of R367 for the next request of a context. [DEDUCED: notes/assumptions/61.md] -/
def State.startMigration (s : State) (c n : Nat) : State :=
  let a := (s.ctx c).reqAt n
  let va := s.mem.word a
  let target := (s.mem.word (a + 8)).toNat
  match s.movable c va with
  | none => s.endMigration c n 2
  | some (pte, at_) =>
    if target % 65536 != 0 || 2 ^ 39 ≤ target || s.mem.nat (a + 17) 15 != 0 then s.endMigration c n 2
    else if !s.owned c (ptePa pte / 65536) then
      (if (Assoc.get? s.zeroing (ptePa pte / 65536)).isSome then s
        else { s with zeroing := Assoc.set s.zeroing (ptePa pte / 65536) c })
    else if 16 ≤ s.locksOf (Config.homeDie (ptePa pte)) then s
    else (s.setCtx c { s.ctx c with lock := some ⟨n, vpnOf va, at_, pte, target⟩ }).dropPage c (vpnOf va)

/-- A leaf with PA and HOME replaced. -/
def movedLeaf (pte : DWord) (target : Nat) : DWord :=
  (pte &&& ~~~ 0x0000FFFFFFFF00C0) ||| BitVec.ofNat 64 (target + target / 2 ^ 37 % 4 * 2 ^ 6)

/-- Steps 3 to 7 of R367 for the page under the context's lock: the copy, then the compare-exchange of the leaf. -/
def State.finishMigration (s : State) (c : Nat) (l : MigLock) : State :=
  let unlocked (s : State) : State := s.setCtx c { s.ctx c with lock := none }
  let old := ptePa l.pte
  let frame := l.target / 65536
  let s := s.fillFrame l.target (s.mem.slice old 65536 l.target) (controllerParty s)
  let s := { s with bad := s.bad ++ ((s.bad.filter fun k => k / 2048 == old / 65536).map fun k => k % 2048 + frame * 2048) }
  if s.mem.word l.at_ != l.pte then (unlocked s).endMigration c l.n 3
  else
    let s := s.setHome l.at_ 8 (movedLeaf l.pte l.target).toNat (controllerParty s)
    let s := (unlocked s).dropPage c l.vpn
    let s := { s with owners := Assoc.set s.owners frame (.ctx c), zeroing := Assoc.erase s.zeroing frame }
    (((s.noteZf frame (pteZf l.pte)).freeFrame (old / 65536) (pteZf l.pte))).endMigration c l.n 1

/-- The state after the controller's next move for the migration requests of a context: it locks the page of the next one, or
finishes the one whose page is locked. -/
def State.migrate (s : State) (c : Nat) : State :=
  let x := s.ctx c
  let n := s.mem.nat (x.pageArea + 0x8008) 8
  if !x.trusted then s
  else
    match x.lock with
    | some l => s.finishMigration c l
    | none => if n < s.mem.nat (x.pageArea + 0x8000) 8 then s.startMigration c n else s

/-! ## Meanings -/

/-- PAGER_SERVICE. -/
def execPagerService (s : State) : Result := .next (s.pagerStep s.arg.ctx.toNat)

/-- PAGE_FAULT_SERVICE_OBSERVED: descriptor `arg.k` of context `arg.ctx`. -/
def execPageFaultServiceObserved (s : State) : Result := .next (s.observeService s.arg.ctx.toNat s.arg.k)

/-- MIGRATION_REQUEST: of context `arg.ctx`. -/
def execMigrationRequest (s : State) : Result := .next (s.migrate s.arg.ctx.toNat)

end Sys2Proof.Machine
end

