-- ==== Sys2Proof/Machine/Pred.lean ====
section
/-! DEFINITION. Predicate instructions (R107, Table 4-8). -/

namespace Sys2Proof.Machine

/-- The predicates that A and B name, each inverted where its SUB bit says so. -/
def predA (x : Alu) (d : Strand) : Bool := d.pred x.a.toNat != x.sub.getLsbD 0
def predB (x : Alu) (d : Strand) : Bool :=
  (match x.b with | .code c => d.pred c.toNat | _ => false) != x.sub.getLsbD 1

/-- `pand`, `por`, `pxor`. -/
def predBody (f : Bool → Bool → Bool) (x : Alu) : M Flow := do
  modifyCur fun d => d.writeP x.d.toNat (f (predA x d) (predB x d))
  pure .next

/-- `pnot`. -/
def pnotBody (x : Alu) : M Flow := do
  modifyCur fun d => d.writeP x.d.toNat (!d.pred x.a.toNat)
  pure .next

/-- The strand with a bank of 32 predicates written from the low bits of a value; each is renamed on its own. -/
def Strand.writeBank (d : Strand) (base : Nat) (v : DWord) : Strand :=
  (List.range 32).foldl (fun (d : Strand) j => d.writeP (base + j) (v.getLsbD j)) d

/-- A bank of 32 predicates as a number. -/
def Strand.readBank (d : Strand) (base : Nat) : Nat :=
  (List.range 32).foldl (fun n j => n + (if d.pred (base + j) then 2 ^ j else 0)) 0

/-- `pmov`. -/
def pmovBody (x : Alu) : M Flow := do
  if x.sub = 0 then modifyCur fun d => d.writeP x.d.toNat (d.pred x.a.toNat)
  else if x.sub = 1 then do
    let vs ← operands [x.a.toNat] none
    modifyCur fun d => d.writeBank x.d.toNat (vs.headD 0)
  else do
    let _ ← operands [] (some x.d.toNat)
    let s ← get
    writeDst x.d.toNat (BitVec.ofNat 64 (s.curStrand.readBank x.a.toNat))
  pure .next

/-- `pset`. -/
def psetBody (x : Alu) : M Flow := do
  if x.sub.getLsbD 1 then do
    let vs ← operands [x.a.toNat] none
    writePred x.d.toNat ((vs.headD 0 != 0) != x.sub.getLsbD 0)
  else writePred x.d.toNat (x.sub.getLsbD 0)
  pure .next

/-! ## Meanings -/

/-- pand, short form. -/
def execPand (x : Short) (s : State) : Result := runStrand (.short 0x30 x) (predBody and x.toAlu) s

/-- pand, long form. -/
def execPandLong (x : Alu) (s : State) : Result := runStrand (.alu 0x30 x) (predBody and x) s

/-- por, short form. -/
def execPor (x : Short) (s : State) : Result := runStrand (.short 0x31 x) (predBody or x.toAlu) s

/-- por, long form. -/
def execPorLong (x : Alu) (s : State) : Result := runStrand (.alu 0x31 x) (predBody or x) s

/-- pxor, short form. -/
def execPxor (x : Short) (s : State) : Result := runStrand (.short 0x32 x) (predBody xor x.toAlu) s

/-- pxor, long form. -/
def execPxorLong (x : Alu) (s : State) : Result := runStrand (.alu 0x32 x) (predBody xor x) s

/-- pnot, short form. -/
def execPnot (x : Short) (s : State) : Result := runStrand (.short 0x33 x) (pnotBody x.toAlu) s

/-- pnot, long form. -/
def execPnotLong (x : Alu) (s : State) : Result := runStrand (.alu 0x33 x) (pnotBody x) s

/-- pmov, short form. -/
def execPmov (x : Short) (s : State) : Result := runStrand (.short 0x34 x) (pmovBody x.toAlu) s

/-- pmov, long form. -/
def execPmovLong (x : Alu) (s : State) : Result := runStrand (.alu 0x34 x) (pmovBody x) s

/-- pset, short form. -/
def execPset (x : Short) (s : State) : Result := runStrand (.short 0x35 x) (psetBody x.toAlu) s

/-- pset, long form. -/
def execPsetLong (x : Alu) (s : State) : Result := runStrand (.alu 0x35 x) (psetBody x) s

end Sys2Proof.Machine
end

