-- ==== Sys2Proof/Machine/Trace.lean ====
section
/-! DEFINITION. The ring writer (R424) and the loss packets of the sources (R425). -/

namespace Sys2Proof.Machine

/-- Bytes of packets that the ring holds. -/
def State.traceRoom (s : State) : Nat := s.traceSize - 65536

/-- The ring writer accepts a packet (R424). -/
def State.traceAccepts (s : State) : Bool :=
  s.traceSize != 0 && (s.wptr + 2 ^ 64 - s.mem.nat (s.traceBase + 8) 8) % 2 ^ 64 ≤ s.traceRoom - 64

/-- The state after the ring writer has written the oldest packet of a source and advanced WPTR past it. -/
def State.writePacket (s : State) (src : Party) : State :=
  let x := Assoc.getD s.trace (ringOf src) {}
  match x.buf with
  | [] => s
  | p :: rest =>
    if !s.traceAccepts then s
    else
      let at_ := s.traceBase + 65536 + s.wptr % s.traceRoom
      let s := { s with trace := Assoc.set s.trace (ringOf src) { x with buf := rest } }
      let s := s.writeHome at_ (p.words.flatMap fun w => leBytes w.toNat 8) (controllerParty s)
      { s with wptr := (s.wptr + 64) % 2 ^ 64 }.setHome s.traceBase 8 ((s.wptr + 64) % 2 ^ 64) (controllerParty s)

/-- TRACE_PACKET_WRITE: of source `arg.src`. -/
def execTracePacketWrite (s : State) : Result := .next (s.writePacket s.arg.src)

/-- LOSS_COUNT_PACKET: source `arg.src` has room again. -/
def execLossCountPacket (s : State) : Result :=
  .next { s with trace := Assoc.set s.trace (ringOf s.arg.src) ((Assoc.getD s.trace (ringOf s.arg.src) {}).report s.arg.src s.cycle) }

end Sys2Proof.Machine
end

