-- ==== Sys2Proof/Machine/Dispatch.lean ====
section
/-! DEFINITION. One arm per instruction and event: the meaning of each. -/

namespace Sys2Proof.Machine

def exec (i : Instr) (s : State) : Host.Outcome State Fault Refusal :=
  match i with
  | .nop x => Sys2Proof.Machine.execNop x s
  | .nopLong x => Sys2Proof.Machine.execNopLong x s
  | .add x => Sys2Proof.Machine.execAdd x s
  | .addLong x => Sys2Proof.Machine.execAddLong x s
  | .sub x => Sys2Proof.Machine.execSub x s
  | .subLong x => Sys2Proof.Machine.execSubLong x s
  | .mul x => Sys2Proof.Machine.execMul x s
  | .mulLong x => Sys2Proof.Machine.execMulLong x s
  | .mulh x => Sys2Proof.Machine.execMulh x s
  | .mulhLong x => Sys2Proof.Machine.execMulhLong x s
  | .div x => Sys2Proof.Machine.execDiv x s
  | .divLong x => Sys2Proof.Machine.execDivLong x s
  | .rem x => Sys2Proof.Machine.execRem x s
  | .remLong x => Sys2Proof.Machine.execRemLong x s
  | .and x => Sys2Proof.Machine.execAnd x s
  | .andLong x => Sys2Proof.Machine.execAndLong x s
  | .or x => Sys2Proof.Machine.execOr x s
  | .orLong x => Sys2Proof.Machine.execOrLong x s
  | .xor x => Sys2Proof.Machine.execXor x s
  | .xorLong x => Sys2Proof.Machine.execXorLong x s
  | .andn x => Sys2Proof.Machine.execAndn x s
  | .andnLong x => Sys2Proof.Machine.execAndnLong x s
  | .shl x => Sys2Proof.Machine.execShl x s
  | .shlLong x => Sys2Proof.Machine.execShlLong x s
  | .shr x => Sys2Proof.Machine.execShr x s
  | .shrLong x => Sys2Proof.Machine.execShrLong x s
  | .sar x => Sys2Proof.Machine.execSar x s
  | .sarLong x => Sys2Proof.Machine.execSarLong x s
  | .rot x => Sys2Proof.Machine.execRot x s
  | .rotLong x => Sys2Proof.Machine.execRotLong x s
  | .min x => Sys2Proof.Machine.execMin x s
  | .minLong x => Sys2Proof.Machine.execMinLong x s
  | .max x => Sys2Proof.Machine.execMax x s
  | .maxLong x => Sys2Proof.Machine.execMaxLong x s
  | .abs x => Sys2Proof.Machine.execAbs x s
  | .absLong x => Sys2Proof.Machine.execAbsLong x s
  | .clz x => Sys2Proof.Machine.execClz x s
  | .clzLong x => Sys2Proof.Machine.execClzLong x s
  | .ctz x => Sys2Proof.Machine.execCtz x s
  | .ctzLong x => Sys2Proof.Machine.execCtzLong x s
  | .popc x => Sys2Proof.Machine.execPopc x s
  | .popcLong x => Sys2Proof.Machine.execPopcLong x s
  | .bfx x => Sys2Proof.Machine.execBfx x s
  | .bfxLong x => Sys2Proof.Machine.execBfxLong x s
  | .bfi x => Sys2Proof.Machine.execBfi x s
  | .bfiLong x => Sys2Proof.Machine.execBfiLong x s
  | .sel x => Sys2Proof.Machine.execSel x s
  | .selLong x => Sys2Proof.Machine.execSelLong x s
  | .mov x => Sys2Proof.Machine.execMov x s
  | .movLong x => Sys2Proof.Machine.execMovLong x s
  | .movi x => Sys2Proof.Machine.execMovi x s
  | .moviHi x => Sys2Proof.Machine.execMoviHi x s
  | .lea x => Sys2Proof.Machine.execLea x s
  | .leaLong x => Sys2Proof.Machine.execLeaLong x s
  | .cmp x => Sys2Proof.Machine.execCmp x s
  | .cmpLong x => Sys2Proof.Machine.execCmpLong x s
  | .fadd x => Sys2Proof.Machine.execFadd x s
  | .faddLong x => Sys2Proof.Machine.execFaddLong x s
  | .fsub x => Sys2Proof.Machine.execFsub x s
  | .fsubLong x => Sys2Proof.Machine.execFsubLong x s
  | .fmul x => Sys2Proof.Machine.execFmul x s
  | .fmulLong x => Sys2Proof.Machine.execFmulLong x s
  | .ffma x => Sys2Proof.Machine.execFfma x s
  | .ffmaLong x => Sys2Proof.Machine.execFfmaLong x s
  | .fmin x => Sys2Proof.Machine.execFmin x s
  | .fminLong x => Sys2Proof.Machine.execFminLong x s
  | .fmax x => Sys2Proof.Machine.execFmax x s
  | .fmaxLong x => Sys2Proof.Machine.execFmaxLong x s
  | .fcmp x => Sys2Proof.Machine.execFcmp x s
  | .fcmpLong x => Sys2Proof.Machine.execFcmpLong x s
  | .fcvt x => Sys2Proof.Machine.execFcvt x s
  | .fcvtLong x => Sys2Proof.Machine.execFcvtLong x s
  | .fdiv x => Sys2Proof.Machine.execFdiv x s
  | .fdivLong x => Sys2Proof.Machine.execFdivLong x s
  | .fsqrt x => Sys2Proof.Machine.execFsqrt x s
  | .fsqrtLong x => Sys2Proof.Machine.execFsqrtLong x s
  | .fneg x => Sys2Proof.Machine.execFneg x s
  | .fnegLong x => Sys2Proof.Machine.execFnegLong x s
  | .fclass x => Sys2Proof.Machine.execFclass x s
  | .fclassLong x => Sys2Proof.Machine.execFclassLong x s
  | .pand x => Sys2Proof.Machine.execPand x s
  | .pandLong x => Sys2Proof.Machine.execPandLong x s
  | .por x => Sys2Proof.Machine.execPor x s
  | .porLong x => Sys2Proof.Machine.execPorLong x s
  | .pxor x => Sys2Proof.Machine.execPxor x s
  | .pxorLong x => Sys2Proof.Machine.execPxorLong x s
  | .pnot x => Sys2Proof.Machine.execPnot x s
  | .pnotLong x => Sys2Proof.Machine.execPnotLong x s
  | .pmov x => Sys2Proof.Machine.execPmov x s
  | .pmovLong x => Sys2Proof.Machine.execPmovLong x s
  | .pset x => Sys2Proof.Machine.execPset x s
  | .psetLong x => Sys2Proof.Machine.execPsetLong x s
  | .br disp => Sys2Proof.Machine.execBr disp s
  | .brLong x => Sys2Proof.Machine.execBrLong x s
  | .brr x => Sys2Proof.Machine.execBrr x s
  | .call disp => Sys2Proof.Machine.execCall disp s
  | .callLong x => Sys2Proof.Machine.execCallLong x s
  | .ret x => Sys2Proof.Machine.execRet x s
  | .retLong x => Sys2Proof.Machine.execRetLong x s
  | .loop x => Sys2Proof.Machine.execLoop x s
  | .bloop disp => Sys2Proof.Machine.execBloop disp s
  | .bloopLong x => Sys2Proof.Machine.execBloopLong x s
  | .lbrk x => Sys2Proof.Machine.execLbrk x s
  | .rbset x => Sys2Proof.Machine.execRbset x s
  | .fork x => Sys2Proof.Machine.execFork x s
  | .join x => Sys2Proof.Machine.execJoin x s
  | .rdv x => Sys2Proof.Machine.execRdv x s
  | .rdvLong x => Sys2Proof.Machine.execRdvLong x s
  | .halt x => Sys2Proof.Machine.execHalt x s
  | .haltLong x => Sys2Proof.Machine.execHaltLong x s
  | .exit x => Sys2Proof.Machine.execExit x s
  | .exitSucc x => Sys2Proof.Machine.execExitSucc x s
  | .qbind x => Sys2Proof.Machine.execQbind x s
  | .qfree x => Sys2Proof.Machine.execQfree x s
  | .qstat x => Sys2Proof.Machine.execQstat x s
  | .stbind x => Sys2Proof.Machine.execStbind x s
  | .ststop x => Sys2Proof.Machine.execStstop x s
  | .ldp x => Sys2Proof.Machine.execLdp x s
  | .stp x => Sys2Proof.Machine.execStp x s
  | .lds x => Sys2Proof.Machine.execLds x s
  | .sts x => Sys2Proof.Machine.execSts x s
  | .ldn x => Sys2Proof.Machine.execLdn x s
  | .stn x => Sys2Proof.Machine.execStn x s
  | .ldg x => Sys2Proof.Machine.execLdg x s
  | .stg x => Sys2Proof.Machine.execStg x s
  | .ldx x => Sys2Proof.Machine.execLdx x s
  | .stx x => Sys2Proof.Machine.execStx x s
  | .ldh x => Sys2Proof.Machine.execLdh x s
  | .sth x => Sys2Proof.Machine.execSth x s
  | .ams x => Sys2Proof.Machine.execAms x s
  | .amn x => Sys2Proof.Machine.execAmn x s
  | .amg x => Sys2Proof.Machine.execAmg x s
  | .amx x => Sys2Proof.Machine.execAmx x s
  | .amh x => Sys2Proof.Machine.execAmh x s
  | .qmark x => Sys2Proof.Machine.execQmark x s
  | .rfence x => Sys2Proof.Machine.execRfence x s
  | .cflush x => Sys2Proof.Machine.execCflush x s
  | .pfch x => Sys2Proof.Machine.execPfch x s
  | .tlwait x => Sys2Proof.Machine.execTlwait x s
  | .tlinc x => Sys2Proof.Machine.execTlinc x s
  | .tlread x => Sys2Proof.Machine.execTlread x s
  | .tlset x => Sys2Proof.Machine.execTlset x s
  | .bar x => Sys2Proof.Machine.execBar x s
  | .barx x => Sys2Proof.Machine.execBarx x s
  | .cwait x => Sys2Proof.Machine.execCwait x s
  | .cpstat x => Sys2Proof.Machine.execCpstat x s
  | .launch x => Sys2Proof.Machine.execLaunch x s
  | .rsdecl x => Sys2Proof.Machine.execRsdecl x s
  | .rsdrop x => Sys2Proof.Machine.execRsdrop x s
  | .rsread x => Sys2Proof.Machine.execRsread x s
  | .tlnext x => Sys2Proof.Machine.execTlnext x s
  | .cpmarkBeg x => Sys2Proof.Machine.execCpmarkBeg x s
  | .cpmarkEnd x => Sys2Proof.Machine.execCpmarkEnd x s
  | .tmark x => Sys2Proof.Machine.execTmark x s
  | .brk x => Sys2Proof.Machine.execBrk x s
  | .ccnt x => Sys2Proof.Machine.execCcnt x s
  | .ccntLong x => Sys2Proof.Machine.execCcntLong x s
  | .sys x => Sys2Proof.Machine.execSys x s
  | .trap x => Sys2Proof.Machine.execTrap x s
  | .eret x => Sys2Proof.Machine.execEret x s
  | .csrr x => Sys2Proof.Machine.execCsrr x s
  | .csrw x => Sys2Proof.Machine.execCsrw x s
  | .ovtld x => Sys2Proof.Machine.execOvtld x s
  | .tlbinv x => Sys2Proof.Machine.execTlbinv x s
  | .vadd x => Sys2Proof.Machine.execVadd x s
  | .vsub x => Sys2Proof.Machine.execVsub x s
  | .vmul x => Sys2Proof.Machine.execVmul x s
  | .vfma x => Sys2Proof.Machine.execVfma x s
  | .vmin x => Sys2Proof.Machine.execVmin x s
  | .vmax x => Sys2Proof.Machine.execVmax x s
  | .vabs x => Sys2Proof.Machine.execVabs x s
  | .vneg x => Sys2Proof.Machine.execVneg x s
  | .vcmp x => Sys2Proof.Machine.execVcmp x s
  | .vsel x => Sys2Proof.Machine.execVsel x s
  | .vcvt x => Sys2Proof.Machine.execVcvt x s
  | .vand x => Sys2Proof.Machine.execVand x s
  | .vor x => Sys2Proof.Machine.execVor x s
  | .vxor x => Sys2Proof.Machine.execVxor x s
  | .vshl x => Sys2Proof.Machine.execVshl x s
  | .vshr x => Sys2Proof.Machine.execVshr x s
  | .vclamp x => Sys2Proof.Machine.execVclamp x s
  | .vexp x => Sys2Proof.Machine.execVexp x s
  | .vexp2 x => Sys2Proof.Machine.execVexp2 x s
  | .vlog x => Sys2Proof.Machine.execVlog x s
  | .vlog2 x => Sys2Proof.Machine.execVlog2 x s
  | .vrcp x => Sys2Proof.Machine.execVrcp x s
  | .vrsq x => Sys2Proof.Machine.execVrsq x s
  | .vsqrt x => Sys2Proof.Machine.execVsqrt x s
  | .vtanh x => Sys2Proof.Machine.execVtanh x s
  | .vsigm x => Sys2Proof.Machine.execVsigm x s
  | .vred x => Sys2Proof.Machine.execVred x s
  | .vscan x => Sys2Proof.Machine.execVscan x s
  | .vdot x => Sys2Proof.Machine.execVdot x s
  | .vperm x => Sys2Proof.Machine.execVperm x s
  | .vgath x => Sys2Proof.Machine.execVgath x s
  | .vscat x => Sys2Proof.Machine.execVscat x s
  | .vmov x => Sys2Proof.Machine.execVmov x s
  | .vfill x => Sys2Proof.Machine.execVfill x s
  | .visect x => Sys2Proof.Machine.execVisect x s
  | .vhash x => Sys2Proof.Machine.execVhash x s
  | .vcnt x => Sys2Proof.Machine.execVcnt x s
  | .vcmpr x => Sys2Proof.Machine.execVcmpr x s
  | .vscale x => Sys2Proof.Machine.execVscale x s
  | .sdef x => Sys2Proof.Machine.execSdef x s
  | .sset x => Sys2Proof.Machine.execSset x s
  | .sget x => Sys2Proof.Machine.execSget x s
  | .sadv x => Sys2Proof.Machine.execSadv x s
  | .sfmt x => Sys2Proof.Machine.execSfmt x s
  | .mlease x => Sys2Proof.Machine.execMlease x s
  | .mfree x => Sys2Proof.Machine.execMfree x s
  | .mclaim x => Sys2Proof.Machine.execMclaim x s
  | .mrel x => Sys2Proof.Machine.execMrel x s
  | .mload x => Sys2Proof.Machine.execMload x s
  | .mbeg x => Sys2Proof.Machine.execMbeg x s
  | .mend x => Sys2Proof.Machine.execMend x s
  | .mmul x => Sys2Proof.Machine.execMmul x s
  | .mzero x => Sys2Proof.Machine.execMzero x s
  | .mstore x => Sys2Proof.Machine.execMstore x s
  | .mbmap x => Sys2Proof.Machine.execMbmap x s
  | .mstat x => Sys2Proof.Machine.execMstat x s
  | .cpy x => Sys2Proof.Machine.execCpy x s
  | .cpt x => Sys2Proof.Machine.execCpt x s
  | .cpg x => Sys2Proof.Machine.execCpg x s
  | .cps x => Sys2Proof.Machine.execCps x s
  | .cpm x => Sys2Proof.Machine.execCpm x s
  | .cpc x => Sys2Proof.Machine.execCpc x s
  | .cpz x => Sys2Proof.Machine.execCpz x s
  | .cpk x => Sys2Proof.Machine.execCpk x s
  | .vdec x => Sys2Proof.Machine.execVdec x s
  | .venc x => Sys2Proof.Machine.execVenc x s
  | .flow x => Sys2Proof.Machine.execFlow x s
  | .cmrun x => Sys2Proof.Machine.execCmrun x s
  | .sectionHeader h => Sys2Proof.Machine.execSectionHeader h s
  | .unassignedOpcode w => Sys2Proof.Machine.execUnassignedOpcode w s
  | .sectionWaitSatisfied => Sys2Proof.Machine.execSectionWaitSatisfied s
  | .queuePopResume => Sys2Proof.Machine.execQueuePopResume s
  | .queuePushResume => Sys2Proof.Machine.execQueuePushResume s
  | .joinComplete => Sys2Proof.Machine.execJoinComplete s
  | .transferWaitEnd => Sys2Proof.Machine.execTransferWaitEnd s
  | .tableWaitEnd => Sys2Proof.Machine.execTableWaitEnd s
  | .engineQueueSpace => Sys2Proof.Machine.execEngineQueueSpace s
  | .scalarEngineWaitEnd => Sys2Proof.Machine.execScalarEngineWaitEnd s
  | .loadDataReturn => Sys2Proof.Machine.execLoadDataReturn s
  | .linkCompletion => Sys2Proof.Machine.execLinkCompletion s
  | .runLimitExpiry => Sys2Proof.Machine.execRunLimitExpiry s
  | .stopRequest => Sys2Proof.Machine.execStopRequest s
  | .freezeWindowExpiry => Sys2Proof.Machine.execFreezeWindowExpiry s
  | .imageResultReturn => Sys2Proof.Machine.execImageResultReturn s
  | .imageComplete => Sys2Proof.Machine.execImageComplete s
  | .dispatchChoice => Sys2Proof.Machine.execDispatchChoice s
  | .preemptionTimeout => Sys2Proof.Machine.execPreemptionTimeout s
  | .parkTimeout => Sys2Proof.Machine.execParkTimeout s
  | .parkedWaitReread => Sys2Proof.Machine.execParkedWaitReread s
  | .timelineWaitRelease => Sys2Proof.Machine.execTimelineWaitRelease s
  | .hostLaunchAccept => Sys2Proof.Machine.execHostLaunchAccept s
  | .launchComplete => Sys2Proof.Machine.execLaunchComplete s
  | .exitCarveStallEnd => Sys2Proof.Machine.execExitCarveStallEnd s
  | .claimReleaseAtExit => Sys2Proof.Machine.execClaimReleaseAtExit s
  | .contextCreate => Sys2Proof.Machine.execContextCreate s
  | .contextUpdate => Sys2Proof.Machine.execContextUpdate s
  | .contextSuspend => Sys2Proof.Machine.execContextSuspend s
  | .contextSuspended => Sys2Proof.Machine.execContextSuspended s
  | .contextResume => Sys2Proof.Machine.execContextResume s
  | .contextDestroy => Sys2Proof.Machine.execContextDestroy s
  | .contextDestroyFinish => Sys2Proof.Machine.execContextDestroyFinish s
  | .queueCreate => Sys2Proof.Machine.execQueueCreate s
  | .queueUpdate => Sys2Proof.Machine.execQueueUpdate s
  | .queueStop => Sys2Proof.Machine.execQueueStop s
  | .queueRestart => Sys2Proof.Machine.execQueueRestart s
  | .queuePoison => Sys2Proof.Machine.execQueuePoison s
  | .queueDestroy => Sys2Proof.Machine.execQueueDestroy s
  | .queueDestroyFinish => Sys2Proof.Machine.execQueueDestroyFinish s
  | .thresholds => Sys2Proof.Machine.execThresholds s
  | .deviceModes => Sys2Proof.Machine.execDeviceModes s
  | .timelinePoisonCommand => Sys2Proof.Machine.execTimelinePoisonCommand s
  | .frameOwnerNone => Sys2Proof.Machine.execFrameOwnerNone s
  | .frameOwnerShared => Sys2Proof.Machine.execFrameOwnerShared s
  | .frameOwnerContext => Sys2Proof.Machine.execFrameOwnerContext s
  | .traceRing => Sys2Proof.Machine.execTraceRing s
  | .hoopOffline => Sys2Proof.Machine.execHoopOffline s
  | .hoopOnline => Sys2Proof.Machine.execHoopOnline s
  | .linkDisable => Sys2Proof.Machine.execLinkDisable s
  | .linkEnable => Sys2Proof.Machine.execLinkEnable s
  | .linkRetrain => Sys2Proof.Machine.execLinkRetrain s
  | .stage => Sys2Proof.Machine.execStage s
  | .switch => Sys2Proof.Machine.execSwitch s
  | .debugUnlock => Sys2Proof.Machine.execDebugUnlock s
  | .sensorSample => Sys2Proof.Machine.execSensorSample s
  | .clampPoint2Timeout => Sys2Proof.Machine.execClampPoint2Timeout s
  | .patrolScrub => Sys2Proof.Machine.execPatrolScrub s
  | .boot => Sys2Proof.Machine.execBoot s
  | .linkTrained => Sys2Proof.Machine.execLinkTrained s
  | .linkTrainingTimeout => Sys2Proof.Machine.execLinkTrainingTimeout s
  | .linkUncorrectableError => Sys2Proof.Machine.execLinkUncorrectableError s
  | .surpriseRemoval => Sys2Proof.Machine.execSurpriseRemoval s
  | .completionTimeout => Sys2Proof.Machine.execCompletionTimeout s
  | .hostMrd => Sys2Proof.Machine.execHostMrd s
  | .hostMwr => Sys2Proof.Machine.execHostMwr s
  | .hostAtomicop => Sys2Proof.Machine.execHostAtomicop s
  | .peerRequest => Sys2Proof.Machine.execPeerRequest s
  | .tracePacketWrite => Sys2Proof.Machine.execTracePacketWrite s
  | .lossCountPacket => Sys2Proof.Machine.execLossCountPacket s
  | .debugHalt => Sys2Proof.Machine.execDebugHalt s
  | .debugResume => Sys2Proof.Machine.execDebugResume s
  | .accessRegister => Sys2Proof.Machine.execAccessRegister s
  | .accessMemory => Sys2Proof.Machine.execAccessMemory s
  | .debugErrClear => Sys2Proof.Machine.execDebugErrClear s
  | .cordonnetWalk => Sys2Proof.Machine.execCordonnetWalk s
  | .decodeRun => Sys2Proof.Machine.execDecodeRun s
  | .encodeRun => Sys2Proof.Machine.execEncodeRun s
  | .flowRun => Sys2Proof.Machine.execFlowRun s
  | .changeMaskRun => Sys2Proof.Machine.execChangeMaskRun s
  | .hostAssistedRunRelease => Sys2Proof.Machine.execHostAssistedRunRelease s
  | .runEnd => Sys2Proof.Machine.execRunEnd s
  | .runQueueEntryFree => Sys2Proof.Machine.execRunQueueEntryFree s
  | .copyCommandStart => Sys2Proof.Machine.execCopyCommandStart s
  | .copyCommandComplete => Sys2Proof.Machine.execCopyCommandComplete s
  | .streamStart => Sys2Proof.Machine.execStreamStart s
  | .streamEnd => Sys2Proof.Machine.execStreamEnd s
  | .leaseGrant => Sys2Proof.Machine.execLeaseGrant s
  | .leaseIdleTimeout => Sys2Proof.Machine.execLeaseIdleTimeout s
  | .mfreeAtHead => Sys2Proof.Machine.execMfreeAtHead s
  | .matrixCommandStart => Sys2Proof.Machine.execMatrixCommandStart s
  | .matrixCommandComplete => Sys2Proof.Machine.execMatrixCommandComplete s
  | .vectorCommandComplete => Sys2Proof.Machine.execVectorCommandComplete s
  | .zeroingComplete => Sys2Proof.Machine.execZeroingComplete s
  | .frameZeroingComplete => Sys2Proof.Machine.execFrameZeroingComplete s
  | .pagerService => Sys2Proof.Machine.execPagerService s
  | .pageFaultServiceObserved => Sys2Proof.Machine.execPageFaultServiceObserved s
  | .migrationRequest => Sys2Proof.Machine.execMigrationRequest s
  | .barrierPost => Sys2Proof.Machine.execBarrierPost s
  | .ptmTimeUpdate => Sys2Proof.Machine.execPtmTimeUpdate s
  | .linkCorrectableError => Sys2Proof.Machine.execLinkCorrectableError s
  | .spdmRequest => Sys2Proof.Machine.execSpdmRequest s
  | .hbmRecalibration => Sys2Proof.Machine.execHbmRecalibration s

end Sys2Proof.Machine
end

