-- ==== Sys2Proof/Machine/Fetch.lean ====
section
/-! DEFINITION. What comes before an instruction or an event executes: the turn, the passing of cycles, evictions of cached
copies (notes/assumptions/1.md), and the fetch of an instruction's words (R54, R55, R361). -/

namespace Sys2Proof.Machine

/-! ## Turns -/

/-- The next turn: the head of the list, or one cycle of the current strand when the list is empty. -/
def State.nextTurn (s : State) : Turn :=
  match s.turns with
  | t :: _ => t
  | [] => { who := .strand s.cur }

/-- The state with an uncorrectable error of a hoop's SRAMs counted (R433). -/
def State.noteError (s : State) (h : Nat) : State :=
  let x := s.hoop h
  s.setHoop h { x with errors := (s.cycle :: x.errors).take 16 }

/-- The list with the copy of a sector marked as in error. -/
def spoil (l : List Sector) (a : Nat) : List Sector := l.map fun e => if e.addr == a / 32 * 32 then { e with bad := true } else e

/-- The state after a memory has done something of itself: a cached copy is evicted (R131, R133, R228, R359), a store performs
(R254), an SRAM sector has an uncorrectable error (R140, R204). [DEDUCED: notes/assumptions/42.md] -/
def State.evict (s : State) (e : Evict) : State :=
  match e with
  | .l1 c a => s.setCore c { s.core c with l1 := (s.core c).l1.filter fun x => x.addr != a / 32 * 32 }
  | .rdc d a => s.setDie d { s.die d with rdc := (s.die d).rdc.filter fun x => x.addr != a / 32 * 32 }
  | .record h c i => s.setHoop h { s.hoop h with record := (s.hoop h).record.filter fun x => x.ctx != c || x.id != i }
  | .tlb c x v => s.setCore c { s.core c with tlb := (s.core c).tlb.filter fun t => !(t.covers x v) }
  | .tlb2 d x v => s.setDie d { s.die d with tlb := (s.die d).tlb.filter fun t => !(t.covers x v) }
  | .store r i => s.land r i
  | .badPad c k =>
    if c < 1024 && k < 8192 then
      let new := ((List.range 32).map fun i => 32 * k + i).filter fun b => !(s.core c).bad.contains b
      (s.setCore c { s.core c with bad := (s.core c).bad ++ new }).noteError (hoopOf c)
    else s
  | .badL1 c a =>
    if (s.core c).l1.any fun e => e.addr == a / 32 * 32 then
      (s.setCore c { s.core c with l1 := spoil (s.core c).l1 a }).noteError (hoopOf c)
    else s
  | .badRdc d a => s.setDie d { s.die d with rdc := spoil (s.die d).rdc a }
  | .badL2 a => if a < 2 ^ 39 && !s.bad.contains (a / 32) then { s with bad := s.bad ++ [a / 32] } else s
  | .badSlot h n =>
    if h < 256 && n < 32 then
      (s.setHoop h { s.hoop h with slots := Assoc.set (s.hoop h).slots n { (s.hoop h).slot n with bad := true } }).noteError h
    else s
  | .badAcc h n =>
    if h < 256 && n < 8 then
      (s.setHoop h { s.hoop h with accs := Assoc.set (s.hoop h).accs n { (s.hoop h).acc n with bad := true } }).noteError h
    else s

/-- The state as a turn begins: the turn taken off the list, its cycles passed, what memories do of themselves done. The counter
stands for the cycles by which it is slewed back (R379). When the cycle is over, the groups of members that have faulted in it have
ended (R341). -/
def State.begin (s : State) (t : Turn) : State :=
  let s := if t.cycles = 0 then s else s.endGroups
  t.evict.foldl State.evict { s with
    turns := s.turns.tail, cycle := s.cycle + (t.cycles - s.lag), lag := s.lag - t.cycles, defer := t.defer, late := t.late }

/-! ## Fetch -/

/-- Translation of a fetch (R361): like a G read with X required, without fault service. A page that is not present or not
executable gives the fetch fault (R55); what else stops a G read stops a fetch as it does there (R126, R358).
[DEDUCED: notes/assumptions/28.md] -/
def State.translateFetch (s : State) (x : Access) (va : DWord) : Xlat × State :=
  let ok (pte : DWord) : Bool := pteX pte && pteSpace pte == 0
  let walk (s : State) : Xlat × State :=
    match s.walk (s.ctx x.ctx).ptroot.toNat (bitsOf va 0 55) with
    | .leaf pte shift _ =>
      if pteSpace pte != 0 then (.trap 18, s) else if pteX pte then s.claim x va pte shift else (.trap 5, s)
    | .absent _ _ _ => (.trap 5, s)
    | .malformed => (.trap 21, s)
    | .ecc => (.trap 23, s)
  if !canonical va then (.trap 17, s)
  else
    match s.cached x (vpnOf va) with
    | some e =>
      if !ok e.pte then walk (s.dropTlb x (vpnOf va))
      else if 16 < e.size then s.claim x va e.pte e.size
      else (.ok (mapped e.pte e.size (bitsOf va 0 55)) e.pte, s)
    | none => walk s

/-- The access of a fetch of a strand. [DEDUCED: notes/assumptions/28.md] -/
def State.fetchAccess (s : State) (r : StrandRef) : Access :=
  let x := s.task r.task
  { ctx := x.ctx, core := some x.core, die := dieOf x.core, party := s.strandParty r, joined := .strand r }

/-- One word of the instruction stream, read at the home L2, or what keeps it from being read: a trap with the word's
address, or a stall. -/
def State.fetchWord (s : State) (r : StrandRef) (va : DWord) : Except Stop Word × State :=
  match s.translateFetch (s.fetchAccess r) va with
  | (.ok pa _, s) =>
    if s.isBad pa 4 then (.error (.trap { cause := 23, value := some va }), s)
    else (.ok (BitVec.ofNat 32 (s.mem.nat pa 4)), s)
  | (.stall y, s) => (.error (.stall y true), s)
  | (.trap k, s) => (.error (.trap { cause := k, value := some va }), s)

/-- `n` words of the instruction stream. -/
def State.fetchWords (s : State) (r : StrandRef) (va : DWord) : Nat → Except Stop (List Word) × State
  | 0 => (.ok [], s)
  | n + 1 =>
    match s.fetchWord r va with
    | (.error e, s) => (.error e, s)
    | (.ok w, s) =>
      match State.fetchWords s r (va + 4) n with
      | (.error e, s) => (.error e, s)
      | (.ok ws, s) => (.ok (w :: ws), s)

/-- What a fetch gives: an instruction, or what happens instead. -/
inductive Fetched where
  | run (i : Instr)
  | stop (e : Stop)
  deriving DecidableEq, Repr

/-- The instruction at a strand's PC (R54, R55): the first word gives the length; an instruction that is no section header
and leaves the section in force is trapped before its other words are read (R82). -/
def State.fetchInstr (s : State) (r : StrandRef) : Fetched × State :=
  let d := s.strand r
  match s.fetchWord r d.pc with
  | (.error e, s) => (.stop e, s)
  | (.ok w0, s) =>
    let illegal : Fetched := .stop (.trap { cause := 1, value := some (w0.zeroExtend 64) })
    if w0.extractLsb' 0 2 != 3 && !d.inSection (4 * lengthWords w0) then (illegal, s)
    else
      match s.fetchWords r (d.pc + 4) (lengthWords w0 - 1) with
      | (.error e, s) => (.stop e, s)
      | (.ok ws, s) =>
        match decodeWords w0 (ws.getD 0 0) (ws.getD 1 0) with
        | .ok i => (.run i, s)
        | .error _ => (illegal, s)

/-- The carves of a task's group are zeroed, so that its main strands may start (R335). -/
def State.carvesReady (s : State) (t : Nat) : Bool :=
  (s.members t).all fun m =>
    let x := s.task m
    (s.core x.core).zeroing.all fun k => k < x.gran0 || x.gran0 + x.hdr.gran ≤ k

/-- The window of a stop is over: a strand that is still held to its iteration boundary is about to be frozen (R288 step 2). -/
def Task.windowOver (x : Task) (now : Nat) : Bool := x.stopReq.any fun r => r.arrived + 600 ≤ now

/-- The strand issues when its turn comes: it is running or stalled, its task is placed, and no stop or debug halt holds it
(R94, R288, R417); its first instruction waits for the carves of its group (R335). -/
def State.mayIssue (s : State) (r : StrandRef) : Bool :=
  let x := s.task r.task
  let d := s.strand r
  (d.state == .running || d.state == .stalled) && d.stop == .none && x.frozenBy.isNone &&
  (x.life == .running || x.life == .stopping) && !x.windowOver s.cycle && (!d.fresh || s.carvesReady r.task)

/-- The state when a fetch gives no instruction: a trap or a stall of the strand. -/
def State.fetchStop (s : State) (r : StrandRef) (e : Stop) : Host.Outcome State Fault Refusal :=
  match e with
  | .trap t => .next ((s.issue r).takeTrap r t.cause (t.value.getD 0) (s.strand r).pc 0)
  | .stall y _ => .next (s.stall r y)

/-- What a turn leads to: an instruction or event to execute in a state, or an outcome at once. -/
inductive Begun where
  | run (i : Instr) (s : State)
  | done (o : Host.Outcome State Fault Refusal)

/-- A turn's beginning. A turn of a strand that cannot issue passes its cycles; a turn of an event executes it. -/
def State.enter (s : State) (t : Turn) : Begun :=
  let s := s.begin t
  match t.who with
  | .event i a => if i.view == .event then .run i { s with arg := a } else .done (.next s)
  | .strand r =>
    if !s.mayIssue r then .done (.next s)
    else
      match s.fetchInstr r with
      | (.run i, s) => .run i { s with cur := r }
      | (.stop e, s) => .done (s.fetchStop r e)

end Sys2Proof.Machine
end

