-- ==== Sys2Proof/Machine/Image.lean ====
section
/-! DEFINITION. A program placed from outside: what the host's writes and the dispatcher would have set up before a task's
first instruction (notes/assumptions/7.md). -/

namespace Sys2Proof.Machine

/-- Where the placed instruction stands: the virtual page 0 and its frame. -/
def placedFrame : Nat := 0x40000

/-- A page-table pointer, and a page entry that a program may read, write and execute (Table 15-1). -/
def pointerTo (pa : Nat) : Nat := 1 + pa
def pageTo (pa : Nat) : Nat := 0xF + pa

/-- The state with the bytes of an instruction of `nbits` bits at a task's start, zero above them up to the longest
instruction, and everything the fetch needs. [DESIGN CHOICE: notes/assumptions/7.md] -/
def State.placeProgram (s : State) (nbits w : Nat) : State :=
  let mem := s.mem.setNat 0x10000 8 (pointerTo 0x50000)
  let mem := mem.setNat 0x50000 8 (pointerTo 0x60000)
  let mem := mem.setNat 0x60000 8 (pageTo placedFrame)
  let mem := mem.setNat placedFrame 12 (w % 2 ^ nbits)
  let c := { s.ctx 0 with state := .active, ptroot := 0x10000 }
  let x : Task := { s.task 0 with
    ctx := 0, core := 0, slot := 0, life := .running, stopReq := none, frozenBy := none,
    main := { (s.task 0).main with pc := 0, state := .running, stop := .none, wait := none, held := none, sect := none } }
  { s with
    mem
    bad := []
    contexts := Assoc.set s.contexts 0 c
    owners := Assoc.set s.owners (placedFrame / 2 ^ 16) (.ctx 0)
    cores := s.cores.map fun k => (k.1, { k.2 with tlb := [] })
    dies := s.dies.map fun d => (d.1, { d.2 with tlb := [] })
    tasks := Assoc.set s.tasks 0 x
    turns := [{ who := .strand ⟨0, .main⟩ }]
    cur := ⟨0, .main⟩ }

end Sys2Proof.Machine
end

