-- ==== Sys2Proof/Machine/Step.lean ====
section
/-! DEFINITION. One step of the card, and the placing of an instruction where the next step fetches. -/

namespace Sys2Proof.Machine

/-- One step: the next turn begins, and its instruction or event executes. [DEDUCED: notes/assumptions/92.md] -/
def step (s : State) : Host.Outcome State Fault Refusal :=
  match s.enter s.nextTurn with
  | .run i s => exec i s
  | .done o => o

/-- `s` with an instruction placed where the next step fetches: a context with a page table of one page, a task with a
running main strand at its start, the instruction's bytes there, and a turn for that strand.
[DESIGN CHOICE: notes/assumptions/7.md] -/
def State.withFetchWord (s : State) (nbits w : Nat) : State := s.placeProgram nbits w

end Sys2Proof.Machine
end

