-- ==== Sys2Proof/Safety.lean ====
section
/-! DEFINITION. The terms that the statements use: when an instruction's effect runs, what its retirement does to the state,
and what it means that a state keeps everything but what is named. -/

namespace Sys2Proof.Machine

/-! ## When an effect runs -/

/-- No check of Table 3-15 fails for an instruction of the current strand, and its guard holds (R61, R82, R86): its own effect
runs. -/
def State.admits (s : State) (v : View) : Bool :=
  (encodingTrap v s.curStrand s.cur.unit).isNone && !(v.guard?.any fun g => !s.curStrand.guardHolds g)

/-- QueueIssue (R118) finds nothing to trap on or to wait for: the source codes can be read, the destination written. -/
def State.ready (s : State) (codes : List Nat) (dst : Option Nat) : Bool := (s.operandStop codes dst).isNone

/-- The value of operand B (R62, R63, R98). -/
def State.valueB (s : State) (b : Src) : DWord :=
  match b with
  | .code c => s.source c.toNat
  | .imm i => i.signExtend 64
  | .lit w => w.signExtend 64

/-- The float value of operand B: a literal is an FP32 pattern, of which an FP64 operation takes the exact value (Table 3-5). -/
def State.floatOperandB (s : State) (md : FpMode) (dp : Bool) (b : Src) : Val :=
  match b with
  | .lit w => decodeVal 0 (md.daz && !dp) w.toNat
  | _ => floatVal md dp (s.valueB b)

/-- The state with the current strand changed. -/
def State.updCur (s : State) (f : Strand → Strand) : State := s.setStrand s.cur (f s.curStrand)

/-- The state with the current task changed. -/
def State.updTask (s : State) (f : Task → Task) : State := s.setTask s.cur.task (f s.curTask)

/-- The address a displacement in words from the current instruction gives (R59, R74). -/
def State.branchTarget (s : State) {n : Nat} (disp : BitVec n) : DWord := s.curStrand.pc + (disp.signExtend 64 <<< 2)

/-- The state with a predicate of the current strand written; p0 discards (R66). -/
def State.withPred (s : State) (n : Nat) (b : Bool) : State := s.setStrand s.cur (s.curStrand.writeP n b)

/-- The state with flags set in the current strand's fcsr (R42). -/
def State.withFlags (s : State) (k : Flags) : State :=
  s.setStrand s.cur { s.curStrand with fcsr := fcsrWith s.curStrand.fcsr k }

/-! ## Memory accesses -/

/-- Register codes of a base and an index: 0x1FF names no index (R71). -/
def indexedCodes (a b : BitVec 9) : List Nat := a.toNat :: if b = 0x1FF then [] else [b.toNat]

/-- The address of an access with a base, an index and an offset, the last two in units of `size` bytes (R71, R137). -/
def State.indexedAddress (s : State) (a b : BitVec 9) (off : DWord) (size : Nat) : DWord :=
  s.source a.toNat + (if b = 0x1FF then 0 else s.source b.toNat) * BitVec.ofNat 64 size + off * BitVec.ofNat 64 size

/-- The address of an access whose B is a member or an aperture (R71, R137). -/
def State.baseAddress (s : State) (a : BitVec 9) (off : DWord) (size : Nat) : DWord :=
  s.source a.toNat + off * BitVec.ofNat 64 size

/-- The member that operand B names (R125). -/
def State.memberOf (s : State) (b : BitVec 9) : Nat := bitsOf (if b = 0x1FF then 0 else s.source b.toNat) 0 4

/-- The address of an access in a space. -/
def State.accessAddress (s : State) (space : Space) (a b : BitVec 9) (off : DWord) (size : Nat) : DWord :=
  match space with
  | .n | .x => s.baseAddress a off size
  | _ => s.indexedAddress a b off size

/-- The state after the marker of an ordered access, when it has one (R136): the strand's accesses that are pending perform, and
then the acquire action of the scope. -/
def State.ordered (s : State) (yes : Bool) (scope : Nat) : State := if yes then s.mark (scopeOf scope) else s

/-- No request of the current strand is outstanding. -/
def State.noRequest (s : State) : Bool := s.reqs.all fun q => q.2.strand != s.cur

/-- An access or marker of a scope has no flush of host stores to send or to wait for, and none of it has failed (R376). -/
def State.flushDone (s : State) (yes : Bool) (k : Scope) : Bool :=
  s.noRequest && !s.mustFlush yes k && match s.curStrand.held with | some (.trap _ _) => false | _ => true

/-- No access of a strand is pending. -/
def Strand.calm (d : Strand) : Bool := d.lateLoads.isEmpty && d.stores.isEmpty

/-- Bytes of a core's scratchpad that a scalar access may use now: no granule is being zeroed, no sector has an error, and no
engine command of this strand is still to write them, or to read what the access writes (R140, R149, R219). -/
def State.padFree (s : State) (core lo n : Nat) (shared write : Bool) : Bool :=
  !(s.core core).zeroingAt lo n && !(s.core core).badAt lo n &&
  (!(shared && core == s.curTask.core) || (s.scalarWaits lo n write).isEmpty)

/-- A scratchpad access that can perform: bytes `lo` to `lo + size` of a core, in shared memory or not. -/
structure PadPlace where
  core : Nat
  lo : Nat
  shared : Bool
  deriving DecidableEq, Repr

/-- The same as a place of the model. -/
def PadPlace.loc (p : PadPlace) : Loc := .pad p.core p.lo p.shared

/-- The place of an access to the private memory, to the shared memory of the task, or to that of a member of its group
(R122 to R125): none when the address is misaligned, out of range, or the bytes are not free. -/
def State.padPlace (s : State) (space : Space) (member : Nat) (va : DWord) (size : Nat) (write : Bool) : Option PadPlace :=
  let t := s.curTask
  let a := va.toNat
  let place : Option PadPlace :=
    match space with
    | .p => if a < t.hdr.ps then some ⟨t.core, t.carve + t.hdr.cs + a, false⟩ else none
    | .s => if a < t.hdr.cs then some ⟨t.core, t.carve + a, true⟩ else none
    | .n =>
      if member < t.gsize then
        (s.memberCarve t member).bind fun c => if a < c.2.2 then some ⟨c.1, c.2.1 * granule + a, true⟩ else none
      else none
    | _ => none
  if a % size = 0 then place.filter fun p => s.padFree p.core p.lo size p.shared write else none

/-- The device address of an access to the general memory, or to the private memory above its part in the scratchpad, which
lies at the task's overflow address (R122, R127). -/
def State.deviceAddress (s : State) (space : Space) (va : DWord) : Option DWord :=
  let t := s.curTask
  match space with
  | .g => some va
  | .p =>
    if t.hdr.ps ≤ va.toNat && va.toNat < t.hdr.ps + 2 ^ 32 && t.povf != 0 then
      some (t.povf + BitVec.ofNat 64 (va.toNat - t.hdr.ps))
    else none
  | _ => none

/-- The state with a number stored at a place of a scratchpad (R139). -/
def State.storePad (s : State) (p : PadPlace) (size v : Nat) : State :=
  let t := s.writePad p.core p.lo (leBytes v size)
  if p.shared then t.dropResidency p.core p.lo size else t

/-- The state that waits with a load for its value (R96, R138): the value read now, or a place that is read later. -/
def State.loadPends (s : State) (id d : Nat) (v : DWord) (late : Option (Loc × Nat)) : State :=
  { s.updCur fun x => { x with loads := x.loads ++ [{ id, dest := .reg (physG x d), value := v, late }] } with nextLoad := id + 1 }

/-- A store at its issue (R138): its data and the state with its data queue popped, or, when it has popped it and waited since,
the data it kept; none when its operands are not ready. -/
def State.storeIssue (s : State) (codes : List Nat) (d : Nat) : Option (DWord × State) :=
  match s.curStrand.popped with
  | some v => some (v, s.updCur fun x => { x with popped := none })
  | none => if s.ready (codes ++ [d]) none then some (s.source d, s.popCodes [d]) else none

/-- The state with a request sent over a port for the current strand (R143, R376). -/
def State.withRequest (s : State) (q : LinkReq) : State :=
  let xlat := if q.port = 0 && q.size != 0 then s.cached (s.strandAccess false true) (vpnOf q.tval) else none
  { s with reqs := Assoc.set s.reqs s.nextReq { q with ctx := s.curTask.ctx, xlat }, nextReq := s.nextReq + 1 }

/-- The state that has sent a request over a port for the current strand of `s0`, which waits for its completion (R376). -/
def State.sendFrom (s s0 : State) (q : LinkReq) : State := (s.withRequest q).stall s0.cur (.link s.nextReq)

/-- The same for a store, which keeps the element it has popped (R138). -/
def State.sendStore (s s0 : State) (q : LinkReq) (pop : Bool) (v : DWord) : State :=
  let t := s.withRequest q
  (if pop then t.updCur fun x => { x with popped := some v } else t).stall s0.cur (.link s.nextReq)

/-! ## Timelines and barriers -/

/-- A timeline that an instruction of the current strand can use: its address is a multiple of 8 and translates, it is not
poisoned, and its sector has no error (R140, R351, R353). Its physical address, and the state after the translation, with nothing
of the strand pending at the word. -/
def State.timelineAt (s : State) (a : DWord) (write : Bool) : Option (Nat × State) :=
  if a &&& 7 ≠ 0 then none
  else
    match s.translate (s.strandAccess write false) a with
    | (.ok pa pte, t) => if t.isPoisoned pa || t.isBad pa 8 then none else some (pa, t.clearFor t.cur (.home pa pte) 8)
    | _ => none

/-- The state that a `tlwait` with a value leaves: its acquire action, its pops, its destination (R353). -/
def State.tlwaitDone (s : State) (x : Gen) (v : DWord) : State :=
  ((s.ordered true (x.fn.toNat % 8)).popCodes (x.a.toNat :: Src.codes x.b)).writeDst x.d.toNat v

/-- The state with a value written to a timeline at its home by the current strand, and recorded in its task (R324, R353). -/
def State.timelineWrite (s : State) (a : DWord) (pa : Nat) (v : DWord) : State :=
  (s.atomicHome s.curTask.core pa (leBytes v.toNat 8) (s.strandParty s.cur)).updTask fun x => x.deliver a v

/-- The state in which the wait of the current strand knows its last producer. -/
def State.producedBy (s : State) (who : Party) : State :=
  s.updCur fun d => { d with wait := d.wait.map fun w => { w with prod := who } }

/-- The marker of a barrier instruction (R352). -/
def State.barrierFence (s : State) (x : Gen) : State := s.mark (barrierScope x.fn)

/-! ## Retirement -/

/-- The state after the current instruction, with view `v`, has retired, when its effect left `s'` and its flow is `f`: the
strand's wait ends with its record, it goes on at the next instruction or at the target, and a requested stop may find it at
an instruction boundary (R56, R94, R288, R403). -/
def State.retire (s s' : State) (v : View) (f : Flow) : State :=
  ((s'.issue s.cur).follow s.cur f s.curStrand.pc v.size).boundary s.cur

/-- The state after the current strand has trapped (R56, R278), `s'` being what its instruction leaves. -/
def State.trapped (s s' : State) (cause : Nat) (value tpc data : DWord) : State :=
  ((s'.issue s.cur).takeTrap s.cur cause value tpc data).boundary s.cur

/-- Nothing but the instruction itself happens when the strand's instruction retires: the strand waits for nothing, its start
record is written, its task is known, and no stop is requested. -/
def State.quiet (s : State) (r : StrandRef) : Bool :=
  (Assoc.get? s.tasks r.task).isSome && (s.strand r).wait.isNone && !(s.strand r).fresh && (s.task r.task).stopReq.isNone

/-! ## Engine commands -/

/-- The rows of Table 6-3 on which the operands of a vector instruction find a trap or a wait: the trap of the first one. The
list holds them in the order of the table. -/
def State.vecRows (s : State) (c : VecCmd) (srcs : List Nat) : List (Option (Nat × Option DWord)) :=
  let trap (b : Bool) (k : Nat) : Option (Nat × Option DWord) := if b then some (k, none) else none
  let t := s.cur.task
  [trap (c.count.isNone || (c.queueTag.isNone && c.opers.any fun o => o.queue?.isSome)) 2, trap (s.queueStateBad c srcs) 10,
   trap (!s.formatOk c) 25, (baseTrap c.spans).map fun v => (13, some (BitVec.ofNat 64 v)),
   (s.memberTrap c.spans).map fun v => (16, some (BitVec.ofNat 64 v)),
   ([(true, c.d), (false, c.a), (c.writesB, c.b), (false, c.m)].findSome? fun e => s.rangeTrap t e.1 e.2).map fun v =>
    (15, some (BitVec.ofInt 64 v)),
   trap (match s.sourceScales c with | .error _ => true | .ok _ => false) 26, trap (s.scaleElemBad c) 26,
   trap (c.op == 0xB3 && (s.operMeet t c.d c.b true || (c.x.sub == 1 && s.operMeet t c.b c.a false))) 2]

/-- Older commands that write bytes which an issue check reads (R218). -/
def State.olderWriters (s : State) (bytes : List Resource) : List Nat :=
  ((s.cmdHeads s.cur.task).filter fun h => anyHit h.writes bytes).map (·.id)

/-- The trap of an earlier command that an instruction observes when it issues a command with these sets, and the state that no longer
holds it (Table 9-4, R204, R444). -/
def State.lateOf (s : State) (reads writes : List Resource) : Option (LateTrap × State) :=
  let seen (l : LateTrap) : Bool := ({ reads, writes } : CmdHead).conflicts l.hd
  let rest (k : List LateTrap) (l : LateTrap) : List LateTrap := k.filter fun o => o.hd.id != l.hd.id
  match if s.cur.unit == .main then s.curTask.late.find? seen else none with
  | some l => some (l, s.updTask fun x => { x with late := rest x.late l })
  | none => (s.curTask.mat.late.find? seen).map fun l => (l, s.updTask fun x => { x with mat := { x.mat with late := rest x.mat.late l } })

/-- The state in which a trap of an earlier command is taken: a wait that it ends has the command's engine as its producer. -/
def State.tookLate (s : State) (l : LateTrap) : State := s.producedBy (s.taskParty s.cur.task l.hd.engine)

/-- The command with the scales of its source. -/
def State.withScales (s : State) (c : VecCmd) : VecCmd :=
  { c with scales := match s.sourceScales c with | .ok l => l | .error _ => [] }

/-- Room for one more command: the engine's queue holds fewer than 16, and the checker tracks fewer than 64 (R165, R200,
R220). -/
def State.hasRoom (s : State) (queued : Nat) : Bool := queued < 16 && s.tracked s.curTask.core < 64

/-- The state with a vector command entered into its core's queue, with its sets (R165, R218). -/
def State.enteredVec (s : State) (c : VecCmd) : State :=
  let e := { c with hd := { c.hd with reads := (s.vecSets c).1, writes := (s.vecSets c).2 } }
  let k := s.core s.curTask.core
  { s.setCore s.curTask.core { k with vq := k.vq ++ [e] } with nextCmd := s.nextCmd + 1 }

/-- What follows the entry: a vector instruction of the vector strand with a queue operand holds its strand until the command
completes (R159); every other one retires. -/
def State.afterVec (s t : State) (c : VecCmd) (v : View) : State :=
  if s.cur.unit == .vector && c.opers.any fun o => o.queue?.isSome then t.stall s.cur (.vectorHold c.hd.id) else s.retire t v .next

/-- The state with a matrix command entered into its core's queue, and what the markers and the lease do then (R196, R198,
R200). -/
def State.enteredMat (s : State) (c : MatCmd) : State :=
  let core := s.curTask.core
  let h := hoopOf core
  let first := (s.hoop h).holder == some s.cur.task && (s.matCmds s.cur.task).isEmpty
  let p := if first then s.setHoop h { s.hoop h with blocked := some s.cycle } else s
  let t := p.setCore core { p.core core with mq := (p.core core).mq ++ [c] }
  { t with nextCmd := t.nextCmd + 1 }.settleMat t.cur.task

/-- The traps of Table 8-3 for a copy command, in order, and those of its aperture (R374). -/
def State.cpyRows (s : State) (op : Nat) (c : CpyCmd) : List (Option (Nat × Option DWord)) :=
  let trap (b : Bool) (k : Nat) : Option (Nat × Option DWord) := if b then some (k, none) else none
  let ch := s.curTask.chan c.x.ch.toNat
  [trap (s.cpyQueueBad op c) 10, trap (!cpyFormatOk op c) 25, (cpyMisaligned op c).map fun v => (13, some v),
   (s.cpyMember c).map fun v => (16, some (BitVec.ofNat 64 v)),
   (s.rangeTrap s.cur.task (!cpyIsStore op c.x) c.d).map fun v => (15, some (BitVec.ofInt 64 v)),
   if c.x.slot && (Assoc.get? s.curTask.mat.smap c.x.d.toNat).isNone then some (27, some 2) else none,
   trap (ch.faulted || ch.stream.isSome) 28, (s.cpyAperture op c).map fun k => (k, some c.ga)]

/-- The state with a copy command entered into its channel, with the next transfer identifier (R214). -/
def State.enteredCpy (s : State) (ch : Nat) (c : CpyCmd) : State :=
  { s.updTask fun t => t.setChan ch { t.chan ch with
      issued := (t.chan ch).issued + 1, cmds := (t.chan ch).cmds ++ [{ c with id := (t.chan ch).issued + 1 }] } with
    nextCmd := s.nextCmd + 1 }

/-! ## What stays -/

/-- Every field of the state but the file of tasks is the same. -/
def State.sameOutside (s t : State) : Prop := t = { s with tasks := t.tasks }

/-- Every field of the state but the file of tasks is the same, every other task is, and of the task of strand `r` nothing has
changed but that strand. -/
def State.sameButStrand (s t : State) (r : StrandRef) : Prop :=
  s.sameOutside t ∧ (∀ k, k ≠ r.task → t.task k = s.task k) ∧ t.task r.task = (s.task r.task).setStrand r.unit (t.strand r)

/-- Of a strand nothing has changed but its g registers, its PC and what the end of an instruction sets. -/
def Strand.sameButG (d e : Strand) : Prop := e = { d with g := e.g, pc := e.pc, state := e.state, held := e.held }

/-- A step goes on: it ends in a next state, neither in a fault nor in a refusal. -/
def goesOn (o : Host.Outcome State Fault Refusal) : Bool :=
  match o with
  | .next _ => true
  | _ => false

end Sys2Proof.Machine
end

