-- ==== Sys2Proof/Certificates/Slice0/Obligations.lean ====
section
/-! DEFINITION. The statements about the model, for the provers. Each docstring names the rules of spec/ behind it. Instructions
are named by their constructors in the lists; short and long forms of one instruction are written one below the other. -/

open Sys2Proof Sys2Proof.Machine

/-! ## Scalar integer instructions -/

/-- R98, R99, R101, Table 4-4: each two-source integer instruction, short and long, whose encoding is admitted and whose
operands are ready writes its value of A and OpB() to D, pops the operand queues it names, and retires. Every operand form is
covered: registers, queue registers, loop indexes, immediates and literals, and g0 as destination. -/
def Obligations.IntegerTwoSource : Prop :=
  ∀ (s : State) (x : Short) (y : Alu),
    ∀ e ∈ ([(.add x, x.toAlu, addValue), (.addLong y, y, addValue), (.sub x, x.toAlu, subValue), (.subLong y, y, subValue),
        (.mul x, x.toAlu, mulValue), (.mulLong y, y, mulValue), (.mulh x, x.toAlu, mulhValue), (.mulhLong y, y, mulhValue),
        (.div x, x.toAlu, divValue), (.divLong y, y, divValue), (.rem x, x.toAlu, remValue), (.remLong y, y, remValue),
        (.and x, x.toAlu, andValue), (.andLong y, y, andValue), (.or x, x.toAlu, orValue), (.orLong y, y, orValue),
        (.xor x, x.toAlu, xorValue), (.xorLong y, y, xorValue), (.andn x, x.toAlu, andnValue), (.andnLong y, y, andnValue),
        (.shl x, x.toAlu, shlValue), (.shlLong y, y, shlValue), (.shr x, x.toAlu, shrValue), (.shrLong y, y, shrValue),
        (.sar x, x.toAlu, sarValue), (.sarLong y, y, sarValue), (.rot x, x.toAlu, rotValue), (.rotLong y, y, rotValue),
        (.min x, x.toAlu, minValue), (.minLong y, y, minValue), (.max x, x.toAlu, maxValue), (.maxLong y, y, maxValue),
        (.bfx x, x.toAlu, bfxValue), (.bfxLong y, y, bfxValue), (.lea x, x.toAlu, leaValue), (.leaLong y, y, leaValue)] :
        List (Instr × Alu × (Alu → DWord → DWord → DWord))),
      s.admits e.1.view = true →
      s.ready (e.2.1.a.toNat :: Src.codes e.2.1.b) (some e.2.1.d.toNat) = true →
      exec e.1 s = .next (s.retire
        ((s.popCodes (e.2.1.a.toNat :: Src.codes e.2.1.b)).writeDst e.2.1.d.toNat
          (e.2.2 e.2.1 (s.source e.2.1.a.toNat) (s.valueB e.2.1.b))) e.1.view .next)

/-- R99, R101 to R103, Table 4-4: the other integer instructions. `abs`, `clz`, `ctz`, `popc` and `mov` read A alone; `bfi`
reads D too; `sel` chooses by predicate pSUB; `movi` writes its extended immediate or literal, `movi.hi` the literal above the
low half of D; `cmp` writes predicate D; `nop` has no effect but the advance. -/
def Obligations.IntegerOther : Prop :=
  ∀ (s : State) (x : Short) (y : Alu),
    (∀ e ∈ ([(.abs x, x.toAlu, absValue), (.absLong y, y, absValue), (.clz x, x.toAlu, clzValue), (.clzLong y, y, clzValue),
          (.ctz x, x.toAlu, ctzValue), (.ctzLong y, y, ctzValue), (.popc x, x.toAlu, popcValue), (.popcLong y, y, popcValue),
          (.mov x, x.toAlu, movValue), (.movLong y, y, movValue)] :
          List (Instr × Alu × (Alu → DWord → DWord → DWord))),
        s.admits e.1.view = true → s.ready [e.2.1.a.toNat] (some e.2.1.d.toNat) = true →
        exec e.1 s = .next (s.retire ((s.popCodes [e.2.1.a.toNat]).writeDst e.2.1.d.toNat
          (e.2.2 e.2.1 (s.source e.2.1.a.toNat) 0)) e.1.view .next)) ∧
    (∀ e ∈ ([(.bfi x, x.toAlu), (.bfiLong y, y)] : List (Instr × Alu)),
        s.admits e.1.view = true →
        s.ready (e.2.a.toNat :: Src.codes e.2.b ++ [e.2.d.toNat]) (some e.2.d.toNat) = true →
        exec e.1 s = .next (s.retire ((s.popCodes (e.2.a.toNat :: Src.codes e.2.b ++ [e.2.d.toNat])).writeDst e.2.d.toNat
          (bfiValue (s.source e.2.a.toNat) (s.valueB e.2.b) (s.source e.2.d.toNat))) e.1.view .next)) ∧
    (∀ e ∈ ([(.sel x, x.toAlu), (.selLong y, y)] : List (Instr × Alu)),
        s.admits e.1.view = true → s.ready (e.2.a.toNat :: Src.codes e.2.b) (some e.2.d.toNat) = true →
        exec e.1 s = .next (s.retire ((s.popCodes (e.2.a.toNat :: Src.codes e.2.b)).writeDst e.2.d.toNat
          (if s.curStrand.pred e.2.sub.toNat then s.source e.2.a.toNat else s.valueB e.2.b)) e.1.view .next)) ∧
    (∀ e ∈ ([(.cmp x, x.toAlu), (.cmpLong y, y)] : List (Instr × Alu)),
        s.admits e.1.view = true → s.ready (e.2.a.toNat :: Src.codes e.2.b) none = true →
        exec e.1 s = .next (s.retire ((s.popCodes (e.2.a.toNat :: Src.codes e.2.b)).withPred e.2.d.toNat
          (cmpHolds e.2.sub e.2.u (s.source e.2.a.toNat) (s.valueB e.2.b))) e.1.view .next)) ∧
    (s.admits (Instr.movi y).view = true → s.ready [] (some y.d.toNat) = true →
        (∀ v, y.b = .imm v → exec (.movi y) s = .next (s.retire (s.writeDst y.d.toNat
          (if y.u then v.zeroExtend 64 else v.signExtend 64)) (Instr.movi y).view .next)) ∧
        (∀ w, y.b = .lit w → exec (.movi y) s = .next (s.retire (s.writeDst y.d.toNat
          (if y.u then w.zeroExtend 64 else w.signExtend 64)) (Instr.movi y).view .next))) ∧
    (∀ w, y.b = .lit w → s.admits (Instr.moviHi y).view = true → s.ready [y.d.toNat] (some y.d.toNat) = true →
        exec (.moviHi y) s = .next (s.retire ((s.popCodes [y.d.toNat]).writeDst y.d.toNat
          (w ++ (s.source y.d.toNat).extractLsb' 0 32)) (Instr.moviHi y).view .next)) ∧
    (∀ i ∈ ([.nop x, .nopLong y] : List Instr), s.admits i.view = true → exec i s = .next (s.retire s i.view .next))

/-- R98, R99, R101, R103, Tables 4-4, 4-5: what the results of the integer instructions are in plain arithmetic. Without W and SAT a sum,
difference and product wrap modulo 2^64; with W the low 32 bits of the sources are the operands and the result is extended by U;
with SAT a sum, a difference and an absolute value are clamped to the range of the width, signed or unsigned as U says; shift
amounts are taken modulo the width; a rotation keeps every bit; the smaller and larger follow U; `clz` and `ctz` count the zeros
above and below the outermost one, 0 to the width, `popc` the ones; `lea` adds B shifted by SUB; `cmp` has the conditions of
Table 4-5, its bit 3 being W. -/
def Obligations.IntegerValues : Prop :=
  ∀ (x : Alu) (a b : DWord),
    let ext (v : BitVec 32) : DWord := if x.u then v.zeroExtend 64 else v.signExtend 64
    let lo (v : DWord) : BitVec 32 := v.extractLsb' 0 32
    (x.sub = 0 → addValue x a b = a + b ∧ subValue x a b = a - b ∧ mulValue x a b = a * b ∧
      andValue x a b = a &&& b ∧ orValue x a b = a ||| b ∧ xorValue x a b = a ^^^ b ∧ andnValue x a b = a &&& ~~~b ∧
      shlValue x a b = a <<< (b.toNat % 64) ∧ shrValue x a b = a >>> (b.toNat % 64) ∧
      sarValue x a b = a.sshiftRight (b.toNat % 64) ∧ rotValue x a b = a.rotateLeft (b.toNat % 64) ∧
      mulhValue x a b = (if x.u then BitVec.ofNat 64 (a.toNat * b.toNat / 2 ^ 64) else BitVec.ofInt 64 (a.toInt * b.toInt / 2 ^ 64)) ∧
      minValue x a b = (if (if x.u then b.ult a else b.slt a) then b else a) ∧
      maxValue x a b = (if (if x.u then a.ult b else a.slt b) then b else a) ∧
      absValue x a b = (if !x.u && a.msb then -a else a)) ∧
    (x.sub = 1 →
      addValue x a b = ext (lo a + lo b) ∧ subValue x a b = ext (lo a - lo b) ∧ mulValue x a b = ext (lo a * lo b) ∧
      andValue x a b = ext (lo a &&& lo b) ∧ orValue x a b = ext (lo a ||| lo b) ∧ xorValue x a b = ext (lo a ^^^ lo b) ∧
      andnValue x a b = ext (lo a &&& ~~~(lo b)) ∧
      shlValue x a b = ext (lo a <<< (b.toNat % 32)) ∧ shrValue x a b = ext (lo a >>> (b.toNat % 32)) ∧
      sarValue x a b = ext ((lo a).sshiftRight (b.toNat % 32)) ∧ rotValue x a b = ext ((lo a).rotateLeft (b.toNat % 32)) ∧
      mulhValue x a b = (if x.u then BitVec.ofNat 64 ((lo a).toNat * (lo b).toNat / 2 ^ 32)
        else BitVec.ofInt 64 ((lo a).toInt * (lo b).toInt / 2 ^ 32)) ∧
      minValue x a b = ext (if (if x.u then (lo b).ult (lo a) else (lo b).slt (lo a)) then lo b else lo a) ∧
      maxValue x a b = ext (if (if x.u then (lo a).ult (lo b) else (lo a).slt (lo b)) then lo b else lo a) ∧
      absValue x a b = ext (if !x.u && (lo a).msb then -lo a else lo a)) ∧
    (x.sub = 2 → x.u = false →
      addValue x a b = (if a.saddOverflow b then (if a.msb then BitVec.intMin 64 else BitVec.intMax 64) else a + b) ∧
      subValue x a b = (if a.ssubOverflow b then (if a.msb then BitVec.intMin 64 else BitVec.intMax 64) else a - b) ∧
      absValue x a b = (if a = BitVec.intMin 64 then BitVec.intMax 64 else if a.msb then -a else a)) ∧
    (x.sub = 2 → x.u = true →
      addValue x a b = (if a.toNat + b.toNat < 2 ^ 64 then a + b else BitVec.allOnes 64) ∧
      subValue x a b = (if b.toNat ≤ a.toNat then a - b else 0) ∧ absValue x a b = a) ∧
    (x.sub = 3 → x.u = false →
      addValue x a b = ext (if (lo a).saddOverflow (lo b) then (if (lo a).msb then BitVec.intMin 32 else BitVec.intMax 32)
        else lo a + lo b) ∧
      subValue x a b = ext (if (lo a).ssubOverflow (lo b) then (if (lo a).msb then BitVec.intMin 32 else BitVec.intMax 32)
        else lo a - lo b) ∧
      absValue x a b = ext (if lo a = BitVec.intMin 32 then BitVec.intMax 32 else if (lo a).msb then -lo a else lo a)) ∧
    (x.sub = 3 → x.u = true →
      addValue x a b = ext (if (lo a).toNat + (lo b).toNat < 2 ^ 32 then lo a + lo b else BitVec.allOnes 32) ∧
      subValue x a b = ext (if (lo b).toNat ≤ (lo a).toNat then lo a - lo b else 0) ∧ absValue x a b = ext (lo a)) ∧
    (x.sub = 0 ∨ x.sub = 1 →
      let n := if x.sub = 1 then 32 else 64
      let z := (clzValue x a b).toNat
      let t := (ctzValue x a b).toNat
      z ≤ n ∧ (∀ k, n - z ≤ k → k < n → a.getLsbD k = false) ∧ (z < n → a.getLsbD (n - 1 - z) = true) ∧
      t ≤ n ∧ (∀ k, k < t → a.getLsbD k = false) ∧ (t < n → a.getLsbD t = true) ∧
      (popcValue x a b).toNat = ((List.range n).filter fun k => a.getLsbD k).length) ∧
    movValue x a b = a ∧ (leaValue x a b).toNat = (a.toNat + b.toNat * 2 ^ x.sub.toNat) % 2 ^ 64 ∧
    (let v : DWord := if x.sub.getLsbD 3 then ext (lo a) else a
     let w : DWord := if x.sub.getLsbD 3 then ext (lo b) else b
     let less (p q : DWord) : Bool := if x.u then p.ult q else p.slt q
     cmpHolds x.sub x.u a b = match (x.sub.extractLsb' 0 3 : BitVec 3) with
       | 0 => v == w
       | 1 => v != w
       | 2 => less v w
       | 3 => !less v w
       | 4 => !less w v
       | 5 => less w v
       | 6 => v &&& w != 0
       | 7 => v &&& w == 0)

/-- R100: a zero divisor gives all ones and the dividend; the most negative number by −1 gives itself and 0; in every other case
the quotient is rounded toward zero and the remainder has the sign of a. The clauses hold for both widths: `a` and `b` stand for
the narrowed sources, which the width's extension gives. -/
def Obligations.DivisionRules : Prop :=
  ∀ (x : Alu) (a b : DWord), x.sub = 0 ∨ x.sub = 1 →
    let w := aluW x
    let ea := exact w x.u a
    let eb := exact w x.u b
    let n := widthOf w
    (eb = 0 → divValue x a b = narrow w x.u (BitVec.allOnes 64) ∧ remValue x a b = narrow w x.u a) ∧
    (x.u = false → ea = -(2 ^ (n - 1) : Int) → eb = -1 →
      divValue x a b = BitVec.ofInt 64 (-(2 ^ (n - 1) : Int)) ∧ remValue x a b = 0) ∧
    (eb ≠ 0 → ¬(x.u = false ∧ ea = -(2 ^ (n - 1) : Int) ∧ eb = -1) →
      exact w x.u (divValue x a b) = ea.tdiv eb ∧ exact w x.u (remValue x a b) = ea.tmod eb)

/-- R101: pos and len of `bfx` and `bfi`; a length above 64 acts as 64 and one that passes bit 63 is cut; the bits that the
field covers are moved or replaced, every other bit of `bfi`'s D stays, and with len = 0 the result is 0 or D. -/
def Obligations.BitFieldRules : Prop :=
  ∀ (x : Alu) (a b d : DWord),
    let pos := (b.extractLsb' 0 6).toNat
    let len := min (min (b.extractLsb' 6 7).toNat 64) (64 - pos)
    (∀ k, k < 64 →
      (bfxValue x a b).getLsbD k =
        (if len = 0 then false else if k < len then a.getLsbD (pos + k) else !x.u && a.getLsbD (pos + len - 1)) ∧
      (bfiValue a b d).getLsbD k = if pos ≤ k ∧ k < pos + len then a.getLsbD (k - pos) else d.getLsbD k)

/-! ## Scalar float instructions -/

/-- R104, R105, Tables 4-6, 4-7: each scalar float instruction takes the modes captured at issue, decodes its operands in its
precision, writes the bits of its result to D and sets the flags of its result in the strand's fcsr. R105, R106, Table 4-5:
`fcmp` writes predicate D and sets NV only where the condition says so; `fneg` and `fclass` set no flag: they write the
sign-changed bits to D, and the class test to predicate D. Then the values, Tables 4-5 to 4-7: R24, R105 the positive canonical
NaN of a NaN operand, and with NV of an invalid operation; the exact sum, product and quotient that is converted, DZ and the
infinity of a division by zero; the order of `fmin` and `fmax`, -0 below +0, and the conditions of `fcmp`; R38 a quotient
rounded to an integer in each mode; R23, R44 a finite code of a binary format, decoded and converted in its own format, is
itself and sets no flag; the bits of `fneg`, with R46 for an infinity; R106 the classes of `fclass`; and R26 the integers of
`fcvt`, saturated with NV. The sign of an exact zero sum is the model's choice (log 23). -/
def Obligations.FloatArithmetic : Prop :=
  (∀ (s : State) (x : Short) (y : Alu),
      (∀ e ∈ ([(.fadd x, x.toAlu, fadd), (.faddLong y, y, fadd), (.fsub x, x.toAlu, fsub), (.fsubLong y, y, fsub),
            (.fmul x, x.toAlu, fmul), (.fmulLong y, y, fmul), (.fmin x, x.toAlu, fmin), (.fminLong y, y, fmin),
            (.fmax x, x.toAlu, fmax), (.fmaxLong y, y, fmax), (.fdiv x, x.toAlu, fdiv), (.fdivLong y, y, fdiv)] :
            List (Instr × Alu × (FpMode → Nat → Val → Val → Nat × Flags))),
          s.admits e.1.view = true →
          s.ready (e.2.1.a.toNat :: Src.codes e.2.1.b) (some e.2.1.d.toNat) = true →
          let md := s.capture e.2.1.rnd.toNat
          let r := e.2.2 md (floatTag e.2.1.u) (floatVal md e.2.1.u (s.source e.2.1.a.toNat)) (s.floatOperandB md e.2.1.u e.2.1.b)
          exec e.1 s = .next (s.retire
            (((s.popCodes (e.2.1.a.toNat :: Src.codes e.2.1.b)).writeDst e.2.1.d.toNat (BitVec.ofNat 64 r.1)).withFlags r.2)
            e.1.view .next)) ∧
      (∀ e ∈ ([(.ffma x, x.toAlu), (.ffmaLong y, y)] : List (Instr × Alu)),
          s.admits e.1.view = true →
          s.ready (e.2.a.toNat :: Src.codes e.2.b ++ [e.2.d.toNat]) (some e.2.d.toNat) = true →
          let md := s.capture e.2.rnd.toNat
          let a := floatVal md e.2.u (s.source e.2.a.toNat)
          let c := floatVal md e.2.u (s.source e.2.d.toNat)
          let r := ffma md (floatTag e.2.u) (if e.2.sub.getLsbD 0 then a.negate else a) (s.floatOperandB md e.2.u e.2.b)
            (if e.2.sub.getLsbD 1 then c.negate else c)
          exec e.1 s = .next (s.retire
            (((s.popCodes (e.2.a.toNat :: Src.codes e.2.b ++ [e.2.d.toNat])).writeDst e.2.d.toNat (BitVec.ofNat 64 r.1)).withFlags r.2)
            e.1.view .next)) ∧
      (∀ e ∈ ([(.fcvt x, x.toAlu, fun md (z : Alu) v => fcvtValue md z.sub.toNat z.u v),
            (.fcvtLong y, y, fun md z v => fcvtValue md z.sub.toNat z.u v),
            (.fsqrt x, x.toAlu, fun md z v => fsqrt md (floatTag z.u) (floatVal md z.u v)),
            (.fsqrtLong y, y, fun md z v => fsqrt md (floatTag z.u) (floatVal md z.u v))] :
            List (Instr × Alu × (FpMode → Alu → DWord → Nat × Flags))),
          s.admits e.1.view = true → s.ready [e.2.1.a.toNat] (some e.2.1.d.toNat) = true →
          let r := e.2.2 (s.capture e.2.1.rnd.toNat) e.2.1 (s.source e.2.1.a.toNat)
          exec e.1 s = .next (s.retire
            (((s.popCodes [e.2.1.a.toNat]).writeDst e.2.1.d.toNat (BitVec.ofNat 64 r.1)).withFlags r.2) e.1.view .next))) ∧
  (∀ (s : State) (x : Short) (y : Alu),
      (∀ e ∈ ([(.fcmp x, x.toAlu), (.fcmpLong y, y)] : List (Instr × Alu)),
          s.admits e.1.view = true → s.ready (e.2.a.toNat :: Src.codes e.2.b) none = true →
          let md := s.capture e.2.rnd.toNat
          let r := fcmpHolds e.2.sub.toNat (floatVal md e.2.u (s.source e.2.a.toNat)) (s.floatOperandB md e.2.u e.2.b)
          exec e.1 s = .next (s.retire
            (((s.popCodes (e.2.a.toNat :: Src.codes e.2.b)).withPred e.2.d.toNat r.1).withFlags r.2) e.1.view .next)) ∧
      (∀ e ∈ ([(.fneg x, x.toAlu), (.fnegLong y, y)] : List (Instr × Alu)),
          s.admits e.1.view = true → s.ready [e.2.a.toNat] (some e.2.d.toNat) = true →
          exec e.1 s = .next (s.retire ((s.popCodes [e.2.a.toNat]).writeDst e.2.d.toNat
            (BitVec.ofNat 64 (fnegBits s.curCtx.ovf e.2.u (e.2.sub == 1) (floatBits e.2.u (s.source e.2.a.toNat))))) e.1.view .next)) ∧
      (∀ e ∈ ([(.fclass x, x.toAlu), (.fclassLong y, y)] : List (Instr × Alu)),
          s.admits e.1.view = true → s.ready [e.2.a.toNat] none = true →
          exec e.1 s = .next (s.retire ((s.popCodes [e.2.a.toNat]).withPred e.2.d.toNat
            (fclassHolds e.2.sub.toNat e.2.u (floatBits e.2.u (s.source e.2.a.toNat)))) e.1.view .next))) ∧
  (∀ (md : FpMode) (dp : Bool) (a b c : Val),
      let t := floatTag dp
      let nan := if dp then 0x7FF8000000000000 else 0x7FC00000
      let inf (s : Bool) := (convert md t (.inf s)).1
      (∀ f ∈ [fadd, fsub, fmul, fmin, fmax, fdiv], (a.isNan || b.isNan) = true → f md t a b = (nan, 0)) ∧
      (∀ s, fadd md t (.inf s) (.inf !s) = (nan, flagNV) ∧ fsub md t (.inf s) (.inf s) = (nan, flagNV)) ∧
      (((a.isZero && b.isInf) || (a.isInf && b.isZero)) = true → fmul md t a b = (nan, flagNV) ∧ ffma md t a b c = (nan, flagNV)) ∧
      (∀ s u n d m e, 0 < d → 0 < e →
        let x : Val := .num s n d
        let y : Val := .num u m e
        (∃ w k f, fadd md t x y = convert md t (.num w k f) ∧ 0 < f ∧
          signedOf w k * (d * e : Nat) = (signedOf s n * e + signedOf u m * d) * f ∧
          (k = 0 → w = if n = 0 ∧ m = 0 ∧ s = u then s else md.rm == 3)) ∧
        fsub md t x y = fadd md t x (.num (!u) m e) ∧
        fmul md t x y = convert md t (.num (s != u) (n * m) (d * e)) ∧
        (m ≠ 0 → fdiv md t x y = convert md t (.num (s != u) (n * e) (d * m))) ∧
        (m = 0 → fdiv md t x y = if n = 0 then (nan, flagNV) else (inf (s != u), flagDZ)) ∧
        (s = true → n ≠ 0 → fsqrt md t x = (nan, flagNV)) ∧
        (let less := signedOf s n * e < signedOf u m * d
         let more := signedOf u m * d < signedOf s n * e
         (fmin md t x y = convert md t x ∨ fmin md t x y = convert md t y) ∧ (fmax md t x y = convert md t x ∨ fmax md t x y = convert md t y) ∧
         (less → fmin md t x y = convert md t x ∧ fmax md t x y = convert md t y) ∧
         (more → fmin md t x y = convert md t y ∧ fmax md t x y = convert md t x) ∧
         (n = 0 → m = 0 → fmin md t x y = convert md t (.num (s || u) 0 1) ∧ fmax md t x y = convert md t (.num (s && u) 0 1)) ∧
         (∀ k, fcmpHolds k x y = (match k with
           | 0 => !(less || more) | 1 => less || more | 2 => less | 3 => !more | 4 => more | 5 => !less | 6 => false | _ => true, 0)))) ∧
      (∀ k, (a.isNan || b.isNan) = true → fcmpHolds k a b =
        (k == 1 || k == 6, if 2 ≤ k ∧ k ≤ 5 then flagNV else 0))) ∧
  (∀ (rm : Nat) (neg : Bool) (q r d : Nat), r < d →
      let k := roundQuot rm neg q r d
      (k = q ∨ k = q + 1) ∧ (r = 0 → k = q) ∧
      (rm = 0 ∨ rm = 4 → 2 * k * d ≤ 2 * (q * d + r) + d ∧ 2 * (q * d + r) ≤ 2 * k * d + d) ∧
      (2 * r = d → (rm = 0 → k % 2 = 0) ∧ (rm = 4 → k = q + 1)) ∧
      (r ≠ 0 → (rm = 1 → k = q) ∧ (rm = 2 → (k = q ↔ neg = true)) ∧ (rm = 3 → (k = q ↔ neg = false)) ∧ (rm = 5 → k % 2 = 1))) ∧
  (∀ (md : FpMode) (tag ew mw low x : Nat) (inf nan : Bool), kindOf tag = some (.bin ew mw low inf nan) → md.fz = false →
      x < 2 ^ (ew + mw + 1) → (decodeVal tag false (x * 2 ^ low)).isNan = false → (decodeVal tag false (x * 2 ^ low)).isInf = false →
      convert md tag (decodeVal tag false (x * 2 ^ low)) = (x * 2 ^ low, 0)) ∧
  (∀ (dp : Bool) (ovf : BitVec 128) (x : Nat),
      let ew := if dp then 11 else 8
      let mw := if dp then 52 else 23
      let top := 2 ^ (ew + mw)
      let e := x / 2 ^ mw % 2 ^ ew
      let m := x % 2 ^ mw
      let s := decide (top ≤ x)
      let last := 2 ^ ew - 1
      x < 2 * top →
      (∀ abs : Bool, fnegBits ovf dp abs x =
        if e ≠ last then (if abs || s then x % top else x + top)
        else if m ≠ 0 then last * 2 ^ mw + 2 ^ (mw - 1) + (if abs || s then 0 else top)
        else (convert { ovf } (floatTag dp) (.inf (!abs && !s))).1) ∧
      (∀ k, fclassHolds k dp x = match k with
        | 0 => e == last && m == 0 && s
        | 1 => e != 0 && e != last && s
        | 2 => e == 0 && m != 0 && s
        | 3 => e == 0 && m == 0 && s
        | 4 => e == 0 && m == 0 && !s
        | 5 => e == 0 && m != 0 && !s
        | 6 => e != 0 && e != last && !s
        | 7 => e == last && m == 0 && !s
        | 8 => e == last && m != 0
        | 9 => e == 0 && m == 0
        | 10 => e == last && m == 0
        | 11 => e == 0 && m != 0
        | _ => e != last)) ∧
  (∀ (md : FpMode) (dp : Bool) (v : DWord),
      let a := floatVal md dp v
      let out (i : Int) : Nat := (BitVec.ofInt 64 i).toNat
      fcvtValue md 0 dp v = convert md (floatTag !dp) a ∧ fcvtValue md 3 dp v = convert md (floatTag dp) (.ofInt v.toInt) ∧
      fcvtValue md 4 dp v = convert md (floatTag dp) (.num false v.toNat 1) ∧
      ∀ e ∈ ([(1, -2 ^ 63, 2 ^ 63 - 1), (2, 0, 2 ^ 64 - 1), (5, -2 ^ 31, 2 ^ 31 - 1), (6, 0, 2 ^ 32 - 1)] : List (Nat × Int × Int)),
        fcvtValue md e.1 dp v = match a with
          | .nan _ => (0, flagNV)
          | .inf s => (out (if s then e.2.1 else e.2.2), flagNV)
          | .num s n d =>
            let i := signedOf s (roundQuot md.rm s (n / d) (n % d) d)
            if i < e.2.1 then (out e.2.1, flagNV) else if e.2.2 < i then (out e.2.2, flagNV)
            else (out i, if n % d = 0 then 0 else flagNX))


/-! ## Predicates -/

/-- R107, Table 4-8: `pand`, `por`, `pxor` and `pnot` write predicate D from predicates, each inverted as SUB says; `pmov`
moves one predicate, writes a bank of 32 from a register or reads one into a register; `pset` writes a constant or a zero
test. p0 discards (Strand.writeP), and an instruction on p0 only advances. Then what the operands are: SUB bit 0 inverts A and
bit 1 inverts B; p0 is always true; bit j of a bank is the predicate at its base plus j, and writing a bank leaves every other
predicate as it was. -/
def Obligations.PredicateResults : Prop :=
  (∀ (s : State) (x : Short) (y : Alu),
    (∀ e ∈ ([(.pand x, x.toAlu, and), (.pandLong y, y, and), (.por x, x.toAlu, or), (.porLong y, y, or),
          (.pxor x, x.toAlu, xor), (.pxorLong y, y, xor)] : List (Instr × Alu × (Bool → Bool → Bool))),
        s.admits e.1.view = true →
        exec e.1 s = .next (s.retire (s.withPred e.2.1.d.toNat
          (e.2.2 (predA e.2.1 s.curStrand) (predB e.2.1 s.curStrand))) e.1.view .next)) ∧
    (∀ e ∈ ([(.pnot x, x.toAlu), (.pnotLong y, y)] : List (Instr × Alu)),
        s.admits e.1.view = true →
        exec e.1 s = .next (s.retire (s.withPred e.2.d.toNat (!s.curStrand.pred e.2.a.toNat)) e.1.view .next)) ∧
    (∀ e ∈ ([(.pmov x, x.toAlu), (.pmovLong y, y)] : List (Instr × Alu)),
        s.admits e.1.view = true →
        (e.2.sub = 0 →
          exec e.1 s = .next (s.retire (s.withPred e.2.d.toNat (s.curStrand.pred e.2.a.toNat)) e.1.view .next)) ∧
        (e.2.sub = 1 → s.ready [e.2.a.toNat] none = true →
          exec e.1 s = .next (s.retire (let p := s.popCodes [e.2.a.toNat]
            p.setStrand p.cur (p.curStrand.writeBank e.2.d.toNat (s.source e.2.a.toNat))) e.1.view .next)) ∧
        (e.2.sub = 2 → s.ready [] (some e.2.d.toNat) = true →
          exec e.1 s = .next (s.retire (s.writeDst e.2.d.toNat
            (BitVec.ofNat 64 (s.curStrand.readBank e.2.a.toNat))) e.1.view .next))) ∧
    (∀ e ∈ ([(.pset x, x.toAlu), (.psetLong y, y)] : List (Instr × Alu)),
        s.admits e.1.view = true →
        (e.2.sub.getLsbD 1 = false →
          exec e.1 s = .next (s.retire (s.withPred e.2.d.toNat (e.2.sub.getLsbD 0)) e.1.view .next)) ∧
        (e.2.sub.getLsbD 1 = true → s.ready [e.2.a.toNat] none = true →
          exec e.1 s = .next (s.retire ((s.popCodes [e.2.a.toNat]).withPred e.2.d.toNat
            ((s.source e.2.a.toNat != 0) != e.2.sub.getLsbD 0)) e.1.view .next)))) ∧
  (∀ (x : Alu) (d : Strand) (b : BitVec 9), x.b = .code b →
      predA x d = (if x.sub.getLsbD 0 then !d.pred x.a.toNat else d.pred x.a.toNat) ∧
      predB x d = (if x.sub.getLsbD 1 then !d.pred b.toNat else d.pred b.toNat)) ∧
  (∀ (d : Strand) (v : DWord), d.pred 0 = true ∧ ∀ base ∈ [0, 32, 64],
      d.readBank base < 2 ^ 32 ∧ (∀ j, j < 32 → (d.readBank base).testBit j = d.pred (base + j) ∧
        (d.writeBank base v).pred (base + j) = if base + j = 0 then true else v.getLsbD j) ∧
      ∀ n, n < 96 → (n < base ∨ base + 32 ≤ n) → (d.writeBank base v).pred n = d.pred n)


/-! ## Branches, loops, strand control, section headers -/

/-- R59, R74, R108, R109: a taken branch, a call and a jump through a register. The displacement counts words from the branch
itself; a link register gets the address after the instruction, and `brr` reads its target before it writes its link. R76, R95,
R108, R110, Table 4-9: `loop` pushes (N, 0) or leaves a loop of no iterations; `bloop` goes round again while i + 1 < N and pops
its entry at the end, and either way the rotation bases count down by one and a requested stop finds its iteration boundary;
`lbrk` pops and branches; `rbset` sets the bases its FN names. -/
def Obligations.BranchResults : Prop :=
  (∀ (s : State) (disp : BitVec 22) (x : Br) (g : Gen) (h : Short),
      (s.admits (Instr.br disp).view = true →
        exec (.br disp) s = .next (s.retire s (Instr.br disp).view (.jump (s.curStrand.pc + (disp.signExtend 64 <<< 2))))) ∧
      (s.admits (Instr.brLong x).view = true →
        exec (.brLong x) s = .next (s.retire s (Instr.brLong x).view (.jump (s.curStrand.pc + (x.disp.signExtend 64 <<< 2))))) ∧
      (s.admits (Instr.call disp).view = true → s.ready [] (some 31) = true →
        exec (.call disp) s = .next (s.retire (s.writeDst 31 (s.curStrand.pc + 4)) (Instr.call disp).view
          (.jump (s.curStrand.pc + (disp.signExtend 64 <<< 2))))) ∧
      (s.admits (Instr.callLong x).view = true → s.ready [] (some x.d.toNat) = true →
        exec (.callLong x) s = .next (s.retire (s.writeDst x.d.toNat (s.curStrand.pc + 8)) (Instr.callLong x).view
          (.jump (s.curStrand.pc + (x.disp.signExtend 64 <<< 2))))) ∧
      (s.admits (Instr.brr g).view = true → s.ready [g.a.toNat] (some g.d.toNat) = true → s.source g.a.toNat &&& 3 = 0 →
        exec (.brr g) s = .next (s.retire ((s.popCodes [g.a.toNat]).writeDst g.d.toNat (s.curStrand.pc + 8)) (Instr.brr g).view
          (.jump (s.source g.a.toNat)))) ∧
      (∀ e ∈ ([(.ret h, h.toGen), (.retLong g, g)] : List (Instr × Gen)),
        s.admits e.1.view = true → s.ready [e.2.a.toNat] none = true → s.source e.2.a.toNat &&& 3 = 0 →
        exec e.1 s = .next (s.retire (s.popCodes [e.2.a.toNat]) e.1.view (.jump (s.source e.2.a.toNat))))) ∧
  (∀ (s : State) (disp : BitVec 22) (x : Br) (g : Gen),
      (s.admits (Instr.loop x).view = true → s.ready [x.a.toNat] none = true →
        let n : Word := (s.source x.a.toNat).extractLsb' 0 32
        (n = 0 → exec (.loop x) s =
          .next (s.retire (s.popCodes [x.a.toNat]) (Instr.loop x).view (.jump (s.branchTarget x.disp)))) ∧
        (n ≠ 0 → s.curStrand.loops.length < 6 → exec (.loop x) s =
          .next (s.retire ((s.popCodes [x.a.toNat]).updCur fun d => { d with loops := (n, 0) :: d.loops })
            (Instr.loop x).view .next))) ∧
      (∀ (k i : Word) (rest : List (Word × Word)), s.curStrand.loops = (k, i) :: rest →
        let bases (d : Strand) : Strand := { d with
          bg := d.bg - 1, bp := d.bp - 1, bs := d.bs - 1, stop := if s.curTask.stopReq.isSome then .boundary else d.stop }
        (∀ e ∈ ([(.bloop disp, s.branchTarget disp), (.bloopLong x, s.branchTarget x.disp)] : List (Instr × DWord)),
          s.admits e.1.view = true →
          (i + 1 < k → exec e.1 s = .next (s.retire (s.updCur fun d => { bases d with loops := (k, i + 1) :: rest }) e.1.view
            (.jump e.2))) ∧
          (¬ i + 1 < k → exec e.1 s = .next (s.retire (s.updCur fun d => { bases d with loops := rest }) e.1.view .next))) ∧
        (s.admits (Instr.lbrk x).view = true →
          exec (.lbrk x) s = .next (s.retire (s.updCur fun d => { d with loops := rest }) (Instr.lbrk x).view
            (.jump (s.branchTarget x.disp))))) ∧
      (s.admits (Instr.rbset g).view = true → s.ready (Src.codes g.b) none = true →
        exec (.rbset g) s = .next (s.retire ((s.popCodes (Src.codes g.b)).updCur fun d => { d with
          bg := if g.fn.getLsbD 0 then (s.valueB g.b).extractLsb' 0 5 else d.bg
          bp := if g.fn.getLsbD 1 then (s.valueB g.b).extractLsb' 0 5 else d.bp
          bs := if g.fn.getLsbD 2 then (s.valueB g.b).extractLsb' 0 7 else d.bs }) (Instr.rbset g).view .next)))

/-- R55, R108, R109, Table 4-9, where control instructions trap: a register target that is no multiple of 4 takes the
instruction-address trap with the target as its value and nothing written or popped, and a loop instruction with no entry, or a
seventh loop, takes the loop trap. -/
def Obligations.ControlTraps : Prop :=
  ∀ (s : State) (disp : BitVec 22) (x : Br) (g : Gen) (h : Short),
    (s.admits (Instr.brr g).view = true → s.ready [g.a.toNat] (some g.d.toNat) = true → s.source g.a.toNat &&& 3 ≠ 0 →
      exec (.brr g) s = .next (s.trapped s 6 (s.source g.a.toNat) s.curStrand.pc 0)) ∧
    (∀ e ∈ ([(.ret h, h.toGen), (.retLong g, g)] : List (Instr × Gen)),
      s.admits e.1.view = true → s.ready [e.2.a.toNat] none = true → s.source e.2.a.toNat &&& 3 ≠ 0 →
      exec e.1 s = .next (s.trapped s 6 (s.source e.2.a.toNat) s.curStrand.pc 0)) ∧
    (s.admits (Instr.loop x).view = true → s.ready [x.a.toNat] none = true →
      (s.source x.a.toNat).extractLsb' 0 32 ≠ (0 : Word) → 6 ≤ s.curStrand.loops.length →
      exec (.loop x) s = .next (s.trapped s 8 ((Instr.loop x).view.firstWord.zeroExtend 64) s.curStrand.pc 0)) ∧
    (∀ i ∈ ([.bloop disp, .bloopLong x, .lbrk x] : List Instr), s.admits i.view = true → s.curStrand.loops = [] →
      exec i s = .next (s.trapped s 8 (i.view.firstWord.zeroExtend 64) s.curStrand.pc 0))

/-- R81, R94, R111, Table 4-1: `fork` starts the strand its FN names at its entry, with g1 to g15 of the main strand and its
rounding modes, its own predicates and g16 to g63, the level of the main strand and everything else as Table 4-1 starts it;
`rdv` leaves its strand in Rendezvous and `halt` an engine strand in Halted, past the instruction, its accesses performed; `halt`
of a main strand with a debugger attached halts the task for the debugger, and without one is the halt trap; `join` completes when
its strands and their commands have finished, and the strands in Rendezvous become Idle. `fork` of a live strand is the
strand-state trap, and a misaligned entry the instruction-address trap. -/
def Obligations.StrandControl : Prop :=
  ∀ (s : State) (x : Short) (g : Gen),
    (s.admits (Instr.fork g).view = true → s.ready (Src.codes g.b) none = true →
      let u := unitOf (g.fn.toNat % 4)
      let entry : DWord := match g.b with | .code _ => s.valueB g.b | _ => s.curStrand.pc + (s.valueB g.b <<< 2)
      (s.curTask.strand u).live = false → entry &&& 3 = 0 →
      (∀ k, k < 15 → s.curStrand.pendingG (k + 1) = false) → s.curTask.stopReq = none → u ≠ s.cur.unit →
      ∃ t, exec (.fork g) s = .next (s.retire t (Instr.fork g).view .next) ∧
        let n := t.strand ⟨s.cur.task, u⟩
        n.state = .running ∧ n.pc = entry ∧ n.lvl = s.curStrand.lvl ∧ n.fcsr = s.curStrand.fcsr &&& 0x1F ∧
        n.p = (s.curTask.strand u).p ∧ n.loops = [] ∧ n.bg = 0 ∧ n.bp = 0 ∧ n.bs = 0 ∧ n.rs = 0xFFF ∧ n.xs = 0 ∧
        n.sect = none ∧ n.ih = false ∧
        n.g = ((s.curStrand.g.filter fun e => 1 ≤ e.1 && e.1 < 16) ++ (s.curTask.strand u).g.filter fun e => 16 ≤ e.1)) ∧
    (∀ e ∈ ([(.rdv x, 4), (.rdvLong g, 8)] : List (Instr × Nat)), s.admits e.1.view = true →
      let p := (s.issue s.cur).drain s.cur
      exec e.1 s = .next ((p.updCur fun d =>
        { d with pc := d.pc + BitVec.ofNat 64 e.2, state := .rendezvous, held := none, ended := p.cycle }).boundary s.cur)) ∧
    (∀ e ∈ ([(.halt x, 4), (.haltLong g, 8)] : List (Instr × Nat)), s.admits e.1.view = true →
      (s.cur.unit ≠ .main →
        let p := ((s.dropEnds s.cur.task (strandEnd s.cur.unit)).issue s.cur).drain s.cur
        exec e.1 s = .next ((p.updCur fun d =>
          { d with pc := d.pc + BitVec.ofNat 64 e.2, state := .halted, held := none, ended := p.cycle }).boundary s.cur)) ∧
      (s.cur.unit = .main → s.attached s.cur.task = true →
        exec e.1 s = .next (((s.issue s.cur).updCur fun d =>
          { d with pc := s.curStrand.pc + BitVec.ofNat 64 e.2, held := none }).debugStop s.cur.task 3 0
            (some (.main, s.curStrand.pc)))) ∧
      (s.cur.unit = .main → s.attached s.cur.task = false →
        exec e.1 s = .next (s.trapped s 37 (e.1.view.firstWord.zeroExtend 64) s.curStrand.pc 0))) ∧
    (s.admits (Instr.join g).view = true → s.curTask.late = [] → (s.curTask.chans.all fun c => !c.2.faulted) = true →
      s.curTask.mat.late = [] → ((joinUnits g.fn.toNat).all fun u => s.joined s.cur.task u) = true →
      let us := joinUnits g.fn.toNat
      let p := s.producedBy (s.taskParty s.cur.task (s.curTask.lastFinished us).code)
      exec (.join g) s = .next (s.retire ((p.dropEnds s.cur.task (p.curTask.joinEnds us)).updTask
        fun x' => us.foldl Task.idleRendezvous x') (Instr.join g).view .next)) ∧
    (s.admits (Instr.fork g).view = true → (s.curTask.strand (unitOf (g.fn.toNat % 4))).live = true →
      exec (.fork g) s = .next (s.trapped s 9 ((Instr.fork g).view.firstWord.zeroExtend 64) s.curStrand.pc 0)) ∧
    (s.admits (Instr.fork g).view = true → s.ready (Src.codes g.b) none = true →
      let entry : DWord := match g.b with | .code _ => s.valueB g.b | _ => s.curStrand.pc + (s.valueB g.b <<< 2)
      (s.curTask.strand (unitOf (g.fn.toNat % 4))).live = false → entry &&& 3 ≠ 0 →
      exec (.fork g) s = .next (s.trapped s 6 entry s.curStrand.pc 0))

/-- R77 to R82, Table 3-12: a header retires every section below its own, opens its section when each wait it names is on a
section already retired (numbers compared modulo 4096), waits while one is not and the strand waited on is live, and takes the
section-wait trap when it is not live; a header below the strand's section is illegal, and at the end of the section in force
that section is retired first. What a strand's older accesses do they do before. -/
def Obligations.SectionHeaders : Prop :=
  ∀ (s : State) (h : Header), s.admits (Instr.sectionHeader h).view = true →
    let p := s.drain s.cur
    let d := p.curStrand
    let retired := p.updTask fun x => x.retireSections p.cur.unit (h.sect - 1) (p.strandParty p.cur)
    let left := (headerWaits h p.cur.unit).filter fun w => !atOrAfter (p.curTask.strand w.1).rs w.2
    (atOrAfter h.sect d.xs = true → left = [] →
      exec (.sectionHeader h) s = .next (s.retire (retired.updCur fun d =>
        { d with xs := h.sect + 1, sect := some (d.pc + 8, h.words) }) (Instr.sectionHeader h).view .next)) ∧
    (∀ e l, atOrAfter h.sect d.xs = true → left = e :: l → (left.all fun w => (p.curTask.strand w.1).live) = true →
      exec (.sectionHeader h) s = .next (retired.stall s.cur (.sections left e))) ∧
    (atOrAfter h.sect d.xs = true → (left.any fun w => !(p.curTask.strand w.1).live) = true →
      exec (.sectionHeader h) s =
        .next (s.trapped retired 7 ((Instr.sectionHeader h).view.firstWord.zeroExtend 64) s.curStrand.pc 0)) ∧
    (atOrAfter h.sect d.xs = false →
      let atEnd := ∃ a n, d.sect = some (a, n) ∧ a + 4 * n.zeroExtend 64 = d.pc
      (atEnd → exec (.sectionHeader h) s =
        .next (s.trapped (p.updTask fun x => x.retireSections p.cur.unit (d.xs - 1) (p.strandParty p.cur)) 1
          ((Instr.sectionHeader h).view.firstWord.zeroExtend 64) s.curStrand.pc 0)) ∧
      (¬atEnd → exec (.sectionHeader h) s =
        .next (s.trapped p 1 ((Instr.sectionHeader h).view.firstWord.zeroExtend 64) s.curStrand.pc 0))) ∧
    d.xs = s.curStrand.xs ∧ d.pc = s.curStrand.pc ∧ d.sect = s.curStrand.sect ∧ p.cur = s.cur

/-! ## Queue registers -/

/-- R113, R119, R249, R443, Tables 4-12, 4-13: `qbind` binds an unbound register empty; `qfree` unbinds it, stops its stream and
releases the commands that use it; `qstat` reads its status word; `stbind` reads a legal descriptor of 64 bytes from the carve
and gives the register to a channel that is neither Faulted nor streaming; `ststop` stops a stream and leaves its elements; on a
register in another state they take the queue-state trap. The fields of the word of `qstat` are those of Table 4-13, for every
register that holds at most its 1,024 bytes; its reserved bits are 0. -/
def Obligations.QueueBinding : Prop :=
  (∀ (s : State) (x : Gen),
    (s.admits (Instr.qbind x).view = true → (s.curTask.queueReg (queueCode x.d)).bind = .unbound →
      exec (.qbind x) s = .next (s.retire (s.updTask fun t => t.setQueueReg (queueCode x.d)
        { bind := .bound, size := x.fn.extractLsb' 0 2, prod := x.fn.extractLsb' 2 3, cons := x.fn.extractLsb' 5 3 })
        (Instr.qbind x).view .next)) ∧
    (s.admits (Instr.qfree x).view = true → (s.curTask.queueReg (queueCode x.d)).bind ≠ .unbound →
      exec (.qfree x) s = .next (s.retire
        ((s.updTask fun t => t.freeQueue (queueCode x.d)).markFreed s.cur.task (queueCode x.d)) (Instr.qfree x).view .next)) ∧
    (s.admits (Instr.qstat x).view = true → s.ready [] (some x.d.toNat) = true →
      exec (.qstat x) s = .next (s.retire
        (s.writeDst x.d.toNat (s.curTask.queueStatus (s.curTask.queueReg (queueCode x.a)))) (Instr.qstat x).view .next)) ∧
    (let q := s.drainIf s.cur Loc.isPad
     s.admits (Instr.stbind x).view = true → q.ready [x.a.toNat] none = true →
      let p := q.popCodes [x.a.toNat]
      let v := q.source x.a.toNat
      let ch := bitsOf (x.fn.zeroExtend 64) 2 2
      let ws := (p.core p.curTask.core).pad.words (p.curTask.carve + v.toNat) 8
      (p.curTask.queueReg (queueCode x.d)).bind = .unbound → v.toNat % 64 = 0 → v.toNat < p.curTask.hdr.cs →
      (p.core p.curTask.core).zeroingAt (p.curTask.carve + v.toNat) 64 = false →
      (p.core p.curTask.core).badAt (p.curTask.carve + v.toNat) 64 = false →
      p.scalarWaits (p.curTask.carve + v.toNat) 64 false = [] →
      descOk ws = true → ((descAddrs ws).all fun v => v % 2 ^ (x.fn.toNat % 4) == 0) = true →
      (p.curTask.chan ch).faulted = false → (p.curTask.chan ch).stream = none →
      exec (.stbind x) s = .next (s.retire (p.updTask fun t =>
        (t.setQueueReg (queueCode x.d)
          { bind := .stream, size := x.fn.extractLsb' 0 2, prod := BitVec.ofNat 3 (4 + ch)
            cons := (x.fn.extractLsb' 4 2).zeroExtend 3 }).setChan ch
          { t.chan ch with stream := some { q := queueCode x.d, desc := ws, started := (t.chan ch).cmds.isEmpty } })
        (Instr.stbind x).view .next)) ∧
    (s.admits (Instr.ststop x).view = true → (s.curTask.queueReg (queueCode x.d)).bind = .stream →
      exec (.ststop x) s = .next (s.retire ((s.updTask fun t =>
        let y := t.stopStream (queueCode x.d)
        y.setQueueReg (queueCode x.d) { y.queueReg (queueCode x.d) with bind := .stopped }).dropEnds s.cur.task
          (streamEndOf (queueCode x.d))) (Instr.ststop x).view .next)) ∧
    (∀ e ∈ ([(.qbind x, (s.curTask.queueReg (queueCode x.d)).bind ≠ .unbound),
        (.qfree x, (s.curTask.queueReg (queueCode x.d)).bind = .unbound),
        (.ststop x, (s.curTask.queueReg (queueCode x.d)).bind ≠ .stream)] : List (Instr × Prop)),
      s.admits e.1.view = true → e.2 →
      exec e.1 s = .next (s.trapped s 10 (e.1.view.firstWord.zeroExtend 64) s.curStrand.pc 0))) ∧
  (∀ (x : Task) (q : QueueReg), q.count * q.bytes ≤ 1024 →
    let w := x.queueStatus q
    bitsOf w 0 11 = q.count * q.bytes ∧ bitsOf w 11 5 = 0 ∧
    bitsOf w 16 2 = (match q.bind with | .unbound => 0 | .bound => 1 | .stream => 2 | .stopped => 3) ∧
    w.getLsbD 18 = x.endLive q q.prod.toNat ∧ w.getLsbD 19 = x.endLive q q.cons.toNat ∧ bitsOf w 20 2 = q.size.toNat ∧
    bitsOf w 22 2 = 0 ∧ bitsOf w 24 3 = q.prod.toNat ∧ bitsOf w 27 1 = 0 ∧ bitsOf w 28 3 = q.cons.toNat ∧ bitsOf w 31 33 = 0)


/-! ## System instructions, CSRs, steps -/

/-- R282, R283, R411, R417: `sys` and `trap` pop their operand and take traps 33 and 34 with it in TDATA, `sys` with the address
after it as its trap PC; `eret` gives the strand back its level, ends the handler and goes on at TPC, and a misaligned TPC is an
instruction-address trap; `brk` halts the task for a debugger that is attached and is the breakpoint trap without one. -/
def Obligations.SystemTraps : Prop :=
  ∀ (s : State) (x : Gen), s.ready (Src.codes x.b) none = true →
    let p := s.popCodes (Src.codes x.b)
    (s.admits (Instr.sys x).view = true →
      exec (.sys x) s = .next (s.trapped p 33 (s.valueB x.b &&& 0xFFFF) (s.curStrand.pc + 8) (s.valueB x.b))) ∧
    (s.admits (Instr.trap x).view = true →
      exec (.trap x) s = .next (s.trapped p 34 (s.valueB x.b) s.curStrand.pc (s.valueB x.b))) ∧
    (s.admits (Instr.eret x).view = true →
      (s.curStrand.tpc &&& 3 = 0 → exec (.eret x) s = .next (s.retire
        (s.updCur fun d => { d with pc := d.tpc, lvl := d.pp, ih := false }) (Instr.eret x).view (.jump s.curStrand.tpc))) ∧
      (s.curStrand.tpc &&& 3 ≠ 0 →
        exec (.eret x) s = .next (s.trapped s 6 s.curStrand.tpc s.curStrand.pc 0))) ∧
    (s.admits (Instr.brk x).view = true →
      (p.attached p.cur.task = true →
        let q := (p.issue s.cur).updCur fun e => { e with pc := s.curStrand.pc + 8, held := none }
        let k := dieOf q.curTask.core
        exec (.brk x) s = .next ((q.setDie k { q.die k with dbg := { (q.die k).dbg with
          bcode := (s.valueB x.b).extractLsb' 0 32 } }).debugStop q.cur.task 2 ((s.valueB x.b).extractLsb' 0 32)
            (some (q.cur.unit, s.curStrand.pc)))) ∧
      (p.attached p.cur.task = false →
        exec (.brk x) s = .next (s.trapped s 35 ((Instr.brk x).view.firstWord.zeroExtend 64) s.curStrand.pc 0)))

/-- R284, R285, Table 10-4: `csrr` writes the value of the CSR to D; `csrw` writes the CSR; `ovtld` loads the overflow table of
the task's context from a pair of registers, and traps with the first index that holds the reserved policy. What is written to
a CSR is read back, but for its reserved bits, which read 0, and a reserved rounding mode,
which leaves the mode; the read-only ones keep their value. What each CSR of the table reads, field by field. -/
def Obligations.SpecialRegisters : Prop :=
  ∀ (s : State) (x : Gen) (r : StrandRef) (v : DWord),
    (s.admits (Instr.csrr x).view = true → s.ready [] (some x.d.toNat) = true →
      exec (.csrr x) s = .next (s.retire (s.writeDst x.d.toNat (s.csr s.cur x.fn.toNat)) (Instr.csrr x).view .next)) ∧
    (s.admits (Instr.csrw x).view = true → s.ready (Src.codes x.b) none = true →
      exec (.csrw x) s = .next (s.retire ((s.popCodes (Src.codes x.b)).setCsr s.cur x.fn.toNat (s.valueB x.b))
        (Instr.csrw x).view .next)) ∧
    (s.admits (Instr.ovtld x).view = true → s.ready [x.a.toNat, x.a.toNat + 1] none = true →
      let t : BitVec 128 := s.source (x.a.toNat + 1) ++ s.source x.a.toNat
      let p := s.popCodes [x.a.toNat, x.a.toNat + 1]
      ((∀ j, j < 64 → ovfEntry t j ≠ 3) → exec (.ovtld x) s =
        .next (s.retire (p.setCtx p.curTask.ctx { p.curCtx with ovf := t }) (Instr.ovtld x).view .next)) ∧
      (∀ j, j < 64 → ovfEntry t j = 3 → (∀ k, k < j → ovfEntry t k ≠ 3) →
        exec (.ovtld x) s = .next (s.trapped s 25 (BitVec.ofNat 64 j) s.curStrand.pc 0))) ∧
    (∀ n ∈ [0x021, 0x022, 0x024, 0x025], (s.setCsr r n v).csr r n = v) ∧
    (s.setCsr r 0x000 v).csr r 0x000 = (if bitsOf v 0 3 < 5 then v &&& 0x1F1F
      else (v &&& 0x1F18) ||| ((s.strand r).fcsr &&& 7)) ∧
    (s.setCsr r 0x001 v).csr r 0x001 = v &&& 0x1F ∧ (s.setCsr r 0x002 v).csr r 0x002 = v &&& 0x1F ∧
    (s.setCsr r 0x003 v).csr r 0x003 = v &&& 0x7F ∧ (s.setCsr r 0x010 v).csr r 0x010 = v &&& 0xFFFFFFFFFFFFFF80 ∧
    (s.setCsr r 0x020 v).csr r 0x020 = v &&& 0xFF ∧
    (s.setCsr r 0x023 v).csr r 0x023 = (v &&& 3) ||| (if (s.strand r).lvl then 4 else 0) ∧
    (∀ n ∈ [0x004, 0x005, 0x030, 0x031, 0x032, 0x033, 0x040, 0x041], s.setCsr r n v = s) ∧
    (let x := s.task r.task
     let d := s.strand r
     s.csr r 0x000 = d.fcsr ∧ s.csr r 0x001 = d.bg.zeroExtend 64 ∧ s.csr r 0x002 = d.bp.zeroExtend 64 ∧
     s.csr r 0x003 = d.bs.zeroExtend 64 ∧ s.csr r 0x004 = BitVec.ofNat 64 s.cycle ∧
     (let v := s.csr r 0x005
      bitsOf v 0 12 = d.rs.toNat ∧ bitsOf v 12 4 = 0 ∧ bitsOf v 16 12 = d.xs.toNat ∧ bitsOf v 28 36 = 0) ∧
     s.csr r 0x010 = x.povf ∧ s.csr r 0x020 = d.tcause ∧ s.csr r 0x021 = d.tval ∧ s.csr r 0x022 = d.tpc ∧
     (let v := s.csr r 0x023
      v.getLsbD 0 = d.pp ∧ v.getLsbD 1 = d.ih ∧ v.getLsbD 2 = d.lvl ∧ bitsOf v 3 61 = 0) ∧
     s.csr r 0x024 = d.tscratch ∧ s.csr r 0x025 = d.tdata ∧
     (let v := s.csr r 0x030
      bitsOf v 0 6 = x.ctx % 64 ∧ bitsOf v 6 58 = 0) ∧ (s.csr r 0x031).toNat = x.index % 2 ^ 32 ∧
     (let v := s.csr r 0x032
      (x.group = none → bitsOf v 0 32 = x.index % 2 ^ 32) ∧ (∀ g, x.group = some g → bitsOf v 0 32 = (s.group g).index % 2 ^ 32) ∧
      bitsOf v 32 4 = x.member % 16 ∧ bitsOf v 36 4 = (x.gsize - 1) % 16 ∧ bitsOf v 40 24 = 0) ∧
     s.csr r 0x033 = (s.strandParty r).zeroExtend 64 ∧ s.csr r 0x040 = (s.ctx x.ctx).tvec ∧ s.csr r 0x041 = (s.ctx x.ctx).trapmask ∧
     ∀ n, n < 0x28 → s.csr r (0x100 + n) = Assoc.getD (s.die (dieOf x.core)).sensors n 0)

/-- R410 to R412, Table 13-3: `cpmark.beg` gives the task the next step of its queue, whose identifier it writes to D, and its
mark; `cpmark.end` marks the end, hands the walk to its die's queue and leaves the task without a step; either without its
state, or with a misaligned or non-canonical timeline, traps; `tmark` posts a packet of its two operands; `ccnt` reads the
cycle, or the task's run time. -/
def Obligations.StepMarks : Prop :=
  ∀ (s : State) (x : Gen) (h : Short) (y : Alu),
    (s.admits (Instr.cpmarkBeg x).view = true → s.ready [] (some x.d.toNat) = true →
      let id : Word := BitVec.ofNat 32 (s.curTask.queue * 2 ^ 22 + (s.queue s.curTask.queue).nextStep)
      let p := (s.issue s.cur).setQueue s.curTask.queue
        { s.queue s.curTask.queue with nextStep := nextStepSeq (s.queue s.curTask.queue).nextStep }
      let q := p.updTask fun t => { t with step := some ⟨id, s.curCtx.modes.getLsbD 4, s.cycle⟩ }
      (s.curTask.step = none → exec (.cpmarkBeg x) s = .next (s.retire
        ((q.stepMark q.cur false).writeDst x.d.toNat (id.zeroExtend 64)) (Instr.cpmarkBeg x).view .next)) ∧
      (s.curTask.step ≠ none → exec (.cpmarkBeg x) s =
        .next (s.trapped s 9 ((Instr.cpmarkBeg x).view.firstWord.zeroExtend 64) s.curStrand.pc 0))) ∧
    (s.admits (Instr.cpmarkEnd x).view = true → s.ready [x.a.toNat] none = true →
      let v := s.source x.a.toNat
      let p := s.popCodes [x.a.toNat]
      let die := dieOf p.curTask.core
      (∀ k, p.curTask.step = some k → v &&& 7 = 0 → (v = 0 ∨ canonical v = true) → (p.die die).walks.length < 16 →
        let m := if p.curStrand.held.isNone then (p.issue p.cur).stepMark (p.issue p.cur).cur true else p
        exec (.cpmarkEnd x) s = .next (s.retire
          ((m.setDie die { m.die die with walks := (m.die die).walks ++ [{
              step := k.id, beg := k.beg, fin := p.cycle, party := p.strandParty p.cur, tl := v, ctx := p.curTask.ctx
              hostMode := k.host }] }).updTask fun t => { t with step := none }) (Instr.cpmarkEnd x).view .next)) ∧
      (∀ k, p.curTask.step = some k → v &&& 7 = 0 → (v = 0 ∨ canonical v = true) → 16 ≤ (p.die die).walks.length →
        let m := if p.curStrand.held.isNone then (p.issue p.cur).stepMark (p.issue p.cur).cur true else p
        exec (.cpmarkEnd x) s = .next ((m.updCur fun d => { d with held := some .done }).stall s.cur .walkQueue)) ∧
      (p.curTask.step = none → exec (.cpmarkEnd x) s =
        .next (s.trapped s 9 ((Instr.cpmarkEnd x).view.firstWord.zeroExtend 64) s.curStrand.pc 0)) ∧
      (∀ k, p.curTask.step = some k → v &&& 7 ≠ 0 → exec (.cpmarkEnd x) s = .next (s.trapped s 13 v s.curStrand.pc 0)) ∧
      (∀ k, p.curTask.step = some k → v &&& 7 = 0 → v ≠ 0 → canonical v = false →
        exec (.cpmarkEnd x) s = .next (s.trapped s 17 v s.curStrand.pc 0))) ∧
    (s.admits (Instr.tmark x).view = true → s.ready (x.a.toNat :: Src.codes x.b) none = true →
      let p := s.popCodes (x.a.toNat :: Src.codes x.b)
      exec (.tmark x) s = .next (s.retire (p.postPacket (p.strandParty p.cur) p.curTask.ctx 1 (x.fn.toNat % 256)
        [s.source x.a.toNat, s.valueB x.b]) (Instr.tmark x).view .next)) ∧
    (∀ e ∈ ([(.ccnt h, h.toAlu), (.ccntLong y, y)] : List (Instr × Alu)),
      s.admits e.1.view = true → s.ready [] (some e.2.d.toNat) = true →
      exec e.1 s = .next (s.retire (s.writeDst e.2.d.toNat
        (BitVec.ofNat 64 (if e.2.sub = 1 then s.curTask.runTime s.cycle else s.cycle))) e.1.view .next))

/-- R286: `tlbinv` drops the cached translations of the page, of the pages that meet the range, or of the whole context, and no
other; a length of 0 drops none; it waits for an access of the host port that a covered entry translated, and what is pending of
the context's strands performs first; an address that is not canonical is the address trap. -/
def Obligations.TranslationInvalidation : Prop :=
  (∀ (s : State) (x : Gen), s.admits (Instr.tlbinv x).view = true →
    let kind := x.fn.toNat % 4
    let codes := (if kind = 2 then [] else [x.a.toNat]) ++ (if kind = 1 then Src.codes x.b else [])
    let va := s.source x.a.toNat
    let ctx := s.curTask.ctx
    let p := s.popCodes codes
    let pages := if kind = 2 then [(0, 2 ^ 39)] else if kind = 0 then [(vpnOf va, vpnOf va)] else pageRanges va (s.valueB x.b).toNat
    let covers (q : LinkReq) : Bool := q.xlat.any fun e => pages.any fun k => e.inPages ctx k.1 k.2
    s.ready codes none = true →
    (kind = 2 ∨ canonical va = true → (∀ q ∈ p.reqs, covers q.2 = false) →
      exec (.tlbinv x) s = .next (s.retire
        (pages.foldl (fun u k => u.invalidate ctx k.1 k.2) (if pages = [] then p else p.drainCtx ctx)) (Instr.tlbinv x).view
          .next)) ∧
    (kind = 2 ∨ canonical va = true → ∀ q, (p.reqs.find? fun q => covers q.2) = some q →
      exec (.tlbinv x) s = .next (s.stall s.cur (.link q.1))) ∧
    (kind ≠ 2 → canonical va = false → exec (.tlbinv x) s = .next (s.trapped s 17 va s.curStrand.pc 0))) ∧
  (∀ (s : State) (ctx lo hi k : Nat),
    ((s.invalidate ctx lo hi).core k).tlb = (s.core k).tlb.filter (fun e => !e.inPages ctx lo hi) ∧
    ((s.invalidate ctx lo hi).die k).tlb = (s.die k).tlb.filter fun e => !e.inPages ctx lo hi) ∧
  (∀ (e : TlbEntry) (ctx lo hi : Nat), lo ≤ hi →
    let first := e.vpn - e.vpn % 2 ^ (e.size - 16)
    e.inPages ctx lo hi = true ↔ e.ctx = ctx ∧ ∃ k, lo ≤ k ∧ k ≤ hi ∧ first ≤ k ∧ k < first + 2 ^ (e.size - 16)) ∧
  (∀ (va v : DWord) (n : Nat), canonical v = true → n < 2 ^ 64 →
    (((pageRanges va n).any fun k => k.1 ≤ vpnOf v && vpnOf v ≤ k.2) = true ↔
      n ≠ 0 ∧ ∃ turn ∈ [0, 2 ^ 48], va.toNat / 65536 ≤ v.toNat / 65536 + turn ∧
        v.toNat / 65536 + turn ≤ (va.toNat + n - 1) / 65536))

/-! ## Span registers -/

/-- R152, R183, R184, Tables 6-1, 6-2: `sdef` writes a whole descriptor, `sset` one field of it and `sget` reads one; `sadv` adds
bytes, or elements of the span's stride and tag, to BASE modulo 2^18; `sfmt` gives the same bytes a new tag and the count that
goes with it, or is the format trap where that count is no number up to 65535. With a reserved tag, whose width the spec does
not state, the offset and the count are free values (notes/assumptions/5.md). A field so written reads back as the value modulo its width, and no bit outside it changes. -/
def Obligations.SpanRegisters : Prop :=
  ∀ (s : State) (x : Gen),
    (s.admits (Instr.sdef x).view = true → s.ready [x.a.toNat] none = true →
      exec (.sdef x) s = .next (s.retire ((s.popCodes [x.a.toNat]).writeSpan x.d.toNat (s.source x.a.toNat))
        (Instr.sdef x).view .next)) ∧
    (s.admits (Instr.sset x).view = true → s.ready (Src.codes x.b) none = true →
      let p := s.popCodes (Src.codes x.b)
      let f := spanField (x.fn.toNat % 8)
      exec (.sset x) s = .next (s.retire (p.writeSpan x.d.toNat (setField (p.readSpan x.d.toNat) f.1 f.2 (s.valueB x.b)))
        (Instr.sset x).view .next)) ∧
    (s.admits (Instr.sget x).view = true → s.ready [] (some x.d.toNat) = true →
      exec (.sget x) s = .next (s.retire (s.writeDst x.d.toNat (sgetValue (x.fn.toNat % 8) (s.readSpan x.a.toNat)))
        (Instr.sget x).view .next)) ∧
    (s.admits (Instr.sadv x).view = true → s.ready (Src.codes x.b) none = true →
      let p := s.popCodes (Src.codes x.b)
      let d := p.readSpan x.d.toNat
      let step := (s.valueB x.b).toInt * spStride d * (elemBits (spTag d) : Nat)
      (x.fn.getLsbD 0 = true → exec (.sadv x) s = .next (s.retire
        (p.writeSpan x.d.toNat (setField d 0 18 (BitVec.ofNat 64 (spBase d) + s.valueB x.b))) (Instr.sadv x).view .next)) ∧
      (x.fn.getLsbD 0 = false → reservedTag (spTag d) = false → step % 8 = 0 → exec (.sadv x) s = .next (s.retire
        (p.writeSpan x.d.toNat (setField d 0 18 (BitVec.ofInt 64 (spBase d + step / 8)))) (Instr.sadv x).view .next)) ∧
      (x.fn.getLsbD 0 = false → reservedTag (spTag d) = false → step % 8 ≠ 0 →
        exec (.sadv x) s = .next (s.trapped s 25 ((Instr.sadv x).view.firstWord.zeroExtend 64) s.curStrand.pc 0)) ∧
      (x.fn.getLsbD 0 = false → reservedTag (spTag d) = true → exec (.sadv x) s = .next (s.retire
        (p.fresh.2.writeSpan x.d.toNat (setField d 0 18 p.fresh.1)) (Instr.sadv x).view .next))) ∧
    (s.admits (Instr.sfmt x).view = true →
      let d := s.readSpan x.a.toNat
      let bits := spCount d * elemBits (spTag d)
      let w := elemBits (x.fn.toNat % 64)
      ((spCount d ≠ 0 → spStride d = 1 ∧ reservedTag (spTag d) = false) → bits % w = 0 → bits / w ≤ 65535 →
        exec (.sfmt x) s = .next (s.retire (s.writeSpan x.d.toNat
          (setField (setField d 34 16 (BitVec.ofNat 64 (bits / w))) 50 6 (BitVec.ofNat 64 (x.fn.toNat % 64))))
          (Instr.sfmt x).view .next)) ∧
      (spCount d ≠ 0 → spStride d = 1 → reservedTag (spTag d) = true → exec (.sfmt x) s = .next (s.retire
        (s.fresh.2.writeSpan x.d.toNat (setField (setField d 34 16 s.fresh.1) 50 6 (BitVec.ofNat 64 (x.fn.toNat % 64))))
        (Instr.sfmt x).view .next)) ∧
      (spCount d ≠ 0 → (spStride d ≠ 1 ∨ reservedTag (spTag d) = false ∧ (bits % w ≠ 0 ∨ 65535 < bits / w)) →
        exec (.sfmt x) s = .next (s.trapped s 25 ((Instr.sfmt x).view.firstWord.zeroExtend 64) s.curStrand.pc 0))) ∧
    (∀ (d v : DWord) (k : Nat), k < 64 → ∀ e ∈ [(0, 18), (18, 16), (34, 16), (50, 6), (56, 5)],
      (setField d e.1 e.2 v).getLsbD k = if e.1 ≤ k ∧ k < e.1 + e.2 then v.getLsbD (k - e.1) else d.getLsbD k)

/-! ## Memory -/

/-- R71, R122 to R125, R131, R136 to R138, R253, R254, loads from the private memory, the shared memory and the shared memory of a
member of the group: the number of the form's width that lies at the address, zero extended, goes to D, the operand queues are
popped, and an acquiring load makes its acquire action. The value goes to D at once, or to its g register in a later turn, and it
may be read only then (notes/assumptions/6.md). Of a load that reads now, every byte is that of the youngest older store of the
strand to it that has not performed, or else the one that the memory holds. -/
def Obligations.ScratchpadLoads : Prop :=
  (∀ (s : State) (x : Mem) (p : PadPlace),
    let size := 2 ^ x.size.toNat
    let codes := indexedCodes x.a x.b
    s.ready codes (some x.d.toNat) = true → s.flushDone (x.ord == 1) (scopeOf x.scope.toNat) = true →
    ∀ e ∈ ([(.ldp x, .p), (.lds x, .s), (.ldn x, .n)] : List (Instr × Space)),
      s.admits e.1.view = true →
      s.padPlace e.2 (s.memberOf x.b) (s.accessAddress e.2 x.a x.b (x.off.signExtend 64) size) size false = some p →
      exec e.1 s = .next (s.retire (((s.popCodes codes).loadIn x.d.toNat p.loc size).ordered (x.ord == 1) x.scope.toNat)
        e.1.view .next) ∧
      (s.curStrand.calm = true → (s.defer = false ∨ x.d = 0 ∨ 63 < x.d.toNat) →
        exec e.1 s = .next (s.retire (((s.popCodes codes).writeDst x.d.toNat
          (BitVec.ofNat 64 ((s.core p.core).pad.nat p.lo size))).ordered (x.ord == 1) x.scope.toNat) e.1.view .next))) ∧
  (∀ (s : State) (d : Nat) (l : Loc) (size : Nat),
    let now := s.loadNow l size
    let waits := s.defer = true ∧ d ≠ 0 ∧ d ≤ 63
    (¬waits → s.loadIn d l size = now.2.writeDst d (BitVec.ofNat 64 now.1)) ∧
    (waits → s.late = false → s.loadIn d l size = now.2.loadPends s.nextLoad d (BitVec.ofNat 64 now.1) none) ∧
    (waits → s.late = true → s.loadIn d l size = s.loadPends s.nextLoad d 0 (some (l, size))) ∧
    (s.curStrand.calm = true → now = s.readAt s.cur l size) ∧
    (s.curStrand.lateLoads = [] → ∀ i, i < size →
      let lays (p : PendStore) : Bool := decide (p.id < s.nextLoad) && p.loc.meets p.size l size &&
        decide (p.loc.start ≤ l.start + i) && decide (l.start + i < p.loc.start + p.size)
      BitVec.ofNat 8 (now.1 / 256 ^ i) =
        match (s.curStrand.stores.filter lays).getLast? with
        | some p => BitVec.ofNat 8 (p.value / 256 ^ (l.start + i - p.loc.start))
        | none => BitVec.ofNat 8 ((s.readAt s.cur l size).1 / 256 ^ i)))

/-- R71, R122 to R125, R136 to R139, R253, R254, stores to the same three memories: the data queue is popped at issue, a releasing store
makes its release action, and the low bytes of D are stored at the address, at once or later from the store queue
(notes/assumptions/6.md); older accesses of the strand to the same bytes perform first. A store to shared memory makes the
residency entries that it overlaps Free. -/
def Obligations.ScratchpadStores : Prop :=
  (∀ (s q : State) (x : Mem) (p : PadPlace) (v : DWord),
    let size := 2 ^ x.size.toNat
    s.storeIssue (indexedCodes x.a x.b) x.d.toNat = some (v, q) → q.flushDone (x.ord == 2) (scopeOf x.scope.toNat) = true →
    ∀ e ∈ ([(.stp x, .p), (.sts x, .s), (.stn x, .n)] : List (Instr × Space)),
      s.admits e.1.view = true →
      q.padPlace e.2 (s.memberOf x.b) (s.accessAddress e.2 x.a x.b (x.off.signExtend 64) size) size true = some p →
      let m := q.ordered (x.ord == 2) x.scope.toNat
      exec e.1 s = .next (s.retire (m.storeOut p.loc size (storeData size v)) e.1.view .next) ∧
      (m.curStrand.calm = true → m.late = false →
        exec e.1 s = .next (s.retire (m.storePad p size (storeData size v)) e.1.view .next))) ∧
  (∀ (s : State) (codes : List Nat) (d : Nat),
    (s.curStrand.popped = none → s.ready (codes ++ [d]) none = true → s.storeIssue codes d = some (s.source d, s.popCodes [d])) ∧
    (∀ v, s.curStrand.popped = some v → s.storeIssue codes d = some (v, s.updCur fun x => { x with popped := none }))) ∧
  (∀ (s : State) (l : Loc) (size v : Nat),
    (s.late = false → s.storeOut l size v = (s.clearFor s.cur l size).writeAt s.cur l size v) ∧
    (s.late = true → s.storeOut l size v =
      { s.updCur fun x => { x with stores := x.stores ++ [{ id := s.nextLoad, loc := l, size, value := v }] } with
        nextLoad := s.nextLoad + 1 }) ∧
    (s.curStrand.calm = true → s.clearFor s.cur l size = s))

/-- R141, R142, R253, atomics on the shared memory of the task and of a member: the old number goes to D, the new number to the
address, except that a `cas` whose compare fails stores nothing; the release action comes before, with the strand's older accesses
to the bytes, and the acquire action after. -/
def Obligations.ScratchpadAtomics : Prop :=
  ∀ (s : State) (x : Amo) (p : PadPlace),
    let d := x.d.toNat
    let size := 2 ^ x.size.toNat
    let codes := indexedCodes x.a x.b ++ [d] ++ (if x.func = 2 then [d + 1] else [])
    s.ready codes (some d) = true → s.flushDone (x.ord != 0) (scopeOf x.scope.toNat) = true →
    ∀ e ∈ ([(.ams x, .s), (.amn x, .n)] : List (Instr × Space)),
      s.admits e.1.view = true →
      s.padPlace e.2 (s.memberOf x.b) (s.accessAddress e.2 x.a x.b (x.off.signExtend 64) size) size true = some p →
      let m := s.ordered (x.ord.getLsbD 1) x.scope.toNat
      let q := m.clearFor m.cur p.loc size
      let old := (q.core p.core).pad.nat p.lo size
      let new := atomicNew x.func.toNat (8 * size) old (storeData size (s.source d))
        (if x.func = 2 then storeData size (s.source (d + 1)) else 0)
      let t := if x.func = 2 ∧ new = old then q else q.storePad { p with shared := true } size new
      exec e.1 s = .next (s.retire (((t.popCodes codes).writeDst d (BitVec.ofNat 64 old)).ordered (x.ord.getLsbD 0)
        x.scope.toNat) e.1.view .next)

/-- R141, Table 5-5: the new value of each atomic function on `w` bits, in plain arithmetic: the sum wraps, `swap` takes the
operand, `cas` takes the second operand when the first equals the old value, and the smaller and larger are signed for codes 3
and 4 and unsigned for 5 and 6. -/
def Obligations.AtomicValues : Prop :=
  ∀ (w : Nat) (a x y : BitVec w), 0 < w →
    let new (f : Nat) : BitVec w := BitVec.ofNat w (atomicNew f w a.toNat x.toNat y.toNat)
    new 0 = a + x ∧ new 1 = x ∧ new 2 = (if a = x then y else a) ∧
    new 3 = (if x.slt a then x else a) ∧ new 4 = (if a.slt x then x else a) ∧
    new 5 = (if x.ult a then x else a) ∧ new 6 = (if a.ult x then x else a) ∧
    new 7 = a &&& x ∧ new 8 = a ||| x ∧ new 9 = a ^^^ x

/-- R127, R131 to R138, R140, loads from the general memory, and from the part of the private memory beyond the scratchpad: when the
address translates and no sector that the load reads has an error, the number comes through the L1 cache, or from the die when the
page is uncached, and goes to D, at once or (notes/assumptions/6.md) in a later turn. -/
def Obligations.DeviceLoads : Prop :=
  ∀ (s s1 : State) (x : Mem) (va pte : DWord) (pa : Nat), s.ready (indexedCodes x.a x.b) (some x.d.toNat) = true →
    let size := 2 ^ x.size.toNat
    let codes := indexedCodes x.a x.b
    let a := s.indexedAddress x.a x.b (x.off.signExtend 64) size
    ∀ e ∈ ([(.ldp x, .p), (.ldg x, .g)] : List (Instr × Space)),
      s.admits e.1.view = true → a.toNat % size = 0 → s.deviceAddress e.2 a = some va →
      s.translate (s.strandAccess false false) va = (.ok pa pte, s1) →
      s1.meetsBad true false s1.curTask.ctx s1.curTask.core pa size (pteUc pte) = false →
      s1.flushDone (x.ord == 1) (scopeOf x.scope.toNat) = true →
      exec e.1 s = .next (s.retire (((s1.popCodes codes).loadIn x.d.toNat (.home pa pte) size).ordered (x.ord == 1) x.scope.toNat)
        e.1.view .next) ∧
      (s1.curStrand.calm = true → (s1.defer = false ∨ x.d = 0 ∨ 63 < x.d.toNat) →
        let q := s1.popCodes codes
        let r := q.loadG q.curTask.ctx q.curTask.core pa size (pteUc pte)
        exec e.1 s = .next (s.retire ((r.2.writeDst x.d.toNat (BitVec.ofNat 64 r.1)).ordered (x.ord == 1) x.scope.toNat)
          e.1.view .next))

/-- R127, R131, R133, R136 to R140, R253, stores to the general memory, and to the private memory beyond the scratchpad: the low
bytes of D are written at the home, and in the copies that the core's L1 and its die's remote-data cache hold, at once or later from
the store queue (notes/assumptions/6.md). -/
def Obligations.DeviceStores : Prop :=
  ∀ (s q s1 : State) (x : Mem) (v va pte : DWord) (pa : Nat), s.storeIssue (indexedCodes x.a x.b) x.d.toNat = some (v, q) →
    let size := 2 ^ x.size.toNat
    let a := s.indexedAddress x.a x.b (x.off.signExtend 64) size
    ∀ e ∈ ([(.stp x, .p), (.stg x, .g)] : List (Instr × Space)),
      s.admits e.1.view = true → a.toNat % size = 0 → q.deviceAddress e.2 a = some va →
      q.translate (q.strandAccess true false) va = (.ok pa pte, s1) →
      s1.meetsBad false true s1.curTask.ctx s1.curTask.core pa size (pteUc pte) = false →
      s1.flushDone (x.ord == 2) (scopeOf x.scope.toNat) = true →
      let m := s1.ordered (x.ord == 2) x.scope.toNat
      exec e.1 s = .next (s.retire (m.storeOut (.home pa pte) size (storeData size v)) e.1.view .next) ∧
      (m.curStrand.calm = true → m.late = false →
        exec e.1 s = .next (s.retire (m.storeG m.curTask.core pa (leBytes (storeData size v) size) (m.strandParty m.cur))
          e.1.view .next))

/-- R133, R140 to R142, R253, `amg`: the atomic works at the home L2, whose old number goes to D, and the copies of the sector in
the core's L1 and its die's remote-data cache are dropped. -/
def Obligations.DeviceAtomics : Prop :=
  ∀ (s s1 : State) (x : Amo) (pte : DWord) (pa : Nat),
    let d := x.d.toNat
    let size := 2 ^ x.size.toNat
    let codes := indexedCodes x.a x.b ++ [d] ++ (if x.func = 2 then [d + 1] else [])
    let a := s.indexedAddress x.a x.b (x.off.signExtend 64) size
    s.ready codes (some d) = true → s.admits (Instr.amg x).view = true → a.toNat % size = 0 →
    s.translate (s.strandAccess true false) a = (.ok pa pte, s1) →
    s1.meetsBad true true s1.curTask.ctx s1.curTask.core pa size (pteUc pte) = false →
    s1.flushDone (x.ord != 0) (scopeOf x.scope.toNat) = true →
    let m := s1.ordered (x.ord.getLsbD 1) x.scope.toNat
    let q := m.clearFor m.cur (.home pa pte) size
    let old := q.mem.nat pa size
    let new := atomicNew x.func.toNat (8 * size) old (storeData size (s.source d))
      (if x.func = 2 then storeData size (s.source (d + 1)) else 0)
    let t := q.atomicHome q.curTask.core pa (if x.func = 2 ∧ new = old then [] else leBytes new size) (q.strandParty q.cur)
    exec (.amg x) s = .next (s.retire (((t.popCodes codes).writeDst d (BitVec.ofNat 64 old)).ordered (x.ord.getLsbD 0)
      x.scope.toNat) (Instr.amg x).view .next)

/-- R136 to R138, R143, R372 to R376, loads, stores and atomics of a peer's memory and of host memory, when they go out: the request
is sent over the port of the aperture, or over the host port at the translated address, a release first making its release action,
and the strand waits for its completion; of the queues only a store's data queue is popped, whose element the store keeps. An atomic
that no link carries is the atomic-unsupported trap. -/
def Obligations.LinkRequests : Prop :=
  ∀ (s q s1 : State) (x : Mem) (y : Amo) (pa : Nat) (pte v : DWord),
    let up (t : State) (n : Nat) : Prop := (t.port n).state = .up ∨ (t.port n).state = .degraded
    let peer (t : State) (m : Nat) (a : DWord) (n : Nat) : LinkReq :=
      let ap := Assoc.getD t.curCtx.apertures m {}
      { port := ap.portNo, kind := .read, addr := ap.target a.toNat, size := n, strand := t.cur, since := t.cycle
        pasid := t.pasid ap t.curTask.ctx, tval := (a &&& 0x0FFFFFFFFFFFFFFF) ||| BitVec.ofNat 64 (m * 2 ^ 60) }
    let host (t : State) (a : DWord) (n : Nat) : LinkReq :=
      { port := 0, kind := .read, addr := BitVec.ofNat 64 pa, size := n, strand := t.cur, since := t.cycle, tval := a }
    let peerOk (t : State) (m : Nat) (a : DWord) (n : Nat) (write : Bool) : Prop :=
      let ap := Assoc.getD t.curCtx.apertures m {}
      a.toNat % n = 0 ∧ ap.valid = true ∧ a.toNat + n ≤ ap.size.toNat ∧ (write = true → ap.w = true) ∧ up t ap.portNo
    let hostOk (t : State) (a : DWord) (n : Nat) (write : Bool) : Prop :=
      a.toNat % n = 0 ∧ t.translate (t.strandAccess write true) a = (.ok pa pte, s1) ∧ up s1 0
    let size := 2 ^ x.size.toNat
    let off := x.off.signExtend 64
    let a := s.baseAddress x.a off size
    let h := s.indexedAddress x.a x.b off size
    let k := scopeOf x.scope.toNat
    let pop := isPopCode x.d.toNat
    let data := BitVec.ofNat 64 (storeData size v)
    s.noRequest = true → (s.curStrand.held = none ∨ s.curStrand.held = some .flushed) →
    (s.admits (Instr.ldx x).view = true → s.ready [x.a.toNat] (some x.d.toNat) = true → peerOk s x.b.toNat a size false →
      s.flushDone (x.ord == 1) k = true →
      exec (.ldx x) s = .next (s.sendFrom s { peer s x.b.toNat a size with dest := s.destOf x.d.toNat })) ∧
    (s.admits (Instr.ldh x).view = true → s.ready (indexedCodes x.a x.b) (some x.d.toNat) = true → hostOk s h size false →
      s1.flushDone (x.ord == 1) k = true →
      exec (.ldh x) s = .next (s1.sendFrom s { host s1 h size with dest := s1.destOf x.d.toNat })) ∧
    (s.admits (Instr.stx x).view = true → s.storeIssue [x.a.toNat] x.d.toNat = some (v, q) → peerOk q x.b.toNat a size true →
      q.flushDone (x.ord == 2) k = true →
      let m := q.ordered (x.ord == 2) x.scope.toNat
      exec (.stx x) s = .next (m.sendStore s { peer q x.b.toNat a size with kind := .write, x := data, strand := m.cur, since := m.cycle }
        pop v)) ∧
    (s.admits (Instr.sth x).view = true → s.storeIssue (indexedCodes x.a x.b) x.d.toNat = some (v, q) → hostOk q h size true →
      s1.flushDone (x.ord == 2) k = true →
      let m := s1.ordered (x.ord == 2) x.scope.toNat
      exec (.sth x) s = .next (m.sendStore s { host m h size with kind := .write, x := data } pop v)) ∧
    (let n := 2 ^ y.size.toNat
     let d := y.d.toNat
     let more := d :: if y.func = 2 then [d + 1] else []
     let b := s.baseAddress y.a (y.off.signExtend 64) n
     let c := s.indexedAddress y.a y.b (y.off.signExtend 64) n
     let z := BitVec.ofNat 64 (storeData n (s.source d))
     let w := BitVec.ofNat 64 (if y.func = 2 then storeData n (s.source (d + 1)) else 0)
     (∀ f, linkAtomic y.func.toNat = some f →
       (s.admits (Instr.amx y).view = true → s.ready (y.a.toNat :: more) (some d) = true → peerOk s y.b.toNat b n true →
         s.flushDone (y.ord != 0) (scopeOf y.scope.toNat) = true →
         let m := s.ordered (y.ord.getLsbD 1) y.scope.toNat
         exec (.amx y) s = .next (m.sendFrom s { peer s y.b.toNat b n with
           kind := .atomic f, x := z, y := w, strand := m.cur, since := m.cycle, dest := m.destOf d })) ∧
       (s.admits (Instr.amh y).view = true → s.ready (indexedCodes y.a y.b ++ more) (some d) = true → hostOk s c n true →
         s1.flushDone (y.ord != 0) (scopeOf y.scope.toNat) = true →
         let m := s1.ordered (y.ord.getLsbD 1) y.scope.toNat
         exec (.amh y) s = .next (m.sendFrom s { host m c n with kind := .atomic f, x := z, y := w, dest := m.destOf d }))) ∧
     (linkAtomic y.func.toNat = none →
       (s.admits (Instr.amx y).view = true → s.ready (y.a.toNat :: more) (some d) = true → exec (.amx y) s =
         .next (s.trapped s 24 ((b &&& 0x0FFFFFFFFFFFFFFF) ||| BitVec.ofNat 64 (y.b.toNat * 2 ^ 60)) s.curStrand.pc 0)) ∧
       (s.admits (Instr.amh y).view = true → s.ready (indexedCodes y.a y.b ++ more) (some d) = true → exec (.amh y) s =
         .next (s.trapped s 24 c s.curStrand.pc 0))) ∧
     (∀ f, linkAtomic f = some .fetchAdd ↔ f = 0) ∧ (∀ f, linkAtomic f = some .swap ↔ f = 1) ∧
     (∀ f, linkAtomic f = some .cas ↔ f = 2))

/-- R137, R138, R143, R376, R378, the same accesses when their completion has come, which is how each of them completes: a load or
atomic pops its operand queues and writes the value to D, and an acquire makes its acquire action; a store has popped its data and goes
on; a failed completion is the trap that it names, whose data word is a popped store's. -/
def Obligations.LinkCompletions : Prop :=
  ∀ (s q : State) (x : Mem) (y : Amo) (v w : DWord), s.noRequest = true →
    (∀ e ∈ ([(.ldx x, [x.a.toNat]), (.ldh x, indexedCodes x.a x.b)] : List (Instr × List Nat)),
      s.admits e.1.view = true → s.ready e.2 (some x.d.toNat) = true →
      (s.curStrand.held = some (.value v) → exec e.1 s = .next (s.retire
        (((s.popCodes e.2).writeDst x.d.toNat v).ordered (x.ord == 1) x.scope.toNat) e.1.view .next)) ∧
      (∀ c, s.curStrand.held = some (.trap c v) → exec e.1 s = .next (s.trapped s c v s.curStrand.pc 0))) ∧
    (∀ e ∈ ([(.stx x, [x.a.toNat]), (.sth x, indexedCodes x.a x.b)] : List (Instr × List Nat)),
      s.admits e.1.view = true → s.storeIssue e.2 x.d.toNat = some (v, q) →
      (s.curStrand.held = some .done → exec e.1 s = .next (s.retire q e.1.view .next)) ∧
      (∀ c, s.curStrand.held = some (.trap c w) → exec e.1 s = .next (s.trapped q c w s.curStrand.pc
        (if isPopCode x.d.toNat then BitVec.ofNat 64 (storeData (2 ^ x.size.toNat) v) else 0)))) ∧
    (let more := y.d.toNat :: if y.func = 2 then [y.d.toNat + 1] else []
     ∀ e ∈ ([(.amx y, y.a.toNat :: more), (.amh y, indexedCodes y.a y.b ++ more)] : List (Instr × List Nat)),
      s.admits e.1.view = true → s.ready e.2 (some y.d.toNat) = true →
      (s.curStrand.held = some (.value v) → exec e.1 s = .next (s.retire
        (((s.popCodes e.2).writeDst y.d.toNat v).ordered (y.ord.getLsbD 0) y.scope.toNat) e.1.view .next)) ∧
      (∀ c, s.curStrand.held = some (.trap c v) → exec e.1 s = .next (s.trapped s c v s.curStrand.pc 0)))

/-- R136, R144 to R147, R255: `qmark` performs what is pending of its strand and makes the acquire action of its scope; `rfence`
performs it too and drops the record-cache entries of its context, of one record or of all, in the hoops of its scope; `cflush`
drops the copies of the lines of the range that the core's L1 and the remote-data caches of its scope hold, and changes no byte of
memory; `pfch` fills caches line by line and changes no byte of memory. -/
def Obligations.OrderingMarkers : Prop :=
  (∀ (s : State) (x : Gen),
    let k := scopeOf (x.fn.toNat % 8)
    s.flushDone true k = true →
    (s.admits (Instr.qmark x).view = true → exec (.qmark x) s =
      .next (s.retire (let p := s.drain s.cur; p.acquire p.curTask.ctx p.curTask.core k) (Instr.qmark x).view .next)) ∧
    (s.admits (Instr.rfence x).view = true →
      (x.fn.getLsbD 3 = true → s.ready [] none = true → let p := s.drain s.cur
        exec (.rfence x) s = .next (s.retire (p.dropRecords (p.fenceHoops k) p.curTask.ctx none) (Instr.rfence x).view .next)) ∧
      (x.fn.getLsbD 3 = false → s.ready [x.a.toNat] none = true → let p := (s.popCodes [x.a.toNat]).drain s.cur
        exec (.rfence x) s = .next (s.retire (p.dropRecords (p.fenceHoops k) p.curTask.ctx
          (some (bitsOf (s.source x.a.toNat) 0 16))) (Instr.rfence x).view .next)))) ∧
  (∀ (s : State) (hoops : List Nat) (ctx h : Nat) (id : Option Nat),
    ((s.dropRecords hoops ctx id).hoop h).record = if hoops.contains h then
      (s.hoop h).record.filter (fun e => e.ctx != ctx || (id.isSome && id != some e.id)) else (s.hoop h).record) ∧
  (∀ s : State, s.fenceHoops .core = [hoopOf s.curTask.core] ∧
    (∀ h, h ∈ s.fenceHoops .die ↔ h / 64 = dieOf s.curTask.core) ∧ ∀ k ∈ [Scope.dev, .sys], ∀ h, h ∈ s.fenceHoops k ↔ h < 256) ∧
  (∀ (s : State) (y : Mem), s.ready (indexedCodes y.a y.b) none = true →
    let start := s.source y.a.toNat + (y.off.signExtend 64 <<< 7)
    let len := if y.b = 0x1FF then 128 else (s.source y.b.toNat).toNat
    let line := start &&& 0xFFFFFFFFFFFFFF80
    let p := s.popCodes (indexedCodes y.a y.b)
    (s.admits (Instr.cflush y).view = true →
      (canonical start = false → exec (.cflush y) s = .next (s.trapped s 17 start s.curStrand.pc 0)) ∧
      (canonical start = true → (len = 0 ∨ y.size = 0) → exec (.cflush y) s = .next (s.retire p (Instr.cflush y).view .next)) ∧
      (canonical start = true → len ≠ 0 → y.size ≠ 0 →
        let n := (len + (start.toNat % 128) + 127) / 128 * 128
        let ps := p.flushPieces p.curTask.ctx line n (min (rangePages line n) (2 ^ 39 + 4))
        exec (.cflush y) s = .next (s.retire (p.dropLines p.curTask.core (scopeOf y.scope.toNat) ps) (Instr.cflush y).view .next))) ∧
    (s.admits (Instr.pfch y).view = true → exec (.pfch y) s = .next (s.retire (p.prefetchLines (y.size == 0) line
      (if len = 0 then 0 else min 64 ((start.toNat % 128 + len + 127) / 128))) (Instr.pfch y).view .next))) ∧
  (∀ (s : State) (core k : Nat) (sc : Scope) (ps : List (Nat × Nat)),
    let t := s.dropLines core sc ps
    let out (e : Sector) : Bool := !ps.any fun p => p.1 ≤ e.addr && e.addr < p.1 + p.2
    t = { s with cores := t.cores, dies := t.dies } ∧
    t.core k = (if k = core then { s.core k with l1 := (s.core k).l1.filter out } else s.core k) ∧
    (t.die k).rdc = (if (sc = .die ∧ k = dieOf core) ∨ ((sc = .dev ∨ sc = .sys) ∧ k < 4) then (s.die k).rdc.filter out
      else (s.die k).rdc)) ∧
  (∀ (s : State) (ctx n f : Nat) (va : DWord), canonical va = true → 0 < n → n ≤ 65536 - va.toNat % 65536 →
    s.flushPieces ctx va n (f + 1) =
      match s.peekMap ctx va with
      | some (pa, pte) => if pteSpace pte = 0 then [(pa, n)] else []
      | none => []) ∧
  (∀ (s : State) (l1 : Bool) (va : DWord) (n : Nat),
    let t := s.prefetchLines l1 va n
    t = { s with cores := t.cores, dies := t.dies })

/-! ## Timelines, barriers, waits -/

/-- R253, R349, R351, R353: `tlwait` reads the timeline and goes on with its value when it is not below the threshold; else its
task enters the monitor of the timeline's home and the strand waits, goes on with the value of its release, and takes the
poisoned-timeline trap when the wait was poisoned. `tlread` reads it; `tlset` writes it and `tlinc` adds to it, both after their
release action, and a sum of 2^64 or more is the overflow trap and leaves it. Each written value enters the deliveries of the task. -/
def Obligations.Timelines : Prop :=
  ∀ (s : State) (x : Gen),
    let a := s.source x.a.toNat
    let v := s.valueB x.b
    let codes := x.a.toNat :: Src.codes x.b
    let sc := x.fn.toNat % 8
    (s.admits (Instr.tlwait x).view = true → s.ready codes (some x.d.toNat) = true →
      ((s.curStrand.wait.any fun w => w.why == .timeline a v) = false → ∀ pa t, s.timelineAt a false = some (pa, t) →
        (v.toNat ≤ (t.mem.word pa).toNat → exec (.tlwait x) s =
          .next (s.retire ((t.dropCopies t.curTask.core pa).tlwaitDone x (t.mem.word pa)) (Instr.tlwait x).view .next)) ∧
        ((t.mem.word pa).toNat < v.toNat → exec (.tlwait x) s =
          .next ((t.registerWait t.cur.task pa v).stall s.cur (.timeline a v)))) ∧
      ((s.curStrand.wait.any fun w => w.why == .timeline a v) = true → ∀ e, s.monitorOf s.cur.task = some e →
        (∀ r who, e.released = some (r, who) →
          let t := (s.dropMonitor s.cur.task).producedBy who
          exec (.tlwait x) s =
            .next (s.retire ((t.dropCopies t.curTask.core e.addr).tlwaitDone x r) (Instr.tlwait x).view .next)) ∧
        (e.released = none → e.poisoned = true → exec (.tlwait x) s =
          .next (s.trapped ((s.dropMonitor s.cur.task).producedBy (controllerParty s)) 31 a s.curStrand.pc 0)) ∧
        (e.released = none → e.poisoned = false →
          exec (.tlwait x) s = .next (s.stall s.cur (.timeline a v))))) ∧
    (s.admits (Instr.tlread x).view = true → s.ready [x.a.toNat] (some x.d.toNat) = true →
      ∀ pa t, s.timelineAt a false = some (pa, t) → exec (.tlread x) s =
        .next (s.retire ((((t.dropCopies t.curTask.core pa).ordered true sc).popCodes [x.a.toNat]).writeDst x.d.toNat
          (t.mem.word pa)) (Instr.tlread x).view .next)) ∧
    (s.admits (Instr.tlset x).view = true → s.ready codes none = true →
      ∀ pa t, s.timelineAt a true = some (pa, t) → t.flushDone true (scopeOf sc) = true → exec (.tlset x) s =
        .next (s.retire (((t.ordered true sc).popCodes codes).timelineWrite a pa v) (Instr.tlset x).view .next)) ∧
    (s.admits (Instr.tlinc x).view = true → s.ready codes (some x.d.toNat) = true →
      ∀ pa t, s.timelineAt a true = some (pa, t) → t.flushDone true (scopeOf sc) = true →
        let m := t.ordered true sc
        let n := (m.mem.word pa).toNat + v.toNat
        (n < 2 ^ 64 → exec (.tlinc x) s =
          .next (s.retire (((m.popCodes codes).timelineWrite a pa (BitVec.ofNat 64 n)).writeDst x.d.toNat
            (BitVec.ofNat 64 n)) (Instr.tlinc x).view .next)) ∧
        (2 ^ 64 ≤ n → exec (.tlinc x) s = .next (s.trapped m 32 a s.curStrand.pc 0) ∧ m.mem.word pa = t.mem.word pa))

/-- R344 to R347, R352, `bar` and `barx`: a main strand that has not arrived makes its release action and arrives at the barrier
with its count, and with the bytes that `barx` expects; when its arrival completes the phase it goes on with a second acquire
action, else it waits for the phase, with no second arrival, and goes on when the phase has completed, or takes the copy-fault trap
when bytes it expects come over a channel that is Faulted. A count above the group's size, or a barrier of `barx` below 12, is
illegal. R345: an arrival counts, adds its bytes modulo 2^32 and sets the count that the first arrival names; a phase is complete
when as many have arrived as the count says, or as the group has members for a count of 0, and as many bytes were posted as
expected; its completion turns the phase, leaves no arrival and no expectation and keeps the bytes beyond them. -/
def Obligations.GroupBarriers : Prop :=
  (∀ (s : State) (x : Gen), ∀ e ∈ ([(.bar x, false), (.barx x, true)] : List (Instr × Bool)), s.admits e.1.view = true →
    let codes := (if e.2 then [x.a.toNat] else []) ++ Src.codes x.b
    let n := (s.valueB x.b).toNat % 16
    let cnt := x.fn.toNat / 16
    let bytes := if e.2 then bitsOf (s.source x.a.toNat) 0 32 else 0
    ((∀ k ph y w, s.curStrand.wait = some w → w.why ≠ .barrier k ph y) → s.ready codes none = true →
      (¬(s.curTask.gsize < cnt ∨ (e.2 = true ∧ n < 12)) → s.flushDone true (barrierScope x.fn) = true →
        let p := ((s.popCodes codes).updCur fun d => { d with held := none }).barrierFence x
        let before := (s.withGroup s.cur.task).group (s.withGroup s.cur.task).curTask.groupNo
        let t := p.arrive p.cur.task n cnt bytes
        (((t.group t.curTask.groupNo).barrier n).phase ≠ (before.barrier n).phase →
          exec e.1 s = .next (s.retire (t.barrierFence x) e.1.view .next)) ∧
        (((t.group t.curTask.groupNo).barrier n).phase = (before.barrier n).phase →
          exec e.1 s = .next (t.stall s.cur (.barrier n (before.barrier n).phase (bytes != 0))))) ∧
      (s.curTask.gsize < cnt ∨ (e.2 = true ∧ n < 12) →
        exec e.1 s = .next (s.trapped s 2 (e.1.view.firstWord.zeroExtend 64) s.curStrand.pc 0))) ∧
    (∀ k ph y w, s.curStrand.wait = some w → w.why = .barrier k ph y →
      let c := s.curTask.chan (k - 12)
      (s.curStrand.held.isSome = true → exec e.1 s = .next (s.retire (s.barrierFence x) e.1.view .next)) ∧
      (s.curStrand.held = none → (y && c.faulted) = true → exec e.1 s =
        .next (s.trapped (s.producedBy (s.taskParty s.cur.task 2)) 30 (copyFaultValue (k - 12) c) s.curStrand.pc 0)) ∧
      (s.curStrand.held = none → (y && c.faulted) = false →
        exec e.1 s = .next (s.stall s.cur (.barrier k ph y))))) ∧
  (∀ (b : Barrier) (cnt bytes live : Nat),
    (b.arrive cnt bytes).arr = b.arr + 1 ∧ (b.arrive cnt bytes).exp = (b.exp + bytes) % 2 ^ 32 ∧
    (b.arrive cnt bytes).cnt = (if b.set then b.cnt else cnt) ∧ (b.arrive cnt bytes).phase = b.phase ∧
    (b.isDone live = true ↔ 0 < b.arr ∧ (b.cnt = 0 → live ≤ b.arr) ∧ (b.cnt ≠ 0 → b.cnt ≤ b.arr) ∧ b.exp ≤ b.posted) ∧
    b.complete.arr = 0 ∧ b.complete.exp = 0 ∧ b.complete.set = false ∧ b.complete.posted = b.posted - b.exp ∧
    (b.phase ≤ 1 → b.complete.phase ≤ 1 ∧ b.complete.phase ≠ b.phase) ∧ b.complete.isDone live = false)

/-- R214, R247, R248, Table 8-7: `cwait` goes on when the transfer it names is done, traps when it names one not yet issued, or
one that a Faulted channel will not complete, and waits else, identifiers being compared modulo 2^32; `cpstat` reads the last
done, the last issued, the status word or the fault address of a channel. -/
def Obligations.TransferWaits : Prop :=
  ∀ (s : State) (x : Gen),
    let ch := x.fn.toNat % 4
    let c := s.curTask.chan ch
    let id : Word := (s.valueB x.b).extractLsb' 0 32
    let reached (a b : Word) : Prop := (a - b).toNat < 2 ^ 31
    (s.admits (Instr.cwait x).view = true → s.ready (Src.codes x.b) none = true →
      (reached c.done id → exec (.cwait x) s = .next (s.retire (s.popCodes (Src.codes x.b)) (Instr.cwait x).view .next)) ∧
      (¬reached c.done id → ¬reached c.issued id →
        exec (.cwait x) s = .next (s.trapped s 29 ((Instr.cwait x).view.firstWord.zeroExtend 64) s.curStrand.pc 0)) ∧
      (¬reached c.done id → reached c.issued id → c.faulted = true → reached id c.fid →
        exec (.cwait x) s = .next (s.trapped s 30 (copyFaultValue ch c) s.curStrand.pc 0)) ∧
      (¬reached c.done id → reached c.issued id → (c.faulted = false ∨ ¬reached id c.fid) →
        exec (.cwait x) s = .next (s.stall s.cur (.transfer ch id)))) ∧
    (s.admits (Instr.cpstat x).view = true → s.ready [] (some x.d.toNat) = true →
      exec (.cpstat x) s = .next (s.retire (s.writeDst x.d.toNat
        (match x.fn.toNat / 4 % 4 with
          | 0 => c.done.zeroExtend 64
          | 1 => c.issued.zeroExtend 64
          | 2 => c.status
          | _ => c.faddr)) (Instr.cpstat x).view .next))

/-! ## Launches, tiles, residency, the end of a task -/

/-- R219, R327 to R330: `tlnext` gives the tile-list entry of the task once, and all ones from then on; `rsdecl` declares residency
of a range of the carve, in an entry of the same record and key, else a Free one, else the Standing one declared least recently, and
answers 1, or 0 when every entry is Owned: it waits for the engine commands that write the range, and a misaligned offset and a
range outside the carve are its traps; `rsdrop` frees the task's entries of a record and key, or all of them; `rsread` answers the
place of the entry that was declared last, and its version, or zeros. -/
def Obligations.TilesAndResidency : Prop :=
  ∀ (s : State) (x : Gen),
    let d := x.d.toNat
    let pair (t : State) (a b : DWord) : State := (t.writeDst d a).writeDst (d + 1) b
    let me := s.curTask
    let rec_ : BitVec 16 := (s.source x.a.toNat).extractLsb' 0 16
    let key : Word := (s.source x.a.toNat).extractLsb' 32 32
    let ver : Word := (s.source (x.a.toNat + 1)).extractLsb' 0 32
    (s.admits (Instr.tlnext x).view = true → s.ready [] (some d) = true → s.curStrand.pendingG (d + 1) = false →
      (me.taken = false → exec (.tlnext x) s =
        .next (s.retire (pair (s.updTask fun t => { t with taken := true }) me.entry 0) (Instr.tlnext x).view .next)) ∧
      (me.taken = true → exec (.tlnext x) s =
        .next (s.retire (pair s 0xFFFFFFFFFFFFFFFF 0) (Instr.tlnext x).view .next))) ∧
    (let codes := [x.a.toNat, x.a.toNat + 1] ++ Src.codes x.b
     let off := bitsOf (s.valueB x.b) 0 18
     let len := bitsOf (s.valueB x.b) 32 19
     let q := s.drainIf s.cur Loc.isPad
     let outside : Prop := len = 0 ∨ q.curTask.hdr.cs < off + len
     s.admits (Instr.rsdecl x).view = true → s.ready codes (some d) = true →
       (off % 32 ≠ 0 → exec (.rsdecl x) s = .next (s.trapped s 13 (BitVec.ofNat 64 off) s.curStrand.pc 0)) ∧
       (off % 32 = 0 → outside → exec (.rsdecl x) s = .next (s.trapped s 15 (BitVec.ofNat 64 off) s.curStrand.pc 0)) ∧
       (off % 32 = 0 → ¬outside →
         let older := q.writersOf q.cur.task (q.curTask.carve + off) len
         (older ≠ [] → exec (.rsdecl x) s = .next (s.stall s.cur (.engines 0x71 older))) ∧
         (older = [] →
           (∀ t, q.declare q.cur.task rec_ key ver off len = some t →
             exec (.rsdecl x) s = .next (s.retire ((t.popCodes codes).writeDst d 1) (Instr.rsdecl x).view .next)) ∧
           (q.declare q.cur.task rec_ key ver off len = none →
             exec (.rsdecl x) s = .next (s.retire ((q.popCodes codes).writeDst d 0) (Instr.rsdecl x).view .next))))) ∧
    (s.admits (Instr.rsdrop x).view = true →
      let freed (p : State) (f : Residency → Bool) : State := p.setCore p.curTask.core { p.core p.curTask.core with
        residency := (p.core p.curTask.core).residency.map fun e => (e.1, if f e.2 then {} else e.2) }
      (x.fn.getLsbD 0 = true → s.ready [] none = true → exec (.rsdrop x) s =
        .next (s.retire (freed s fun e => e.state == .owned && e.task == s.cur.task) (Instr.rsdrop x).view .next)) ∧
      (x.fn.getLsbD 0 = false → s.ready [x.a.toNat] none = true → exec (.rsdrop x) s =
        .next (s.retire (freed (s.popCodes [x.a.toNat]) fun e => e.isOf s.cur.task rec_ key) (Instr.rsdrop x).view .next))) ∧
    (s.admits (Instr.rsread x).view = true → s.ready [x.a.toNat, x.a.toNat + 1] (some d) = true →
      s.curStrand.pendingG (d + 1) = false →
      let p := s.popCodes [x.a.toNat, x.a.toNat + 1]
      let fits (e : Residency) : Bool := e.isOf s.cur.task rec_ key && (x.fn.getLsbD 0 || e.ver == ver)
      ((∀ e ∈ (s.core me.core).residency, fits e.2 = false) →
        exec (.rsread x) s = .next (s.retire (pair p 0 0) (Instr.rsread x).view .next)) ∧
      (∀ e l k, (s.core me.core).residency = l ++ e :: k → fits e.2 = true →
        (∀ o ∈ l, fits o.2 = true → o.2.order < e.2.order) → (∀ o ∈ k, fits o.2 = true → o.2.order ≤ e.2.order) →
        exec (.rsread x) s = .next (s.retire
          (pair p (BitVec.ofNat 64 (2 ^ 63 + e.2.len * 2 ^ 32 + (e.2.off - me.carve))) (e.2.ver.zeroExtend 64))
          (Instr.rsread x).view .next)))

/-- R140, R298, R312, R326: `launch` reads the launch record, hands it to the queue it names (its own with SELF), makes its release
action and gives D the sequence number, or waits while the dispatcher does; a misaligned record, a record whose memory has an
error, and a queue that is Free, Poisoned or of another context are its traps. -/
def Obligations.DeviceLaunch : Prop :=
  ∀ (s s1 : State) (x : Gen) (pa : Nat) (pte : DWord), s.admits (Instr.launch x).view = true →
    let a := s.source x.a.toNat
    let self := x.fn.getLsbD 0
    let codes := x.a.toNat :: (if self then [] else Src.codes x.b)
    let q := if self then s.curTask.queue else (s.valueB x.b).toNat % 1024
    s.ready codes (some x.d.toNat) = true →
    (a &&& 63 ≠ 0 → exec (.launch x) s = .next (s.trapped s 13 a s.curStrand.pc 0)) ∧
    (a &&& 63 = 0 → s.translate (s.strandAccess false false) a = (.ok pa pte, s1) →
      (s1.isBad pa 64 = true → exec (.launch x) s = .next (s.trapped s1 23 a s.curStrand.pc 0)) ∧
      (s1.isBad pa 64 = false →
        let m := s1.clearFor s1.cur (.home pa pte) 64
        let bad := (m.queue q).state = .free ∨ (m.queue q).state = .poisoned ∨ (m.queue q).ctx ≠ s.curTask.ctx
        let accept := m.acceptLaunch q (some (m.mem.words pa 8)) (m.strandParty m.cur) s.curTask.step
        (bad → exec (.launch x) s =
          .next (s.trapped m 25 ((Instr.launch x).view.firstWord.zeroExtend 64) s.curStrand.pc 0)) ∧
        (¬bad → ∀ seq t, accept = (.ok seq, t) →
          exec (.launch x) s = .next (s.retire (((t.mark .dev).popCodes codes).writeDst x.d.toNat (BitVec.ofNat 64 seq))
            (Instr.launch x).view .next)) ∧
        (¬bad → ∀ y t, accept = (.error y, t) → exec (.launch x) s = .next (t.stall s.cur .accept))))

/-- R112, R204, R238, R322, R323, R444: `exit` takes a trap that a vector command of its task left, that of a Faulted copy channel
whose commands use the carve, and one that a matrix command left, in this order; then it waits for the commands that use the carve
of its task, and ends the task. `exit.succ` takes the trap of a vector command, and continues its task at the entry of a code object
whose header and group size are its own, with the arguments of R323, popping its queues and charging its cycles. Either with a live
engine strand, and a code object that is misaligned, unreadable or does not match, traps. -/
def Obligations.TaskEnds : Prop :=
  ∀ (s : State) (x : Gen),
    let dropLate (l : List LateTrap) : State := s.updTask fun t => { t with late := l }
    let dropMat (l : List LateTrap) : State := s.updTask fun t => { t with mat := { t.mat with late := l } }
    let fault := s.curTask.chans.find? fun c => c.2.faulted && c.2.cmds.any fun k => k.hd.usesCarve
    (s.admits (Instr.exit x).view = true →
      (s.curTask.engineLive = true →
        exec (.exit x) s = .next (s.trapped s 9 ((Instr.exit x).view.firstWord.zeroExtend 64) s.curStrand.pc 0)) ∧
      (s.curTask.engineLive = false →
        (∀ l rest, s.curTask.late = l :: rest → exec (.exit x) s =
          .next (s.trapped ((dropLate rest).tookLate l) l.cause l.value s.curStrand.pc 0)) ∧
        (s.curTask.late = [] →
          (∀ ch c, fault = some (ch, c) → exec (.exit x) s =
            .next (s.trapped (s.producedBy (s.taskParty s.cur.task 2)) 30 (copyFaultValue ch c) s.curStrand.pc 0)) ∧
          (∀ l rest, fault = none → s.curTask.mat.late = l :: rest → exec (.exit x) s =
            .next (s.trapped ((dropMat rest).tookLate l) l.cause l.value s.curStrand.pc 0)) ∧
          (fault = none → s.curTask.mat.late = [] → s.carveUsers s.cur.task = true →
            exec (.exit x) s = .next (s.stall s.cur .exitCarve)) ∧
          (s.curTask.mat.late = [] → s.carveUsers s.cur.task = false →
            exec (.exit x) s = .next (((s.producedBy s.curTask.carveEnd).issue s.cur).endTask s.cur.task false))))) ∧
    (let code := s.source x.a.toNat
     let codes := x.a.toNat :: Src.codes x.b
     let word := (Instr.exitSucc x).view.firstWord.zeroExtend 64
     let q := s.drainTask s.cur.task
     let me := q.curTask
     s.admits (Instr.exitSucc x).view = true → s.ready codes none = true →
      (s.curTask.engineLive = true → exec (.exitSucc x) s = .next (s.trapped s 9 word s.curStrand.pc 0)) ∧
      (∀ l rest, s.curTask.engineLive = false → s.curTask.late = l :: rest → exec (.exitSucc x) s =
        .next (s.trapped ((dropLate rest).tookLate l) l.cause l.value s.curStrand.pc 0)) ∧
      (s.curTask.engineLive = false → s.curTask.late = [] →
        (code &&& 0xFF ≠ 0 → exec (.exitSucc x) s = .next (s.trapped s 25 word s.curStrand.pc 0)) ∧
        (code &&& 0xFF = 0 →
          (∀ y t, q.devRead q.tableAccess code 32 = (.wait y, t) → exec (.exitSucc x) s = .next (t.stall s.cur y)) ∧
          (∀ t, q.devRead q.tableAccess code 32 = (.bad, t) →
            exec (.exitSucc x) s = .next (s.trapped t 25 word s.curStrand.pc 0)) ∧
          (∀ ws t, q.devRead q.tableAccess code 32 = (.ok ws, t) →
            (parseHeader ws = none → exec (.exitSucc x) s = .next (s.trapped t 25 word s.curStrand.pc 0)) ∧
            (∀ o, parseHeader ws = some o → (o.hdr ≠ me.hdr ∨ o.gsize ≠ me.gsize) →
              exec (.exitSucc x) s = .next (s.trapped t 25 word s.curStrand.pc 0)) ∧
            (∀ o, parseHeader ws = some o → o.hdr = me.hdr → o.gsize = me.gsize →
              let p := t.popCodes codes
              let u := (p.issue p.cur).chargeTask q.cur.task
              exec (.exitSucc x) s = .next ((u.setTask q.cur.task ((u.task q.cur.task).succeed code o.entry (s.valueB x.b)
                (u.launch me.launch).ver (u.queue me.queue).supv u.cycle)).boundary u.cur))))))

/-! ## Engine instructions: issue -/

/-- R155 to R159, R165, R218, R220, R261, R444, Tables 6-3, 9-4: the older scratchpad accesses of the strand perform before a vector
instruction issues. One whose operands pass every row of the table, and which waits for no older command, enters its command, with
its span operands, its captured modes, its scales and its checker sets, at the end of its core's queue, and retires, or holds the
vector strand when it names a queue; it takes instead the trap of an earlier command that the checker orders before it. An element
count of 0 has no effect; the first row that fails gives the trap; a vector instruction whose held command has completed retires.
R171: `vfill`, whose A is a scalar register, a queue register or a literal, takes its value at issue, in the width of D's tag.
R161, Tables 6-5, 6-7: then what an element becomes. An integer result is the exact one, wrapped into its format or clamped to
its limits; the bitwise operations, the conditions of `vcmp`, and the float operations follow their tables; `vsel`, `vmov` and
`vfill` keep bits. Reduce takes the fixed tree: a list of more than 2^e and at most 2^(e + 1) elements is parted after 2^e. -/
def Obligations.VectorIssue : Prop :=
  (∀ (s : State) (x : Vec), ∀ e ∈ ([(.vadd x, 0x90), (.vsub x, 0x91), (.vmul x, 0x92), (.vfma x, 0x93), (.vmin x, 0x94), (.vmax x, 0x95),
        (.vabs x, 0x96), (.vneg x, 0x97), (.vcmp x, 0x98), (.vsel x, 0x99), (.vcvt x, 0x9A), (.vand x, 0x9B),
        (.vor x, 0x9C), (.vxor x, 0x9D), (.vshl x, 0x9E), (.vshr x, 0x9F), (.vclamp x, 0xA0), (.vexp x, 0xA1),
        (.vexp2 x, 0xA2), (.vlog x, 0xA3), (.vlog2 x, 0xA4), (.vrcp x, 0xA5), (.vrsq x, 0xA6), (.vsqrt x, 0xA7),
        (.vtanh x, 0xA8), (.vsigm x, 0xA9), (.vred x, 0xAA), (.vscan x, 0xAB), (.vdot x, 0xAC), (.vperm x, 0xAD),
        (.vgath x, 0xAE), (.vscat x, 0xAF), (.vmov x, 0xB0), (.visect x, 0xB2), (.vhash x, 0xB3), (.vcnt x, 0xB4),
        (.vcmpr x, 0xB5), (.vscale x, 0xB6)] : List (Instr × Nat)),
    s.admits e.1.view = true →
    let q := s.drainIf s.cur Loc.isPad
    let c := q.captureVec e.2 x
    let sets := q.vecSets (q.withScales c)
    ((∀ w id, s.curStrand.wait = some w → w.why ≠ .vectorHold id) →
      ((∀ r ∈ q.vecRows c [], r = none) → c.n ≠ 0 → q.olderWriters (q.checkedBytes c) = [] →
        q.hasRoom (q.core q.curTask.core).vq.length = true →
        (q.lateOf sets.1 sets.2 = none → exec e.1 s = .next (s.afterVec (q.enteredVec (q.withScales c)) c e.1.view)) ∧
        (∀ l t, q.lateOf sets.1 sets.2 = some (l, t) → exec e.1 s =
          .next (s.trapped (t.tookLate l) l.cause l.value s.curStrand.pc 0))) ∧
      ((∀ r ∈ (q.vecRows c []).take 2, r = none) → c.n = 0 → exec e.1 s = .next (s.retire q e.1.view .next)) ∧
      (∀ n k v, (q.vecRows c [])[n]? = some (some (k, v)) → (∀ m, m < n → (q.vecRows c [])[m]? = some none) →
        (n < 2 ∨ c.n ≠ 0) → (n < 5 ∨ q.olderWriters (q.checkedBytes c) = []) →
        exec e.1 s = .next (s.trapped s k (v.getD (e.1.view.firstWord.zeroExtend 64)) s.curStrand.pc 0))) ∧
    (∀ w id h, s.curStrand.wait = some w → w.why = .vectorHold id → s.curStrand.held = some h →
      (∀ k v, h = .trap k v → exec e.1 s = .next (s.trapped s k v s.curStrand.pc 0)) ∧
      ((∀ k v, h ≠ .trap k v) → exec e.1 s = .next (s.retire s e.1.view .next)))) ∧
  (∀ (s : State) (x : Vec), s.admits (Instr.vfill x).view = true →
    let q := s.drainIf s.cur Loc.isPad
    let c := q.captureVec 0xB1 x
    let sets := q.vecSets (q.withScales c)
    (∀ w id, s.curStrand.wait = some w → w.why ≠ .vectorHold id) →
    (∀ r ∈ q.vecRows c (queueOf x.a.toNat).toList, r = none) → c.n ≠ 0 → q.olderWriters (q.checkedBytes c) = [] →
    q.hasRoom (q.core q.curTask.core).vq.length = true →
    (∀ l t, q.lateOf sets.1 sets.2 = some (l, t) → exec (.vfill x) s =
      .next (s.trapped (t.tookLate l) l.cause l.value s.curStrand.pc 0)) ∧
    (∀ w, q.lateOf sets.1 sets.2 = none → x.b = .lit w →
      let f := { q.withScales c with a := .const (literalBits c.f w) }
      exec (.vfill x) s = .next (s.afterVec (q.enteredVec f) f (Instr.vfill x).view)) ∧
    (q.lateOf sets.1 sets.2 = none → (∀ w, x.b ≠ .lit w) → q.ready [x.a.toNat] none = true →
      let f := { q.withScales c with a := .const (BitVec.ofNat 64 ((q.source x.a.toNat).toNat % 2 ^ elemBits c.f)) }
      exec (.vfill x) s = .next (s.afterVec ((q.popCodes [x.a.toNat]).enteredVec f) f (Instr.vfill x).view))) ∧
  (∀ (c : VecCmd) (i a b d : Nat) (m : Bool),
    let ea := c.int c.tagA a
    let eb := c.int c.tagB b
    let va := c.val c.tagA a
    let vb := c.val c.tagB b
    let w := elemBits c.f
    let r := c.element i a b d m
    (∀ sg k, kindOf c.f = some (.int sg k) →
      let lo : Int := if sg then -(2 ^ (k - 1) : Nat) else 0
      let hi : Int := if sg then (2 ^ (k - 1) : Nat) - 1 else (2 ^ k : Nat) - 1
      let put (v : Int) (e : Nat × Flags) : Prop := e.2 = 0 ∧ e.1 < 2 ^ k ∧
        if c.x.sat then intOf c.f e.1 = max lo (min hi v) else ((2 ^ k : Nat) : Int) ∣ intOf c.f e.1 - v
      let od := intOf c.f d
      (∀ e ∈ ([(0x90, ea + eb), (0x91, ea - eb), (0x92, ea * eb),
          (0x93, (if c.x.sub.getLsbD 0 then -(ea * eb) else ea * eb) + (if c.x.sub.getLsbD 1 then -od else od)),
          (0x94, if ea ≤ eb then ea else eb), (0x95, if eb ≤ ea then ea else eb), (0x96, if 0 ≤ ea then ea else -ea), (0x97, -ea),
          (0x9E, ea * 2 ^ (eb % k).toNat), (0x9F, ea / 2 ^ (eb % k).toNat)] : List (Nat × Int)),
        c.op = e.1 → put e.2 r) ∧
      (c.op = 0xB1 → c.x.sub ≠ 0 → put (intOf c.f a + i) r) ∧
      ∀ hb, put (min (max ea eb) (c.int c.tagB hb)) (c.clamp a b hb)) ∧
    (∀ e ∈ ([(0x9B, BitVec.and), (0x9C, BitVec.or), (0x9D, BitVec.xor)] : List (Nat × (BitVec w → BitVec w → BitVec w))),
      c.op = e.1 → r = ((e.2 (BitVec.ofInt w ea) (if c.x.sub.getLsbD 0 then ~~~BitVec.ofInt w eb else BitVec.ofInt w eb)).toNat, 0)) ∧
    (c.op = 0x98 → isFlt c.f = false → ∀ e ∈ ([(0, ea = eb), (1, ea ≠ eb), (2, ea < eb), (3, eb ≤ ea), (4, ea ≤ eb), (5, eb < ea),
        (6, BitVec.ofInt w ea &&& BitVec.ofInt w eb ≠ 0), (7, BitVec.ofInt w ea &&& BitVec.ofInt w eb = 0)] : List (BitVec 4 × Prop)),
      c.x.sub = e.1 → r.2 = 0 ∧ (e.2 → r.1 = 1) ∧ (¬e.2 → r.1 = 0)) ∧
    (c.op = 0x98 → isFlt c.f = true → ∀ e ∈ ([(0, 0), (1, 1), (2, 2), (3, 5), (4, 3), (5, 4), (8, 6), (9, 7)] : List (BitVec 4 × Nat)),
      c.x.sub = e.1 → r = (if (fcmpHolds e.2 va vb).1 then 1 else 0, (fcmpHolds e.2 va vb).2)) ∧
    (isFlt c.f = true → let md := c.mode c.f
      (∀ e ∈ ([(0x90, fadd), (0x91, fsub), (0x92, fmul), (0x94, fmin), (0x95, fmax)] :
        List (Nat × (FpMode → Nat → Val → Val → Nat × Flags))), c.op = e.1 → r = e.2 md c.f va vb) ∧
      (c.op = 0x93 → let z := c.hd.mode.decode c.f d
        r = ffma md c.f (if c.x.sub.getLsbD 0 then va.negate else va) vb (if c.x.sub.getLsbD 1 then z.negate else z))) ∧
    (c.op = 0x99 → c.readTag c.tagA = c.f → c.readTag c.tagB = c.f → r = (if m then a else b, 0)) ∧
    (c.op = 0xB0 ∨ (c.op = 0xB1 ∧ c.x.sub = 0) → r = (a, 0))) ∧
  (∀ (f : Nat → Nat → Nat × Flags) (xs : List Nat), xs.length < 2 ^ 17 →
    (∀ x, reduceTree f 20 [x] = (x, 0)) ∧
    ∀ e, 2 ^ e < xs.length → xs.length ≤ 2 ^ (e + 1) →
      let l := reduceTree f 20 (xs.take (2 ^ e))
      let r := reduceTree f 20 (xs.drop (2 ^ e))
      reduceTree f 20 xs = ((f l.1 r.1).1, l.2 ||| r.2 ||| (f l.1 r.1).2))

/-- R194 to R202, R207, R210 to R212, R218, R261, R444, Tables 7-2 to 7-4, 9-4: the older scratchpad accesses of the strand perform
before a matrix instruction that enters the queue. It takes the format trap for a tag of no class, the matrix-state trap with the
first cause of Table 7-4, the alignment or range trap of its rows, and the trap of an earlier command that the checker orders before
it, in this order; else it pops its registers, changes the chain state that later checks read, and enters its command with its
checker sets at the end of its core's queue. -/
def Obligations.MatrixIssue : Prop :=
  ∀ (s : State) (x : Mat), ∀ e ∈ ([(.mload x, 0xC4), (.mbeg x, 0xC5), (.mend x, 0xC6), (.mmul x, 0xC7), (.mzero x, 0xC8),
        (.mstore x, 0xC9), (.mbmap x, 0xCA)] ++
        (if s.curTask.mat.lease = .none ∧ s.curTask.mat.open_ = false then [] else [(.mfree x, 0xC1)]) : List (Instr × Nat)),
    let q := s.drainIf s.cur Loc.isPad
    s.admits e.1.view = true → q.ready (matSources e.2 x) none = true →
    let vs := (matSources e.2 x).map q.source
    let c := q.matCommand e.2 x vs
    (matFormatOk e.2 x = false →
      exec e.1 s = .next (s.trapped s 25 (e.1.view.firstWord.zeroExtend 64) s.curStrand.pc 0)) ∧
    (∀ k, matFormatOk e.2 x = true → q.curTask.matrixState e.2 x 0 = some k →
      exec e.1 s = .next (s.trapped s 27 (BitVec.ofNat 64 k) s.curStrand.pc 0)) ∧
    (∀ k v, matFormatOk e.2 x = true → q.curTask.matrixState e.2 x 0 = none →
      matRangeTrap e.2 x q.curTask.hdr.cs vs = some (k, v) → exec e.1 s = .next (s.trapped s k v s.curStrand.pc 0)) ∧
    (matFormatOk e.2 x = true → q.curTask.matrixState e.2 x 0 = none → matRangeTrap e.2 x q.curTask.hdr.cs vs = none →
      q.hasRoom (q.core q.curTask.core).mq.length = true →
      (q.lateOf c.hd.reads c.hd.writes = none → let p := q.popCodes (matSources e.2 x)
        exec e.1 s = .next (s.retire ((p.updTask fun t => { t with mat := t.mat.issued e.2 x }).enteredMat c) e.1.view .next)) ∧
      (∀ l t, q.lateOf c.hd.reads c.hd.writes = some (l, t) → exec e.1 s =
        .next (s.trapped (t.tookLate l) l.cause l.value s.curStrand.pc 0)))

/-- R194 to R199, R202, R207, Tables 7-4, 7-6: `mfree` without a lease has no effect; `mlease` takes a free array that nobody
waits for at once and waits for it else, and one with a lease takes back its release; `mclaim` binds the logical slots or
accumulators of its mask to reserved units, and `mrel` unbinds them, or either takes the matrix-state trap; `mstat` reads the
status word, and with no command of its task in the queue takes first a trap that a matrix command left (R204). -/
def Obligations.MatrixState : Prop :=
  ∀ (s : State) (x : Mat),
    let h := hoopOf s.curTask.core
    let v := s.source x.a.toNat
    let p := s.popCodes [x.a.toNat]
    let bits := maskBits (if x.ta = 1 then 8 else 32) v
    (s.admits (Instr.mfree x).view = true → s.curTask.mat.lease = .none → s.curTask.mat.open_ = false →
      exec (.mfree x) s = .next (s.retire s (Instr.mfree x).view .next)) ∧
    (s.admits (Instr.mlease x).view = true →
      (s.curTask.mat.lease = .none → (s.hoop h).holder = none → s.candidates h = [] →
        exec (.mlease x) s = .next (s.retire (s.giveLease h s.cur.task) (Instr.mlease x).view .next)) ∧
      (s.curTask.mat.lease = .none → ((s.hoop h).holder ≠ none ∨ s.candidates h ≠ []) →
        exec (.mlease x) s =
          .next (s.retire ((s.setLease s.cur.task .waiting).settleLease h) (Instr.mlease x).view .next)) ∧
      (s.curTask.mat.lease ≠ .none →
        exec (.mlease x) s = .next (s.retire (s.updTask fun t => { t with mat := { t.mat with rpend := false } })
          (Instr.mlease x).view .next))) ∧
    (s.ready [x.a.toNat] none = true →
      (s.admits (Instr.mclaim x).view = true → s.curTask.matrixState 0xC2 x v = none →
        exec (.mclaim x) s = .next (s.retire (bits.foldl (fun (t : State) k => t.claimOne (x.ta == 1) k) p)
          (Instr.mclaim x).view .next)) ∧
      (s.admits (Instr.mrel x).view = true → s.curTask.matrixState 0xC3 x v = none →
        exec (.mrel x) s = .next (s.retire (p.updTask fun t => { t with mat :=
          if x.ta = 1 then { t.mat with amap := t.mat.amap.filter fun e => !bits.contains e.1 }
          else { t.mat with smap := t.mat.smap.filter fun e => !bits.contains e.1 } }) (Instr.mrel x).view .next)) ∧
      (∀ e ∈ ([(.mclaim x, 0xC2), (.mrel x, 0xC3)] : List (Instr × Nat)), ∀ k, s.admits e.1.view = true →
        s.curTask.matrixState e.2 x v = some k →
        exec e.1 s = .next (s.trapped s 27 (BitVec.ofNat 64 k) s.curStrand.pc 0))) ∧
    (s.admits (Instr.mstat x).view = true → s.ready [] (some x.d.toNat) = true →
      let q := (s.matCmds s.cur.task).length
      (q ≠ 0 ∨ s.curTask.mat.late = [] → exec (.mstat x) s =
        .next (s.retire (s.writeDst x.d.toNat (s.curTask.mat.word q)) (Instr.mstat x).view .next)) ∧
      (∀ l rest, q = 0 → s.curTask.mat.late = l :: rest → exec (.mstat x) s =
        .next (s.trapped ((s.updTask fun t => { t with mat := { t.mat with late := rest } }).tookLate l) l.cause l.value
          s.curStrand.pc 0)))

/-- R214, R218, R220, R237, R239, R261, R374, R444, Tables 8-3, 8-5, 9-4: the older scratchpad accesses of the strand perform before
a copy instruction issues. One whose operands pass every row of the table, and the checks of its aperture, enters its command, with
its captured registers, its checker set and the next transfer identifier, at the end of its channel, or takes the trap of an earlier
command that the checker orders before it; the first row that fails gives the trap. -/
def Obligations.CopyIssue : Prop :=
  ∀ (s : State) (x : Cpy), ∀ e ∈ ([(.cpy x, 0xD0), (.cpt x, 0xD1), (.cpg x, 0xD2), (.cps x, 0xD3), (.cpm x, 0xD4),
        (.cpc x, 0xD5), (.cpz x, 0xD6), (.cpk x, 0xD7)] : List (Instr × Nat)),
    let q := s.drainIf s.cur Loc.isPad
    s.admits e.1.view = true → q.ready (cpyCodes e.2 x) none = true →
    let c := q.captureCpy e.2 x ((cpyCodes e.2 x).map q.source)
    let set := q.cpySet e.2 c
    let reads := if cpyIsStore e.2 x then set else []
    let writes := if cpyIsStore e.2 x then [] else set
    let ch := x.ch.toNat
    ((∀ r ∈ q.cpyRows e.2 c, r = none) → q.olderWriters (q.cpyStream e.2 c) = [] → (q.curTask.chan ch).cmds.length < 8 →
      q.tracked q.curTask.core < 64 →
      (q.lateOf reads writes = none → exec e.1 s = .next (s.retire ((q.popCodes (cpyCodes e.2 x)).enteredCpy ch
        { c with hd := if cpyIsStore e.2 x then { c.hd with reads := set } else { c.hd with writes := set } })
        e.1.view .next)) ∧
      (∀ l t, q.lateOf reads writes = some (l, t) → exec e.1 s =
        .next (s.trapped (t.tookLate l) l.cause l.value s.curStrand.pc 0))) ∧
    (∀ n k v, (q.cpyRows e.2 c)[n]? = some (some (k, v)) → (∀ m, m < n → (q.cpyRows e.2 c)[m]? = some none) →
      (n < 4 ∨ q.olderWriters (q.cpyStream e.2 c) = []) →
      exec e.1 s = .next (s.trapped s k (v.getD (e.1.view.firstWord.zeroExtend 64)) s.curStrand.pc 0))

/-- R136, R381 to R383, the run instructions of the front end: the descriptor's address must be a multiple of 128 and translate; the
release action of scope `dev` is made; a run of the instruction's kind is put at the end of the die's queue of that kind while it
holds fewer than 64, with the next number, and else the strand waits for an entry. -/
def Obligations.RunIssue : Prop :=
  ∀ (s : State) (x : Gen), ∀ e ∈ ([(.vdec x, 0), (.venc x, 1), (.flow x, 2), (.cmrun x, 3)] : List (Instr × Nat)),
    s.admits e.1.view = true → s.ready [x.a.toNat] none = true →
    let a := s.source x.a.toNat
    let p := s.popCodes [x.a.toNat]
    let q := p.mark .dev
    (a &&& 127 ≠ 0 → exec e.1 s = .next (s.trapped s 13 a s.curStrand.pc 0)) ∧
    (a &&& 127 = 0 → ∀ pa pte t, q.translate (q.strandAccess false false) a = (.ok pa pte, t) →
      let k := dieOf t.curTask.core
      let d := t.die k
      let r : Run :=
        { ctx := t.curTask.ctx, kind := e.2, seq := t.nextRun, addr := a, hostMode := t.curCtx.runMode e.2
          party := t.strandParty t.cur, step := t.curTask.step, queued := t.cycle }
      (d.runCount e.2 < 64 → exec e.1 s = .next (s.retire
        { t.setDie k { d with runs := Assoc.set d.runs e.2 (Assoc.getD d.runs e.2 [] ++ [r]) } with nextRun := t.nextRun + 1 }
        e.1.view .next)) ∧
      (64 ≤ d.runCount e.2 → exec e.1 s = .next (s.stall s.cur (.runQueue e.2))))

/-! ## A step, the encoding checks, traps -/

/-- R54, R55, R82, R84: when a strand's turn comes and it may issue, a step fetches at its PC; when the words there are those of
a well-formed instruction that lies in the section in force (or is a header), the step executes that instruction, in the state
that the fetch leaves; a fetch that traps or waits makes the strand trap or wait, an instruction outside the section and words that
are no instruction trap as illegal; a turn of an event executes it with its arguments; a turn of a strand that may not issue passes
its cycles. -/
def Obligations.StepRunsDecoded : Prop :=
  ∀ (s : State) (i : Instr),
    let s0 := s.begin s.nextTurn
    (∀ r, s.nextTurn.who = .strand r →
      let d := s0.strand r
      (s0.mayIssue r = false → step s = .next s0) ∧
      (s0.mayIssue r = true → ∀ t,
        (i.wellFormed = true → s0.fetchWords r d.pc i.encode.length = (.ok i.encode, t) → i.view ≠ .event →
          (d.inSection (4 * i.encode.length) = true ∨ ∃ h, i = .sectionHeader h) → step s = exec i { t with cur := r }) ∧
        (∀ k, s0.fetchWord r d.pc = (.error (.trap k), t) →
          step s = .next ((t.issue r).takeTrap r k.cause (k.value.getD 0) (t.strand r).pc 0)) ∧
        (∀ y b, s0.fetchWord r d.pc = (.error (.stall y b), t) → step s = .next (t.stall r y)) ∧
        (∀ w, s0.fetchWord r d.pc = (.ok w, t) → w.extractLsb' 0 2 ≠ 3 → d.inSection (4 * lengthWords w) = false →
          step s = .next ((t.issue r).takeTrap r 1 (w.zeroExtend 64) (t.strand r).pc 0)) ∧
        (∀ w ws e, s0.fetchWords r d.pc (lengthWords w) = (.ok (w :: ws), t) →
          d.inSection (4 * lengthWords w) = true → decodeWords w (ws.getD 0 0) (ws.getD 1 0) = .error e →
          step s = .next ((t.issue r).takeTrap r 1 (w.zeroExtend 64) (t.strand r).pc 0)))) ∧
    (∀ j a, s.nextTurn.who = .event j a →
      (j.view = .event → step s = exec j { s0 with arg := a }) ∧ (j.view ≠ .event → step s = .next s0))

/-- R61, R82, R86, Tables 3-14, 3-15, for every instruction of a strand, headers and unassigned opcodes included: the checks of the
encoding come in the order of the table, and the first that fails takes its trap, the first word its value; an instruction whose
guard does not hold passes the same checks, and then only the PC advances. -/
def Obligations.EncodingChecks : Prop :=
  ∀ (s : State) (i : Instr), i.view ≠ .event →
    let v := i.view
    let d := s.curStrand
    let traps (c : Nat) : Prop := exec i s = .next (s.trapped s c (v.firstWord.zeroExtend 64) d.pc 0)
    (∀ h, i = .sectionHeader h → d.ih = true → traps 1) ∧
    (∀ w, i = .unassignedOpcode w → traps 1) ∧
    (∀ op, v.op? = some op →
      ((d.inSection v.size = false ∨ v.fieldsOk = false) → traps 1) ∧
      (d.inSection v.size = true → v.fieldsOk = true →
        (strandOk op s.cur.unit = false → traps 3) ∧
        (strandOk op s.cur.unit = true → (v.privileged = true ∧ d.lvl = false) → traps 4) ∧
        (strandOk op s.cur.unit = true → ¬(v.privileged = true ∧ d.lvl = false) → v.operandsOk = false → traps 2) ∧
        (strandOk op s.cur.unit = true → ¬(v.privileged = true ∧ d.lvl = false) → v.operandsOk = true →
          ∀ g, v.guard? = some g → d.guardHolds g = false → exec i s = .next (s.retire s v .next))))

/-- R275, R278 to R280, R341: a trap of a cause that TRAPMASK names, with TVEC set, IH = 0 and a cause other than 36 and 37, is
delivered: the strand alone changes, its trap registers hold cause, value, PC and data, PP holds its level, IH is 1, it runs at
supervisor level at TVEC. Any other trap is a task fault with that cause, value and PC, the strand's party and its level: a task
alone ends, and its number is free again; of a member of a group every strand ends, the fault is noted in the group for the end of
the cycle, and the queue, if it could launch, is Faulted. -/
def Obligations.TrapDelivery : Prop :=
  (∀ (s : State) (r : StrandRef) (cause : Nat) (value tpc data : DWord),
    let x := s.task r.task
    let c := s.ctx x.ctx
    let d := s.strand r
    let t := s.takeTrap r cause value tpc data
    ((c.trapmask.getLsbD cause = true ∧ c.tvec ≠ 0 ∧ d.ih = false ∧ cause ≠ 36 ∧ cause ≠ 37) →
      s.sameButStrand t r ∧ t.strand r = { d with
        tcause := BitVec.ofNat 64 cause, tval := value, tpc := tpc, tdata := data, pp := d.lvl, ih := true, lvl := true
        pc := c.tvec, state := .running, wait := none, held := none }) ∧
    (¬(c.trapmask.getLsbD cause = true ∧ c.tvec ≠ 0 ∧ d.ih = false ∧ cause ≠ 36 ∧ cause ≠ 37) →
      t = s.taskFault r.task ⟨cause, value, tpc, s.strandParty r, d.lvl⟩ ∧
      (x.group = none → ∃ u : State, t = u.retireTask r.task true) ∧
      (∀ g, x.group = some g →
        (∀ u, ((t.task r.task).strand u).live = false) ∧ (∃ f, (x.member, f) ∈ (t.group g).faults) ∧
        (∀ y ∈ [QState.idle, .ready, .drain, .stopped], (s.queue x.queue).state = y → (t.queue x.queue).state = .faulted)))) ∧
  (∀ (u : State) (k : Nat) (faulted : Bool), k < 16384 → 1 ≤ u.nextZombie → Assoc.get? (u.retireTask k faulted).tasks k = none)

/-- Every step of every state goes on: no state of the card ends in a fault or a refusal (R277 to R280: a wrong instruction
traps). -/
def Obligations.EveryStepGoesOn : Prop := ∀ (s : State) (i : Instr), goesOn (exec i s) = true ∧ goesOn (step s) = true

/-! ## Encoding -/

/-- R54, R57 to R74, Tables 3-1 to 3-13: the bytes of every instruction that some word encodes, with any bytes after them, decode
to that instruction and leave those bytes, for every value of every field. -/
def Obligations.RoundTrip : Prop :=
  ∀ (i : Instr) (rest : List Byte), i.encodable = true → i.view ≠ .event → (∀ w, i ≠ .unassignedOpcode w) →
    decodeBytes (i.bytes ++ rest) = some (.ok i, rest)

/-- The converse: what three words decode to, unless the opcode or form does not exist, encodes to just those of the words that
the instruction has. No bit of a word is dropped, and no two words of one length stand for one instruction. -/
def Obligations.DecodeEncodes : Prop :=
  ∀ (w0 w1 w2 : Word) (i : Instr), decodeWords w0 w1 w2 = .ok i → (∀ w, i ≠ .unassignedOpcode w) →
    i.encode = [w0, w1, w2].take (lengthWords w0) ∧ i.encodable = true ∧ i.view ≠ .event

/-- Words written out field by field, highest bits first, from Tables 3-2, 3-4, 3-8 to 3-11a, decode to the instructions they
stand for: one of each layout, an unassigned opcode, and a reserved bit. -/
def Obligations.DecodeWords : Prop :=
  let two (w : DWord) (l : Word) : Except DecodeError Instr := decodeWords (w.extractLsb' 0 32) (w.extractLsb' 32 32) l
  decodeWords 0b0000_000011_000010_000001_00000001_00 0 0 = .ok (.add ⟨1, 2, 3, 0⟩) ∧
  decodeWords 0b1111111111111111111101_00111000_00 0 0 = .ok (.br 0x3FFFFD) ∧
  two 0b1_0_000_1_0010_111111111_111111110_000000111_001000001_1_0000101_00000010_01 0 =
    .ok (.subLong ⟨⟨5, true⟩, 65, 7, .imm 0x3FFFE, 0, true, 2⟩) ∧
  two 0b0_0_000_0_0010_000000000_000000000_000000000_000000100_0_1111111_00011001_10 0xDEADBEEF =
    .ok (.moviHi ⟨.always, 4, 0, .lit 0xDEADBEEF, 0, false, 2⟩) ∧
  two 0b1_000000011_000000000_000000111_000000100_000000011_0_1111111_01101000_01 0 =
    .ok (.tlwait ⟨.always, 3, 4, .imm 7, 3⟩) ∧
  two 0b0000000000000000000000000100_000000010_000000000_0_1111111_00111100_01 0 = .ok (.loop ⟨.always, 0, 2, 4⟩) ∧
  two 0b1_01_011_11_11111111111_000001010_000001000_000001001_0_1111111_01010110_01 0 =
    .ok (.ldg ⟨.always, 9, 8, 10, true, 1, 3, 3, 0x7FF⟩) ∧
  two 0b0_11_010_10_0010_0000101_111111111_000010100_000000110_0_1111111_01011110_01 0 =
    .ok (.amg ⟨.always, 6, 20, 0x1FF, false, 3, 2, 2, 2, 5⟩) ∧
  two 0b0_0000_1_0_001_111111111_000000110_000000101_000000100_0_1111111_10010000_01 0 =
    .ok (.vadd ⟨.always, 4, 5, .code 6, 0, true, false, 1, 0x1FF⟩) ∧
  two 0b00_0_1_000_000101_000100_000000011_000000010_000000001_0_1111111_11000111_01 0 =
    .ok (.mmul ⟨.always, 1, 2, 3, false, true, 0, 5, 4⟩) ∧
  two 0b0_000_1000_000000_000_10_000001100_000001011_000001010_0_1111111_11010001_01 0 =
    .ok (.cpt ⟨.always, 10, 11, 12, false, 8, 0, 0, 2⟩) ∧
  two 0b000000000000_000000000000_000000000101_00000000001000_000000000001_11 0 =
    .ok (.sectionHeader ⟨1, 8, 5, 0, 0⟩) ∧
  decodeWords 0b0000_000000_000000_000000_00011101_00 0 0 = .ok (.unassignedOpcode 0x74) ∧
  two 0b0_1_000_0_0000_000000000_000000011_000000010_000000001_0_1111111_00000001_01 0 = .error .reservedBits

/-! ## Reset -/

/-- R12, R15, R296, R362, R380, R416, R427, Tables 10-1, 11-3, 16-5, 19-2: after reset no task stands anywhere, every context and queue
is Free, every port is Down, no frame has an owner, the thresholds are 95 °C and 105 °C, no die is attached for debugging, tracing
is off, and no memory is poisoned. The model's own choices: cycle 0, and memories that read 0 and are in canonical form
(notes/assumptions/2.md, 3.md). -/
def Obligations.ResetState : Prop :=
  let s := State.reset
  s.tasks = [] ∧ s.groups = [] ∧ s.launches = [] ∧
  (∀ c, (s.ctx c).state = .free) ∧ (∀ q, (s.queue q).state = .free) ∧ (∀ p, (s.port p).state = .down) ∧
  (∀ f, Assoc.getD s.owners f .none = .none) ∧ s.tmig = 95 * 16 ∧ s.tclamp = 105 * 16 ∧
  (∀ d, (s.die d).dbg.att = false) ∧ s.traceSize = 0 ∧ s.bad = [] ∧ s.reqs = [] ∧ s.cycle = 0 ∧ s.mem.wf = true ∧ s.host.wf = true ∧
  (∀ a n, s.mem.nat a n = 0 ∧ s.host.nat a n = 0)

/-! ## Frames -/

/-- R98 to R107, what the register instructions leave unchanged: in a state in which nothing but the instruction happens when it
retires (State.quiet), an instruction that is admitted and whose operands are ready changes nothing outside its task, no other
strand, no queue that it neither pops nor pushes, no g register but its destination, nothing at all when that is g0, and of its
strand only the PC, what the end of an instruction sets, and for a float instruction fcsr. R98, R105 to R107, the same of the
instructions whose result is a predicate: no predicate changes but the destination, nothing when that is p0, and no g register.
-/
def Obligations.RegisterFrames : Prop :=
  (∀ (s : State) (x : Short) (y : Alu), s.quiet s.cur = true →
      ∀ e ∈ ([(.add x, x.toAlu, 2), (.addLong y, y, 2), (.sub x, x.toAlu, 2), (.subLong y, y, 2), (.mul x, x.toAlu, 2),
          (.mulLong y, y, 2), (.mulh x, x.toAlu, 2), (.mulhLong y, y, 2), (.div x, x.toAlu, 2), (.divLong y, y, 2),
          (.rem x, x.toAlu, 2), (.remLong y, y, 2), (.and x, x.toAlu, 2), (.andLong y, y, 2), (.or x, x.toAlu, 2),
          (.orLong y, y, 2), (.xor x, x.toAlu, 2), (.xorLong y, y, 2), (.andn x, x.toAlu, 2), (.andnLong y, y, 2),
          (.shl x, x.toAlu, 2), (.shlLong y, y, 2), (.shr x, x.toAlu, 2), (.shrLong y, y, 2), (.sar x, x.toAlu, 2),
          (.sarLong y, y, 2), (.rot x, x.toAlu, 2), (.rotLong y, y, 2), (.min x, x.toAlu, 2), (.minLong y, y, 2),
          (.max x, x.toAlu, 2), (.maxLong y, y, 2), (.bfx x, x.toAlu, 2), (.bfxLong y, y, 2), (.lea x, x.toAlu, 2),
          (.leaLong y, y, 2), (.abs x, x.toAlu, 1), (.absLong y, y, 1), (.clz x, x.toAlu, 1), (.clzLong y, y, 1),
          (.ctz x, x.toAlu, 1), (.ctzLong y, y, 1), (.popc x, x.toAlu, 1), (.popcLong y, y, 1), (.mov x, x.toAlu, 1),
          (.movLong y, y, 1), (.sel x, x.toAlu, 2), (.selLong y, y, 2), (.bfi x, x.toAlu, 3), (.bfiLong y, y, 3),
          (.fadd x, x.toAlu, 2), (.faddLong y, y, 2), (.fsub x, x.toAlu, 2), (.fsubLong y, y, 2), (.fmul x, x.toAlu, 2),
          (.fmulLong y, y, 2), (.ffma x, x.toAlu, 3), (.ffmaLong y, y, 3), (.fmin x, x.toAlu, 2), (.fminLong y, y, 2),
          (.fmax x, x.toAlu, 2), (.fmaxLong y, y, 2), (.fdiv x, x.toAlu, 2), (.fdivLong y, y, 2), (.fcvt x, x.toAlu, 1),
          (.fcvtLong y, y, 1), (.fsqrt x, x.toAlu, 1), (.fsqrtLong y, y, 1), (.fneg x, x.toAlu, 1), (.fnegLong y, y, 1)] :
          List (Instr × Alu × Nat)),
        let z := e.2.1
        let d := s.curStrand
        let codes := [z.a.toNat] ++ (if e.2.2 = 1 then [] else Src.codes z.b) ++ (if e.2.2 = 3 then [z.d.toNat] else [])
        s.admits e.1.view = true → s.ready codes (some z.d.toNat) = true →
        ∃ t, exec e.1 s = .next t ∧ s.sameOutside t ∧ (∀ k, k ≠ s.cur.task → t.task k = s.task k) ∧
          let f := t.strand s.cur
          t.task s.cur.task = { s.curTask.setStrand s.cur.unit f with queues := (t.task s.cur.task).queues } ∧
          f = { d with g := f.g, fcsr := f.fcsr, pc := d.pc + BitVec.ofNat 64 e.1.view.size, state := .running, held := none } ∧
          (∀ op, e.1.view.op? = some op → op < 0x20 → f.fcsr = d.fcsr) ∧
          (z.d = 0 ∨ 64 ≤ z.d.toNat → f.g = d.g) ∧
          (∀ n, physG d n ≠ physG d z.d.toNat → f.readG n = d.readG n) ∧
          (∀ q, (∀ c ∈ codes, isPopCode c = true → queueOf c ≠ some q) → queueOf z.d.toNat ≠ some q →
            (t.task s.cur.task).queueReg q = s.curTask.queueReg q)) ∧
  (∀ (s : State) (x : Short) (y : Alu), s.quiet s.cur = true →
      ∀ e ∈ ([(.cmp x, x.toAlu, 2), (.cmpLong y, y, 2), (.fcmp x, x.toAlu, 2), (.fcmpLong y, y, 2), (.fclass x, x.toAlu, 1),
          (.fclassLong y, y, 1), (.pand x, x.toAlu, 0), (.pandLong y, y, 0), (.por x, x.toAlu, 0), (.porLong y, y, 0),
          (.pxor x, x.toAlu, 0), (.pxorLong y, y, 0), (.pnot x, x.toAlu, 0), (.pnotLong y, y, 0)] : List (Instr × Alu × Nat)),
        let z := e.2.1
        let d := s.curStrand
        let codes := if e.2.2 = 0 then [] else z.a.toNat :: (if e.2.2 = 1 then [] else Src.codes z.b)
        s.admits e.1.view = true → s.ready codes none = true →
        ∃ t, exec e.1 s = .next t ∧ s.sameOutside t ∧ (∀ k, k ≠ s.cur.task → t.task k = s.task k) ∧
          let f := t.strand s.cur
          t.task s.cur.task = { s.curTask.setStrand s.cur.unit f with queues := (t.task s.cur.task).queues } ∧
          f = { d with p := f.p, fcsr := f.fcsr, pc := d.pc + BitVec.ofNat 64 e.1.view.size, state := .running, held := none } ∧
          (∀ op, e.1.view.op? = some op → op ≠ 0x26 → f.fcsr = d.fcsr) ∧
          (z.d = 0 → f.p = d.p) ∧ (∀ n, physP d n ≠ physP d z.d.toNat → f.pred n = d.pred n) ∧
          (∀ q, (∀ c ∈ codes, isPopCode c = true → queueOf c ≠ some q) →
            (t.task s.cur.task).queueReg q = s.curTask.queueReg q))

/-- R122 to R127, R131, R137 to R139, what loads and stores leave unchanged in a quiet state in which the strand has no access
pending. A store to a scratchpad changes no byte of any scratchpad outside the bytes at the place that its address resolves to, and
no byte of device memory; those bytes then hold the low bytes of its data, or what they held while the store is in the store queue
(notes/assumptions/6.md). A store to device memory changes no byte of it outside the bytes at the physical address, and no
scratchpad. A load changes no byte of either. -/
def Obligations.MemoryFrames : Prop :=
  ∀ (s q : State) (x : Mem) (v : DWord),
    let size := 2 ^ x.size.toNat
    let off := x.off.signExtend 64
    let a := s.indexedAddress x.a x.b off size
    let data := storeData size v
    let k := scopeOf x.scope.toNat
    let issues := s.storeIssue (indexedCodes x.a x.b) x.d.toNat = some (v, q)
    (∀ p, ∀ e ∈ ([(.stp x, .p), (.sts x, .s), (.stn x, .n)] : List (Instr × Space)), s.quiet s.cur = true →
      s.curStrand.calm = true → s.admits e.1.view = true → issues → q.flushDone (x.ord == 2) k = true →
      (s.core p.core).pad.wf = true →
      q.padPlace e.2 (s.memberOf x.b) (s.accessAddress e.2 x.a x.b off size) size true = some p →
      ∃ t, exec e.1 s = .next t ∧ t.mem = s.mem ∧ (t.core p.core).pad.wf = true ∧
        (∀ c, c ≠ p.core → (t.core c).pad = (s.core c).pad) ∧
        (∀ b, b < p.lo ∨ p.lo + size ≤ b → (t.core p.core).pad.byte b = (s.core p.core).pad.byte b) ∧
        (s.late = false → (t.core p.core).pad.nat p.lo size = data) ∧
        (s.late = true → (t.core p.core).pad = (s.core p.core).pad)) ∧
    (∀ va pa pte s1, ∀ e ∈ ([(.stp x, .p), (.stg x, .g)] : List (Instr × Space)),
      s.admits e.1.view = true → issues → a.toNat % size = 0 →
      q.deviceAddress e.2 a = some va → q.translate (q.strandAccess true false) va = (.ok pa pte, s1) →
      s1.meetsBad false true s1.curTask.ctx s1.curTask.core pa size (pteUc pte) = false →
      s1.flushDone (x.ord == 2) k = true → s1.quiet s.cur = true → s1.curStrand.calm = true → s1.mem.wf = true →
      ∃ t, exec e.1 s = .next t ∧ (∀ c, (t.core c).pad = (s1.core c).pad) ∧ t.mem.wf = true ∧
        (∀ b, b < pa ∨ pa + size ≤ b → t.mem.byte b = s1.mem.byte b) ∧
        (s1.late = false → t.mem.nat pa size = data) ∧ (s1.late = true → t.mem = s1.mem)) ∧
    (∀ p, ∀ e ∈ ([(.ldp x, .p), (.lds x, .s), (.ldn x, .n)] : List (Instr × Space)), s.quiet s.cur = true →
      s.curStrand.calm = true → s.admits e.1.view = true → s.ready (indexedCodes x.a x.b) (some x.d.toNat) = true →
      s.flushDone (x.ord == 1) k = true →
      s.padPlace e.2 (s.memberOf x.b) (s.accessAddress e.2 x.a x.b off size) size false = some p →
      ∃ t, exec e.1 s = .next t ∧ t.mem = s.mem ∧ ∀ c, (t.core c).pad = (s.core c).pad) ∧
    (∀ va pa pte s1, ∀ e ∈ ([(.ldp x, .p), (.ldg x, .g)] : List (Instr × Space)),
      s.admits e.1.view = true → s.ready (indexedCodes x.a x.b) (some x.d.toNat) = true → a.toNat % size = 0 →
      s.deviceAddress e.2 a = some va → s.translate (s.strandAccess false false) va = (.ok pa pte, s1) →
      s1.meetsBad true false s1.curTask.ctx s1.curTask.core pa size (pteUc pte) = false →
      s1.flushDone (x.ord == 1) k = true → s1.quiet s.cur = true → s1.curStrand.calm = true →
      ∃ t, exec e.1 s = .next t ∧ t.mem = s1.mem ∧ ∀ c, (t.core c).pad = (s1.core c).pad)

/-- The device memory keeps its canonical form through every instruction of the scalar, float, predicate, branch and span classes,
whatever it does: its effect, a wait, a trap that its handler takes, or a task fault with its record. -/
def Obligations.ScalarKeepsMemoryForm : Prop :=
  ∀ (s t : State) (i : Instr) (op : Nat), i.view.op? = some op → (op ≤ 0x3F ∨ (0xB8 ≤ op ∧ op ≤ 0xBC)) →
    s.mem.wf = true → exec i s = .next t → t.mem.wf = true

/-! ## Events: waits that end, answers that come, buffers that are zeroed -/

/-- R79, R111, R115, R116, R200, R214, R219, R220, R247, R322, R349, R351, R383: a strand that is stalled, and that nothing holds,
gets the next turn in the same cycle when what it waits for has come: the sections it names are reached, or can be no more; its
queue has an element or room, or its pop or push traps; the strands it joins have ended; its transfer is done, or the channel
Faulted; an engine queue or a run queue has room; the older commands have left; no command uses its carve any more; its timeline is
at the value, or its wait is poisoned; or its wait on a queue has turned into a trap. A strand that is not stalled, or that is held,
is not woken. -/
def Obligations.ResumeEvents : Prop :=
  ∀ (s : State),
    let r := s.argStrand
    let x := s.task r.task
    let woken (i : Instr) : Prop := exec i s = .next { s with turns := { who := .strand r, cycles := 0 } :: s.turns }
    (s.canResume r = true → ∀ w, (s.strand r).wait = some w →
      (∀ left h, w.why = .sections left h →
        ((∀ e ∈ left, atOrAfter (x.strand e.1).rs e.2 = true) ∨ ∃ e ∈ left, (x.strand e.1).live = false) →
        woken .sectionWaitSatisfied) ∧
      (∀ q, w.why = .pop q → (0 < (x.queueReg q).count ∨ (x.popTrap r.unit.code (x.queueReg q)).isSome = true ∨
          ∃ k v, (s.strand r).held = some (.doom k v)) → woken .queuePopResume) ∧
      (∀ q, w.why = .push q → (0 < (x.queueReg q).room ∨ (x.pushTrap r.unit.code 0 (x.queueReg q)).isSome = true ∨
          ∃ k v, (s.strand r).held = some (.doom k v)) → woken .queuePushResume) ∧
      (∀ m, w.why = .join m → (∀ u ∈ joinUnits m.toNat, s.joined r.task u = true) → woken .joinComplete) ∧
      (∀ ch id, w.why = .transfer ch id → (((x.chan ch).done - id).toNat < 2 ^ 31 ∨ (x.chan ch).faulted = true) →
        woken .transferWaitEnd) ∧
      (∀ u ch, w.why = .engineQueue u ch → s.engineRoom x u ch = true → woken .engineQueueSpace) ∧
      (∀ op ids, w.why = .engines op ids → (∀ h ∈ s.cmdHeads r.task, h.id ∉ ids) → woken .scalarEngineWaitEnd) ∧
      (w.why = .exitCarve → (∀ h ∈ s.cmdHeads r.task, h.usesCarve = false) → woken .exitCarveStallEnd) ∧
      (∀ a v e, w.why = .timeline a v → s.monitorOf r.task = some e → (e.released.isSome = true ∨ e.poisoned = true) →
        woken .timelineWaitRelease) ∧
      (∀ k, w.why = .runQueue k → (s.die (dieOf x.core)).runCount k < 64 → woken .runQueueEntryFree)) ∧
    (s.canResume r = false → ∀ i ∈ ([.sectionWaitSatisfied, .queuePopResume, .queuePushResume, .joinComplete, .transferWaitEnd,
        .engineQueueSpace, .scalarEngineWaitEnd, .exitCarveStallEnd, .timelineWaitRelease, .runQueueEntryFree] : List Instr),
      exec i s = .next s)

/-- R138, R254: the value of a load, which reads its place now if it has not yet, comes back into its g register or queue, while its
task is placed and not halted, and the load is outstanding no more. R143, R376, R378: the completion of a request over an open port
is held for its strand, with the host's memory read, written or changed by an AtomicOp at the address; the context counts its host
stores, and takes from them those that a flush covered; an abort, and an unsupported read or write, are the link fault, an
unsupported AtomicOp is cause 24; a request outstanding for 1,200,000 cycles fails (Table 16-1). R140, R149: a granule, a slot or an
accumulator that is to be zeroed for its new owner holds nothing but zeros and no error when its zeroing is done, and is free to use.
R362: a frame that a context claims holds nothing but zeros, no error and no cached copy, and is the context's. -/
def Obligations.AnswerEvents : Prop :=
  (∀ (s : State),
      let r := s.argStrand
      (let m := s.readLate r s.arg.k
       let y := m.task r.task
       ∀ l, ((m.strand r).loads.find? fun o => o.id == s.arg.k) = some l → y.frozenBy = none → (y.life = .running ∨ y.life = .stopping) →
        let rest := (m.strand r).loads.filter fun o => o.id != l.id
        (∀ n, l.dest = .reg n → exec .loadDataReturn s =
          .next (m.setStrand r { m.strand r with loads := rest, g := Assoc.set (m.strand r).g n l.value })) ∧
        (∀ q, l.dest = .queue q → exec .loadDataReturn s =
          .next (m.setTask r.task ((y.setStrand r.unit { m.strand r with loads := rest }).setQueueReg q
            ((y.queueReg q).push l.value))))) ∧
      (∀ q, Assoc.get? s.reqs s.arg.k = some q →
        let a := q.addr.toNat
        let n := q.size
        let old := s.host.nat a n
        let open_ (p : Nat) : Prop := (s.port p).state = .up ∨ (s.port p).state = .degraded
        ((Assoc.get? s.tasks q.strand.task).isSome = true → (s.task q.strand.task).life ≠ .saved → open_ q.port →
          let ends (h : Held) (m : Memory) (posted : Nat → Nat) : Prop :=
            let u := { s with host := m, reqs := Assoc.erase s.reqs s.arg.k }
            let w := u.setCtx q.ctx { u.ctx q.ctx with posted := posted (u.ctx q.ctx).posted }
            let t := w.setStrand q.strand { w.strand q.strand with held := some h }
            exec .linkCompletion s = .next (if t.canResume q.strand then t.wake q.strand else t)
          (s.arg.answer = .served → q.port = 0 →
            (q.kind = .read → n ≠ 0 → ends (.value (BitVec.ofNat 64 (old % 2 ^ (8 * n)))) s.host id) ∧
            (q.kind = .read → n = 0 → ends .flushed s.host fun c => c - q.x.toNat) ∧
            (q.kind = .write → ends .done (s.host.setNat a n q.x.toNat) fun c => c + 1) ∧
            (∀ f, q.kind = .atomic f → n ≠ 0 → ends (.value (BitVec.ofNat 64 (old % 2 ^ (8 * n))))
              (s.host.setNat a n (hostAtomicNew f n old q.x.toNat q.y.toNat)) id)) ∧
          (s.arg.answer = .served → q.port ≠ 0 →
            (q.kind = .write → ends .done s.host id) ∧ (q.kind ≠ .write → exec .linkCompletion s = .next s)) ∧
          (∀ v, s.arg.answer = .data v →
            (q.kind = .write → ends .done s.host fun c => if q.port = 0 then c + 1 else c) ∧
            (q.kind ≠ .write → n ≠ 0 → ends (.value (BitVec.ofNat 64 (v.toNat % 2 ^ (8 * n)))) s.host id) ∧
            (q.kind ≠ .write → n = 0 → ends .flushed s.host fun c => c - q.x.toNat)) ∧
          (s.arg.answer = .abort → ends (.trap 22 q.tval) s.host id) ∧
          (s.arg.answer = .unsupported →
            ((q.kind = .read ∨ q.kind = .write) → ends (.trap 22 q.tval) s.host id) ∧
            (∀ f, q.kind = .atomic f → ends (.trap 24 q.tval) s.host id))) ∧
        (q.since + 1200000 ≤ s.cycle → exec .completionTimeout s = .next (s.failReq s.arg.k q)) ∧
        (s.cycle < q.since + 1200000 → exec .completionTimeout s = .next s))) ∧
  (∀ (s : State),
      (∀ c n, s.arg.zero = .granule c n → (s.core c).zeroing.contains n = true → exec .zeroingComplete s =
        .next (s.setCore c { s.core c with
          pad := (s.core c).pad.clear (n * granule) granule, zeroing := (s.core c).zeroing.filter fun g => g != n
          bad := (s.core c).bad.filter fun b => b / granule != n })) ∧
      (∀ h n, s.arg.zero = .slot h n → ((s.hoop h).slot n).zeroing = true → exec .zeroingComplete s =
        .next (s.setHoop h { s.hoop h with slots := (Assoc.set (s.hoop h).slots n
          { (s.hoop h).slot n with data := [], scale := [], table := [], zeroing := false, bad := false }) })) ∧
      (∀ h n, s.arg.zero = .acc h n → ((s.hoop h).acc n).zeroing = true → exec .zeroingComplete s =
        .next (s.setHoop h { s.hoop h with accs := (Assoc.set (s.hoop h).accs n
          { (s.hoop h).acc n with data := [], poisoned := false, zeroing := false, bad := false }) })) ∧
      (∀ c, Assoc.get? s.zeroing s.arg.k = some c → ∃ t, exec .frameZeroingComplete s = .next t ∧
        (∀ a, a / 65536 = s.arg.k → t.mem.byte a = 0) ∧ (s.mem.wf = true → ∀ a, a / 65536 ≠ s.arg.k → t.mem.byte a = s.mem.byte a) ∧
        t.owners = Assoc.set s.owners s.arg.k (.ctx c) ∧ t.zeroing = Assoc.erase s.zeroing s.arg.k ∧
        (∀ k ∈ t.bad, k ∈ s.bad ∧ k / 2048 ≠ s.arg.k) ∧ t.tasks = s.tasks))

/-- R370, R371, R377 to R380, Table 16-5, events of a port: training that ends at a legal width makes it Up or Degraded, a peer port
takes its role from the card numbers and CARDNO takes effect, or the port goes Down where R371 forbids it; it goes Down after 100 ms
of training, and when the partner is removed; an error is counted, saturating, and an uncorrectable one makes it train again and
fails its requests. R379: time that comes over the open port toward card 0 loads the counter once while every context is Free;
later, at most once in 1,024 cycles, the counter gains a cycle, or is to stand for the next one. -/
def Obligations.PortEvents : Prop :=
  ∀ (s : State),
    let p := s.arg.port.toNat
    let x := s.port p
    let open_ := x.state = .up ∨ x.state = .degraded
    let down := ((s.setPort p { corr := x.corr, uncorr := x.uncorr }).failPort p).checkTiming
    let state : LinkState := if s.arg.width = 16 then .up else .degraded
    let may := s.cnv = true ∧ s.arg.pass = true ∧ s.arg.partner ≠ s.cardno
    (p ≤ 2 → s.arg.width.toNat ∈ [1, 2, 4, 8, 16] →
      (x.state = .retrain → exec .linkTrained s = .next (s.setPort p { x with state, width := s.arg.width })) ∧
      (x.state = .training → p = 0 → exec .linkTrained s = .next (s.setPort p { x with state, width := s.arg.width })) ∧
      (x.state = .training → p ≠ 0 → may → exec .linkTrained s = .next (({ s with cardUsed := s.cardno }.setPort p { x with
        state, width := s.arg.width, role := s.cardno < s.arg.partner, card := s.cardno, pcard := s.arg.partner }).checkTiming)) ∧
      (x.state = .training → p ≠ 0 → ¬may → exec .linkTrained s = .next down)) ∧
    (p ≤ 2 → (x.state = .training ∨ x.state = .retrain) → x.since + 120000000 ≤ s.cycle → exec .linkTrainingTimeout s = .next down) ∧
    (p ≤ 2 → exec .surpriseRemoval s = .next down) ∧
    (open_ → exec .linkUncorrectableError s = .next ((s.setPort p { x with
      state := .retrain, width := 0, since := s.cycle, uncorr := min (x.uncorr + 1) 65535 }).failPort p)) ∧
    (p ≤ 2 → x.state ≠ .down →
      exec .linkCorrectableError s = .next (s.setPort p { x with corr := min (x.corr + 1) 65535 })) ∧
    (let k := if s.cardUsed = 0 then 0 else 1
     let time := s.arg.time.toNat
     let near (c : Nat) : Bool := c ≤ time + 16 && time ≤ c + 16
     ((s.port k).state = .up ∨ (s.port k).state = .degraded) →
      let loads := s.timed = false ∧ ∀ c ∈ s.contexts, c.2.state = .free
      let due := s.slewAt + 1024 ≤ s.cycle
      (loads → exec .ptmTimeUpdate s = .next { s with cycle := time, timed := true, sync := true }) ∧
      (¬loads → due → s.cycle < time → exec .ptmTimeUpdate s =
        .next { s with cycle := s.cycle + 1, slewAt := s.cycle, sync := s.sync || near (s.cycle + 1) }) ∧
      (¬loads → due → time < s.cycle → exec .ptmTimeUpdate s =
        .next { s with lag := 1, slewAt := s.cycle, sync := s.sync || near s.cycle }) ∧
      (¬loads → (¬due ∨ s.cycle = time) → exec .ptmTimeUpdate s = .next { s with sync := s.sync || near s.cycle }))

/-- R140, R369, R370, R377, Tables 16-2, 16-3: a read of the host gets the bytes of the BAR, from memory at its home, or from the
control words as the states of contexts and queues are; a write changes the bytes that the host can write, and only those; an
AtomicOp of 4 or 8 aligned bytes answers the old bytes and writes the new; what leaves the BAR is unsupported, and an
uncorrectable error aborts. R372, R374: a peer's request to this card that an import entry admits is translated in the target context
and performed at its home; one that none admits is aborted; one to another card leaves by the other port. -/
def Obligations.HostEvents : Prop :=
  ∀ (s : State),
    let open_ (p : Nat) : Prop := (s.port p).state = .up ∨ (s.port p).state = .degraded
    let a := s.arg
    let size := if a.bar2 then 2 ^ 39 else 2 ^ 20
    let read (n : Nat) : List Byte := (List.range n).map fun k => s.barByte a.bar2 (a.off + k)
    (open_ 0 →
      (a.off + a.len ≤ size → a.len ≤ 4096 → (a.bar2 = true → s.isBad a.off a.len = false) →
        exec .hostMrd s = .next { s with answer := .bytes (read a.len) }) ∧
      ((size < a.off + a.len ∨ 4096 < a.len) → exec .hostMrd s = .next { s with answer := .unsupported }) ∧
      (a.off + a.len ≤ size → a.len ≤ 4096 → a.bar2 = true → s.isBad a.off a.len = true →
        exec .hostMrd s = .next { s with answer := .abort }) ∧
      ((size < a.off + a.bytes.length ∨ 512 < a.bytes.length) → (a.bar2 = true → s.frameLocked a.off a.bytes.length = false) →
        exec .hostMwr s = .next { s with answer := .unsupported }) ∧
      (a.off + a.bytes.length ≤ size → a.bytes.length ≤ 512 → (a.bar2 = true → s.frameLocked a.off a.bytes.length = false) →
        exec .hostMwr s = .next { s.barWrite a.bar2 a.off a.bytes with answer := .none }) ∧
      ((a.size = 4 ∨ a.size = 8) → a.off % a.size = 0 → a.off + a.size ≤ size →
        (a.bar2 = true → s.isBad a.off a.size = false ∧ s.frameLocked a.off a.size = false) →
        exec .hostAtomicop s = .next { s.barWrite a.bar2 a.off
          (leBytes (hostAtomicNew a.atomic a.size (leNat (read a.size)) a.x.toNat a.y.toNat) a.size) with
          answer := .bytes (read a.size) })) ∧
    (∀ k, (s.ctxWordAt k = none → s.queueWordAt k = none → s.barByte true k = s.mem.byte k) ∧
      (64 ≤ k → s.barByte false k = 0)) ∧
    (∀ b bs, s.mem.wf = true → s.partBad b bs.length = false → (∀ k, k < bs.length → s.hostMask (b + k) = 255) →
      (s.barWrite true b bs).mem = s.mem.write b bs) ∧
    (∀ b bs, s.mem.wf = true → s.partBad b bs.length = false → (∀ k, k < bs.length → s.hostMask (b + k) = 0) →
      ∀ k, (s.barWrite true b bs).mem.byte k = s.mem.byte k) ∧
    (let p := a.port.toNat
     let q := a.peer
     let c := q.dstCtx.toNat
     let bytes := actBytes q.act
     let va := q.addr.signExtend 64
     let admitted := ∃ e ∈ (s.ctx c).imports, e.2.valid = true ∧ e.2.card = q.srcCard ∧ e.2.ctx = q.srcCtx ∧
       e.2.tbase.toNat ≤ va.toNat ∧ va.toNat + bytes ≤ e.2.tbase.toNat + e.2.size.toNat ∧ (e.2.w = true ∨ actWrites q.act = false)
     let who := partyOf s.cardUsed 0 6 p
     let access : Access :=
       { ctx := c, die := Config.homeDie (s.ctx c).ptroot.toNat, write := actWrites q.act, eng := true, party := who, joined := .link p }
     (p = 1 ∨ p = 2) → open_ p →
      (q.dstCard = (s.port p).card → ¬admitted → exec .peerRequest s = .next { s with answer := .abort }) ∧
      (q.dstCard = (s.port p).card → admitted → va.toNat % 4096 + bytes ≤ 4096 → ∀ pa pte t, s.translate access va = (.ok pa pte, t) →
        (∀ n, q.act = .read n → t.isBad pa n = false →
          exec .peerRequest s = .next { t with answer := .bytes (t.mem.bytes pa n) }) ∧
        (∀ bs, q.act = .write bs → t.partBad pa bs.length = false →
          exec .peerRequest s = .next { t.writeHome pa bs who with answer := .none }) ∧
        (∀ f n u v, q.act = .atomic f n u v → (n = 4 ∨ n = 8) → pa % n = 0 → t.isBad pa n = false →
          exec .peerRequest s = .next { t.setHome pa n (hostAtomicNew f n (t.mem.nat pa n) u.toNat v.toNat) who with
            answer := .bytes (t.mem.bytes pa n) })) ∧
      (q.dstCard ≠ (s.port p).card → open_ (3 - p) → (s.port (3 - p)).pcard ≠ q.srcCard →
        exec .peerRequest s = .next { s with sent := s.sent ++ [⟨3 - p, q⟩] }))

/-! ## Events: the management controller -/

/-- R270 to R274, R288, R426, Tables 10-1 to 10-3, the context commands, when the controller comes to a context's entry: Create loads
a Free context from its descriptor as Active, unless the descriptor has a status of its own; Update loads the fields that can be
updated; Suspend asks every placed task to stop, and the context is Suspended when none is left; Resume makes it Active. Destroy makes
it Destroying, erases its queues, discards its saved tasks and asks the placed ones to stop; when all that R274 waits for has ended,
what is left is torn down and the command is done, and once its STATTL increment is made the context is freed. The aperture table is
read in frames that the walk claims (R362), and no Create ends before the counter is loaded (R379). A command in another state gives
STATUS 1, a reserved code 2. Each ends with STATUS written, CMD clear and STATTL incremented while it may be. -/
def Obligations.ContextCommands : Prop :=
  ∀ (s : State),
    let c := s.arg.ctx.toNat
    let x := s.ctx c
    let ws := s.descriptor c
    let f (lo n : Nat) : DWord := BitVec.ofNat 64 (bitsAt ws lo n)
    let cmd (k : Nat) : Prop := s.serves (.context c) = true ∧ s.ctxCmd c = k
    let does (i : Instr) (t : State) : Prop := exec i s = .next t
    (cmd 1 →
      (x.state ≠ .free → does .contextCreate (s.doneCtx c 1)) ∧
      (x.state = .free → descStatus ws true ≠ 0 → does .contextCreate (s.doneCtx c (descStatus ws true))) ∧
      (let u := (s.setCtx c (contextOf ws)).claimTable c (f 640 64)
       x.state = .free → descStatus ws true = 0 →
        (u.loadApertures c (f 640 64) = none → does .contextCreate ((u.setCtx c x).doneCtx c 2)) ∧
        (s.timed = false → (∃ l, u.loadApertures c (f 640 64) = some l) → does .contextCreate s) ∧
        (∀ as is, s.timed = true → u.loadApertures c (f 640 64) = some (as, is) →
        ∃ n : Context, does .contextCreate ((u.setCtx c n).doneCtx c 0) ∧ n.state = .active ∧ n.ptroot = f 0 48 ∧
          n.rtbase = f 64 64 ∧ n.rtlen = bitsAt ws 128 16 ∧ n.tvec = f 320 64 ∧ n.trapmask = f 384 64 ∧ n.savebase = f 448 64 ∧
          n.savecnt = bitsAt ws 512 16 ∧ n.savesz = bitsAt ws 528 16 ∧ n.taskmax = bitsAt ws 544 16 ∧ n.qmax = bitsAt ws 560 16 ∧
          n.runlim = bitsAt ws 576 32 ∧ n.carvemax = bitsAt ws 608 16 ∧ n.papt = f 640 64 ∧ n.stattl = f 704 64 ∧
          n.apertures = as ∧ n.imports = is ∧ n.modes = BitVec.ofNat 5 (bitsAt ws 144 5)))) ∧
    (cmd 2 →
      (x.state ≠ .active → does .contextUpdate (s.doneCtx c 1)) ∧
      (x.state = .active → descStatus ws false ≠ 0 → does .contextUpdate (s.doneCtx c (descStatus ws false))) ∧
      (let u := s.claimTable c (f 640 64)
       x.state = .active → descStatus ws false = 0 →
        (u.loadApertures c (f 640 64) = none → does .contextUpdate (u.doneCtx c 2)) ∧
        (∀ as is, u.loadApertures c (f 640 64) = some (as, is) →
        ∃ n : Context, does .contextUpdate ((u.setCtx c n).doneCtx c 0) ∧ n.state = .active ∧ n.ptroot = x.ptroot ∧
          n.rtbase = x.rtbase ∧ n.rtlen = x.rtlen ∧ n.savebase = x.savebase ∧ n.savecnt = x.savecnt ∧ n.savesz = x.savesz ∧
          n.stattl = x.stattl ∧ n.tvec = f 320 64 ∧ n.trapmask = f 384 64 ∧ n.runlim = bitsAt ws 576 32 ∧ n.papt = f 640 64 ∧
          n.apertures = as ∧ n.imports = is ∧ n.modes = BitVec.ofNat 5 (bitsAt ws 144 5)))) ∧
    (cmd 3 →
      (x.state ≠ .active → does .contextSuspend (s.doneCtx c 1)) ∧
      (x.state = .active → let t := s.setCtx c { x with state := .suspending }
        does .contextSuspend ((t.stopAll forSuspend ((t.placedTasks c).filter fun k => (t.members k).head? == some k)).doneCtx c 0))) ∧
    (cmd 4 →
      (x.state ≠ .suspended → does .contextResume (s.doneCtx c 1)) ∧
      (x.state = .suspended → does .contextResume ((s.setCtx c { x with state := .active }).doneCtx c 0))) ∧
    (cmd 5 →
      ((x.state = .free ∨ (x.state = .destroying ∧ x.torn = true)) → does .contextDestroy (s.doneCtx c 1)) ∧
      (x.state ≠ .free → x.state ≠ .destroying →
        let t := (s.setCtx c { x with state := .destroying, torn := false }).putCtxState c
        let u := (t.queuesOf c).foldl (fun v q => (v.eraseQueue q).putQueueState q) t
        let v := u.discardSaved (u.savedWhere fun k => k.ctx == c)
        let w := v.discardPlaced (v.placedTasks c)
        does .contextDestroy (w.goDestroy c))) ∧
    (x.state = .destroying → x.torn = false → does .contextDestroy (s.goDestroy c)) ∧
    (∀ w : State, (w.destroyable c = false → w.goDestroy c = w) ∧
      (w.destroyable c = true → let v := (w.tearDown c).doneCtx c 0
        w.goDestroy c = v.setCtx c { v.ctx c with torn := true })) ∧
    (∀ k, cmd k → 5 < k → does .contextUpdate (s.doneCtx c 2)) ∧
    (x.state = .suspending → s.placedTasks c = [] →
      does .contextSuspended (((s.setCtx c { x with state := .suspended }).putCtxState c).incStat c)) ∧
    (x.state = .destroying → x.torn = true → let v := s.payStat c x.owed
      ((v.ctx c).owed = 0 → does .contextDestroyFinish ((v.finishCtx c).incEvtl)) ∧
      ((v.ctx c).owed ≠ 0 → does .contextDestroyFinish v)) ∧
    (∀ k status, s.mem.wf = true → status < 256 → (s.putCtxStatus k status).mem.word (s.ctxWord k) =
      BitVec.ofNat 64 (status * 2 ^ 8 + (s.ctx k).state.code * 2 ^ 16))

/-- R294 to R296, R305 to R307, Tables 11-1 to 11-3, the queue commands, when the controller comes to a queue's entry: Create
loads a Free queue from its descriptor as Idle, with STATUS 2 for reserved values, 3 for misaligned addresses, 4 when its context is
not Active or has its queues; Update loads PRIO, WEIGHT and AGELIM; Stop and Restart change its state; Poison poisons the completion
timelines of the launches that have not signalled, those that failed their checks or were dropped at a Restart among them, and
discards what is left; Destroy discards its work, and frees it when its last task has stopped. A command in another state gives
STATUS 1, a reserved code 2. -/
def Obligations.QueueCommands : Prop :=
  ∀ (s : State),
    let q := s.arg.queue.toNat
    let x := s.queue q
    let c := s.ownerOf q
    let ws := s.queueDesc q
    let n := newQueue ws
    let cmd (k : Nat) : Prop := s.serves (.queue q) = true ∧ s.queueCmd q = k ∧ x.destroying = false
    let does (i : Instr) (t : State) : Prop := exec i s = .next t
    let unsignalled := x.lost ++ (x.launches.map fun l => (s.launch l).donetl).filter fun a => a != 0
    let room := (s.queuesOf n.ctx).length < if (s.ctx n.ctx).qmax = 0 then 1024 else (s.ctx n.ctx).qmax
    (cmd 1 →
      (x.state ≠ .free → does .queueCreate (s.doneQueue q c 1)) ∧
      (x.state = .free → queueReservedOk ws = false → does .queueCreate (s.doneQueue q c 2)) ∧
      (x.state = .free → queueReservedOk ws = true → queueAligned ws = false → does .queueCreate (s.doneQueue q c 3)) ∧
      (x.state = .free → queueReservedOk ws = true → queueAligned ws = true → ((s.ctx n.ctx).state ≠ .active ∨ ¬room) →
        does .queueCreate (s.doneQueue q c 4)) ∧
      (x.state = .free → queueReservedOk ws = true → queueAligned ws = true → (s.ctx n.ctx).state = .active → room →
        does .queueCreate ((s.setQueue q n).doneQueue q c 0) ∧ n.state = .idle ∧ n.ctx = bitsAt ws 0 6 ∧ n.prio = bitsAt ws 8 2 ∧
          n.supv = (bitsAt ws 10 1 == 1) ∧ n.weight = bitsAt ws 16 8 ∧ n.agelim = bitsAt ws 24 8 ∧
          n.lwbase = BitVec.ofNat 64 (bitsAt ws 64 64) ∧ n.lwlen = bitsAt ws 128 16 ∧
          n.subtl = BitVec.ofNat 64 (bitsAt ws 192 64) ∧ n.acctl = BitVec.ofNat 64 (bitsAt ws 256 64) ∧
          n.faulta = BitVec.ofNat 64 (bitsAt ws 320 64) ∧ n.rpta = BitVec.ofNat 64 (bitsAt ws 384 64) ∧ n.launches = [])) ∧
    (cmd 2 →
      (x.state = .free → does .queueUpdate (s.doneQueue q c 1)) ∧
      (x.state ≠ .free → n.weight = 0 → does .queueUpdate (s.doneQueue q c 2)) ∧
      (x.state ≠ .free → n.weight ≠ 0 → does .queueUpdate
        ((s.setQueue q { x with prio := n.prio, weight := n.weight, agelim := n.agelim }).doneQueue q c 0))) ∧
    (cmd 3 →
      ((x.state = .idle ∨ x.state = .ready ∨ x.state = .drain) →
        does .queueStop ((s.setQueue q { x with state := .stopped }).doneQueue q c 0)) ∧
      (¬(x.state = .idle ∨ x.state = .ready ∨ x.state = .drain) → does .queueStop (s.doneQueue q c 1))) ∧
    (cmd 4 →
      (x.state ≠ .stopped → x.state ≠ .faulted → does .queueRestart (s.doneQueue q c 1)) ∧
      (x.state = .stopped → does .queueRestart
        (((s.setQueue q { x with state := .idle, unfit := none, frlost := false }).settleQueue q).doneQueue q c 0)) ∧
      (x.state = .faulted →
        let bad := x.launches.filter fun l => (s.launch l).faulted
        let t := bad.foldl State.dropLaunch s
        let u := t.discardSaved (t.savedWhere fun k => k.queue == q && (t.launch k.launch).faulted)
        let lost := (bad.map fun l => (u.launch l).donetl).filter fun a => a != 0
        does .queueRestart (((u.setQueue q { u.queue q with
          badLaunch := none, launches := x.launches.filter fun l => !bad.contains l, lost := x.lost ++ lost, state := .idle
          unfit := none, frlost := false }).settleQueue q).doneQueue q c 0))) ∧
    (cmd 5 →
      (x.state = .free → does .queuePoison (s.doneQueue q c 1)) ∧
      (x.state ≠ .free → ∀ t, s.poisonDone q unsignalled = (true, t) →
        let u := (t.queue q).launches.foldl State.dropLaunch t
        let v := u.discardSaved (u.savedWhere fun k => k.queue == q)
        does .queuePoison ((v.setQueue q { v.queue q with state := .poisoned, launches := [], lost := [] }).doneQueue q c 0)) ∧
      (x.state ≠ .free → ∀ t, s.poisonDone q unsignalled = (false, t) → does .queuePoison t)) ∧
    (cmd 6 →
      (x.state = .free → does .queueDestroy (s.doneQueue q c 1)) ∧
      (x.state ≠ .free →
        let t := x.launches.foldl State.dropLaunch (s.setQueue q { x with destroying := true })
        let u := t.discardSaved (t.savedWhere fun k => k.queue == q)
        does .queueDestroy ((u.queueTasks q).foldl (fun v k => (v.sendStop k 0 true).getD v) u))) ∧
    (∀ k, cmd k → 6 < k → does .queueUpdate (s.doneQueue q c 2)) ∧
    (x.destroying = true → s.queueTasks q = [] → does .queueDestroyFinish ((s.eraseQueue q).doneQueue q x.ctx 0))

/-- R351, R362, R363, R380, R422, R426, R427, R431 to R433, Table 19-2, the commands of the management block, when the controller
comes to the block: each has its effect and ends with MSTAT 0, or has none and ends with the MSTAT of Table 19-2: 2 for a code or
an argument outside its limits, 1 where it is refused, 3 for a bad signature or token. The end writes MSTAT, clears MCMD and
increments EVTL. A hoop that is to go offline drains first: placement stops, its tasks are asked to stop, and with the last of them
gone it is offline, its residency entries Free. With no good image only Stage is served, every other command ends with 1 (the
model's choice, notes/assumptions/52.md). -/
def Obligations.ManagementCommands : Prop :=
  ∀ (s : State),
    let a (k : Nat) : DWord := s.marg k
    let cmd (k : Nat) : Prop := s.serves .block = true ∧ s.recovery = false ∧ s.mcmd = k
    let still (m : State) : Prop := m.serves .block = true ∧ m.recovery = false ∧ m.mcmd = 6
    let ends (i : Instr) (t : State) (status : Nat) : Prop := exec i s = .next (t.doneBlock status)
    let p := (a 0).toNat
    let open_ (k : Nat) : Prop := (s.port k).state = .up ∨ (s.port k).state = .degraded
    (cmd 1 →
      let lo := ((a 0).extractLsb' 0 16).toInt
      let hi := ((a 0).extractLsb' 16 16).toInt
      (lo < hi → hi ≤ 110 * 16 → ends .thresholds { s with tmig := lo, tclamp := hi } 0) ∧
      (¬(lo < hi ∧ hi ≤ 110 * 16) → ends .thresholds s 2)) ∧
    (∀ k, cmd k → 10 < k → ends .thresholds s 2) ∧
    (cmd 2 → ends .deviceModes { s with thermalHost := (a 0).getLsbD 0, stagingNext := (a 0).getLsbD 1 } 0) ∧
    (cmd 3 →
      let c := (a 1).toNat
      let limits := (a 0).toNat % 8 = 0 ∧ canonical (a 0) = true ∧ c < 64
      (¬limits → ends .timelinePoisonCommand s 2) ∧
      (limits → (s.ctx c).state ≠ .active → ends .timelinePoisonCommand s 1) ∧
      (limits → (s.ctx c).state = .active → ∀ pa pte, s.peekMap c (a 0) = some (pa, pte) → pteSpace pte = 0 →
        ends .timelinePoisonCommand (s.poison pa) 0) ∧
      (limits → (s.ctx c).state = .active → (∀ pa pte, s.peekMap c (a 0) = some (pa, pte) → pteSpace pte ≠ 0) →
        ends .timelinePoisonCommand s 2)) ∧
    (cmd 4 →
      let f := p / 65536
      let c := bitsOf (a 2) 0 6
      let limits := p % 65536 = 0 ∧ p < 2 ^ 39 ∧ (a 1).toNat ≤ 2
      (¬limits → ends .frameOwnerNone s 2) ∧
      (limits → a 1 = 0 → ends .frameOwnerNone (s.freeFrame f (s.ownerZf f)) 0) ∧
      (limits → a 1 = 1 → ends .frameOwnerShared (s.setOwner f .shared) 0) ∧
      (limits → a 1 = 2 → ends .frameOwnerContext (s.assignFrame f c) 0)) ∧
    (∀ f c, s.mem.wf = true →
      let t := s.assignFrame f c
      t.owner f = .ctx c ∧ (s.owned c f = true → t.mem = s.mem) ∧
      (s.owned c f = false → ∀ b, t.mem.byte b = if b / 65536 = f then 0 else s.mem.byte b)) ∧
    (cmd 5 →
      let n := (a 1).toNat
      let limits := 24 ≤ n ∧ n ≤ 32 ∧ p % 2 ^ n = 0 ∧ p + 2 ^ n ≤ 2 ^ 39
      let t := { s with traceBase := p, traceSize := 2 ^ n, traceMask := a 2 }
      (¬limits → ends .traceRing s 2) ∧
      (limits → s.traceBase = p → s.traceSize = 2 ^ n → ends .traceRing t 0) ∧
      (limits → (s.traceBase ≠ p ∨ s.traceSize ≠ 2 ^ n) → ends .traceRing { t with wptr := 0, mem := s.mem.clear p 24 } 0)) ∧
    (cmd 6 →
      let h := bitsOf (a 0) 0 8
      (let m := (s.drainHoop h).finishDrain s.arg.core
       a 1 = 0 → still m → m.marg 1 = 0 →
        (((m.hoop h).offline = true ∨ m.hoopTasks h = []) → ends .hoopOffline (m.hoopOff h) 0) ∧
        (¬((m.hoop h).offline = true ∨ m.hoopTasks h = []) → exec .hoopOffline s = .next m)) ∧
      (let m := s.finishDrain s.arg.core
       a 1 ≠ 0 → a 1 ≠ 1 → still m → m.marg 1 ≠ 0 → m.marg 1 ≠ 1 → ends .hoopOffline m 2) ∧
      (a 1 = 1 → s.arg.pass = true →
        ends .hoopOnline ((s.setHoop h { s.hoop h with offline := false, draining := false, errors := [] }).putHoff) 0) ∧
      (a 1 = 1 → s.arg.pass = false → ends .hoopOnline s 1)) ∧
    (let m := s.finishDrain s.arg.core
     s.serves .block = false → m.serves .block = false → exec .hoopOffline s = .next m) ∧
    (∀ h,
      ((s.hoop h).draining = true → s.drainHoop h = s) ∧
      ((s.hoop h).draining = false →
        s.drainHoop h = (s.setHoop h { s.hoop h with draining := true }).stopAll forDrain (s.hoopTasks h)) ∧
      ((s.hoop h).draining = true → (s.hoop h).offline = false → s.hoopTasks h = [] → s.finishDrain h = s.hoopOff h) ∧
      (¬((s.hoop h).draining = true ∧ (s.hoop h).offline = false ∧ s.hoopTasks h = []) → s.finishDrain h = s) ∧
      ((s.hoopOff h).hoop h).offline = true ∧ ∀ c, hoopOf c = h → ((s.hoopOff h).core c).residency = []) ∧
    (cmd 7 →
      let x := s.port p
      let limits := p ≤ 2 ∧ (a 1).toNat ≤ 2
      (¬limits → ends .linkDisable s 2) ∧
      (limits → a 1 = 0 →
        ends .linkDisable ((s.setPort p { corr := x.corr, uncorr := x.uncorr }).failPort p).checkTiming 0) ∧
      (limits → a 1 = 1 → x.state = .down →
        ends .linkEnable (s.setPort p { x with state := .training, width := 0, since := s.cycle }) 0) ∧
      (limits → a 1 = 1 → x.state ≠ .down → ends .linkEnable s 1) ∧
      (limits → a 1 = 2 → open_ p →
        ends .linkRetrain (s.setPort p { x with state := .retrain, width := 0, since := s.cycle }) 0) ∧
      (limits → a 1 = 2 → ¬open_ p → ends .linkRetrain s 1)) ∧
    (s.serves .block = true → s.mcmd = 8 →
      let k := (a 2).toNat
      let n := (a 1).toNat
      let x := s.firmware k
      let image := (if s.stagingHost then s.mem else s.host).bytes p n
      let y : Firmware := if x.slotB then { x with a := image, staged := true } else { x with b := image, staged := true }
      let limits := k ≤ 1 ∧ (s.stagingHost = true → p + n ≤ 2 ^ 39)
      (¬limits → ends .stage s 2) ∧
      (limits → s.stagingHost = false → (s.port 0).state = .down → ends .stage s 1) ∧
      (limits → (s.stagingHost = true ∨ open_ 0) → s.arg.pass = false → ends .stage s 3) ∧
      (limits → (s.stagingHost = true ∨ open_ 0) → s.arg.pass = true →
        ends .stage { s with fw := Assoc.set s.fw k y } 0) ∧
      (limits → s.stagingHost = false → ((s.port 0).state = .training ∨ (s.port 0).state = .retrain) → exec .stage s = .next s)) ∧
    (cmd 9 →
      let x := s.firmware p
      (1 < p → ends .switch s 2) ∧
      (p ≤ 1 → x.staged = false → ends .switch s 1) ∧
      (p ≤ 1 → x.staged = true → ends .switch
        { s with fw := Assoc.set s.fw p { x with slotB := !x.slotB, staged := false }, stagingHost := s.stagingNext } 0)) ∧
    (cmd 10 →
      let t := s.arg.token
      (t.valid = true → s.nonce = some t.nonce → ends .debugUnlock (s.unlock t.dies) 0) ∧
      (¬(t.valid = true ∧ s.nonce = some t.nonce) → ends .debugUnlock s 3)) ∧
    (∀ ds d, d < 4 → ((s.unlock ds).die d).dbg.att = ((s.die d).dbg.att || ds.getLsbD d)) ∧
    (s.serves .block = true → s.recovery = true →
      ∀ e ∈ ([(1, .thresholds), (2, .deviceModes), (3, .timelinePoisonCommand), (5, .traceRing), (9, .switch), (10, .debugUnlock)] :
        List (Nat × Instr)), s.mcmd = e.1 → ends e.2 s 1) ∧
    (∀ t : State, ∀ status, t.mem.wf = true → status < 256 → (t.doneBlock status).mem.nat (t.mgmttl + 16) 2 = status * 256)

/-! ## Events: sensors, soft errors, boot, attestation -/

/-- R428, R429, Tables 19-3, 19-4: 1,200 cycles or more after the last sample every sensor is sampled, and every logic layer follows
its table; at 120 °C the card loses power. A layer's temperature is the largest of its valid sensors; one without any is held in
Clamp. A change of state is shown and counted, and one to a hotter state in the hardware mode stops the layer's tasks. The clamp
point goes to 2 after 1,200,000 cycles at the clamp temperature. R19: the patrol scrub counts corrected errors, saturating,
poisons the sectors it finds bad, and drains a hoop whose SRAMs had 16 errors within 1.2 × 10^9 cycles, so that it goes offline; a
recalibration delays accesses to its channel for 2,400 cycles at most.
R431: the boot takes the active image of each pair, or the other one when it is bad, and starts the ports; with no good image of a
pair the card stays in recovery. R431: a request for a nonce is answered with it, and it stays for the token. -/
def Obligations.MonitoringEvents : Prop :=
  ∀ (s : State),
    let got (d i : Nat) : Nat := (s.arg.samples.getD (40 * d + i) 0).toNat
    let t := { s.putSensors got with sampled := s.cycle }
    let hot : Prop := ∃ k, k < 8 ∧ ∃ v, t.layerTemp k = some v ∧ 120 * 16 ≤ v
    let due := s.booted = true ∧ s.powered = true ∧ s.sampled + 1200 ≤ s.cycle
    let r := s.arg.scrub
    let b := s.arg.boot
    (due → hot → exec .sensorSample s = .next t.powerOff) ∧
    (due → ¬hot → exec .sensorSample s = .next (((List.range 8).foldl State.sampleLayer t).putSensors got)) ∧
    (¬due → exec .sensorSample s = .next s) ∧
    (t.powerOff.powered = false ∧ t.powerOff.tasks = [] ∧ t.powerOff.contexts = [] ∧ (t.powerOff.port 0).state = .down) ∧
    (∀ k v, s.layerTemp k = some v →
      (∃ i, i < 16 ∧ (s.sensor (k / 2) (16 * (k % 2) + i)).getLsbD 16 = true ∧ degrees (s.sensor (k / 2) (16 * (k % 2) + i)) 0 = v) ∧
      (∀ i, i < 16 → (s.sensor (k / 2) (16 * (k % 2) + i)).getLsbD 16 = true →
        degrees (s.sensor (k / 2) (16 * (k % 2) + i)) 0 ≤ v)) ∧
    (∀ k, s.layerTemp k = none → ∀ i, i < 16 → (s.sensor (k / 2) (16 * (k % 2) + i)).getLsbD 16 = false) ∧
    (∀ (x : Layer) m c now, (x.sample m c now none).state = .clamp ∧ ∀ v : Int,
      let y := x.sample m c now (some v)
      (x.state = .normal → y.state = if m ≤ v then .migrate else .normal) ∧
      (x.state = .migrate → c ≤ v → y = { state := .clamp, point := 1, since := now }) ∧
      (x.state = .migrate → v < c → y.state = if v < m - 5 * 16 then .normal else .migrate) ∧
      (x.state = .clamp → v < c - 5 * 16 → y.state = .migrate) ∧
      (x.state = .clamp → c - 5 * 16 ≤ v → y = x)) ∧
    (∀ k,
      let x := s.layer k
      let y := x.sample s.tmig s.tclamp s.cycle (s.layerTemp k)
      let u := ((s.setLayer k y).putLstate).incEvtl
      (y.state = x.state → s.sampleLayer k = s) ∧
      (y.state ≠ x.state → s.thermalHost = true → s.sampleLayer k = u) ∧
      (y.state ≠ x.state → y.state.code < x.state.code → s.sampleLayer k = u) ∧
      (x.state.code < y.state.code → s.thermalHost = false → s.sampleLayer k = u.stopAll forMigration (u.layerTasks k))) ∧
    (let k := s.arg.layer.toNat
     let x := s.layer k
     let late := x.state = .clamp ∧ x.point = 1 ∧ x.since + 1200000 ≤ s.cycle ∧ ∃ v, s.layerTemp k = some v ∧ s.tclamp ≤ v
     (late → exec .clampPoint2Timeout s = .next (s.setLayer k { x with point := 2 })) ∧
     (¬late → exec .clampPoint2Timeout s = .next s)) ∧
    (s.booted = true → s.powered = true →
      let u := ((r.corrected.take 4).zipIdx.filter fun e => e.1 != 0).foldl (fun (s : State) e => s.addCorr e.2 e.1) s
      let w := { u with bad := u.bad ++ (r.bad.filter fun k => k < 2 ^ 34 && !u.bad.contains k).eraseDups }
      exec .patrolScrub s = .next ((r.hoops.filter fun h => h < 256 && (w.hoop h).failing w.cycle).foldl
        (fun v h => (v.drainHoop h).finishDrain h) w)) ∧
    (∀ (x : Hoop) (now : Nat), x.failing now = true ↔ 16 ≤ x.errors.length ∧ ∀ c ∈ x.errors, now ≤ c + 1200000000) ∧
    (∀ d n, Assoc.getD (s.addCorr d n).corr d 0 = min (Assoc.getD s.corr d 0 + n) (2 ^ 64 - 1)) ∧
    (exec .hbmRecalibration s = .next { s with recal := Assoc.set s.recal s.arg.k (s.cycle + min s.arg.cycles 2400) }) ∧
    (s.booted = true → exec .boot s = .next s) ∧
    (s.booted = false →
      let m := s.firmware 0
      let f := s.firmware 1
      let pick (x : Firmware) (okA okB : Bool) : Firmware := if (if x.slotB then okB else okA) then x else { x with slotB := !x.slotB }
      let good := (b.mgmtA = true ∨ b.mgmtB = true) ∧ (b.frontA = true ∨ b.frontB = true)
      (good → exec .boot s = .next
        { s with fw := Assoc.set (Assoc.set s.fw 0 (pick m b.mgmtA b.mgmtB)) 1 (pick f b.frontA b.frontB) }.startUp) ∧
      (¬good → exec .boot s = .next
        { s.startTraining 0 with booted := true, recovery := true, sampled := s.cycle })) ∧
    (s.startUp.booted = true ∧ (∀ p, p < 3 → (s.startUp.port p).state = .training) ∧
      (∀ h ∈ s.arg.boot.failed, h < 256 → (s.startUp.hoop h).offline = true)) ∧
    (s.arg.spdm = .certificates → exec .spdmRequest s = .next { s with answer := .bytes Config.certificates }) ∧
    (∀ n, s.arg.spdm = .measurement n →
      let active (k : Nat) : List Byte := if (s.firmware k).slotB then (s.firmware k).b else (s.firmware k).a
      ((n = 0 ∨ 4 < n.toNat) → exec .spdmRequest s = .next { s with answer := .unsupported }) ∧
      (n ≠ 0 → n.toNat ≤ 4 → exec .spdmRequest s = .next { s with answer := .bytes (Config.measurement n.toNat (active 0) (active 1)
        (s.mem.nat (s.mgmttl + 64) 32) (s.thermalHost, s.stagingHost)) })) ∧
    (∀ f, s.arg.spdm = .nonce f → exec .spdmRequest s = .next { s with nonce := some f, answer := .words [f] })

/-! ## Events: tasks and the dispatcher -/

/-- R272, R287 to R290, R292, R293, R298 to R304, R315, R338, R339, R350, the events of tasks, queues and launches. A task over its
run limit faults with cause 36. A stop request that arrives halts the strands at a boundary, and 600 cycles later freezes the
others; a request needs image slots for every live and ended member of the group, and goes to every live member; pre-emption and
migration of a group with a debug-halted member are refused. When all members have stopped the images are written and the tasks
saved, or the tasks are discarded; a result that comes later goes into its image, and one fewer is pending; one from a link waits
while its port trains. The choice goes by level; a queue without deficit, or whose context is not Active, is passed over; a queue
gives a resumable saved task before a new one. A queue whose one candidate has not fitted for 4,096 consecutive cycles makes the
first of its victims whose stop helps, and is not refused, stop. A wait of 4,096 cycles parks its task, and a refused request is
repeated after 4,096 more. The word of a parked wait is read again, and releases one that no poison marks. A submit timeline above the host's count makes the
dispatcher accept one launch and increment the accept timeline; a launch whose tasks are all complete signals its timeline and is
gone. -/
def Obligations.TaskEvents : Prop :=
  ∀ (s : State),
    let t := s.arg.task
    let x := s.task t
    let c := s.ctx x.ctx
    let ms := s.members t
    let past := c.runlim ≠ 0 ∧ x.placedNow = true ∧ c.runlim * 4096 < x.runTime s.cycle
    let allStopped := (Assoc.get? s.tasks t).isSome = true ∧ (∀ m ∈ ms, s.stopped m = true) ∧
      ∀ g, x.group = some g → (s.group g).faults = []
    let z := ms.foldl State.drainTask s
    let discards := ∃ m ∈ ms, ∃ r, (z.task m).stopReq = some r ∧ r.discard = true
    ((Assoc.get? s.tasks t).isSome = true →
      (past → exec .runLimitExpiry s =
        .next (s.taskFault t ⟨36, BitVec.ofNat 64 (x.runTime s.cycle / 4096), x.main.pc, s.taskParty t 0, x.main.lvl⟩)) ∧
      (¬past → exec .runLimitExpiry s = .next s)) ∧
    (∀ r, x.sent = some r → x.frozenBy = none → x.placedNow = true → exec .stopRequest s = .next ((s.setTask t
      { x.mapStrands Strand.arriveStop with
        sent := none, stopReq := some { r with arrived := s.cycle }, life := .stopping }).stopArray t)) ∧
    (x.sent ≠ none → (x.frozenBy ≠ none ∨ x.placedNow = false) → exec .stopRequest s = .next s) ∧
    (∀ d : Strand,
      (d.live = true → d.stop = .none → (d.state = .rendezvous ∨ d.loops = []) → d.arriveStop = { d with stop := .boundary }) ∧
      (¬(d.live = true ∧ d.stop = .none ∧ (d.state = .rendezvous ∨ d.loops = [])) → d.arriveStop = d)) ∧
    (x.sent = none → x.stopReq = none → x.placedNow = true → (Assoc.get? s.tasks t).isSome = true →
      let ask (k : BitVec 6) := (∀ u, s.sendStop t k false = some u → exec .stopRequest s = .next u) ∧
        (s.sendStop t k false = none → exec .stopRequest s = .next s)
      (c.state = .suspending → ask 8) ∧
      (c.state ≠ .suspending → (s.hoop (hoopOf x.core)).draining = true → ask 16) ∧
      (c.state ≠ .suspending → (s.hoop (hoopOf x.core)).draining = false → exec .stopRequest s = .next s)) ∧
    (∀ k d u, s.sendStop t k d = some u → ∀ m ∈ ms, (u.task m).asked = true) ∧
    (∀ k, s.refusesStop t k = true ↔ (k = 1 ∨ k = 4) ∧ ∃ m ∈ ms, (s.task m).frozenBy ≠ none) ∧
    (∀ k, s.sendStop t k false = none ↔ s.refusesStop t k = true ∨ ((∀ m ∈ ms, (s.task m).asked = false) ∧
      (c.freeImages (ms.length + (s.endedMembers t).length)).length < ms.length + (s.endedMembers t).length)) ∧
    (∀ r, x.stopReq = some r → r.arrived + 600 ≤ s.cycle → x.frozenBy = none → x.life = .stopping →
      exec .freezeWindowExpiry s = .next (s.setTask t (x.mapStrands Strand.freeze))) ∧
    (∀ r, x.stopReq = some r → s.cycle < r.arrived + 600 → exec .freezeWindowExpiry s = .next s) ∧
    (∀ d : Strand, d.live = true → d.stop = .none → d.freeze = { d with stop := .frozen }) ∧
    (¬allStopped → exec .imageComplete s = .next s) ∧
    (allStopped → discards → exec .imageComplete s = .next (ms.foldl State.discardTask z)) ∧
    (allStopped → ¬discards →
      (∀ m va k u, z.writeImages ms = (some (m, va, .trap k), u) → exec .imageComplete s =
        .next (u.taskFault m ⟨k, va, (u.task m).main.pc, u.taskParty m 0, (u.task m).main.lvl⟩)) ∧
      (∀ m va y u, z.writeImages ms = (some (m, va, .stall y), u) → exec .imageComplete s = .next u) ∧
      (∀ u, z.writeImages ms = (none, u) →
        (∀ m va k v, u.writeEnded x.ctx t (u.endedMembers t) = (some (m, va, .trap k), v) → exec .imageComplete s =
          .next (v.taskFault m ⟨k, va, (v.task m).main.pc, v.taskParty m 0, (v.task m).main.lvl⟩)) ∧
        (∀ m va y v, u.writeEnded x.ctx t (u.endedMembers t) = (some (m, va, .stall y), v) → exec .imageComplete s = .next v) ∧
        (∀ v, u.writeEnded x.ctx t (u.endedMembers t) = (none, v) →
          ((v.queue x.queue).state ≠ .poisoned → (v.queue x.queue).state ≠ .free →
            exec .imageComplete s = .next ((v.saveGroup t).settleQueue x.queue)) ∧
          (((v.queue x.queue).state = .poisoned ∨ (v.queue x.queue).state = .free) →
            exec .imageComplete s = .next (ms.foldl State.discardTask v))))) ∧
    (x.life = .saved →
      let r := s.argStrand
      (∀ l, ((s.strand r).loads.find? fun l => l.id == s.arg.k) = some l →
        exec .imageResultReturn s = .next (s.imageLoad r l) ∧ ((s.imageLoad r l).task t).pending = x.pending - 1 ∧
        (∀ n, l.dest = .reg n → ((s.imageLoad r l).strand r).g = Assoc.set (s.strand r).g n l.value)) ∧
      (((s.strand r).loads.find? fun l => l.id == s.arg.k) = none → ∀ q, Assoc.get? s.reqs s.arg.k = some q →
        q.strand.task = t → q.answers s.arg.answer = true →
        (s.portOpen q.port = true → exec .imageResultReturn s = .next (s.imageLink s.arg.k q s.arg.answer)) ∧
        (s.portOpen q.port = false → exec .imageResultReturn s = .next s))) ∧
    (exec .dispatchChoice s = .next
      (((s.settleQueues.queues.map (·.1)).foldl State.settleUnfit s.settleQueues).chooseFrom [0, 1, 2, 3])) ∧
    (∀ k ks, (∀ q u, (s.round (s.levelQueues k)).firstServed (s.levelOrder k) = (some q, u) →
        s.chooseFrom (k :: ks) = { u with served := Assoc.set u.served k q }) ∧
      (∀ u, (s.round (s.levelQueues k)).firstServed (s.levelOrder k) = (none, u) → s.chooseFrom (k :: ks) = u.chooseFrom ks)) ∧
    (∀ q qs,
      (((s.queue q).deficit ≤ 0 ∨ (s.ctx (s.queue q).ctx).state ≠ .active) → s.firstServed (q :: qs) = s.firstServed qs) ∧
      (0 < (s.queue q).deficit → (s.ctx (s.queue q).ctx).state = .active → ∀ u, s.serveQueue q = (.given, u) →
        s.firstServed (q :: qs) = (some q, u)) ∧
      (∀ u v as, ((s.savedOrder q).findSome? fun t => (s.placeSaved t).map fun as => (t, as)) = some (v, as) →
        s.resumeGroup v as = u → s.serveQueue q = (.given, u)) ∧
      (((s.savedOrder q).findSome? fun t => (s.placeSaved t).map fun as => (t, as)) = none → ∀ l u, s.headLaunch q = some l →
        s.tryAll q l (s.offered q l) = (.given, u) → s.serveQueue q = (.given, u))) ∧
    (∀ q,
      let cleared := s.setQueue q { s.queue q with unfit := none }
      ((s.queue q).unfit = none → s.settleUnfit q = s) ∧
      (∀ k n, (s.queue q).unfit = some (k, n) →
        (s.candidate q = none → s.settleUnfit q = cleared) ∧
        (∀ y, s.candidate q = some y →
          (k = y.key → s.placeNow y = none → s.settleUnfit q = s) ∧
          ((k ≠ y.key ∨ (s.placeNow y).isSome = true) → s.settleUnfit q = cleared)))) ∧
    (let q := s.arg.queue.toNat
     let u := s.settleUnfit q
     let y := u.queue q
     let due := (y.state = .ready ∨ y.state = .drain) ∧ 0 < y.deficit ∧ (u.ctx y.ctx).state = .active ∧ u.preempting q = false ∧
       ∃ k n, y.unfit = some (k, n) ∧ n + 4096 ≤ u.cycle
     (¬due → exec .preemptionTimeout s = .next u) ∧
     (due → u.candidate q = none → exec .preemptionTimeout s = .next u) ∧
     (due → ∀ k, u.candidate q = some k → exec .preemptionTimeout s = .next (u.stopFirst q k (u.victims q)))) ∧
    (∀ q k v vs,
      s.stopFirst q k [] = s ∧
      ((s.stopHelps v k = false ∨ s.sendStop v forPreemption false = none) → s.stopFirst q k (v :: vs) = s.stopFirst q k vs) ∧
      (s.stopHelps v k = true → ∀ u, s.sendStop v forPreemption false = some u →
        s.stopFirst q k (v :: vs) = u.setTask v { u.task v with stopFor := some q })) ∧
    (let waits := x.placedNow = true ∧ x.frozenBy = none ∧ x.parked = false ∧ ∃ n, s.timelineWait t = some n ∧ 4096 * (x.refused + 1) ≤ n
     (¬waits → exec .parkTimeout s = .next s) ∧
     (waits → (Assoc.get? s.tasks t).isSome = true →
       (∀ u, s.sendStop t forParking false = some u →
         exec .parkTimeout s = .next (u.setTask t { u.task t with parked := true })) ∧
       (s.sendStop t forParking false = none →
         exec .parkTimeout s = .next (s.setTask t { x with refused := x.refused + 1 })))) ∧
    (let see (e : Monitor) : Monitor :=
       if e.task = t ∧ e.inImage = true ∧ e.released = none ∧ e.poisoned = false ∧ e.threshold ≤ s.mem.nat e.addr 8 then
         { e with released := some (s.mem.word e.addr, dispatcherParty s (Config.homeDie e.addr)) }
       else e
     exec .parkedWaitReread s = .next ({ s with dies := s.dies.map fun (d : Nat × Die) =>
       (d.1, { d.2 with monitor := d.2.monitor.map see }) }.settleQueue x.queue)) ∧
    (let q := s.arg.queue.toNat
     let y := s.queue q
     let rd := s.dispatcherAccess y.ctx false jobHost q
     y.state ≠ .free → ∀ ws s1, s.devRead rd y.subtl 1 = (.ok ws, s1) →
       ((ws.headD 0).toNat ≤ y.hostCount → exec .hostLaunchAccept s = .next s) ∧
       (y.hostCount < (ws.headD 0).toNat → ∀ rec s2 pa pte s3 n s4,
         s1.devRead rd (y.lwbase + BitVec.ofNat 64 (64 * (y.hostCount % max 1 y.lwlen))) 8 = (.ok rec, s2) →
         s2.translate (s2.dispatcherAccess y.ctx true jobHost q) y.acctl = (.ok pa pte, s3) →
         s3.acceptLaunch q (some rec) (hostParty s3) none = (.ok n, s4) →
         let s5 := s4.setQueue q { s4.queue q with hostCount := y.hostCount + 1 }
         exec .hostLaunchAccept s = .next
           (s5.incAt (s5.dispatcherAccess y.ctx true jobHost q) y.acctl fun pa => dispatcherParty s5 (Config.homeDie pa)).2)) ∧
    (let l := s.arg.k
     ∀ y, Assoc.get? s.launches l = some y →
       let past := y.faulted = false ∧ y.undispatched = false ∧ y.count ≤ y.complete
       let gone (u : State) : State :=
         { u.setQueue y.queue { u.queue y.queue with launches := (u.queue y.queue).launches.filter fun k => k != l } with
           launches := Assoc.erase u.launches l }
       (¬past → exec .launchComplete s = .next s) ∧
       (past → y.donetl = 0 → exec .launchComplete s = .next (gone s)) ∧
       (past → y.donetl ≠ 0 →
         let found := s.translate (s.dispatcherAccess (s.queueCtx y.queue) true jobDone l) y.donetl
         (∀ pa pte u, found = (.ok pa pte, u) →
           (y.donetl.toNat % 8 = 0 → exec .launchComplete s = .next (gone (u.deviceInc pa
             (if y.count = 0 then dispatcherParty s (Config.homeDie pa) else y.lastParty)))) ∧
           (y.donetl.toNat % 8 ≠ 0 → exec .launchComplete s = .next (gone u))) ∧
         (∀ y u, found = (.stall y, u) → exec .launchComplete s = .next u) ∧
         (∀ k u, found = (.trap k, u) → exec .launchComplete s = .next (gone u))))

/-! ## Events: debug, trace, walks, pages -/

/-- R365 to R367, R412 to R414, R416 to R421, R424, R425, Tables 15-6, 18-4 to 18-6. A command of a debug core is checked before it
acts: ERR 1 when the core is locked, 2 while BUSY, 3 for a reserved field, 4 when SEL names no task of CTX, 5 and 6 when its task is
not halted or is, 7 for a register that is none, 8 for memory it cannot reach, 9 when the task does not run. Halt stops the task,
whose accesses over a link perform first, resume lets it go on, access register and access memory move DATA; an access to a granule
being zeroed, or a write of a locked page, is BUSY until it can go on; ones written to ERR clear it. The trace writer writes the oldest packet of a source
when the ring has room, and moves WPTR by 64 bytes. The Cordonnet unit writes the report of its oldest walk at RPTA, 128 cycles or
more after the step's end, and increments the step's timeline; a report is a header of 64 bytes and at most 126 segments of 32. The
pager fills an absent backed leaf from the host and posts RESULT 1, or 2 when it cannot; what the device observes as served walks
again or fails. A migration request claims its page's frame and locks its page, and then copies it: the leaf has the new frame, the
old frame is freed, and RESULT is 1; 2 for a request that cannot be served, 3 when the leaf has changed by then. -/
def Obligations.DebugTraceWalkPages : Prop :=
  ∀ (s : State),
    let w := s.arg.dbg
    let b := s.debugBlock.load w
    let u := s.putBlock b
    let idle := w.again = false ∧ s.debugBlock.busy = false
    let admits := idle ∧ s.debugBlock.att = true ∧ w.reserved = false
    (∀ i ∈ ([.debugHalt, .debugResume, .accessRegister, .accessMemory] : List Instr),
      (w.again = false → s.debugBlock.busy = true → exec i s = .next (s.debugErr 2)) ∧
      (idle → s.debugBlock.att = false → exec i s = .next (u.debugErr 1)) ∧
      (idle → s.debugBlock.att = true → w.reserved = true → exec i s = .next (u.debugErr 3))) ∧
    (w.again = true →
      (∀ i ∈ ([.debugHalt, .debugResume, .accessRegister] : List Instr), exec i s = .next s) ∧
      exec .accessMemory s = .next (if s.debugBlock.busy = true then s.tryMemory else s)) ∧
    (admits → u.debugTarget = none →
      ∀ i ∈ ([.debugHalt, .debugResume, .accessRegister] : List Instr), exec i s = .next (u.debugErr 4)) ∧
    (admits → ∀ t, u.debugTarget = some t →
      let x := u.task t
      let r := u.selStrand t
      (x.frozenBy ≠ none → exec .debugHalt s = .next (u.debugErr 6)) ∧
      (x.frozenBy = none → x.life ≠ .running → exec .debugHalt s = .next (u.debugErr 9)) ∧
      (x.frozenBy = none → x.life = .running →
        let v := u.drainTask t
        exec .debugHalt s = .next (v.setTask t { v.task t with
          runtime := (v.task t).runTime v.cycle, frozenBy := some { cause := 1, code := 0, since := v.cycle, at_ := none } })) ∧
      (x.frozenBy = none → ∀ i ∈ ([.debugResume, .accessRegister] : List Instr), exec i s = .next (u.debugErr 5)) ∧
      (∀ d, x.frozenBy = some d → exec .debugResume s =
        .next (((u.acquire x.ctx x.core .dev).setTask t { x with frozenBy := none, placed := u.cycle }).skipTask t (u.cycle - d.since))) ∧
      (x.frozenBy ≠ none → debugReg w.regno.toNat = none → exec .accessRegister s = .next (u.debugErr 7)) ∧
      (x.frozenBy ≠ none → ∀ k, debugReg w.regno.toNat = some k →
        (w.wr = true → exec .accessRegister s = .next (u.writeDebug r k w.data)) ∧
        (w.wr = false → exec .accessRegister s = .next (u.putBlock { b with data := u.readDebug r k })))) ∧
    (∀ r k, s.readDebug r (.g 0) = 0 ∧ s.readDebug r (.p 0) = 1 ∧ s.readDebug r .pc = (s.strand r).pc ∧
      s.readDebug r (.csr k) = s.csr r k ∧ s.readDebug r (.span k) = Assoc.getD (s.task r.task).spans k 0 ∧
      (k ≠ 0 → s.readDebug r (.g k) = Assoc.getD (s.strand r).g k 0 ∧
        s.readDebug r (.p k) = if Assoc.getD (s.strand r).p k false then 1 else 0)) ∧
    (∀ r v, s.writeDebug r (.g 0) v = s ∧ s.writeDebug r (.p 0) v = s ∧
      (∀ k, s.writeDebug r (.span k) v = s.setTask r.task { s.task r.task with
        spans := Assoc.set (s.task r.task).spans k (v &&& 0x1FFFFFFFFFFFFFFF) }) ∧
      (∀ k, k ≠ 0 → s.writeDebug r (.g k) v = s.setStrand r { s.strand r with g := Assoc.set (s.strand r).g k v }) ∧
      (∀ k, s.writeDebug r (.csr k) v = if csrWritable k then s.setCsr r k v else s) ∧
      s.writeDebug r .pc v = s.setStrand r { s.strand r with pc := v }) ∧
    (admits → exec .accessMemory s = .next u.tryMemory) ∧
    (∀ v : State,
      let d := v.debugBlock
      let n := 2 ^ d.size.toNat
      let at_ := d.addr.toNat
      let done (y : State) : State := y.putBlock { y.debugBlock with busy := false }
      let waits : Prop := v.tryMemory = v.putBlock { d with busy := true }
      let fails (k : Nat) : Prop := v.tryMemory = done (v.debugErr k)
      let read (x : Nat) : State := v.putBlock { d with data := BitVec.ofNat 64 x }
      let here := d.sel.toNat / 2 ^ 20 = v.cardUsed.toNat ∧ d.sel.toNat / 2 ^ 18 % 4 = v.arg.die.toNat
      (3 < d.space.toNat → fails 3) ∧
      (d.space.toNat ≤ 3 → at_ % n ≠ 0 → fails 8) ∧
      (at_ % n = 0 →
        (d.space.toNat = 0 → v.debugTarget = none → fails 4) ∧
        (d.space.toNat = 0 → ∀ t, v.debugTarget = some t →
          let x := v.task t
          let c := v.core x.core
          let k := x.gran0 * granule + at_
          let whole := at_ + n ≤ x.hdr.gran * granule ∧ c.zeroingAt k n = false ∧ ∀ a ∈ c.bad, ¬(k ≤ a ∧ a < k + n)
          (x.hdr.gran * granule < at_ + n → fails 8) ∧
          (at_ + n ≤ x.hdr.gran * granule → c.zeroingAt k n = true → waits) ∧
          (at_ + n ≤ x.hdr.gran * granule → c.zeroingAt k n = false → (∃ a ∈ c.bad, k ≤ a ∧ a < k + n) → fails 8) ∧
          (whole → d.wr = false → v.tryMemory = done (read (c.pad.nat k n))) ∧
          (whole → d.wr = true →
            let y := v.writePad x.core k (leBytes d.data.toNat n)
            v.tryMemory = done (if at_ < x.hdr.cs then y.dropResidency x.core k n else y))) ∧
        (d.space.toNat = 1 → v.peekMap d.ctx.toNat d.addr = none → fails 8) ∧
        (d.space.toNat = 1 → ∀ pa pte, v.peekMap d.ctx.toNat d.addr = some (pa, pte) →
          let may := pteSpace pte = 0 ∧ (d.wr = true → pteW pte = true)
          let locked := d.wr = true ∧ (v.ctx d.ctx.toNat).locks d.addr = true
          (¬may → fails 8) ∧
          (may → locked → waits) ∧
          (may → ¬locked → v.tryMemory = done ((v.claimNow d.ctx.toNat (pa / 65536)).debugHome pa))) ∧
        (d.space.toNat = 2 → at_ + n ≤ 2 ^ 39 → v.tryMemory = done (v.debugHome at_)) ∧
        (d.space.toNat = 2 → 2 ^ 39 < at_ + n → fails 8) ∧
        (d.space.toNat = 3 →
          (¬here → fails 4) ∧
          (here → (d.wr = true ∨ (Assoc.getD v.rings (ringOf d.sel) [])[at_ / 32]? = none) → fails 8) ∧
          (here → d.wr = false → ∀ e : Edge, (Assoc.getD v.rings (ringOf d.sel) [])[at_ / 32]? = some e →
            v.tryMemory = done (read
              (leNat (((e.words.flatMap fun (k : DWord) => leBytes k.toNat 8).drop (at_ % 32)).take n)))))) ∧
      (∀ pa,
        (d.wr = false → v.isBad pa n = false → v.debugHome pa = read (v.mem.nat pa n)) ∧
        (d.wr = true → v.partBad pa n = false → v.debugHome pa = v.setHome pa n d.data.toNat 0) ∧
        (d.wr = false → v.isBad pa n = true → v.debugHome pa = v.debugErr 8) ∧
        (d.wr = true → v.partBad pa n = true → v.debugHome pa = v.debugErr 8))) ∧
    (exec .debugErrClear s = .next (s.putBlock { s.debugBlock with err := s.debugBlock.err &&& ~~~ s.arg.mask })) ∧
    (let x := Assoc.getD s.trace (ringOf s.arg.src) {}
     let room := s.traceSize - 65536
     let fits := s.traceSize ≠ 0 ∧ (s.wptr + 2 ^ 64 - s.mem.nat (s.traceBase + 8) 8) % 2 ^ 64 ≤ room - 64
     (x.buf = [] → exec .tracePacketWrite s = .next s) ∧
     (¬fits → exec .tracePacketWrite s = .next s) ∧
     (fits → ∀ p rest, x.buf = p :: rest →
       let v := { s with trace := Assoc.set s.trace (ringOf s.arg.src) { x with buf := rest } }.writeHome
         (s.traceBase + 65536 + s.wptr % room) (p.words.flatMap fun (k : DWord) => leBytes k.toNat 8) (controllerParty s)
       exec .tracePacketWrite s = .next
         ({ v with wptr := (s.wptr + 64) % 2 ^ 64 }.setHome s.traceBase 8 ((s.wptr + 64) % 2 ^ 64) (controllerParty v))) ∧
     exec .lossCountPacket s =
       .next { s with trace := Assoc.set s.trace (ringOf s.arg.src) (x.report s.arg.src s.cycle) }) ∧
    (let die := s.arg.die.toNat
     let pop (v : State) : State := v.setDie die { v.die die with walks := (v.die die).walks.tail }
     ((s.die die).walks = [] → exec .cordonnetWalk s = .next s) ∧
     (∀ k ks, (s.die die).walks = k :: ks →
       let q := s.queue (k.step.toNat / 2 ^ 22)
       let who := partyOf s.cardUsed (die * 256) 4 10
       let access : Access := { ctx := k.ctx, die, write := true, eng := true, party := who, joined := .walk die }
       let due := k.fin + 128 ≤ s.cycle ∧ s.walkBehind k = false
       (¬due → exec .cordonnetWalk s = .next s) ∧
       (due → q.state = .free → exec .cordonnetWalk s = .next (pop s)) ∧
       (due → q.state ≠ .free → ∀ pa pte v, s.translate access q.rpta = (.ok pa pte, v) →
         (k.tl = 0 → exec .cordonnetWalk s = .next (pop (v.writeHome pa (v.reportOf k s.reachable s.arg.remote) who))) ∧
         (k.tl ≠ 0 → ∀ pb qte y, v.translate access k.tl = (.ok pb qte, y) → exec .cordonnetWalk s =
           .next (pop ((y.writeHome pa (y.reportOf k s.reachable s.arg.remote) who).deviceInc pb who)))) ∧
       (due → q.state ≠ .free → ∀ p v, s.translate access q.rpta = (.stall p, v) → exec .cordonnetWalk s = .next v))) ∧
    (∀ card, s.reachable card = true ↔
      (s.portOpen 1 = true ∧ s.arg.reach0.getLsbD card = true) ∨ (s.portOpen 2 = true ∧ s.arg.reach1.getLsbD card = true)) ∧
    (∀ (step : Word) x y e k segs, (reportBytes step x y e k segs).length = 64 + 32 * min segs.length 126) ∧
    (let c := s.arg.ctx.toNat
     let x := s.ctx c
     let k := s.mem.nat (x.pageArea + 8) 8
     let posted := ∃ p ∈ x.posts, p.n = k ∧ p.hostMode = false
     (¬posted → exec .pagerService s = .next s) ∧
     (posted → s.servePage c k = none → exec .pagerService s = .next s) ∧
     (posted → ∀ r v, s.servePage c k = some (r, v) → exec .pagerService s = .next
       ((v.setHome (x.descAt k + 10) 1 r (v.pagerParty c)).setHome (x.pageArea + 8) 8 (k + 1) (v.pagerParty c))) ∧
     (∀ pte leafAt, s.walk x.ptroot.toNat (bitsOf (s.mem.word (x.descAt k)) 0 55) = .absent 2 pte leafAt →
       let back := leafAt / 65536 * 65536 + 0x10000 + leafAt % 65536
       let fit := bitsOf (s.mem.word (x.descAt k + 8)) 2 2 = 2 ∧ fillable pte = true ∧ s.isBad back 8 = false
       (¬fit → s.servePage c k = some (2, s)) ∧
       (fit → (s.port 0).state = .down → s.servePage c k = some (2, s)) ∧
       (fit → ((s.port 0).state = .up ∨ (s.port 0).state = .degraded) → s.servePage c k =
         some (1, s.fillPage c pte leafAt (bitsOf (s.mem.word back) 16 32 * 65536))) ∧
       (fit → ((s.port 0).state = .training ∨ (s.port 0).state = .retrain) → s.servePage c k = none))) ∧
    (let c := s.arg.ctx.toNat
     let x := s.ctx c
     let k := s.arg.k
     ((∀ p ∈ x.posts, p.n ≠ k) → exec .pageFaultServiceObserved s = .next s) ∧
     (s.mem.nat (x.pageArea + 8) 8 ≤ k → exec .pageFaultServiceObserved s = .next s) ∧
     (k < s.mem.nat (x.pageArea + 8) 8 → ∀ p, (x.posts.find? fun p => p.n == k) = some p →
       let left := x.posts.filter fun o => o.n != k
       let fails := if s.mem.byte (x.descAt k + 10) = 1 then [] else (p.joined.filter (s.stillJoined p.vpn)).map fun j => (p.vpn, j)
       let v := s.setCtx c { x with posts := left, failed := x.failed ++ fails }
       let pay (v : State) : State := if .controller ∈ p.joined then v.payStat c (v.ctx c).owed else v
       let record (v : State) (j : Joined) : State := match j with
         | .dispatcher job q => if job = jobRecord then v.flushRecords q (v.queue q).pendingRecords.length else v
         | _ => v
       exec .pageFaultServiceObserved s = .next ((p.joined.foldl record (pay v)).wakeJoined p.vpn p.joined))) ∧
    (let c := s.arg.ctx.toNat
     let x := s.ctx c
     let k := s.mem.nat (x.pageArea + 0x8008) 8
     let a := x.reqAt k
     let target := (s.mem.word (a + 8)).toNat
     let va := s.mem.word a
     let who := controllerParty s
     (x.trusted = false → exec .migrationRequest s = .next s) ∧
     (x.trusted = true → x.lock = none → s.mem.nat (x.pageArea + 0x8000) 8 ≤ k → exec .migrationRequest s = .next s) ∧
     (x.trusted = true → x.lock = none → k < s.mem.nat (x.pageArea + 0x8000) 8 →
       (s.movable c va = none → exec .migrationRequest s = .next (s.endMigration c k 2)) ∧
       (∀ pte leafAt, s.movable c va = some (pte, leafAt) →
         let fit := target % 65536 = 0 ∧ target < 2 ^ 39 ∧ s.mem.nat (a + 17) 15 = 0
         (¬fit → exec .migrationRequest s = .next (s.endMigration c k 2)) ∧
         let own := s.owned c (ptePa pte / 65536) = true
         (fit → ¬own → exec .migrationRequest s = .next (if (Assoc.get? s.zeroing (ptePa pte / 65536)).isSome = true then s
           else { s with zeroing := Assoc.set s.zeroing (ptePa pte / 65536) c })) ∧
         (fit → own → 16 ≤ s.locksOf (Config.homeDie (ptePa pte)) → exec .migrationRequest s = .next s) ∧
         (fit → own → s.locksOf (Config.homeDie (ptePa pte)) < 16 → exec .migrationRequest s =
           .next ((s.setCtx c { x with lock := some ⟨k, vpnOf va, leafAt, pte, target⟩ }).dropPage c (vpnOf va))))) ∧
     (x.trusted = true → ∀ l, x.lock = some l →
       let v := s.fillFrame l.target (s.mem.slice (ptePa l.pte) 65536 l.target) who
       let v := { v with bad := v.bad ++
         ((v.bad.filter fun k => k / 2048 == ptePa l.pte / 65536).map fun k => k % 2048 + l.target / 65536 * 2048) }
       (v.mem.word l.at_ ≠ l.pte →
         exec .migrationRequest s = .next ((v.setCtx c { v.ctx c with lock := none }).endMigration c l.n 3)) ∧
       (v.mem.word l.at_ = l.pte →
         let v := v.setHome l.at_ 8 (movedLeaf l.pte l.target).toNat (controllerParty v)
         let v := (v.setCtx c { v.ctx c with lock := none }).dropPage c l.vpn
         let v := { v with owners := Assoc.set v.owners (l.target / 65536) (.ctx c), zeroing := Assoc.erase v.zeroing (l.target / 65536) }
         exec .migrationRequest s = .next (((v.noteZf (l.target / 65536) (pteZf l.pte)).freeFrame
           (ptePa l.pte / 65536) (pteZf l.pte)).endMigration c l.n 1)))) ∧
    (∀ f old who, s.mem.wf = true → ∀ k, k < 65536 →
      (s.fillFrame (65536 * f) (s.mem.slice old 65536 (65536 * f)) who).mem.byte (65536 * f + k) = s.mem.byte (old + k))

/-! ## Events: engines -/

/-- R165, R194, R196, R199, R200, R203, R204, R207, R214, R216, R218, R228, R236, R238, R249 to R251, R344, R381, R384, R387, the engines
at work. A channel starts the command at its head when nothing older conflicts with it and nothing it touches is to be zeroed;
each beat moves it on, ends it, makes it wait, or makes the channel Faulted; a copy that has read its last byte of the carve has
finished with it. A stream starts when the commands before it have left, pushes what it reads, and stops its queue at its end. Bytes landed are posted to barrier 12 + channel. A free lease goes to the next
candidate; a holder that cannot start for 256 cycles, or has nothing queued, passes it; `mfree` at the head gives it up. The head
of a matrix queue starts, and completes with its effect, after which a task that is to be stopped gives the lease up; the vector
engine moves its oldest command on, one of a task that is to be stopped to the end of its beat. The claims of an ended task
are free when its commands have left. A front-end unit takes the next run and moves it on; a run in the host's hands ends with
status 8 when its timeline is at the threshold, and 7 when its word has an uncorrectable error; the end of a run writes its status
and frees its unit; a run of a context being destroyed ends at its frame with neither status nor increment. -/
def Obligations.EngineEvents : Prop :=
  ∀ (s : State),
    let t := s.arg.task
    let x := s.task t
    let ch := s.arg.ch.toNat
    let h := hoopOf x.core
    (exec .copyCommandComplete s =
      .next (if s.engineFree t = true then s.cpyMoves t ch (if s.arg.beats = 0 then 2 ^ 24 else s.arg.beats) else s)) ∧
    (s.cpyHead t ch = none → exec .copyCommandStart s = .next s ∧ ∀ n, s.cpyMoves t ch n = s) ∧
    (∀ c r, s.cpyHead t ch = some c → c.run = some r → exec .copyCommandStart s = .next s) ∧
    (∀ c n, s.cpyHead t ch = some c → c.run = none → s.cpyMoves t ch n = s) ∧
    (∀ c, s.cpyHead t ch = some c → c.run = none →
      let clear := s.engineFree t = true ∧ s.blocked c.hd = false ∧ s.meetsZeroing c.hd = false ∧ s.cpyZeroing c = false
      let u := if c.hd.started then s else s.startCmd c.hd
      let k : CpyCmd := { c with hd := { c.hd with started := true } }
      (¬clear → exec .copyCommandStart s = .next s) ∧
      (clear → ∀ r v, startRun k u = .ok r v →
        exec .copyCommandStart s = .next ((v.endCmdWait k.hd).putCpy { k with hd := { k.hd with wait := none }, run := some r })) ∧
      (clear → ∀ y p v, startRun k u = .error (.wait y p) v →
        exec .copyCommandStart s = .next ((v.changeCmdWait k.hd y).putCpy { k with hd := k.hd.hold y p v.cycle })) ∧
      (clear → ∀ code a v, startRun k u = .error (.fault code a) v →
        exec .copyCommandStart s = .next (((v.endCmdWait k.hd).putCpy k).faultChannel t ch code a k.id))) ∧
    (s.cpyMoves t ch 0 = s ∧ ∀ c r n, s.cpyHead t ch = some c → c.run = some r →
      let k : CpyCmd := { c with hd := { c.hd with wait := none } }
      (∀ q v, c.beat r s = .ok (q, true) v → s.cpyMoves t ch (n + 1) = (v.endCmdWait c.hd).completeCpy k q.flags) ∧
      (∀ q v, c.beat r s = .ok (q, false) v →
        let off := c.hd.usesCarve && c.allRead q
        let y := (v.endCmdWait c.hd).putCpy { c with hd := { c.hd with wait := none, off := c.hd.off || off }, run := some q }
        s.cpyMoves t ch (n + 1) = (if off = true then
          y.setTask c.hd.task { y.task c.hd.task with carveEnd := y.taskParty c.hd.task 2 } else y).cpyMoves t ch n) ∧
      (∀ y p v, c.beat r s = .error (.wait y p) v →
        s.cpyMoves t ch (n + 1) = (v.changeCmdWait c.hd y).putCpy { c with hd := c.hd.hold y p s.cycle }) ∧
      (∀ code a v, c.beat r s = .error (.fault code a) v →
        s.cpyMoves t ch (n + 1) = (v.endCmdWait c.hd).faultChannel t ch code a c.id)) ∧
    (∀ c, s.cpyHead t ch = some c →
      let waits := (∃ w, c.hd.wait = some w ∧ w.why = .table ch) ∧ (x.chan ch).tables ≠ [] ∧ s.engineFree t = true
      (waits → exec .tableWaitEnd s = .next (s.cpyMoves t ch 1)) ∧ (¬waits → exec .tableWaitEnd s = .next s)) ∧
    (∀ r, (x.chan ch).stream = some r →
      let may := r.started = false ∧ (x.chan ch).cmds = [] ∧ s.engineFree t = true
      (may → exec .streamStart s = .next (s.setTask t (x.setChan ch { x.chan ch with stream := some { r with started := true } }))) ∧
      (¬may → exec .streamStart s = .next s) ∧
      ((r.started = false ∨ s.engineFree t = false) → ∀ n, s.streamMoves t ch n = s) ∧
      (r.started = true → s.engineFree t = true → ∀ n,
        (∀ q v, streamMove t ch r s = .ok (some q) v → s.streamMoves t ch (n + 1) =
          ((v.endCmdWait (streamHead t r)).putStreamRun t ch (some { q with wait := none })).streamMoves t ch n) ∧
        (∀ v, streamMove t ch r s = .ok none v →
          let w := v.putStreamRun t ch none
          s.streamMoves t ch (n + 1) =
            (w.setTask t ((w.task t).setQueueReg r.q { (w.task t).queueReg r.q with bind := .stopped })).dropEnds t
              (streamEndOf r.q)) ∧
        (∀ y p v, streamMove t ch r s = .error (.wait y p) v → s.streamMoves t ch (n + 1) =
          (v.changeCmdWait (streamHead t r) y).putStreamRun t ch
            (some { r with wait := ((streamHead t r).hold y p s.cycle).wait })) ∧
        (∀ code a v, streamMove t ch r s = .error (.fault code a) v →
          s.streamMoves t ch (n + 1) = (v.endCmdWait (streamHead t r)).faultChannel t ch code a 0))) ∧
    ((x.chan ch).stream = none → exec .streamStart s = .next s ∧ ∀ n, s.streamMoves t ch n = s) ∧
    (s.streamMoves t ch 0 = s ∧
      exec .streamEnd s = .next (s.streamMoves t ch (if s.arg.beats = 0 then 2 ^ 24 else s.arg.beats))) ∧
    (let n := (x.chan ch).posts
     let u := s.setTask t (x.setChan ch { x.chan ch with posts := 0 })
     (n = 0 → exec .barrierPost s = .next s) ∧
     (n ≠ 0 → x.group = none → x.life ≠ .ended →
       exec .barrierPost s = .next (u.postBarrier t (12 + ch) n (u.taskParty t 2))) ∧
     (∀ g, n ≠ 0 → x.group = some g → (Assoc.get? s.groups g).isSome = true →
       exec .barrierPost s = .next (u.postBarrier t (12 + ch) n (u.taskParty t 2))) ∧
     (n ≠ 0 → x.group = none → x.life = .ended → exec .barrierPost s = .next u) ∧
     (∀ g, n ≠ 0 → x.group = some g → Assoc.get? s.groups g = none → exec .barrierPost s = .next u)) ∧
    (let k := s.arg.core
     let hp := s.hoop k
     (hp.holder ≠ none → exec .leaseGrant s = .next s) ∧
     (hp.holder = none → ∀ u, nextCandidate hp.last (s.candidates k) = some u → exec .leaseGrant s = .next (s.giveLease k u)) ∧
     (hp.holder = none → nextCandidate hp.last (s.candidates k) = none → exec .leaseGrant s = .next s) ∧
     (hp.holder = none → exec .leaseIdleTimeout s = .next s) ∧
     (∀ u, hp.holder = some u →
       let stuck := s.matHead u = none ∨ ∃ c since, s.matHead u = some c ∧ hp.blocked = some since ∧ c.hd.started = false ∧
         s.matReady c = false ∧ since + 256 ≤ s.cycle
       let due := (s.task u).mat.qopen = false ∧ stuck ∧ s.rivals k u = true
       (due → exec .leaseIdleTimeout s = .next (s.passLease k u .waiting)) ∧
       (¬due → exec .leaseIdleTimeout s = .next s))) ∧
    (∀ c, s.matHead t = some c →
      let u := s.matStartEdge c
      let v := u.setTask t { u.task t with mat := { (u.task t).mat with
        qmul := if c.hd.op = 0xC7 then (u.task t).mat.qmul + 1 else (u.task t).mat.qmul } }
      let k := hoopOf (u.task t).core
      let w := if isLeased c.hd.op then v.setHoop k { v.hoop k with blocked := none } else v
      (s.matReady c = true → exec .matrixCommandStart s = .next (w.putMat { c with hd := { c.hd with started := true } })) ∧
      (s.matReady c = false → exec .matrixCommandStart s = .next s) ∧
      ((c.hd.started = false ∨ s.mayFinish t = false) → exec .matrixCommandComplete s = .next s) ∧
      (c.hd.started = true → s.mayFinish t = true →
        let counts := isLeased c.hd.op = true ∧ x.mat.qopen = false ∧ (s.hoop h).holder = some t
        let y := (s.runMatrix c).1.dropMat c (s.runMatrix c).2
        let z := if (y.hoop h).holder = some t then
            y.setHoop h { y.hoop h with blocked := some y.cycle, grant := (y.hoop h).grant + (if counts then 1 else 0) } else y
        exec .matrixCommandComplete s = .next
          (if (z.task t).life = .stopping then z.stopArray t else (z.settleMarkers t 16).settleLease h)) ∧
      ((c.hd.op ≠ 0xC1 ∨ s.engineFree t = false) → exec .mfreeAtHead s = .next s) ∧
      (c.hd.op = 0xC1 → s.engineFree t = true → x.mat.rpend = false → ((s.hoop h).holder ≠ some t ∨ s.rivals h t = false) →
        exec .mfreeAtHead s = .next (((s.dropMat c 0).settleMarkers t 16).settleLease h)) ∧
      (c.hd.op = 0xC1 → s.engineFree t = true → x.mat.rpend = false → (s.hoop h).holder = some t → s.rivals h t = true →
        exec .mfreeAtHead s = .next ((((s.passLease h t .waiting).dropMat c 0).settleMarkers t 16).settleLease h)) ∧
      (c.hd.op = 0xC1 → s.engineFree t = true → x.mat.rpend = true → exec .mfreeAtHead s = .next
        (((((s.setTask t { x with mat := { x.mat with rpend := false } }).passLease h t .none).dropMat c 0).settleMarkers t
          16).settleLease h))) ∧
    (s.matHead t = none → ∀ i ∈ ([.matrixCommandStart, .matrixCommandComplete, .mfreeAtHead] : List Instr), exec i s = .next s) ∧
    ((Assoc.get? s.tasks t).isSome = true →
      let free := x.life = .ended ∧ s.matCmds t = [] ∧ x.cpyHeads = []
      (free → exec .claimReleaseAtExit s =
        .next (s.setTask t { x with mat := { x.mat with smap := [], amap := [], slots := [], accs := [] } })) ∧
      (¬free → exec .claimReleaseAtExit s = .next s)) ∧
    (let core := s.arg.core
     ∀ c, (s.core core).vq.find? s.vecFree = some c →
       let shut := c.run = none ∧ (s.blocked c.hd = true ∨ s.meetsZeroing c.hd = true ∨ s.spanZeroing c = true)
       let u := if c.run.isNone then s.startCmd c.hd else s
       let e := u.vecMoves { c with hd := { c.hd with started := true } } (c.run.getD (s.startVec c))
         (if s.arg.beats = 0 then c.fuel else s.arg.beats)
       (shut → exec .vectorCommandComplete s = .next s) ∧
       (¬shut → e.2.2 = some .done → exec .vectorCommandComplete s = .next (e.1.endVec core e.2.1 none)) ∧
       (∀ cause v, ¬shut → e.2.2 = some (.trap cause v) →
         exec .vectorCommandComplete s = .next (e.1.endVec core e.2.1 (some (cause, v)))) ∧
       (¬shut → (e.2.2 = none ∨ ∃ y p, e.2.2 = some (.wait y p)) →
         exec .vectorCommandComplete s = .next ((e.1.leaveCarve e.2.1).putVec core e.2.1.leave))) ∧
    (∀ c : VecCmd,
      let y := s.task c.hd.task
      (s.vecFree c = true ↔
        s.engineFree c.hd.task = true ∨ (y.life = .stopping ∧ y.frozenBy = none ∧ c.atBeat = false)) ∧
      (c.run.any VecRun.fin = false → s.leaveCarve c = s ∧ c.leave = c) ∧
      (c.run.any VecRun.fin = true → c.leave = { c with hd := { c.hd with off := true } } ∧
        (c.hd.usesCarve = true → s.leaveCarve c = s.setTask c.hd.task { y with carveEnd := s.taskParty c.hd.task 1 }) ∧
        (c.hd.usesCarve = false → s.leaveCarve c = s))) ∧
    ((∀ c ∈ (s.core s.arg.core).vq, s.vecFree c = false) → exec .vectorCommandComplete s = .next s) ∧
    (let d := s.arg.die.toNat
     let n := if s.arg.beats = 0 then 2 ^ 24 else s.arg.beats
     ∀ e ∈ ([(0, s.arg.eng.toNat, .decodeRun), (1, s.arg.eng.toNat, .encodeRun), (2, s.arg.eng.toNat, .flowRun),
         (3, 0, .changeMaskRun)] : List (Nat × Nat × Instr)),
       (engines e.1 ≤ e.2.1 → exec e.2.2 s = .next s) ∧
       (e.2.1 < engines e.1 →
         (s.activeRun d e.1 e.2.1 = none → s.nextRunOf d e.1 = none → exec e.2.2 s = .next s) ∧
         (∀ r, s.activeRun d e.1 e.2.1 = none → s.nextRunOf d e.1 = some r →
           exec e.2.2 s = .next ((s.takeRun d e.1 e.2.1 r).runMoves d e.1 e.2.1 n)) ∧
         (∀ r, s.activeRun d e.1 e.2.1 = some r →
           let rests := r.isDone = true ∨ (r.hostMode = true ∧ r.desc ≠ []) ∨
             ((s.ctx r.ctx).state = .destroying ∧ r.atFrame = true)
           exec e.2.2 s = .next (s.runMoves d e.1 e.2.1 n) ∧
           s.runMoves d e.1 e.2.1 0 = s ∧
           (rests → ∀ m, s.runMoves d e.1 e.2.1 m = s) ∧
           (¬rests → ∀ m,
             (∀ q v, runMove d e.2.1 r s = .ok q v → s.runMoves d e.1 e.2.1 (m + 1) =
               ((v.endRunWait d e.2.1 r).putRun d e.1 e.2.1 { q with wait := none }).runMoves d e.1 e.2.1 m) ∧
             (∀ y p v, runMove d e.2.1 r s = .error (.wait y p) v → s.runMoves d e.1 e.2.1 (m + 1) =
               v.putRun d e.1 e.2.1 { r with wait := (r.head.hold y p s.cycle).wait }) ∧
             (∀ code a v, runMove d e.2.1 r s = .error (.fault code a) v → s.runMoves d e.1 e.2.1 (m + 1) =
               (v.endRunWait d e.2.1 r).putRun d e.1 e.2.1
                 { r with wait := none, pend := [], res := [], st := some (runCode code) }))))) ∧
    (let d := s.arg.die.toNat
     let k := (unitOfFront s.arg.front).1
     let e := (unitOfFront s.arg.front).2
     let free (r : Run) (v : State) : State :=
       let w := v.endRunWait d e r
       (w.setDie d { w.die d with active := Assoc.erase (w.die d).active (k * 8 + e) }).noteRunFree d k
         (w.unitParty d k e)
     (s.activeRun d k e = none → exec .hostAssistedRunRelease s = .next s ∧ exec .runEnd s = .next s) ∧
     (∀ r, s.activeRun d k e = some r →
       let dying := (s.ctx r.ctx).state = .destroying
       let held := r.hostMode = true ∧ r.desc ≠ [] ∧ r.st = none ∧ ¬dying
       (¬held → exec .hostAssistedRunRelease s = .next s) ∧
       (held →
         let found := copyPage (s.runAccess d k e r.ctx false) (r.desc.getD (hostWord k) 0) s
         (∀ pa v, found = .ok (.home pa) v →
           let ends (n : Nat) : State := (v.endRunWait d e r).putRun d k e { r with wait := none, st := some n }
           (v.isBad pa 8 = true → exec .hostAssistedRunRelease s = .next (ends 7)) ∧
           (v.isBad pa 8 = false → (r.desc.getD (hostWord k + 1) 0).toNat ≤ v.mem.nat pa 8 →
             exec .hostAssistedRunRelease s = .next (ends 8)) ∧
           (v.isBad pa 8 = false → v.mem.nat pa 8 < (r.desc.getD (hostWord k + 1) 0).toNat →
             exec .hostAssistedRunRelease s = .next v)) ∧
         (∀ y p v, found = .error (.wait y p) v → exec .hostAssistedRunRelease s =
           .next (v.putRun d k e { r with wait := (r.head.hold y p s.cycle).wait })) ∧
         (∀ code a v, found = .error (.fault code a) v → exec .hostAssistedRunRelease s =
           .next (v.putRun d k e { r with wait := none, st := some (runCode code) }))) ∧
       (dying → r.atFrame = true → exec .runEnd s = .next (free r s)) ∧
       (dying → r.atFrame = false → exec .runEnd s = .next s) ∧
       (¬dying → r.isDone = false → exec .runEnd s = .next s) ∧
       (¬dying → r.isDone = true →
         let done := finishRun (s.runAccess d k e r.ctx true) r s
         (∀ v, done = .ok () v → exec .runEnd s = .next (free r v)) ∧
         (∀ y p v, done = .error (.wait y p) v → exec .runEnd s =
           .next (v.putRun d k e { r with wait := (r.head.hold y p s.cycle).wait })) ∧
         (∀ code va v, done = .error (.fault code va) v →
           let v := v.endRunWait d e r
           let here := r.mute = false ∧ va &&& 0xFFFFFFFFFFFF0000 = r.addr &&& 0xFFFFFFFFFFFF0000
           (here → exec .runEnd s = .next (v.putRun d k e { r with wait := none, mute := true })) ∧
           (¬here → exec .runEnd s = .next (v.putRun d k e
             { r with wait := none, st := some (runCode code), desc := r.desc.set (doneWord k) 0 }))))))
end

