-- ==== Sys2Proof/Laws/Assoc.lean ====
section
/-! SUPPORT. Laws of files of numbered things. -/

namespace Sys2Proof.Machine

@[simp] theorem Assoc.get?_set {α : Type} (m : Assoc α) (k : Nat) (v : α) : Assoc.get? (Assoc.set m k v) k = some v := by
  induction m with
  | nil => simp [Assoc.set, Assoc.get?]
  | cons e t ih =>
    obtain ⟨j, w⟩ := e
    simp only [Assoc.set]
    split
    · simp [Assoc.get?]
    · split
      · simp [Assoc.get?]
      · simp [Assoc.get?, *]

theorem Assoc.get?_set_ne {α : Type} (m : Assoc α) {k j : Nat} (v : α) (h : j ≠ k) :
    Assoc.get? (Assoc.set m k v) j = Assoc.get? m j := by
  induction m with
  | nil => simp [Assoc.set, Assoc.get?, Ne.symm h]
  | cons e t ih =>
    obtain ⟨i, w⟩ := e
    simp only [Assoc.set]
    split
    · simp [Assoc.get?, Ne.symm h]
    · split
      · next hik => subst hik; simp [Assoc.get?, Ne.symm h]
      · simp [Assoc.get?, ih]

@[simp] theorem Assoc.getD_set {α : Type} (m : Assoc α) (k : Nat) (v d : α) : Assoc.getD (Assoc.set m k v) k d = v := by
  simp [Assoc.getD]

@[simp] theorem Assoc.getD_set_ne {α : Type} (m : Assoc α) {k j : Nat} (v d : α) (h : j ≠ k) :
    Assoc.getD (Assoc.set m k v) j d = Assoc.getD m j d := by
  simp [Assoc.getD, Assoc.get?_set_ne m v h]

@[simp] theorem Assoc.set_set {α : Type} (m : Assoc α) (k : Nat) (v w : α) :
    Assoc.set (Assoc.set m k v) k w = Assoc.set m k w := by
  induction m with
  | nil => simp [Assoc.set]
  | cons e t ih =>
    obtain ⟨j, x⟩ := e
    simp only [Assoc.set]
    split
    · simp [Assoc.set]
    · split
      · next h => subst h; simp [Assoc.set]
      · simp [Assoc.set, *]

@[simp] theorem Assoc.getD_nil {α : Type} (k : Nat) (d : α) : Assoc.getD ([] : Assoc α) k d = d := rfl

end Sys2Proof.Machine
end

