-- ==== Sys2Proof/Laws/State.lean ====
section
/-! SUPPORT. What each update of a part of the state leaves: one lemma per field per update, and what reading a part after
an update gives. -/

namespace Sys2Proof.Machine

/-! ## setTask -/

@[simp] theorem State.setTask_cores (s : State) (t : Nat) (x : Task) : (s.setTask t x).cores = s.cores := rfl
@[simp] theorem State.setTask_hoops (s : State) (t : Nat) (x : Task) : (s.setTask t x).hoops = s.hoops := rfl
@[simp] theorem State.setTask_dies (s : State) (t : Nat) (x : Task) : (s.setTask t x).dies = s.dies := rfl
@[simp] theorem State.setTask_groups (s : State) (t : Nat) (x : Task) : (s.setTask t x).groups = s.groups := rfl
@[simp] theorem State.setTask_launches (s : State) (t : Nat) (x : Task) : (s.setTask t x).launches = s.launches := rfl
@[simp] theorem State.setTask_contexts (s : State) (t : Nat) (x : Task) : (s.setTask t x).contexts = s.contexts := rfl
@[simp] theorem State.setTask_queues (s : State) (t : Nat) (x : Task) : (s.setTask t x).queues = s.queues := rfl
@[simp] theorem State.setTask_nextLaunch (s : State) (t : Nat) (x : Task) : (s.setTask t x).nextLaunch = s.nextLaunch := rfl
@[simp] theorem State.setTask_nextGroup (s : State) (t : Nat) (x : Task) : (s.setTask t x).nextGroup = s.nextGroup := rfl
@[simp] theorem State.setTask_nextZombie (s : State) (t : Nat) (x : Task) : (s.setTask t x).nextZombie = s.nextZombie := rfl
@[simp] theorem State.setTask_nextLoad (s : State) (t : Nat) (x : Task) : (s.setTask t x).nextLoad = s.nextLoad := rfl
@[simp] theorem State.setTask_nextReq (s : State) (t : Nat) (x : Task) : (s.setTask t x).nextReq = s.nextReq := rfl
@[simp] theorem State.setTask_nextDecl (s : State) (t : Nat) (x : Task) : (s.setTask t x).nextDecl = s.nextDecl := rfl
@[simp] theorem State.setTask_nextCmd (s : State) (t : Nat) (x : Task) : (s.setTask t x).nextCmd = s.nextCmd := rfl
@[simp] theorem State.setTask_nextRun (s : State) (t : Nat) (x : Task) : (s.setTask t x).nextRun = s.nextRun := rfl
@[simp] theorem State.setTask_served (s : State) (t : Nat) (x : Task) : (s.setTask t x).served = s.served := rfl
@[simp] theorem State.setTask_mem (s : State) (t : Nat) (x : Task) : (s.setTask t x).mem = s.mem := rfl
@[simp] theorem State.setTask_host (s : State) (t : Nat) (x : Task) : (s.setTask t x).host = s.host := rfl
@[simp] theorem State.setTask_bad (s : State) (t : Nat) (x : Task) : (s.setTask t x).bad = s.bad := rfl
@[simp] theorem State.setTask_owners (s : State) (t : Nat) (x : Task) : (s.setTask t x).owners = s.owners := rfl
@[simp] theorem State.setTask_zeroing (s : State) (t : Nat) (x : Task) : (s.setTask t x).zeroing = s.zeroing := rfl
@[simp] theorem State.setTask_zfs (s : State) (t : Nat) (x : Task) : (s.setTask t x).zfs = s.zfs := rfl
@[simp] theorem State.setTask_cycle (s : State) (t : Nat) (x : Task) : (s.setTask t x).cycle = s.cycle := rfl
@[simp] theorem State.setTask_ports (s : State) (t : Nat) (x : Task) : (s.setTask t x).ports = s.ports := rfl
@[simp] theorem State.setTask_reqs (s : State) (t : Nat) (x : Task) : (s.setTask t x).reqs = s.reqs := rfl
@[simp] theorem State.setTask_sent (s : State) (t : Nat) (x : Task) : (s.setTask t x).sent = s.sent := rfl
@[simp] theorem State.setTask_answer (s : State) (t : Nat) (x : Task) : (s.setTask t x).answer = s.answer := rfl
@[simp] theorem State.setTask_cardno (s : State) (t : Nat) (x : Task) : (s.setTask t x).cardno = s.cardno := rfl
@[simp] theorem State.setTask_cnv (s : State) (t : Nat) (x : Task) : (s.setTask t x).cnv = s.cnv := rfl
@[simp] theorem State.setTask_cardUsed (s : State) (t : Nat) (x : Task) : (s.setTask t x).cardUsed = s.cardUsed := rfl
@[simp] theorem State.setTask_sync (s : State) (t : Nat) (x : Task) : (s.setTask t x).sync = s.sync := rfl
@[simp] theorem State.setTask_timed (s : State) (t : Nat) (x : Task) : (s.setTask t x).timed = s.timed := rfl
@[simp] theorem State.setTask_slewAt (s : State) (t : Nat) (x : Task) : (s.setTask t x).slewAt = s.slewAt := rfl
@[simp] theorem State.setTask_lag (s : State) (t : Nat) (x : Task) : (s.setTask t x).lag = s.lag := rfl
@[simp] theorem State.setTask_ctxtab (s : State) (t : Nat) (x : Task) : (s.setTask t x).ctxtab = s.ctxtab := rfl
@[simp] theorem State.setTask_qtab (s : State) (t : Nat) (x : Task) : (s.setTask t x).qtab = s.qtab := rfl
@[simp] theorem State.setTask_mgmttl (s : State) (t : Nat) (x : Task) : (s.setTask t x).mgmttl = s.mgmttl := rfl
@[simp] theorem State.setTask_mgmtServed (s : State) (t : Nat) (x : Task) : (s.setTask t x).mgmtServed = s.mgmtServed := rfl
@[simp] theorem State.setTask_tmig (s : State) (t : Nat) (x : Task) : (s.setTask t x).tmig = s.tmig := rfl
@[simp] theorem State.setTask_tclamp (s : State) (t : Nat) (x : Task) : (s.setTask t x).tclamp = s.tclamp := rfl
@[simp] theorem State.setTask_thermalHost (s : State) (t : Nat) (x : Task) : (s.setTask t x).thermalHost = s.thermalHost := rfl
@[simp] theorem State.setTask_stagingHost (s : State) (t : Nat) (x : Task) : (s.setTask t x).stagingHost = s.stagingHost := rfl
@[simp] theorem State.setTask_stagingNext (s : State) (t : Nat) (x : Task) : (s.setTask t x).stagingNext = s.stagingNext := rfl
@[simp] theorem State.setTask_sampled (s : State) (t : Nat) (x : Task) : (s.setTask t x).sampled = s.sampled := rfl
@[simp] theorem State.setTask_traceBase (s : State) (t : Nat) (x : Task) : (s.setTask t x).traceBase = s.traceBase := rfl
@[simp] theorem State.setTask_traceSize (s : State) (t : Nat) (x : Task) : (s.setTask t x).traceSize = s.traceSize := rfl
@[simp] theorem State.setTask_traceMask (s : State) (t : Nat) (x : Task) : (s.setTask t x).traceMask = s.traceMask := rfl
@[simp] theorem State.setTask_wptr (s : State) (t : Nat) (x : Task) : (s.setTask t x).wptr = s.wptr := rfl
@[simp] theorem State.setTask_trace (s : State) (t : Nat) (x : Task) : (s.setTask t x).trace = s.trace := rfl
@[simp] theorem State.setTask_fw (s : State) (t : Nat) (x : Task) : (s.setTask t x).fw = s.fw := rfl
@[simp] theorem State.setTask_recovery (s : State) (t : Nat) (x : Task) : (s.setTask t x).recovery = s.recovery := rfl
@[simp] theorem State.setTask_nonce (s : State) (t : Nat) (x : Task) : (s.setTask t x).nonce = s.nonce := rfl
@[simp] theorem State.setTask_powered (s : State) (t : Nat) (x : Task) : (s.setTask t x).powered = s.powered := rfl
@[simp] theorem State.setTask_booted (s : State) (t : Nat) (x : Task) : (s.setTask t x).booted = s.booted := rfl
@[simp] theorem State.setTask_corr (s : State) (t : Nat) (x : Task) : (s.setTask t x).corr = s.corr := rfl
@[simp] theorem State.setTask_recal (s : State) (t : Nat) (x : Task) : (s.setTask t x).recal = s.recal := rfl
@[simp] theorem State.setTask_rings (s : State) (t : Nat) (x : Task) : (s.setTask t x).rings = s.rings := rfl
@[simp] theorem State.setTask_turns (s : State) (t : Nat) (x : Task) : (s.setTask t x).turns = s.turns := rfl
@[simp] theorem State.setTask_cur (s : State) (t : Nat) (x : Task) : (s.setTask t x).cur = s.cur := rfl
@[simp] theorem State.setTask_arg (s : State) (t : Nat) (x : Task) : (s.setTask t x).arg = s.arg := rfl
@[simp] theorem State.setTask_defer (s : State) (t : Nat) (x : Task) : (s.setTask t x).defer = s.defer := rfl
@[simp] theorem State.setTask_late (s : State) (t : Nat) (x : Task) : (s.setTask t x).late = s.late := rfl
@[simp] theorem State.setTask_free (s : State) (t : Nat) (x : Task) : (s.setTask t x).free = s.free := rfl

/-! ## setCore -/

@[simp] theorem State.setCore_tasks (s : State) (c : Nat) (x : Core) : (s.setCore c x).tasks = s.tasks := rfl
@[simp] theorem State.setCore_hoops (s : State) (c : Nat) (x : Core) : (s.setCore c x).hoops = s.hoops := rfl
@[simp] theorem State.setCore_dies (s : State) (c : Nat) (x : Core) : (s.setCore c x).dies = s.dies := rfl
@[simp] theorem State.setCore_groups (s : State) (c : Nat) (x : Core) : (s.setCore c x).groups = s.groups := rfl
@[simp] theorem State.setCore_launches (s : State) (c : Nat) (x : Core) : (s.setCore c x).launches = s.launches := rfl
@[simp] theorem State.setCore_contexts (s : State) (c : Nat) (x : Core) : (s.setCore c x).contexts = s.contexts := rfl
@[simp] theorem State.setCore_queues (s : State) (c : Nat) (x : Core) : (s.setCore c x).queues = s.queues := rfl
@[simp] theorem State.setCore_nextLaunch (s : State) (c : Nat) (x : Core) : (s.setCore c x).nextLaunch = s.nextLaunch := rfl
@[simp] theorem State.setCore_nextGroup (s : State) (c : Nat) (x : Core) : (s.setCore c x).nextGroup = s.nextGroup := rfl
@[simp] theorem State.setCore_nextZombie (s : State) (c : Nat) (x : Core) : (s.setCore c x).nextZombie = s.nextZombie := rfl
@[simp] theorem State.setCore_nextLoad (s : State) (c : Nat) (x : Core) : (s.setCore c x).nextLoad = s.nextLoad := rfl
@[simp] theorem State.setCore_nextReq (s : State) (c : Nat) (x : Core) : (s.setCore c x).nextReq = s.nextReq := rfl
@[simp] theorem State.setCore_nextDecl (s : State) (c : Nat) (x : Core) : (s.setCore c x).nextDecl = s.nextDecl := rfl
@[simp] theorem State.setCore_nextCmd (s : State) (c : Nat) (x : Core) : (s.setCore c x).nextCmd = s.nextCmd := rfl
@[simp] theorem State.setCore_nextRun (s : State) (c : Nat) (x : Core) : (s.setCore c x).nextRun = s.nextRun := rfl
@[simp] theorem State.setCore_served (s : State) (c : Nat) (x : Core) : (s.setCore c x).served = s.served := rfl
@[simp] theorem State.setCore_mem (s : State) (c : Nat) (x : Core) : (s.setCore c x).mem = s.mem := rfl
@[simp] theorem State.setCore_host (s : State) (c : Nat) (x : Core) : (s.setCore c x).host = s.host := rfl
@[simp] theorem State.setCore_bad (s : State) (c : Nat) (x : Core) : (s.setCore c x).bad = s.bad := rfl
@[simp] theorem State.setCore_owners (s : State) (c : Nat) (x : Core) : (s.setCore c x).owners = s.owners := rfl
@[simp] theorem State.setCore_zeroing (s : State) (c : Nat) (x : Core) : (s.setCore c x).zeroing = s.zeroing := rfl
@[simp] theorem State.setCore_zfs (s : State) (c : Nat) (x : Core) : (s.setCore c x).zfs = s.zfs := rfl
@[simp] theorem State.setCore_cycle (s : State) (c : Nat) (x : Core) : (s.setCore c x).cycle = s.cycle := rfl
@[simp] theorem State.setCore_ports (s : State) (c : Nat) (x : Core) : (s.setCore c x).ports = s.ports := rfl
@[simp] theorem State.setCore_reqs (s : State) (c : Nat) (x : Core) : (s.setCore c x).reqs = s.reqs := rfl
@[simp] theorem State.setCore_sent (s : State) (c : Nat) (x : Core) : (s.setCore c x).sent = s.sent := rfl
@[simp] theorem State.setCore_answer (s : State) (c : Nat) (x : Core) : (s.setCore c x).answer = s.answer := rfl
@[simp] theorem State.setCore_cardno (s : State) (c : Nat) (x : Core) : (s.setCore c x).cardno = s.cardno := rfl
@[simp] theorem State.setCore_cnv (s : State) (c : Nat) (x : Core) : (s.setCore c x).cnv = s.cnv := rfl
@[simp] theorem State.setCore_cardUsed (s : State) (c : Nat) (x : Core) : (s.setCore c x).cardUsed = s.cardUsed := rfl
@[simp] theorem State.setCore_sync (s : State) (c : Nat) (x : Core) : (s.setCore c x).sync = s.sync := rfl
@[simp] theorem State.setCore_timed (s : State) (c : Nat) (x : Core) : (s.setCore c x).timed = s.timed := rfl
@[simp] theorem State.setCore_slewAt (s : State) (c : Nat) (x : Core) : (s.setCore c x).slewAt = s.slewAt := rfl
@[simp] theorem State.setCore_lag (s : State) (c : Nat) (x : Core) : (s.setCore c x).lag = s.lag := rfl
@[simp] theorem State.setCore_ctxtab (s : State) (c : Nat) (x : Core) : (s.setCore c x).ctxtab = s.ctxtab := rfl
@[simp] theorem State.setCore_qtab (s : State) (c : Nat) (x : Core) : (s.setCore c x).qtab = s.qtab := rfl
@[simp] theorem State.setCore_mgmttl (s : State) (c : Nat) (x : Core) : (s.setCore c x).mgmttl = s.mgmttl := rfl
@[simp] theorem State.setCore_mgmtServed (s : State) (c : Nat) (x : Core) : (s.setCore c x).mgmtServed = s.mgmtServed := rfl
@[simp] theorem State.setCore_tmig (s : State) (c : Nat) (x : Core) : (s.setCore c x).tmig = s.tmig := rfl
@[simp] theorem State.setCore_tclamp (s : State) (c : Nat) (x : Core) : (s.setCore c x).tclamp = s.tclamp := rfl
@[simp] theorem State.setCore_thermalHost (s : State) (c : Nat) (x : Core) : (s.setCore c x).thermalHost = s.thermalHost := rfl
@[simp] theorem State.setCore_stagingHost (s : State) (c : Nat) (x : Core) : (s.setCore c x).stagingHost = s.stagingHost := rfl
@[simp] theorem State.setCore_stagingNext (s : State) (c : Nat) (x : Core) : (s.setCore c x).stagingNext = s.stagingNext := rfl
@[simp] theorem State.setCore_sampled (s : State) (c : Nat) (x : Core) : (s.setCore c x).sampled = s.sampled := rfl
@[simp] theorem State.setCore_traceBase (s : State) (c : Nat) (x : Core) : (s.setCore c x).traceBase = s.traceBase := rfl
@[simp] theorem State.setCore_traceSize (s : State) (c : Nat) (x : Core) : (s.setCore c x).traceSize = s.traceSize := rfl
@[simp] theorem State.setCore_traceMask (s : State) (c : Nat) (x : Core) : (s.setCore c x).traceMask = s.traceMask := rfl
@[simp] theorem State.setCore_wptr (s : State) (c : Nat) (x : Core) : (s.setCore c x).wptr = s.wptr := rfl
@[simp] theorem State.setCore_trace (s : State) (c : Nat) (x : Core) : (s.setCore c x).trace = s.trace := rfl
@[simp] theorem State.setCore_fw (s : State) (c : Nat) (x : Core) : (s.setCore c x).fw = s.fw := rfl
@[simp] theorem State.setCore_recovery (s : State) (c : Nat) (x : Core) : (s.setCore c x).recovery = s.recovery := rfl
@[simp] theorem State.setCore_nonce (s : State) (c : Nat) (x : Core) : (s.setCore c x).nonce = s.nonce := rfl
@[simp] theorem State.setCore_powered (s : State) (c : Nat) (x : Core) : (s.setCore c x).powered = s.powered := rfl
@[simp] theorem State.setCore_booted (s : State) (c : Nat) (x : Core) : (s.setCore c x).booted = s.booted := rfl
@[simp] theorem State.setCore_corr (s : State) (c : Nat) (x : Core) : (s.setCore c x).corr = s.corr := rfl
@[simp] theorem State.setCore_recal (s : State) (c : Nat) (x : Core) : (s.setCore c x).recal = s.recal := rfl
@[simp] theorem State.setCore_rings (s : State) (c : Nat) (x : Core) : (s.setCore c x).rings = s.rings := rfl
@[simp] theorem State.setCore_turns (s : State) (c : Nat) (x : Core) : (s.setCore c x).turns = s.turns := rfl
@[simp] theorem State.setCore_cur (s : State) (c : Nat) (x : Core) : (s.setCore c x).cur = s.cur := rfl
@[simp] theorem State.setCore_arg (s : State) (c : Nat) (x : Core) : (s.setCore c x).arg = s.arg := rfl
@[simp] theorem State.setCore_defer (s : State) (c : Nat) (x : Core) : (s.setCore c x).defer = s.defer := rfl
@[simp] theorem State.setCore_late (s : State) (c : Nat) (x : Core) : (s.setCore c x).late = s.late := rfl
@[simp] theorem State.setCore_free (s : State) (c : Nat) (x : Core) : (s.setCore c x).free = s.free := rfl

/-! ## setHoop -/

@[simp] theorem State.setHoop_tasks (s : State) (h : Nat) (x : Hoop) : (s.setHoop h x).tasks = s.tasks := rfl
@[simp] theorem State.setHoop_cores (s : State) (h : Nat) (x : Hoop) : (s.setHoop h x).cores = s.cores := rfl
@[simp] theorem State.setHoop_dies (s : State) (h : Nat) (x : Hoop) : (s.setHoop h x).dies = s.dies := rfl
@[simp] theorem State.setHoop_groups (s : State) (h : Nat) (x : Hoop) : (s.setHoop h x).groups = s.groups := rfl
@[simp] theorem State.setHoop_launches (s : State) (h : Nat) (x : Hoop) : (s.setHoop h x).launches = s.launches := rfl
@[simp] theorem State.setHoop_contexts (s : State) (h : Nat) (x : Hoop) : (s.setHoop h x).contexts = s.contexts := rfl
@[simp] theorem State.setHoop_queues (s : State) (h : Nat) (x : Hoop) : (s.setHoop h x).queues = s.queues := rfl
@[simp] theorem State.setHoop_nextLaunch (s : State) (h : Nat) (x : Hoop) : (s.setHoop h x).nextLaunch = s.nextLaunch := rfl
@[simp] theorem State.setHoop_nextGroup (s : State) (h : Nat) (x : Hoop) : (s.setHoop h x).nextGroup = s.nextGroup := rfl
@[simp] theorem State.setHoop_nextZombie (s : State) (h : Nat) (x : Hoop) : (s.setHoop h x).nextZombie = s.nextZombie := rfl
@[simp] theorem State.setHoop_nextLoad (s : State) (h : Nat) (x : Hoop) : (s.setHoop h x).nextLoad = s.nextLoad := rfl
@[simp] theorem State.setHoop_nextReq (s : State) (h : Nat) (x : Hoop) : (s.setHoop h x).nextReq = s.nextReq := rfl
@[simp] theorem State.setHoop_nextDecl (s : State) (h : Nat) (x : Hoop) : (s.setHoop h x).nextDecl = s.nextDecl := rfl
@[simp] theorem State.setHoop_nextCmd (s : State) (h : Nat) (x : Hoop) : (s.setHoop h x).nextCmd = s.nextCmd := rfl
@[simp] theorem State.setHoop_nextRun (s : State) (h : Nat) (x : Hoop) : (s.setHoop h x).nextRun = s.nextRun := rfl
@[simp] theorem State.setHoop_served (s : State) (h : Nat) (x : Hoop) : (s.setHoop h x).served = s.served := rfl
@[simp] theorem State.setHoop_mem (s : State) (h : Nat) (x : Hoop) : (s.setHoop h x).mem = s.mem := rfl
@[simp] theorem State.setHoop_host (s : State) (h : Nat) (x : Hoop) : (s.setHoop h x).host = s.host := rfl
@[simp] theorem State.setHoop_bad (s : State) (h : Nat) (x : Hoop) : (s.setHoop h x).bad = s.bad := rfl
@[simp] theorem State.setHoop_owners (s : State) (h : Nat) (x : Hoop) : (s.setHoop h x).owners = s.owners := rfl
@[simp] theorem State.setHoop_zeroing (s : State) (h : Nat) (x : Hoop) : (s.setHoop h x).zeroing = s.zeroing := rfl
@[simp] theorem State.setHoop_zfs (s : State) (h : Nat) (x : Hoop) : (s.setHoop h x).zfs = s.zfs := rfl
@[simp] theorem State.setHoop_cycle (s : State) (h : Nat) (x : Hoop) : (s.setHoop h x).cycle = s.cycle := rfl
@[simp] theorem State.setHoop_ports (s : State) (h : Nat) (x : Hoop) : (s.setHoop h x).ports = s.ports := rfl
@[simp] theorem State.setHoop_reqs (s : State) (h : Nat) (x : Hoop) : (s.setHoop h x).reqs = s.reqs := rfl
@[simp] theorem State.setHoop_sent (s : State) (h : Nat) (x : Hoop) : (s.setHoop h x).sent = s.sent := rfl
@[simp] theorem State.setHoop_answer (s : State) (h : Nat) (x : Hoop) : (s.setHoop h x).answer = s.answer := rfl
@[simp] theorem State.setHoop_cardno (s : State) (h : Nat) (x : Hoop) : (s.setHoop h x).cardno = s.cardno := rfl
@[simp] theorem State.setHoop_cnv (s : State) (h : Nat) (x : Hoop) : (s.setHoop h x).cnv = s.cnv := rfl
@[simp] theorem State.setHoop_cardUsed (s : State) (h : Nat) (x : Hoop) : (s.setHoop h x).cardUsed = s.cardUsed := rfl
@[simp] theorem State.setHoop_sync (s : State) (h : Nat) (x : Hoop) : (s.setHoop h x).sync = s.sync := rfl
@[simp] theorem State.setHoop_timed (s : State) (h : Nat) (x : Hoop) : (s.setHoop h x).timed = s.timed := rfl
@[simp] theorem State.setHoop_slewAt (s : State) (h : Nat) (x : Hoop) : (s.setHoop h x).slewAt = s.slewAt := rfl
@[simp] theorem State.setHoop_lag (s : State) (h : Nat) (x : Hoop) : (s.setHoop h x).lag = s.lag := rfl
@[simp] theorem State.setHoop_ctxtab (s : State) (h : Nat) (x : Hoop) : (s.setHoop h x).ctxtab = s.ctxtab := rfl
@[simp] theorem State.setHoop_qtab (s : State) (h : Nat) (x : Hoop) : (s.setHoop h x).qtab = s.qtab := rfl
@[simp] theorem State.setHoop_mgmttl (s : State) (h : Nat) (x : Hoop) : (s.setHoop h x).mgmttl = s.mgmttl := rfl
@[simp] theorem State.setHoop_mgmtServed (s : State) (h : Nat) (x : Hoop) : (s.setHoop h x).mgmtServed = s.mgmtServed := rfl
@[simp] theorem State.setHoop_tmig (s : State) (h : Nat) (x : Hoop) : (s.setHoop h x).tmig = s.tmig := rfl
@[simp] theorem State.setHoop_tclamp (s : State) (h : Nat) (x : Hoop) : (s.setHoop h x).tclamp = s.tclamp := rfl
@[simp] theorem State.setHoop_thermalHost (s : State) (h : Nat) (x : Hoop) : (s.setHoop h x).thermalHost = s.thermalHost := rfl
@[simp] theorem State.setHoop_stagingHost (s : State) (h : Nat) (x : Hoop) : (s.setHoop h x).stagingHost = s.stagingHost := rfl
@[simp] theorem State.setHoop_stagingNext (s : State) (h : Nat) (x : Hoop) : (s.setHoop h x).stagingNext = s.stagingNext := rfl
@[simp] theorem State.setHoop_sampled (s : State) (h : Nat) (x : Hoop) : (s.setHoop h x).sampled = s.sampled := rfl
@[simp] theorem State.setHoop_traceBase (s : State) (h : Nat) (x : Hoop) : (s.setHoop h x).traceBase = s.traceBase := rfl
@[simp] theorem State.setHoop_traceSize (s : State) (h : Nat) (x : Hoop) : (s.setHoop h x).traceSize = s.traceSize := rfl
@[simp] theorem State.setHoop_traceMask (s : State) (h : Nat) (x : Hoop) : (s.setHoop h x).traceMask = s.traceMask := rfl
@[simp] theorem State.setHoop_wptr (s : State) (h : Nat) (x : Hoop) : (s.setHoop h x).wptr = s.wptr := rfl
@[simp] theorem State.setHoop_trace (s : State) (h : Nat) (x : Hoop) : (s.setHoop h x).trace = s.trace := rfl
@[simp] theorem State.setHoop_fw (s : State) (h : Nat) (x : Hoop) : (s.setHoop h x).fw = s.fw := rfl
@[simp] theorem State.setHoop_recovery (s : State) (h : Nat) (x : Hoop) : (s.setHoop h x).recovery = s.recovery := rfl
@[simp] theorem State.setHoop_nonce (s : State) (h : Nat) (x : Hoop) : (s.setHoop h x).nonce = s.nonce := rfl
@[simp] theorem State.setHoop_powered (s : State) (h : Nat) (x : Hoop) : (s.setHoop h x).powered = s.powered := rfl
@[simp] theorem State.setHoop_booted (s : State) (h : Nat) (x : Hoop) : (s.setHoop h x).booted = s.booted := rfl
@[simp] theorem State.setHoop_corr (s : State) (h : Nat) (x : Hoop) : (s.setHoop h x).corr = s.corr := rfl
@[simp] theorem State.setHoop_recal (s : State) (h : Nat) (x : Hoop) : (s.setHoop h x).recal = s.recal := rfl
@[simp] theorem State.setHoop_rings (s : State) (h : Nat) (x : Hoop) : (s.setHoop h x).rings = s.rings := rfl
@[simp] theorem State.setHoop_turns (s : State) (h : Nat) (x : Hoop) : (s.setHoop h x).turns = s.turns := rfl
@[simp] theorem State.setHoop_cur (s : State) (h : Nat) (x : Hoop) : (s.setHoop h x).cur = s.cur := rfl
@[simp] theorem State.setHoop_arg (s : State) (h : Nat) (x : Hoop) : (s.setHoop h x).arg = s.arg := rfl
@[simp] theorem State.setHoop_defer (s : State) (h : Nat) (x : Hoop) : (s.setHoop h x).defer = s.defer := rfl
@[simp] theorem State.setHoop_late (s : State) (h : Nat) (x : Hoop) : (s.setHoop h x).late = s.late := rfl
@[simp] theorem State.setHoop_free (s : State) (h : Nat) (x : Hoop) : (s.setHoop h x).free = s.free := rfl

/-! ## setDie -/

@[simp] theorem State.setDie_tasks (s : State) (d : Nat) (x : Die) : (s.setDie d x).tasks = s.tasks := rfl
@[simp] theorem State.setDie_cores (s : State) (d : Nat) (x : Die) : (s.setDie d x).cores = s.cores := rfl
@[simp] theorem State.setDie_hoops (s : State) (d : Nat) (x : Die) : (s.setDie d x).hoops = s.hoops := rfl
@[simp] theorem State.setDie_groups (s : State) (d : Nat) (x : Die) : (s.setDie d x).groups = s.groups := rfl
@[simp] theorem State.setDie_launches (s : State) (d : Nat) (x : Die) : (s.setDie d x).launches = s.launches := rfl
@[simp] theorem State.setDie_contexts (s : State) (d : Nat) (x : Die) : (s.setDie d x).contexts = s.contexts := rfl
@[simp] theorem State.setDie_queues (s : State) (d : Nat) (x : Die) : (s.setDie d x).queues = s.queues := rfl
@[simp] theorem State.setDie_nextLaunch (s : State) (d : Nat) (x : Die) : (s.setDie d x).nextLaunch = s.nextLaunch := rfl
@[simp] theorem State.setDie_nextGroup (s : State) (d : Nat) (x : Die) : (s.setDie d x).nextGroup = s.nextGroup := rfl
@[simp] theorem State.setDie_nextZombie (s : State) (d : Nat) (x : Die) : (s.setDie d x).nextZombie = s.nextZombie := rfl
@[simp] theorem State.setDie_nextLoad (s : State) (d : Nat) (x : Die) : (s.setDie d x).nextLoad = s.nextLoad := rfl
@[simp] theorem State.setDie_nextReq (s : State) (d : Nat) (x : Die) : (s.setDie d x).nextReq = s.nextReq := rfl
@[simp] theorem State.setDie_nextDecl (s : State) (d : Nat) (x : Die) : (s.setDie d x).nextDecl = s.nextDecl := rfl
@[simp] theorem State.setDie_nextCmd (s : State) (d : Nat) (x : Die) : (s.setDie d x).nextCmd = s.nextCmd := rfl
@[simp] theorem State.setDie_nextRun (s : State) (d : Nat) (x : Die) : (s.setDie d x).nextRun = s.nextRun := rfl
@[simp] theorem State.setDie_served (s : State) (d : Nat) (x : Die) : (s.setDie d x).served = s.served := rfl
@[simp] theorem State.setDie_mem (s : State) (d : Nat) (x : Die) : (s.setDie d x).mem = s.mem := rfl
@[simp] theorem State.setDie_host (s : State) (d : Nat) (x : Die) : (s.setDie d x).host = s.host := rfl
@[simp] theorem State.setDie_bad (s : State) (d : Nat) (x : Die) : (s.setDie d x).bad = s.bad := rfl
@[simp] theorem State.setDie_owners (s : State) (d : Nat) (x : Die) : (s.setDie d x).owners = s.owners := rfl
@[simp] theorem State.setDie_zeroing (s : State) (d : Nat) (x : Die) : (s.setDie d x).zeroing = s.zeroing := rfl
@[simp] theorem State.setDie_zfs (s : State) (d : Nat) (x : Die) : (s.setDie d x).zfs = s.zfs := rfl
@[simp] theorem State.setDie_cycle (s : State) (d : Nat) (x : Die) : (s.setDie d x).cycle = s.cycle := rfl
@[simp] theorem State.setDie_ports (s : State) (d : Nat) (x : Die) : (s.setDie d x).ports = s.ports := rfl
@[simp] theorem State.setDie_reqs (s : State) (d : Nat) (x : Die) : (s.setDie d x).reqs = s.reqs := rfl
@[simp] theorem State.setDie_sent (s : State) (d : Nat) (x : Die) : (s.setDie d x).sent = s.sent := rfl
@[simp] theorem State.setDie_answer (s : State) (d : Nat) (x : Die) : (s.setDie d x).answer = s.answer := rfl
@[simp] theorem State.setDie_cardno (s : State) (d : Nat) (x : Die) : (s.setDie d x).cardno = s.cardno := rfl
@[simp] theorem State.setDie_cnv (s : State) (d : Nat) (x : Die) : (s.setDie d x).cnv = s.cnv := rfl
@[simp] theorem State.setDie_cardUsed (s : State) (d : Nat) (x : Die) : (s.setDie d x).cardUsed = s.cardUsed := rfl
@[simp] theorem State.setDie_sync (s : State) (d : Nat) (x : Die) : (s.setDie d x).sync = s.sync := rfl
@[simp] theorem State.setDie_timed (s : State) (d : Nat) (x : Die) : (s.setDie d x).timed = s.timed := rfl
@[simp] theorem State.setDie_slewAt (s : State) (d : Nat) (x : Die) : (s.setDie d x).slewAt = s.slewAt := rfl
@[simp] theorem State.setDie_lag (s : State) (d : Nat) (x : Die) : (s.setDie d x).lag = s.lag := rfl
@[simp] theorem State.setDie_ctxtab (s : State) (d : Nat) (x : Die) : (s.setDie d x).ctxtab = s.ctxtab := rfl
@[simp] theorem State.setDie_qtab (s : State) (d : Nat) (x : Die) : (s.setDie d x).qtab = s.qtab := rfl
@[simp] theorem State.setDie_mgmttl (s : State) (d : Nat) (x : Die) : (s.setDie d x).mgmttl = s.mgmttl := rfl
@[simp] theorem State.setDie_mgmtServed (s : State) (d : Nat) (x : Die) : (s.setDie d x).mgmtServed = s.mgmtServed := rfl
@[simp] theorem State.setDie_tmig (s : State) (d : Nat) (x : Die) : (s.setDie d x).tmig = s.tmig := rfl
@[simp] theorem State.setDie_tclamp (s : State) (d : Nat) (x : Die) : (s.setDie d x).tclamp = s.tclamp := rfl
@[simp] theorem State.setDie_thermalHost (s : State) (d : Nat) (x : Die) : (s.setDie d x).thermalHost = s.thermalHost := rfl
@[simp] theorem State.setDie_stagingHost (s : State) (d : Nat) (x : Die) : (s.setDie d x).stagingHost = s.stagingHost := rfl
@[simp] theorem State.setDie_stagingNext (s : State) (d : Nat) (x : Die) : (s.setDie d x).stagingNext = s.stagingNext := rfl
@[simp] theorem State.setDie_sampled (s : State) (d : Nat) (x : Die) : (s.setDie d x).sampled = s.sampled := rfl
@[simp] theorem State.setDie_traceBase (s : State) (d : Nat) (x : Die) : (s.setDie d x).traceBase = s.traceBase := rfl
@[simp] theorem State.setDie_traceSize (s : State) (d : Nat) (x : Die) : (s.setDie d x).traceSize = s.traceSize := rfl
@[simp] theorem State.setDie_traceMask (s : State) (d : Nat) (x : Die) : (s.setDie d x).traceMask = s.traceMask := rfl
@[simp] theorem State.setDie_wptr (s : State) (d : Nat) (x : Die) : (s.setDie d x).wptr = s.wptr := rfl
@[simp] theorem State.setDie_trace (s : State) (d : Nat) (x : Die) : (s.setDie d x).trace = s.trace := rfl
@[simp] theorem State.setDie_fw (s : State) (d : Nat) (x : Die) : (s.setDie d x).fw = s.fw := rfl
@[simp] theorem State.setDie_recovery (s : State) (d : Nat) (x : Die) : (s.setDie d x).recovery = s.recovery := rfl
@[simp] theorem State.setDie_nonce (s : State) (d : Nat) (x : Die) : (s.setDie d x).nonce = s.nonce := rfl
@[simp] theorem State.setDie_powered (s : State) (d : Nat) (x : Die) : (s.setDie d x).powered = s.powered := rfl
@[simp] theorem State.setDie_booted (s : State) (d : Nat) (x : Die) : (s.setDie d x).booted = s.booted := rfl
@[simp] theorem State.setDie_corr (s : State) (d : Nat) (x : Die) : (s.setDie d x).corr = s.corr := rfl
@[simp] theorem State.setDie_recal (s : State) (d : Nat) (x : Die) : (s.setDie d x).recal = s.recal := rfl
@[simp] theorem State.setDie_rings (s : State) (d : Nat) (x : Die) : (s.setDie d x).rings = s.rings := rfl
@[simp] theorem State.setDie_turns (s : State) (d : Nat) (x : Die) : (s.setDie d x).turns = s.turns := rfl
@[simp] theorem State.setDie_cur (s : State) (d : Nat) (x : Die) : (s.setDie d x).cur = s.cur := rfl
@[simp] theorem State.setDie_arg (s : State) (d : Nat) (x : Die) : (s.setDie d x).arg = s.arg := rfl
@[simp] theorem State.setDie_defer (s : State) (d : Nat) (x : Die) : (s.setDie d x).defer = s.defer := rfl
@[simp] theorem State.setDie_late (s : State) (d : Nat) (x : Die) : (s.setDie d x).late = s.late := rfl
@[simp] theorem State.setDie_free (s : State) (d : Nat) (x : Die) : (s.setDie d x).free = s.free := rfl

/-! ## setCtx -/

@[simp] theorem State.setCtx_tasks (s : State) (c : Nat) (x : Context) : (s.setCtx c x).tasks = s.tasks := rfl
@[simp] theorem State.setCtx_cores (s : State) (c : Nat) (x : Context) : (s.setCtx c x).cores = s.cores := rfl
@[simp] theorem State.setCtx_hoops (s : State) (c : Nat) (x : Context) : (s.setCtx c x).hoops = s.hoops := rfl
@[simp] theorem State.setCtx_dies (s : State) (c : Nat) (x : Context) : (s.setCtx c x).dies = s.dies := rfl
@[simp] theorem State.setCtx_groups (s : State) (c : Nat) (x : Context) : (s.setCtx c x).groups = s.groups := rfl
@[simp] theorem State.setCtx_launches (s : State) (c : Nat) (x : Context) : (s.setCtx c x).launches = s.launches := rfl
@[simp] theorem State.setCtx_queues (s : State) (c : Nat) (x : Context) : (s.setCtx c x).queues = s.queues := rfl
@[simp] theorem State.setCtx_nextLaunch (s : State) (c : Nat) (x : Context) : (s.setCtx c x).nextLaunch = s.nextLaunch := rfl
@[simp] theorem State.setCtx_nextGroup (s : State) (c : Nat) (x : Context) : (s.setCtx c x).nextGroup = s.nextGroup := rfl
@[simp] theorem State.setCtx_nextZombie (s : State) (c : Nat) (x : Context) : (s.setCtx c x).nextZombie = s.nextZombie := rfl
@[simp] theorem State.setCtx_nextLoad (s : State) (c : Nat) (x : Context) : (s.setCtx c x).nextLoad = s.nextLoad := rfl
@[simp] theorem State.setCtx_nextReq (s : State) (c : Nat) (x : Context) : (s.setCtx c x).nextReq = s.nextReq := rfl
@[simp] theorem State.setCtx_nextDecl (s : State) (c : Nat) (x : Context) : (s.setCtx c x).nextDecl = s.nextDecl := rfl
@[simp] theorem State.setCtx_nextCmd (s : State) (c : Nat) (x : Context) : (s.setCtx c x).nextCmd = s.nextCmd := rfl
@[simp] theorem State.setCtx_nextRun (s : State) (c : Nat) (x : Context) : (s.setCtx c x).nextRun = s.nextRun := rfl
@[simp] theorem State.setCtx_served (s : State) (c : Nat) (x : Context) : (s.setCtx c x).served = s.served := rfl
@[simp] theorem State.setCtx_mem (s : State) (c : Nat) (x : Context) : (s.setCtx c x).mem = s.mem := rfl
@[simp] theorem State.setCtx_host (s : State) (c : Nat) (x : Context) : (s.setCtx c x).host = s.host := rfl
@[simp] theorem State.setCtx_bad (s : State) (c : Nat) (x : Context) : (s.setCtx c x).bad = s.bad := rfl
@[simp] theorem State.setCtx_owners (s : State) (c : Nat) (x : Context) : (s.setCtx c x).owners = s.owners := rfl
@[simp] theorem State.setCtx_zeroing (s : State) (c : Nat) (x : Context) : (s.setCtx c x).zeroing = s.zeroing := rfl
@[simp] theorem State.setCtx_zfs (s : State) (c : Nat) (x : Context) : (s.setCtx c x).zfs = s.zfs := rfl
@[simp] theorem State.setCtx_cycle (s : State) (c : Nat) (x : Context) : (s.setCtx c x).cycle = s.cycle := rfl
@[simp] theorem State.setCtx_ports (s : State) (c : Nat) (x : Context) : (s.setCtx c x).ports = s.ports := rfl
@[simp] theorem State.setCtx_reqs (s : State) (c : Nat) (x : Context) : (s.setCtx c x).reqs = s.reqs := rfl
@[simp] theorem State.setCtx_sent (s : State) (c : Nat) (x : Context) : (s.setCtx c x).sent = s.sent := rfl
@[simp] theorem State.setCtx_answer (s : State) (c : Nat) (x : Context) : (s.setCtx c x).answer = s.answer := rfl
@[simp] theorem State.setCtx_cardno (s : State) (c : Nat) (x : Context) : (s.setCtx c x).cardno = s.cardno := rfl
@[simp] theorem State.setCtx_cnv (s : State) (c : Nat) (x : Context) : (s.setCtx c x).cnv = s.cnv := rfl
@[simp] theorem State.setCtx_cardUsed (s : State) (c : Nat) (x : Context) : (s.setCtx c x).cardUsed = s.cardUsed := rfl
@[simp] theorem State.setCtx_sync (s : State) (c : Nat) (x : Context) : (s.setCtx c x).sync = s.sync := rfl
@[simp] theorem State.setCtx_timed (s : State) (c : Nat) (x : Context) : (s.setCtx c x).timed = s.timed := rfl
@[simp] theorem State.setCtx_slewAt (s : State) (c : Nat) (x : Context) : (s.setCtx c x).slewAt = s.slewAt := rfl
@[simp] theorem State.setCtx_lag (s : State) (c : Nat) (x : Context) : (s.setCtx c x).lag = s.lag := rfl
@[simp] theorem State.setCtx_ctxtab (s : State) (c : Nat) (x : Context) : (s.setCtx c x).ctxtab = s.ctxtab := rfl
@[simp] theorem State.setCtx_qtab (s : State) (c : Nat) (x : Context) : (s.setCtx c x).qtab = s.qtab := rfl
@[simp] theorem State.setCtx_mgmttl (s : State) (c : Nat) (x : Context) : (s.setCtx c x).mgmttl = s.mgmttl := rfl
@[simp] theorem State.setCtx_mgmtServed (s : State) (c : Nat) (x : Context) : (s.setCtx c x).mgmtServed = s.mgmtServed := rfl
@[simp] theorem State.setCtx_tmig (s : State) (c : Nat) (x : Context) : (s.setCtx c x).tmig = s.tmig := rfl
@[simp] theorem State.setCtx_tclamp (s : State) (c : Nat) (x : Context) : (s.setCtx c x).tclamp = s.tclamp := rfl
@[simp] theorem State.setCtx_thermalHost (s : State) (c : Nat) (x : Context) : (s.setCtx c x).thermalHost = s.thermalHost := rfl
@[simp] theorem State.setCtx_stagingHost (s : State) (c : Nat) (x : Context) : (s.setCtx c x).stagingHost = s.stagingHost := rfl
@[simp] theorem State.setCtx_stagingNext (s : State) (c : Nat) (x : Context) : (s.setCtx c x).stagingNext = s.stagingNext := rfl
@[simp] theorem State.setCtx_sampled (s : State) (c : Nat) (x : Context) : (s.setCtx c x).sampled = s.sampled := rfl
@[simp] theorem State.setCtx_traceBase (s : State) (c : Nat) (x : Context) : (s.setCtx c x).traceBase = s.traceBase := rfl
@[simp] theorem State.setCtx_traceSize (s : State) (c : Nat) (x : Context) : (s.setCtx c x).traceSize = s.traceSize := rfl
@[simp] theorem State.setCtx_traceMask (s : State) (c : Nat) (x : Context) : (s.setCtx c x).traceMask = s.traceMask := rfl
@[simp] theorem State.setCtx_wptr (s : State) (c : Nat) (x : Context) : (s.setCtx c x).wptr = s.wptr := rfl
@[simp] theorem State.setCtx_trace (s : State) (c : Nat) (x : Context) : (s.setCtx c x).trace = s.trace := rfl
@[simp] theorem State.setCtx_fw (s : State) (c : Nat) (x : Context) : (s.setCtx c x).fw = s.fw := rfl
@[simp] theorem State.setCtx_recovery (s : State) (c : Nat) (x : Context) : (s.setCtx c x).recovery = s.recovery := rfl
@[simp] theorem State.setCtx_nonce (s : State) (c : Nat) (x : Context) : (s.setCtx c x).nonce = s.nonce := rfl
@[simp] theorem State.setCtx_powered (s : State) (c : Nat) (x : Context) : (s.setCtx c x).powered = s.powered := rfl
@[simp] theorem State.setCtx_booted (s : State) (c : Nat) (x : Context) : (s.setCtx c x).booted = s.booted := rfl
@[simp] theorem State.setCtx_corr (s : State) (c : Nat) (x : Context) : (s.setCtx c x).corr = s.corr := rfl
@[simp] theorem State.setCtx_recal (s : State) (c : Nat) (x : Context) : (s.setCtx c x).recal = s.recal := rfl
@[simp] theorem State.setCtx_rings (s : State) (c : Nat) (x : Context) : (s.setCtx c x).rings = s.rings := rfl
@[simp] theorem State.setCtx_turns (s : State) (c : Nat) (x : Context) : (s.setCtx c x).turns = s.turns := rfl
@[simp] theorem State.setCtx_cur (s : State) (c : Nat) (x : Context) : (s.setCtx c x).cur = s.cur := rfl
@[simp] theorem State.setCtx_arg (s : State) (c : Nat) (x : Context) : (s.setCtx c x).arg = s.arg := rfl
@[simp] theorem State.setCtx_defer (s : State) (c : Nat) (x : Context) : (s.setCtx c x).defer = s.defer := rfl
@[simp] theorem State.setCtx_late (s : State) (c : Nat) (x : Context) : (s.setCtx c x).late = s.late := rfl
@[simp] theorem State.setCtx_free (s : State) (c : Nat) (x : Context) : (s.setCtx c x).free = s.free := rfl

/-! ## setQueue -/

@[simp] theorem State.setQueue_tasks (s : State) (q : Nat) (x : Queue) : (s.setQueue q x).tasks = s.tasks := rfl
@[simp] theorem State.setQueue_cores (s : State) (q : Nat) (x : Queue) : (s.setQueue q x).cores = s.cores := rfl
@[simp] theorem State.setQueue_hoops (s : State) (q : Nat) (x : Queue) : (s.setQueue q x).hoops = s.hoops := rfl
@[simp] theorem State.setQueue_dies (s : State) (q : Nat) (x : Queue) : (s.setQueue q x).dies = s.dies := rfl
@[simp] theorem State.setQueue_groups (s : State) (q : Nat) (x : Queue) : (s.setQueue q x).groups = s.groups := rfl
@[simp] theorem State.setQueue_launches (s : State) (q : Nat) (x : Queue) : (s.setQueue q x).launches = s.launches := rfl
@[simp] theorem State.setQueue_contexts (s : State) (q : Nat) (x : Queue) : (s.setQueue q x).contexts = s.contexts := rfl
@[simp] theorem State.setQueue_nextLaunch (s : State) (q : Nat) (x : Queue) : (s.setQueue q x).nextLaunch = s.nextLaunch := rfl
@[simp] theorem State.setQueue_nextGroup (s : State) (q : Nat) (x : Queue) : (s.setQueue q x).nextGroup = s.nextGroup := rfl
@[simp] theorem State.setQueue_nextZombie (s : State) (q : Nat) (x : Queue) : (s.setQueue q x).nextZombie = s.nextZombie := rfl
@[simp] theorem State.setQueue_nextLoad (s : State) (q : Nat) (x : Queue) : (s.setQueue q x).nextLoad = s.nextLoad := rfl
@[simp] theorem State.setQueue_nextReq (s : State) (q : Nat) (x : Queue) : (s.setQueue q x).nextReq = s.nextReq := rfl
@[simp] theorem State.setQueue_nextDecl (s : State) (q : Nat) (x : Queue) : (s.setQueue q x).nextDecl = s.nextDecl := rfl
@[simp] theorem State.setQueue_nextCmd (s : State) (q : Nat) (x : Queue) : (s.setQueue q x).nextCmd = s.nextCmd := rfl
@[simp] theorem State.setQueue_nextRun (s : State) (q : Nat) (x : Queue) : (s.setQueue q x).nextRun = s.nextRun := rfl
@[simp] theorem State.setQueue_served (s : State) (q : Nat) (x : Queue) : (s.setQueue q x).served = s.served := rfl
@[simp] theorem State.setQueue_mem (s : State) (q : Nat) (x : Queue) : (s.setQueue q x).mem = s.mem := rfl
@[simp] theorem State.setQueue_host (s : State) (q : Nat) (x : Queue) : (s.setQueue q x).host = s.host := rfl
@[simp] theorem State.setQueue_bad (s : State) (q : Nat) (x : Queue) : (s.setQueue q x).bad = s.bad := rfl
@[simp] theorem State.setQueue_owners (s : State) (q : Nat) (x : Queue) : (s.setQueue q x).owners = s.owners := rfl
@[simp] theorem State.setQueue_zeroing (s : State) (q : Nat) (x : Queue) : (s.setQueue q x).zeroing = s.zeroing := rfl
@[simp] theorem State.setQueue_zfs (s : State) (q : Nat) (x : Queue) : (s.setQueue q x).zfs = s.zfs := rfl
@[simp] theorem State.setQueue_cycle (s : State) (q : Nat) (x : Queue) : (s.setQueue q x).cycle = s.cycle := rfl
@[simp] theorem State.setQueue_ports (s : State) (q : Nat) (x : Queue) : (s.setQueue q x).ports = s.ports := rfl
@[simp] theorem State.setQueue_reqs (s : State) (q : Nat) (x : Queue) : (s.setQueue q x).reqs = s.reqs := rfl
@[simp] theorem State.setQueue_sent (s : State) (q : Nat) (x : Queue) : (s.setQueue q x).sent = s.sent := rfl
@[simp] theorem State.setQueue_answer (s : State) (q : Nat) (x : Queue) : (s.setQueue q x).answer = s.answer := rfl
@[simp] theorem State.setQueue_cardno (s : State) (q : Nat) (x : Queue) : (s.setQueue q x).cardno = s.cardno := rfl
@[simp] theorem State.setQueue_cnv (s : State) (q : Nat) (x : Queue) : (s.setQueue q x).cnv = s.cnv := rfl
@[simp] theorem State.setQueue_cardUsed (s : State) (q : Nat) (x : Queue) : (s.setQueue q x).cardUsed = s.cardUsed := rfl
@[simp] theorem State.setQueue_sync (s : State) (q : Nat) (x : Queue) : (s.setQueue q x).sync = s.sync := rfl
@[simp] theorem State.setQueue_timed (s : State) (q : Nat) (x : Queue) : (s.setQueue q x).timed = s.timed := rfl
@[simp] theorem State.setQueue_slewAt (s : State) (q : Nat) (x : Queue) : (s.setQueue q x).slewAt = s.slewAt := rfl
@[simp] theorem State.setQueue_lag (s : State) (q : Nat) (x : Queue) : (s.setQueue q x).lag = s.lag := rfl
@[simp] theorem State.setQueue_ctxtab (s : State) (q : Nat) (x : Queue) : (s.setQueue q x).ctxtab = s.ctxtab := rfl
@[simp] theorem State.setQueue_qtab (s : State) (q : Nat) (x : Queue) : (s.setQueue q x).qtab = s.qtab := rfl
@[simp] theorem State.setQueue_mgmttl (s : State) (q : Nat) (x : Queue) : (s.setQueue q x).mgmttl = s.mgmttl := rfl
@[simp] theorem State.setQueue_mgmtServed (s : State) (q : Nat) (x : Queue) : (s.setQueue q x).mgmtServed = s.mgmtServed := rfl
@[simp] theorem State.setQueue_tmig (s : State) (q : Nat) (x : Queue) : (s.setQueue q x).tmig = s.tmig := rfl
@[simp] theorem State.setQueue_tclamp (s : State) (q : Nat) (x : Queue) : (s.setQueue q x).tclamp = s.tclamp := rfl
@[simp] theorem State.setQueue_thermalHost (s : State) (q : Nat) (x : Queue) : (s.setQueue q x).thermalHost = s.thermalHost := rfl
@[simp] theorem State.setQueue_stagingHost (s : State) (q : Nat) (x : Queue) : (s.setQueue q x).stagingHost = s.stagingHost := rfl
@[simp] theorem State.setQueue_stagingNext (s : State) (q : Nat) (x : Queue) : (s.setQueue q x).stagingNext = s.stagingNext := rfl
@[simp] theorem State.setQueue_sampled (s : State) (q : Nat) (x : Queue) : (s.setQueue q x).sampled = s.sampled := rfl
@[simp] theorem State.setQueue_traceBase (s : State) (q : Nat) (x : Queue) : (s.setQueue q x).traceBase = s.traceBase := rfl
@[simp] theorem State.setQueue_traceSize (s : State) (q : Nat) (x : Queue) : (s.setQueue q x).traceSize = s.traceSize := rfl
@[simp] theorem State.setQueue_traceMask (s : State) (q : Nat) (x : Queue) : (s.setQueue q x).traceMask = s.traceMask := rfl
@[simp] theorem State.setQueue_wptr (s : State) (q : Nat) (x : Queue) : (s.setQueue q x).wptr = s.wptr := rfl
@[simp] theorem State.setQueue_trace (s : State) (q : Nat) (x : Queue) : (s.setQueue q x).trace = s.trace := rfl
@[simp] theorem State.setQueue_fw (s : State) (q : Nat) (x : Queue) : (s.setQueue q x).fw = s.fw := rfl
@[simp] theorem State.setQueue_recovery (s : State) (q : Nat) (x : Queue) : (s.setQueue q x).recovery = s.recovery := rfl
@[simp] theorem State.setQueue_nonce (s : State) (q : Nat) (x : Queue) : (s.setQueue q x).nonce = s.nonce := rfl
@[simp] theorem State.setQueue_powered (s : State) (q : Nat) (x : Queue) : (s.setQueue q x).powered = s.powered := rfl
@[simp] theorem State.setQueue_booted (s : State) (q : Nat) (x : Queue) : (s.setQueue q x).booted = s.booted := rfl
@[simp] theorem State.setQueue_corr (s : State) (q : Nat) (x : Queue) : (s.setQueue q x).corr = s.corr := rfl
@[simp] theorem State.setQueue_recal (s : State) (q : Nat) (x : Queue) : (s.setQueue q x).recal = s.recal := rfl
@[simp] theorem State.setQueue_rings (s : State) (q : Nat) (x : Queue) : (s.setQueue q x).rings = s.rings := rfl
@[simp] theorem State.setQueue_turns (s : State) (q : Nat) (x : Queue) : (s.setQueue q x).turns = s.turns := rfl
@[simp] theorem State.setQueue_cur (s : State) (q : Nat) (x : Queue) : (s.setQueue q x).cur = s.cur := rfl
@[simp] theorem State.setQueue_arg (s : State) (q : Nat) (x : Queue) : (s.setQueue q x).arg = s.arg := rfl
@[simp] theorem State.setQueue_defer (s : State) (q : Nat) (x : Queue) : (s.setQueue q x).defer = s.defer := rfl
@[simp] theorem State.setQueue_late (s : State) (q : Nat) (x : Queue) : (s.setQueue q x).late = s.late := rfl
@[simp] theorem State.setQueue_free (s : State) (q : Nat) (x : Queue) : (s.setQueue q x).free = s.free := rfl

/-! ## setLaunch -/

@[simp] theorem State.setLaunch_tasks (s : State) (l : Nat) (x : Launch) : (s.setLaunch l x).tasks = s.tasks := rfl
@[simp] theorem State.setLaunch_cores (s : State) (l : Nat) (x : Launch) : (s.setLaunch l x).cores = s.cores := rfl
@[simp] theorem State.setLaunch_hoops (s : State) (l : Nat) (x : Launch) : (s.setLaunch l x).hoops = s.hoops := rfl
@[simp] theorem State.setLaunch_dies (s : State) (l : Nat) (x : Launch) : (s.setLaunch l x).dies = s.dies := rfl
@[simp] theorem State.setLaunch_groups (s : State) (l : Nat) (x : Launch) : (s.setLaunch l x).groups = s.groups := rfl
@[simp] theorem State.setLaunch_contexts (s : State) (l : Nat) (x : Launch) : (s.setLaunch l x).contexts = s.contexts := rfl
@[simp] theorem State.setLaunch_queues (s : State) (l : Nat) (x : Launch) : (s.setLaunch l x).queues = s.queues := rfl
@[simp] theorem State.setLaunch_nextLaunch (s : State) (l : Nat) (x : Launch) : (s.setLaunch l x).nextLaunch = s.nextLaunch := rfl
@[simp] theorem State.setLaunch_nextGroup (s : State) (l : Nat) (x : Launch) : (s.setLaunch l x).nextGroup = s.nextGroup := rfl
@[simp] theorem State.setLaunch_nextZombie (s : State) (l : Nat) (x : Launch) : (s.setLaunch l x).nextZombie = s.nextZombie := rfl
@[simp] theorem State.setLaunch_nextLoad (s : State) (l : Nat) (x : Launch) : (s.setLaunch l x).nextLoad = s.nextLoad := rfl
@[simp] theorem State.setLaunch_nextReq (s : State) (l : Nat) (x : Launch) : (s.setLaunch l x).nextReq = s.nextReq := rfl
@[simp] theorem State.setLaunch_nextDecl (s : State) (l : Nat) (x : Launch) : (s.setLaunch l x).nextDecl = s.nextDecl := rfl
@[simp] theorem State.setLaunch_nextCmd (s : State) (l : Nat) (x : Launch) : (s.setLaunch l x).nextCmd = s.nextCmd := rfl
@[simp] theorem State.setLaunch_nextRun (s : State) (l : Nat) (x : Launch) : (s.setLaunch l x).nextRun = s.nextRun := rfl
@[simp] theorem State.setLaunch_served (s : State) (l : Nat) (x : Launch) : (s.setLaunch l x).served = s.served := rfl
@[simp] theorem State.setLaunch_mem (s : State) (l : Nat) (x : Launch) : (s.setLaunch l x).mem = s.mem := rfl
@[simp] theorem State.setLaunch_host (s : State) (l : Nat) (x : Launch) : (s.setLaunch l x).host = s.host := rfl
@[simp] theorem State.setLaunch_bad (s : State) (l : Nat) (x : Launch) : (s.setLaunch l x).bad = s.bad := rfl
@[simp] theorem State.setLaunch_owners (s : State) (l : Nat) (x : Launch) : (s.setLaunch l x).owners = s.owners := rfl
@[simp] theorem State.setLaunch_zeroing (s : State) (l : Nat) (x : Launch) : (s.setLaunch l x).zeroing = s.zeroing := rfl
@[simp] theorem State.setLaunch_zfs (s : State) (l : Nat) (x : Launch) : (s.setLaunch l x).zfs = s.zfs := rfl
@[simp] theorem State.setLaunch_cycle (s : State) (l : Nat) (x : Launch) : (s.setLaunch l x).cycle = s.cycle := rfl
@[simp] theorem State.setLaunch_ports (s : State) (l : Nat) (x : Launch) : (s.setLaunch l x).ports = s.ports := rfl
@[simp] theorem State.setLaunch_reqs (s : State) (l : Nat) (x : Launch) : (s.setLaunch l x).reqs = s.reqs := rfl
@[simp] theorem State.setLaunch_sent (s : State) (l : Nat) (x : Launch) : (s.setLaunch l x).sent = s.sent := rfl
@[simp] theorem State.setLaunch_answer (s : State) (l : Nat) (x : Launch) : (s.setLaunch l x).answer = s.answer := rfl
@[simp] theorem State.setLaunch_cardno (s : State) (l : Nat) (x : Launch) : (s.setLaunch l x).cardno = s.cardno := rfl
@[simp] theorem State.setLaunch_cnv (s : State) (l : Nat) (x : Launch) : (s.setLaunch l x).cnv = s.cnv := rfl
@[simp] theorem State.setLaunch_cardUsed (s : State) (l : Nat) (x : Launch) : (s.setLaunch l x).cardUsed = s.cardUsed := rfl
@[simp] theorem State.setLaunch_sync (s : State) (l : Nat) (x : Launch) : (s.setLaunch l x).sync = s.sync := rfl
@[simp] theorem State.setLaunch_timed (s : State) (l : Nat) (x : Launch) : (s.setLaunch l x).timed = s.timed := rfl
@[simp] theorem State.setLaunch_slewAt (s : State) (l : Nat) (x : Launch) : (s.setLaunch l x).slewAt = s.slewAt := rfl
@[simp] theorem State.setLaunch_lag (s : State) (l : Nat) (x : Launch) : (s.setLaunch l x).lag = s.lag := rfl
@[simp] theorem State.setLaunch_ctxtab (s : State) (l : Nat) (x : Launch) : (s.setLaunch l x).ctxtab = s.ctxtab := rfl
@[simp] theorem State.setLaunch_qtab (s : State) (l : Nat) (x : Launch) : (s.setLaunch l x).qtab = s.qtab := rfl
@[simp] theorem State.setLaunch_mgmttl (s : State) (l : Nat) (x : Launch) : (s.setLaunch l x).mgmttl = s.mgmttl := rfl
@[simp] theorem State.setLaunch_mgmtServed (s : State) (l : Nat) (x : Launch) : (s.setLaunch l x).mgmtServed = s.mgmtServed := rfl
@[simp] theorem State.setLaunch_tmig (s : State) (l : Nat) (x : Launch) : (s.setLaunch l x).tmig = s.tmig := rfl
@[simp] theorem State.setLaunch_tclamp (s : State) (l : Nat) (x : Launch) : (s.setLaunch l x).tclamp = s.tclamp := rfl
@[simp] theorem State.setLaunch_thermalHost (s : State) (l : Nat) (x : Launch) : (s.setLaunch l x).thermalHost = s.thermalHost := rfl
@[simp] theorem State.setLaunch_stagingHost (s : State) (l : Nat) (x : Launch) : (s.setLaunch l x).stagingHost = s.stagingHost := rfl
@[simp] theorem State.setLaunch_stagingNext (s : State) (l : Nat) (x : Launch) : (s.setLaunch l x).stagingNext = s.stagingNext := rfl
@[simp] theorem State.setLaunch_sampled (s : State) (l : Nat) (x : Launch) : (s.setLaunch l x).sampled = s.sampled := rfl
@[simp] theorem State.setLaunch_traceBase (s : State) (l : Nat) (x : Launch) : (s.setLaunch l x).traceBase = s.traceBase := rfl
@[simp] theorem State.setLaunch_traceSize (s : State) (l : Nat) (x : Launch) : (s.setLaunch l x).traceSize = s.traceSize := rfl
@[simp] theorem State.setLaunch_traceMask (s : State) (l : Nat) (x : Launch) : (s.setLaunch l x).traceMask = s.traceMask := rfl
@[simp] theorem State.setLaunch_wptr (s : State) (l : Nat) (x : Launch) : (s.setLaunch l x).wptr = s.wptr := rfl
@[simp] theorem State.setLaunch_trace (s : State) (l : Nat) (x : Launch) : (s.setLaunch l x).trace = s.trace := rfl
@[simp] theorem State.setLaunch_fw (s : State) (l : Nat) (x : Launch) : (s.setLaunch l x).fw = s.fw := rfl
@[simp] theorem State.setLaunch_recovery (s : State) (l : Nat) (x : Launch) : (s.setLaunch l x).recovery = s.recovery := rfl
@[simp] theorem State.setLaunch_nonce (s : State) (l : Nat) (x : Launch) : (s.setLaunch l x).nonce = s.nonce := rfl
@[simp] theorem State.setLaunch_powered (s : State) (l : Nat) (x : Launch) : (s.setLaunch l x).powered = s.powered := rfl
@[simp] theorem State.setLaunch_booted (s : State) (l : Nat) (x : Launch) : (s.setLaunch l x).booted = s.booted := rfl
@[simp] theorem State.setLaunch_corr (s : State) (l : Nat) (x : Launch) : (s.setLaunch l x).corr = s.corr := rfl
@[simp] theorem State.setLaunch_recal (s : State) (l : Nat) (x : Launch) : (s.setLaunch l x).recal = s.recal := rfl
@[simp] theorem State.setLaunch_rings (s : State) (l : Nat) (x : Launch) : (s.setLaunch l x).rings = s.rings := rfl
@[simp] theorem State.setLaunch_turns (s : State) (l : Nat) (x : Launch) : (s.setLaunch l x).turns = s.turns := rfl
@[simp] theorem State.setLaunch_cur (s : State) (l : Nat) (x : Launch) : (s.setLaunch l x).cur = s.cur := rfl
@[simp] theorem State.setLaunch_arg (s : State) (l : Nat) (x : Launch) : (s.setLaunch l x).arg = s.arg := rfl
@[simp] theorem State.setLaunch_defer (s : State) (l : Nat) (x : Launch) : (s.setLaunch l x).defer = s.defer := rfl
@[simp] theorem State.setLaunch_late (s : State) (l : Nat) (x : Launch) : (s.setLaunch l x).late = s.late := rfl
@[simp] theorem State.setLaunch_free (s : State) (l : Nat) (x : Launch) : (s.setLaunch l x).free = s.free := rfl

/-! ## setGroup -/

@[simp] theorem State.setGroup_tasks (s : State) (g : Nat) (x : Group) : (s.setGroup g x).tasks = s.tasks := rfl
@[simp] theorem State.setGroup_cores (s : State) (g : Nat) (x : Group) : (s.setGroup g x).cores = s.cores := rfl
@[simp] theorem State.setGroup_hoops (s : State) (g : Nat) (x : Group) : (s.setGroup g x).hoops = s.hoops := rfl
@[simp] theorem State.setGroup_dies (s : State) (g : Nat) (x : Group) : (s.setGroup g x).dies = s.dies := rfl
@[simp] theorem State.setGroup_launches (s : State) (g : Nat) (x : Group) : (s.setGroup g x).launches = s.launches := rfl
@[simp] theorem State.setGroup_contexts (s : State) (g : Nat) (x : Group) : (s.setGroup g x).contexts = s.contexts := rfl
@[simp] theorem State.setGroup_queues (s : State) (g : Nat) (x : Group) : (s.setGroup g x).queues = s.queues := rfl
@[simp] theorem State.setGroup_nextLaunch (s : State) (g : Nat) (x : Group) : (s.setGroup g x).nextLaunch = s.nextLaunch := rfl
@[simp] theorem State.setGroup_nextGroup (s : State) (g : Nat) (x : Group) : (s.setGroup g x).nextGroup = s.nextGroup := rfl
@[simp] theorem State.setGroup_nextZombie (s : State) (g : Nat) (x : Group) : (s.setGroup g x).nextZombie = s.nextZombie := rfl
@[simp] theorem State.setGroup_nextLoad (s : State) (g : Nat) (x : Group) : (s.setGroup g x).nextLoad = s.nextLoad := rfl
@[simp] theorem State.setGroup_nextReq (s : State) (g : Nat) (x : Group) : (s.setGroup g x).nextReq = s.nextReq := rfl
@[simp] theorem State.setGroup_nextDecl (s : State) (g : Nat) (x : Group) : (s.setGroup g x).nextDecl = s.nextDecl := rfl
@[simp] theorem State.setGroup_nextCmd (s : State) (g : Nat) (x : Group) : (s.setGroup g x).nextCmd = s.nextCmd := rfl
@[simp] theorem State.setGroup_nextRun (s : State) (g : Nat) (x : Group) : (s.setGroup g x).nextRun = s.nextRun := rfl
@[simp] theorem State.setGroup_served (s : State) (g : Nat) (x : Group) : (s.setGroup g x).served = s.served := rfl
@[simp] theorem State.setGroup_mem (s : State) (g : Nat) (x : Group) : (s.setGroup g x).mem = s.mem := rfl
@[simp] theorem State.setGroup_host (s : State) (g : Nat) (x : Group) : (s.setGroup g x).host = s.host := rfl
@[simp] theorem State.setGroup_bad (s : State) (g : Nat) (x : Group) : (s.setGroup g x).bad = s.bad := rfl
@[simp] theorem State.setGroup_owners (s : State) (g : Nat) (x : Group) : (s.setGroup g x).owners = s.owners := rfl
@[simp] theorem State.setGroup_zeroing (s : State) (g : Nat) (x : Group) : (s.setGroup g x).zeroing = s.zeroing := rfl
@[simp] theorem State.setGroup_zfs (s : State) (g : Nat) (x : Group) : (s.setGroup g x).zfs = s.zfs := rfl
@[simp] theorem State.setGroup_cycle (s : State) (g : Nat) (x : Group) : (s.setGroup g x).cycle = s.cycle := rfl
@[simp] theorem State.setGroup_ports (s : State) (g : Nat) (x : Group) : (s.setGroup g x).ports = s.ports := rfl
@[simp] theorem State.setGroup_reqs (s : State) (g : Nat) (x : Group) : (s.setGroup g x).reqs = s.reqs := rfl
@[simp] theorem State.setGroup_sent (s : State) (g : Nat) (x : Group) : (s.setGroup g x).sent = s.sent := rfl
@[simp] theorem State.setGroup_answer (s : State) (g : Nat) (x : Group) : (s.setGroup g x).answer = s.answer := rfl
@[simp] theorem State.setGroup_cardno (s : State) (g : Nat) (x : Group) : (s.setGroup g x).cardno = s.cardno := rfl
@[simp] theorem State.setGroup_cnv (s : State) (g : Nat) (x : Group) : (s.setGroup g x).cnv = s.cnv := rfl
@[simp] theorem State.setGroup_cardUsed (s : State) (g : Nat) (x : Group) : (s.setGroup g x).cardUsed = s.cardUsed := rfl
@[simp] theorem State.setGroup_sync (s : State) (g : Nat) (x : Group) : (s.setGroup g x).sync = s.sync := rfl
@[simp] theorem State.setGroup_timed (s : State) (g : Nat) (x : Group) : (s.setGroup g x).timed = s.timed := rfl
@[simp] theorem State.setGroup_slewAt (s : State) (g : Nat) (x : Group) : (s.setGroup g x).slewAt = s.slewAt := rfl
@[simp] theorem State.setGroup_lag (s : State) (g : Nat) (x : Group) : (s.setGroup g x).lag = s.lag := rfl
@[simp] theorem State.setGroup_ctxtab (s : State) (g : Nat) (x : Group) : (s.setGroup g x).ctxtab = s.ctxtab := rfl
@[simp] theorem State.setGroup_qtab (s : State) (g : Nat) (x : Group) : (s.setGroup g x).qtab = s.qtab := rfl
@[simp] theorem State.setGroup_mgmttl (s : State) (g : Nat) (x : Group) : (s.setGroup g x).mgmttl = s.mgmttl := rfl
@[simp] theorem State.setGroup_mgmtServed (s : State) (g : Nat) (x : Group) : (s.setGroup g x).mgmtServed = s.mgmtServed := rfl
@[simp] theorem State.setGroup_tmig (s : State) (g : Nat) (x : Group) : (s.setGroup g x).tmig = s.tmig := rfl
@[simp] theorem State.setGroup_tclamp (s : State) (g : Nat) (x : Group) : (s.setGroup g x).tclamp = s.tclamp := rfl
@[simp] theorem State.setGroup_thermalHost (s : State) (g : Nat) (x : Group) : (s.setGroup g x).thermalHost = s.thermalHost := rfl
@[simp] theorem State.setGroup_stagingHost (s : State) (g : Nat) (x : Group) : (s.setGroup g x).stagingHost = s.stagingHost := rfl
@[simp] theorem State.setGroup_stagingNext (s : State) (g : Nat) (x : Group) : (s.setGroup g x).stagingNext = s.stagingNext := rfl
@[simp] theorem State.setGroup_sampled (s : State) (g : Nat) (x : Group) : (s.setGroup g x).sampled = s.sampled := rfl
@[simp] theorem State.setGroup_traceBase (s : State) (g : Nat) (x : Group) : (s.setGroup g x).traceBase = s.traceBase := rfl
@[simp] theorem State.setGroup_traceSize (s : State) (g : Nat) (x : Group) : (s.setGroup g x).traceSize = s.traceSize := rfl
@[simp] theorem State.setGroup_traceMask (s : State) (g : Nat) (x : Group) : (s.setGroup g x).traceMask = s.traceMask := rfl
@[simp] theorem State.setGroup_wptr (s : State) (g : Nat) (x : Group) : (s.setGroup g x).wptr = s.wptr := rfl
@[simp] theorem State.setGroup_trace (s : State) (g : Nat) (x : Group) : (s.setGroup g x).trace = s.trace := rfl
@[simp] theorem State.setGroup_fw (s : State) (g : Nat) (x : Group) : (s.setGroup g x).fw = s.fw := rfl
@[simp] theorem State.setGroup_recovery (s : State) (g : Nat) (x : Group) : (s.setGroup g x).recovery = s.recovery := rfl
@[simp] theorem State.setGroup_nonce (s : State) (g : Nat) (x : Group) : (s.setGroup g x).nonce = s.nonce := rfl
@[simp] theorem State.setGroup_powered (s : State) (g : Nat) (x : Group) : (s.setGroup g x).powered = s.powered := rfl
@[simp] theorem State.setGroup_booted (s : State) (g : Nat) (x : Group) : (s.setGroup g x).booted = s.booted := rfl
@[simp] theorem State.setGroup_corr (s : State) (g : Nat) (x : Group) : (s.setGroup g x).corr = s.corr := rfl
@[simp] theorem State.setGroup_recal (s : State) (g : Nat) (x : Group) : (s.setGroup g x).recal = s.recal := rfl
@[simp] theorem State.setGroup_rings (s : State) (g : Nat) (x : Group) : (s.setGroup g x).rings = s.rings := rfl
@[simp] theorem State.setGroup_turns (s : State) (g : Nat) (x : Group) : (s.setGroup g x).turns = s.turns := rfl
@[simp] theorem State.setGroup_cur (s : State) (g : Nat) (x : Group) : (s.setGroup g x).cur = s.cur := rfl
@[simp] theorem State.setGroup_arg (s : State) (g : Nat) (x : Group) : (s.setGroup g x).arg = s.arg := rfl
@[simp] theorem State.setGroup_defer (s : State) (g : Nat) (x : Group) : (s.setGroup g x).defer = s.defer := rfl
@[simp] theorem State.setGroup_late (s : State) (g : Nat) (x : Group) : (s.setGroup g x).late = s.late := rfl
@[simp] theorem State.setGroup_free (s : State) (g : Nat) (x : Group) : (s.setGroup g x).free = s.free := rfl

/-! ## setPort -/

@[simp] theorem State.setPort_tasks (s : State) (p : Nat) (x : Port) : (s.setPort p x).tasks = s.tasks := rfl
@[simp] theorem State.setPort_cores (s : State) (p : Nat) (x : Port) : (s.setPort p x).cores = s.cores := rfl
@[simp] theorem State.setPort_hoops (s : State) (p : Nat) (x : Port) : (s.setPort p x).hoops = s.hoops := rfl
@[simp] theorem State.setPort_dies (s : State) (p : Nat) (x : Port) : (s.setPort p x).dies = s.dies := rfl
@[simp] theorem State.setPort_groups (s : State) (p : Nat) (x : Port) : (s.setPort p x).groups = s.groups := rfl
@[simp] theorem State.setPort_launches (s : State) (p : Nat) (x : Port) : (s.setPort p x).launches = s.launches := rfl
@[simp] theorem State.setPort_contexts (s : State) (p : Nat) (x : Port) : (s.setPort p x).contexts = s.contexts := rfl
@[simp] theorem State.setPort_queues (s : State) (p : Nat) (x : Port) : (s.setPort p x).queues = s.queues := rfl
@[simp] theorem State.setPort_nextLaunch (s : State) (p : Nat) (x : Port) : (s.setPort p x).nextLaunch = s.nextLaunch := rfl
@[simp] theorem State.setPort_nextGroup (s : State) (p : Nat) (x : Port) : (s.setPort p x).nextGroup = s.nextGroup := rfl
@[simp] theorem State.setPort_nextZombie (s : State) (p : Nat) (x : Port) : (s.setPort p x).nextZombie = s.nextZombie := rfl
@[simp] theorem State.setPort_nextLoad (s : State) (p : Nat) (x : Port) : (s.setPort p x).nextLoad = s.nextLoad := rfl
@[simp] theorem State.setPort_nextReq (s : State) (p : Nat) (x : Port) : (s.setPort p x).nextReq = s.nextReq := rfl
@[simp] theorem State.setPort_nextDecl (s : State) (p : Nat) (x : Port) : (s.setPort p x).nextDecl = s.nextDecl := rfl
@[simp] theorem State.setPort_nextCmd (s : State) (p : Nat) (x : Port) : (s.setPort p x).nextCmd = s.nextCmd := rfl
@[simp] theorem State.setPort_nextRun (s : State) (p : Nat) (x : Port) : (s.setPort p x).nextRun = s.nextRun := rfl
@[simp] theorem State.setPort_served (s : State) (p : Nat) (x : Port) : (s.setPort p x).served = s.served := rfl
@[simp] theorem State.setPort_mem (s : State) (p : Nat) (x : Port) : (s.setPort p x).mem = s.mem := rfl
@[simp] theorem State.setPort_host (s : State) (p : Nat) (x : Port) : (s.setPort p x).host = s.host := rfl
@[simp] theorem State.setPort_bad (s : State) (p : Nat) (x : Port) : (s.setPort p x).bad = s.bad := rfl
@[simp] theorem State.setPort_owners (s : State) (p : Nat) (x : Port) : (s.setPort p x).owners = s.owners := rfl
@[simp] theorem State.setPort_zeroing (s : State) (p : Nat) (x : Port) : (s.setPort p x).zeroing = s.zeroing := rfl
@[simp] theorem State.setPort_zfs (s : State) (p : Nat) (x : Port) : (s.setPort p x).zfs = s.zfs := rfl
@[simp] theorem State.setPort_cycle (s : State) (p : Nat) (x : Port) : (s.setPort p x).cycle = s.cycle := rfl
@[simp] theorem State.setPort_reqs (s : State) (p : Nat) (x : Port) : (s.setPort p x).reqs = s.reqs := rfl
@[simp] theorem State.setPort_sent (s : State) (p : Nat) (x : Port) : (s.setPort p x).sent = s.sent := rfl
@[simp] theorem State.setPort_answer (s : State) (p : Nat) (x : Port) : (s.setPort p x).answer = s.answer := rfl
@[simp] theorem State.setPort_cardno (s : State) (p : Nat) (x : Port) : (s.setPort p x).cardno = s.cardno := rfl
@[simp] theorem State.setPort_cnv (s : State) (p : Nat) (x : Port) : (s.setPort p x).cnv = s.cnv := rfl
@[simp] theorem State.setPort_cardUsed (s : State) (p : Nat) (x : Port) : (s.setPort p x).cardUsed = s.cardUsed := rfl
@[simp] theorem State.setPort_sync (s : State) (p : Nat) (x : Port) : (s.setPort p x).sync = s.sync := rfl
@[simp] theorem State.setPort_timed (s : State) (p : Nat) (x : Port) : (s.setPort p x).timed = s.timed := rfl
@[simp] theorem State.setPort_slewAt (s : State) (p : Nat) (x : Port) : (s.setPort p x).slewAt = s.slewAt := rfl
@[simp] theorem State.setPort_lag (s : State) (p : Nat) (x : Port) : (s.setPort p x).lag = s.lag := rfl
@[simp] theorem State.setPort_ctxtab (s : State) (p : Nat) (x : Port) : (s.setPort p x).ctxtab = s.ctxtab := rfl
@[simp] theorem State.setPort_qtab (s : State) (p : Nat) (x : Port) : (s.setPort p x).qtab = s.qtab := rfl
@[simp] theorem State.setPort_mgmttl (s : State) (p : Nat) (x : Port) : (s.setPort p x).mgmttl = s.mgmttl := rfl
@[simp] theorem State.setPort_mgmtServed (s : State) (p : Nat) (x : Port) : (s.setPort p x).mgmtServed = s.mgmtServed := rfl
@[simp] theorem State.setPort_tmig (s : State) (p : Nat) (x : Port) : (s.setPort p x).tmig = s.tmig := rfl
@[simp] theorem State.setPort_tclamp (s : State) (p : Nat) (x : Port) : (s.setPort p x).tclamp = s.tclamp := rfl
@[simp] theorem State.setPort_thermalHost (s : State) (p : Nat) (x : Port) : (s.setPort p x).thermalHost = s.thermalHost := rfl
@[simp] theorem State.setPort_stagingHost (s : State) (p : Nat) (x : Port) : (s.setPort p x).stagingHost = s.stagingHost := rfl
@[simp] theorem State.setPort_stagingNext (s : State) (p : Nat) (x : Port) : (s.setPort p x).stagingNext = s.stagingNext := rfl
@[simp] theorem State.setPort_sampled (s : State) (p : Nat) (x : Port) : (s.setPort p x).sampled = s.sampled := rfl
@[simp] theorem State.setPort_traceBase (s : State) (p : Nat) (x : Port) : (s.setPort p x).traceBase = s.traceBase := rfl
@[simp] theorem State.setPort_traceSize (s : State) (p : Nat) (x : Port) : (s.setPort p x).traceSize = s.traceSize := rfl
@[simp] theorem State.setPort_traceMask (s : State) (p : Nat) (x : Port) : (s.setPort p x).traceMask = s.traceMask := rfl
@[simp] theorem State.setPort_wptr (s : State) (p : Nat) (x : Port) : (s.setPort p x).wptr = s.wptr := rfl
@[simp] theorem State.setPort_trace (s : State) (p : Nat) (x : Port) : (s.setPort p x).trace = s.trace := rfl
@[simp] theorem State.setPort_fw (s : State) (p : Nat) (x : Port) : (s.setPort p x).fw = s.fw := rfl
@[simp] theorem State.setPort_recovery (s : State) (p : Nat) (x : Port) : (s.setPort p x).recovery = s.recovery := rfl
@[simp] theorem State.setPort_nonce (s : State) (p : Nat) (x : Port) : (s.setPort p x).nonce = s.nonce := rfl
@[simp] theorem State.setPort_powered (s : State) (p : Nat) (x : Port) : (s.setPort p x).powered = s.powered := rfl
@[simp] theorem State.setPort_booted (s : State) (p : Nat) (x : Port) : (s.setPort p x).booted = s.booted := rfl
@[simp] theorem State.setPort_corr (s : State) (p : Nat) (x : Port) : (s.setPort p x).corr = s.corr := rfl
@[simp] theorem State.setPort_recal (s : State) (p : Nat) (x : Port) : (s.setPort p x).recal = s.recal := rfl
@[simp] theorem State.setPort_rings (s : State) (p : Nat) (x : Port) : (s.setPort p x).rings = s.rings := rfl
@[simp] theorem State.setPort_turns (s : State) (p : Nat) (x : Port) : (s.setPort p x).turns = s.turns := rfl
@[simp] theorem State.setPort_cur (s : State) (p : Nat) (x : Port) : (s.setPort p x).cur = s.cur := rfl
@[simp] theorem State.setPort_arg (s : State) (p : Nat) (x : Port) : (s.setPort p x).arg = s.arg := rfl
@[simp] theorem State.setPort_defer (s : State) (p : Nat) (x : Port) : (s.setPort p x).defer = s.defer := rfl
@[simp] theorem State.setPort_late (s : State) (p : Nat) (x : Port) : (s.setPort p x).late = s.late := rfl
@[simp] theorem State.setPort_free (s : State) (p : Nat) (x : Port) : (s.setPort p x).free = s.free := rfl

/-! ## setStrand -/

@[simp] theorem State.setStrand_cores (s : State) (r : StrandRef) (x : Strand) : (s.setStrand r x).cores = s.cores := rfl
@[simp] theorem State.setStrand_hoops (s : State) (r : StrandRef) (x : Strand) : (s.setStrand r x).hoops = s.hoops := rfl
@[simp] theorem State.setStrand_dies (s : State) (r : StrandRef) (x : Strand) : (s.setStrand r x).dies = s.dies := rfl
@[simp] theorem State.setStrand_groups (s : State) (r : StrandRef) (x : Strand) : (s.setStrand r x).groups = s.groups := rfl
@[simp] theorem State.setStrand_launches (s : State) (r : StrandRef) (x : Strand) : (s.setStrand r x).launches = s.launches := rfl
@[simp] theorem State.setStrand_contexts (s : State) (r : StrandRef) (x : Strand) : (s.setStrand r x).contexts = s.contexts := rfl
@[simp] theorem State.setStrand_queues (s : State) (r : StrandRef) (x : Strand) : (s.setStrand r x).queues = s.queues := rfl
@[simp] theorem State.setStrand_nextLaunch (s : State) (r : StrandRef) (x : Strand) : (s.setStrand r x).nextLaunch = s.nextLaunch := rfl
@[simp] theorem State.setStrand_nextGroup (s : State) (r : StrandRef) (x : Strand) : (s.setStrand r x).nextGroup = s.nextGroup := rfl
@[simp] theorem State.setStrand_nextZombie (s : State) (r : StrandRef) (x : Strand) : (s.setStrand r x).nextZombie = s.nextZombie := rfl
@[simp] theorem State.setStrand_nextLoad (s : State) (r : StrandRef) (x : Strand) : (s.setStrand r x).nextLoad = s.nextLoad := rfl
@[simp] theorem State.setStrand_nextReq (s : State) (r : StrandRef) (x : Strand) : (s.setStrand r x).nextReq = s.nextReq := rfl
@[simp] theorem State.setStrand_nextDecl (s : State) (r : StrandRef) (x : Strand) : (s.setStrand r x).nextDecl = s.nextDecl := rfl
@[simp] theorem State.setStrand_nextCmd (s : State) (r : StrandRef) (x : Strand) : (s.setStrand r x).nextCmd = s.nextCmd := rfl
@[simp] theorem State.setStrand_nextRun (s : State) (r : StrandRef) (x : Strand) : (s.setStrand r x).nextRun = s.nextRun := rfl
@[simp] theorem State.setStrand_served (s : State) (r : StrandRef) (x : Strand) : (s.setStrand r x).served = s.served := rfl
@[simp] theorem State.setStrand_mem (s : State) (r : StrandRef) (x : Strand) : (s.setStrand r x).mem = s.mem := rfl
@[simp] theorem State.setStrand_host (s : State) (r : StrandRef) (x : Strand) : (s.setStrand r x).host = s.host := rfl
@[simp] theorem State.setStrand_bad (s : State) (r : StrandRef) (x : Strand) : (s.setStrand r x).bad = s.bad := rfl
@[simp] theorem State.setStrand_owners (s : State) (r : StrandRef) (x : Strand) : (s.setStrand r x).owners = s.owners := rfl
@[simp] theorem State.setStrand_zeroing (s : State) (r : StrandRef) (x : Strand) : (s.setStrand r x).zeroing = s.zeroing := rfl
@[simp] theorem State.setStrand_zfs (s : State) (r : StrandRef) (x : Strand) : (s.setStrand r x).zfs = s.zfs := rfl
@[simp] theorem State.setStrand_cycle (s : State) (r : StrandRef) (x : Strand) : (s.setStrand r x).cycle = s.cycle := rfl
@[simp] theorem State.setStrand_ports (s : State) (r : StrandRef) (x : Strand) : (s.setStrand r x).ports = s.ports := rfl
@[simp] theorem State.setStrand_reqs (s : State) (r : StrandRef) (x : Strand) : (s.setStrand r x).reqs = s.reqs := rfl
@[simp] theorem State.setStrand_sent (s : State) (r : StrandRef) (x : Strand) : (s.setStrand r x).sent = s.sent := rfl
@[simp] theorem State.setStrand_answer (s : State) (r : StrandRef) (x : Strand) : (s.setStrand r x).answer = s.answer := rfl
@[simp] theorem State.setStrand_cardno (s : State) (r : StrandRef) (x : Strand) : (s.setStrand r x).cardno = s.cardno := rfl
@[simp] theorem State.setStrand_cnv (s : State) (r : StrandRef) (x : Strand) : (s.setStrand r x).cnv = s.cnv := rfl
@[simp] theorem State.setStrand_cardUsed (s : State) (r : StrandRef) (x : Strand) : (s.setStrand r x).cardUsed = s.cardUsed := rfl
@[simp] theorem State.setStrand_sync (s : State) (r : StrandRef) (x : Strand) : (s.setStrand r x).sync = s.sync := rfl
@[simp] theorem State.setStrand_timed (s : State) (r : StrandRef) (x : Strand) : (s.setStrand r x).timed = s.timed := rfl
@[simp] theorem State.setStrand_slewAt (s : State) (r : StrandRef) (x : Strand) : (s.setStrand r x).slewAt = s.slewAt := rfl
@[simp] theorem State.setStrand_lag (s : State) (r : StrandRef) (x : Strand) : (s.setStrand r x).lag = s.lag := rfl
@[simp] theorem State.setStrand_ctxtab (s : State) (r : StrandRef) (x : Strand) : (s.setStrand r x).ctxtab = s.ctxtab := rfl
@[simp] theorem State.setStrand_qtab (s : State) (r : StrandRef) (x : Strand) : (s.setStrand r x).qtab = s.qtab := rfl
@[simp] theorem State.setStrand_mgmttl (s : State) (r : StrandRef) (x : Strand) : (s.setStrand r x).mgmttl = s.mgmttl := rfl
@[simp] theorem State.setStrand_mgmtServed (s : State) (r : StrandRef) (x : Strand) : (s.setStrand r x).mgmtServed = s.mgmtServed := rfl
@[simp] theorem State.setStrand_tmig (s : State) (r : StrandRef) (x : Strand) : (s.setStrand r x).tmig = s.tmig := rfl
@[simp] theorem State.setStrand_tclamp (s : State) (r : StrandRef) (x : Strand) : (s.setStrand r x).tclamp = s.tclamp := rfl
@[simp] theorem State.setStrand_thermalHost (s : State) (r : StrandRef) (x : Strand) : (s.setStrand r x).thermalHost = s.thermalHost := rfl
@[simp] theorem State.setStrand_stagingHost (s : State) (r : StrandRef) (x : Strand) : (s.setStrand r x).stagingHost = s.stagingHost := rfl
@[simp] theorem State.setStrand_stagingNext (s : State) (r : StrandRef) (x : Strand) : (s.setStrand r x).stagingNext = s.stagingNext := rfl
@[simp] theorem State.setStrand_sampled (s : State) (r : StrandRef) (x : Strand) : (s.setStrand r x).sampled = s.sampled := rfl
@[simp] theorem State.setStrand_traceBase (s : State) (r : StrandRef) (x : Strand) : (s.setStrand r x).traceBase = s.traceBase := rfl
@[simp] theorem State.setStrand_traceSize (s : State) (r : StrandRef) (x : Strand) : (s.setStrand r x).traceSize = s.traceSize := rfl
@[simp] theorem State.setStrand_traceMask (s : State) (r : StrandRef) (x : Strand) : (s.setStrand r x).traceMask = s.traceMask := rfl
@[simp] theorem State.setStrand_wptr (s : State) (r : StrandRef) (x : Strand) : (s.setStrand r x).wptr = s.wptr := rfl
@[simp] theorem State.setStrand_trace (s : State) (r : StrandRef) (x : Strand) : (s.setStrand r x).trace = s.trace := rfl
@[simp] theorem State.setStrand_fw (s : State) (r : StrandRef) (x : Strand) : (s.setStrand r x).fw = s.fw := rfl
@[simp] theorem State.setStrand_recovery (s : State) (r : StrandRef) (x : Strand) : (s.setStrand r x).recovery = s.recovery := rfl
@[simp] theorem State.setStrand_nonce (s : State) (r : StrandRef) (x : Strand) : (s.setStrand r x).nonce = s.nonce := rfl
@[simp] theorem State.setStrand_powered (s : State) (r : StrandRef) (x : Strand) : (s.setStrand r x).powered = s.powered := rfl
@[simp] theorem State.setStrand_booted (s : State) (r : StrandRef) (x : Strand) : (s.setStrand r x).booted = s.booted := rfl
@[simp] theorem State.setStrand_corr (s : State) (r : StrandRef) (x : Strand) : (s.setStrand r x).corr = s.corr := rfl
@[simp] theorem State.setStrand_recal (s : State) (r : StrandRef) (x : Strand) : (s.setStrand r x).recal = s.recal := rfl
@[simp] theorem State.setStrand_rings (s : State) (r : StrandRef) (x : Strand) : (s.setStrand r x).rings = s.rings := rfl
@[simp] theorem State.setStrand_turns (s : State) (r : StrandRef) (x : Strand) : (s.setStrand r x).turns = s.turns := rfl
@[simp] theorem State.setStrand_cur (s : State) (r : StrandRef) (x : Strand) : (s.setStrand r x).cur = s.cur := rfl
@[simp] theorem State.setStrand_arg (s : State) (r : StrandRef) (x : Strand) : (s.setStrand r x).arg = s.arg := rfl
@[simp] theorem State.setStrand_defer (s : State) (r : StrandRef) (x : Strand) : (s.setStrand r x).defer = s.defer := rfl
@[simp] theorem State.setStrand_late (s : State) (r : StrandRef) (x : Strand) : (s.setStrand r x).late = s.late := rfl
@[simp] theorem State.setStrand_free (s : State) (r : StrandRef) (x : Strand) : (s.setStrand r x).free = s.free := rfl

/-! ## Reading a part after an update of a part -/

@[simp] theorem State.task_setTask (s : State) (t : Nat) (x : Task) : (s.setTask t x).task t = x := by
  simp [State.task, State.setTask]
theorem State.task_setTask_ne (s : State) {k j : Nat} (x : Task) (h : j ≠ k) : (s.setTask k x).task j = s.task j := by
  simp [State.task, State.setTask, h]
@[simp] theorem State.task_setCore (s : State) (j : Nat) (c : Nat) (x : Core) : (s.setCore c x).task j = s.task j := rfl
@[simp] theorem State.task_setHoop (s : State) (j : Nat) (h : Nat) (x : Hoop) : (s.setHoop h x).task j = s.task j := rfl
@[simp] theorem State.task_setDie (s : State) (j : Nat) (d : Nat) (x : Die) : (s.setDie d x).task j = s.task j := rfl
@[simp] theorem State.task_setCtx (s : State) (j : Nat) (c : Nat) (x : Context) : (s.setCtx c x).task j = s.task j := rfl
@[simp] theorem State.task_setQueue (s : State) (j : Nat) (q : Nat) (x : Queue) : (s.setQueue q x).task j = s.task j := rfl
@[simp] theorem State.task_setLaunch (s : State) (j : Nat) (l : Nat) (x : Launch) : (s.setLaunch l x).task j = s.task j := rfl
@[simp] theorem State.task_setGroup (s : State) (j : Nat) (g : Nat) (x : Group) : (s.setGroup g x).task j = s.task j := rfl
@[simp] theorem State.task_setPort (s : State) (j : Nat) (p : Nat) (x : Port) : (s.setPort p x).task j = s.task j := rfl

@[simp] theorem State.core_setCore (s : State) (c : Nat) (x : Core) : (s.setCore c x).core c = x := by
  simp [State.core, State.setCore]
theorem State.core_setCore_ne (s : State) {k j : Nat} (x : Core) (h : j ≠ k) : (s.setCore k x).core j = s.core j := by
  simp [State.core, State.setCore, h]
@[simp] theorem State.core_setTask (s : State) (j : Nat) (t : Nat) (x : Task) : (s.setTask t x).core j = s.core j := rfl
@[simp] theorem State.core_setHoop (s : State) (j : Nat) (h : Nat) (x : Hoop) : (s.setHoop h x).core j = s.core j := rfl
@[simp] theorem State.core_setDie (s : State) (j : Nat) (d : Nat) (x : Die) : (s.setDie d x).core j = s.core j := rfl
@[simp] theorem State.core_setCtx (s : State) (j : Nat) (c : Nat) (x : Context) : (s.setCtx c x).core j = s.core j := rfl
@[simp] theorem State.core_setQueue (s : State) (j : Nat) (q : Nat) (x : Queue) : (s.setQueue q x).core j = s.core j := rfl
@[simp] theorem State.core_setLaunch (s : State) (j : Nat) (l : Nat) (x : Launch) : (s.setLaunch l x).core j = s.core j := rfl
@[simp] theorem State.core_setGroup (s : State) (j : Nat) (g : Nat) (x : Group) : (s.setGroup g x).core j = s.core j := rfl
@[simp] theorem State.core_setPort (s : State) (j : Nat) (p : Nat) (x : Port) : (s.setPort p x).core j = s.core j := rfl
@[simp] theorem State.core_setStrand (s : State) (j : Nat) (r : StrandRef) (x : Strand) : (s.setStrand r x).core j = s.core j := rfl

@[simp] theorem State.hoop_setHoop (s : State) (h : Nat) (x : Hoop) : (s.setHoop h x).hoop h = x := by
  simp [State.hoop, State.setHoop]
theorem State.hoop_setHoop_ne (s : State) {k j : Nat} (x : Hoop) (h : j ≠ k) : (s.setHoop k x).hoop j = s.hoop j := by
  simp [State.hoop, State.setHoop, h]
@[simp] theorem State.hoop_setTask (s : State) (j : Nat) (t : Nat) (x : Task) : (s.setTask t x).hoop j = s.hoop j := rfl
@[simp] theorem State.hoop_setCore (s : State) (j : Nat) (c : Nat) (x : Core) : (s.setCore c x).hoop j = s.hoop j := rfl
@[simp] theorem State.hoop_setDie (s : State) (j : Nat) (d : Nat) (x : Die) : (s.setDie d x).hoop j = s.hoop j := rfl
@[simp] theorem State.hoop_setCtx (s : State) (j : Nat) (c : Nat) (x : Context) : (s.setCtx c x).hoop j = s.hoop j := rfl
@[simp] theorem State.hoop_setQueue (s : State) (j : Nat) (q : Nat) (x : Queue) : (s.setQueue q x).hoop j = s.hoop j := rfl
@[simp] theorem State.hoop_setLaunch (s : State) (j : Nat) (l : Nat) (x : Launch) : (s.setLaunch l x).hoop j = s.hoop j := rfl
@[simp] theorem State.hoop_setGroup (s : State) (j : Nat) (g : Nat) (x : Group) : (s.setGroup g x).hoop j = s.hoop j := rfl
@[simp] theorem State.hoop_setPort (s : State) (j : Nat) (p : Nat) (x : Port) : (s.setPort p x).hoop j = s.hoop j := rfl
@[simp] theorem State.hoop_setStrand (s : State) (j : Nat) (r : StrandRef) (x : Strand) : (s.setStrand r x).hoop j = s.hoop j := rfl

@[simp] theorem State.die_setDie (s : State) (d : Nat) (x : Die) : (s.setDie d x).die d = x := by
  simp [State.die, State.setDie]
theorem State.die_setDie_ne (s : State) {k j : Nat} (x : Die) (h : j ≠ k) : (s.setDie k x).die j = s.die j := by
  simp [State.die, State.setDie, h]
@[simp] theorem State.die_setTask (s : State) (j : Nat) (t : Nat) (x : Task) : (s.setTask t x).die j = s.die j := rfl
@[simp] theorem State.die_setCore (s : State) (j : Nat) (c : Nat) (x : Core) : (s.setCore c x).die j = s.die j := rfl
@[simp] theorem State.die_setHoop (s : State) (j : Nat) (h : Nat) (x : Hoop) : (s.setHoop h x).die j = s.die j := rfl
@[simp] theorem State.die_setCtx (s : State) (j : Nat) (c : Nat) (x : Context) : (s.setCtx c x).die j = s.die j := rfl
@[simp] theorem State.die_setQueue (s : State) (j : Nat) (q : Nat) (x : Queue) : (s.setQueue q x).die j = s.die j := rfl
@[simp] theorem State.die_setLaunch (s : State) (j : Nat) (l : Nat) (x : Launch) : (s.setLaunch l x).die j = s.die j := rfl
@[simp] theorem State.die_setGroup (s : State) (j : Nat) (g : Nat) (x : Group) : (s.setGroup g x).die j = s.die j := rfl
@[simp] theorem State.die_setPort (s : State) (j : Nat) (p : Nat) (x : Port) : (s.setPort p x).die j = s.die j := rfl
@[simp] theorem State.die_setStrand (s : State) (j : Nat) (r : StrandRef) (x : Strand) : (s.setStrand r x).die j = s.die j := rfl

@[simp] theorem State.ctx_setCtx (s : State) (c : Nat) (x : Context) : (s.setCtx c x).ctx c = x := by
  simp [State.ctx, State.setCtx]
theorem State.ctx_setCtx_ne (s : State) {k j : Nat} (x : Context) (h : j ≠ k) : (s.setCtx k x).ctx j = s.ctx j := by
  simp [State.ctx, State.setCtx, h]
@[simp] theorem State.ctx_setTask (s : State) (j : Nat) (t : Nat) (x : Task) : (s.setTask t x).ctx j = s.ctx j := rfl
@[simp] theorem State.ctx_setCore (s : State) (j : Nat) (c : Nat) (x : Core) : (s.setCore c x).ctx j = s.ctx j := rfl
@[simp] theorem State.ctx_setHoop (s : State) (j : Nat) (h : Nat) (x : Hoop) : (s.setHoop h x).ctx j = s.ctx j := rfl
@[simp] theorem State.ctx_setDie (s : State) (j : Nat) (d : Nat) (x : Die) : (s.setDie d x).ctx j = s.ctx j := rfl
@[simp] theorem State.ctx_setQueue (s : State) (j : Nat) (q : Nat) (x : Queue) : (s.setQueue q x).ctx j = s.ctx j := rfl
@[simp] theorem State.ctx_setLaunch (s : State) (j : Nat) (l : Nat) (x : Launch) : (s.setLaunch l x).ctx j = s.ctx j := rfl
@[simp] theorem State.ctx_setGroup (s : State) (j : Nat) (g : Nat) (x : Group) : (s.setGroup g x).ctx j = s.ctx j := rfl
@[simp] theorem State.ctx_setPort (s : State) (j : Nat) (p : Nat) (x : Port) : (s.setPort p x).ctx j = s.ctx j := rfl
@[simp] theorem State.ctx_setStrand (s : State) (j : Nat) (r : StrandRef) (x : Strand) : (s.setStrand r x).ctx j = s.ctx j := rfl

@[simp] theorem State.queue_setQueue (s : State) (q : Nat) (x : Queue) : (s.setQueue q x).queue q = x := by
  simp [State.queue, State.setQueue]
theorem State.queue_setQueue_ne (s : State) {k j : Nat} (x : Queue) (h : j ≠ k) : (s.setQueue k x).queue j = s.queue j := by
  simp [State.queue, State.setQueue, h]
@[simp] theorem State.queue_setTask (s : State) (j : Nat) (t : Nat) (x : Task) : (s.setTask t x).queue j = s.queue j := rfl
@[simp] theorem State.queue_setCore (s : State) (j : Nat) (c : Nat) (x : Core) : (s.setCore c x).queue j = s.queue j := rfl
@[simp] theorem State.queue_setHoop (s : State) (j : Nat) (h : Nat) (x : Hoop) : (s.setHoop h x).queue j = s.queue j := rfl
@[simp] theorem State.queue_setDie (s : State) (j : Nat) (d : Nat) (x : Die) : (s.setDie d x).queue j = s.queue j := rfl
@[simp] theorem State.queue_setCtx (s : State) (j : Nat) (c : Nat) (x : Context) : (s.setCtx c x).queue j = s.queue j := rfl
@[simp] theorem State.queue_setLaunch (s : State) (j : Nat) (l : Nat) (x : Launch) : (s.setLaunch l x).queue j = s.queue j := rfl
@[simp] theorem State.queue_setGroup (s : State) (j : Nat) (g : Nat) (x : Group) : (s.setGroup g x).queue j = s.queue j := rfl
@[simp] theorem State.queue_setPort (s : State) (j : Nat) (p : Nat) (x : Port) : (s.setPort p x).queue j = s.queue j := rfl
@[simp] theorem State.queue_setStrand (s : State) (j : Nat) (r : StrandRef) (x : Strand) : (s.setStrand r x).queue j = s.queue j := rfl

@[simp] theorem State.launch_setLaunch (s : State) (l : Nat) (x : Launch) : (s.setLaunch l x).launch l = x := by
  simp [State.launch, State.setLaunch]
theorem State.launch_setLaunch_ne (s : State) {k j : Nat} (x : Launch) (h : j ≠ k) : (s.setLaunch k x).launch j = s.launch j := by
  simp [State.launch, State.setLaunch, h]
@[simp] theorem State.launch_setTask (s : State) (j : Nat) (t : Nat) (x : Task) : (s.setTask t x).launch j = s.launch j := rfl
@[simp] theorem State.launch_setCore (s : State) (j : Nat) (c : Nat) (x : Core) : (s.setCore c x).launch j = s.launch j := rfl
@[simp] theorem State.launch_setHoop (s : State) (j : Nat) (h : Nat) (x : Hoop) : (s.setHoop h x).launch j = s.launch j := rfl
@[simp] theorem State.launch_setDie (s : State) (j : Nat) (d : Nat) (x : Die) : (s.setDie d x).launch j = s.launch j := rfl
@[simp] theorem State.launch_setCtx (s : State) (j : Nat) (c : Nat) (x : Context) : (s.setCtx c x).launch j = s.launch j := rfl
@[simp] theorem State.launch_setQueue (s : State) (j : Nat) (q : Nat) (x : Queue) : (s.setQueue q x).launch j = s.launch j := rfl
@[simp] theorem State.launch_setGroup (s : State) (j : Nat) (g : Nat) (x : Group) : (s.setGroup g x).launch j = s.launch j := rfl
@[simp] theorem State.launch_setPort (s : State) (j : Nat) (p : Nat) (x : Port) : (s.setPort p x).launch j = s.launch j := rfl
@[simp] theorem State.launch_setStrand (s : State) (j : Nat) (r : StrandRef) (x : Strand) : (s.setStrand r x).launch j = s.launch j := rfl

@[simp] theorem State.group_setGroup (s : State) (g : Nat) (x : Group) : (s.setGroup g x).group g = x := by
  simp [State.group, State.setGroup]
theorem State.group_setGroup_ne (s : State) {k j : Nat} (x : Group) (h : j ≠ k) : (s.setGroup k x).group j = s.group j := by
  simp [State.group, State.setGroup, h]
@[simp] theorem State.group_setTask (s : State) (j : Nat) (t : Nat) (x : Task) : (s.setTask t x).group j = s.group j := rfl
@[simp] theorem State.group_setCore (s : State) (j : Nat) (c : Nat) (x : Core) : (s.setCore c x).group j = s.group j := rfl
@[simp] theorem State.group_setHoop (s : State) (j : Nat) (h : Nat) (x : Hoop) : (s.setHoop h x).group j = s.group j := rfl
@[simp] theorem State.group_setDie (s : State) (j : Nat) (d : Nat) (x : Die) : (s.setDie d x).group j = s.group j := rfl
@[simp] theorem State.group_setCtx (s : State) (j : Nat) (c : Nat) (x : Context) : (s.setCtx c x).group j = s.group j := rfl
@[simp] theorem State.group_setQueue (s : State) (j : Nat) (q : Nat) (x : Queue) : (s.setQueue q x).group j = s.group j := rfl
@[simp] theorem State.group_setLaunch (s : State) (j : Nat) (l : Nat) (x : Launch) : (s.setLaunch l x).group j = s.group j := rfl
@[simp] theorem State.group_setPort (s : State) (j : Nat) (p : Nat) (x : Port) : (s.setPort p x).group j = s.group j := rfl
@[simp] theorem State.group_setStrand (s : State) (j : Nat) (r : StrandRef) (x : Strand) : (s.setStrand r x).group j = s.group j := rfl

@[simp] theorem State.port_setPort (s : State) (p : Nat) (x : Port) : (s.setPort p x).port p = x := by
  simp [State.port, State.setPort]
theorem State.port_setPort_ne (s : State) {k j : Nat} (x : Port) (h : j ≠ k) : (s.setPort k x).port j = s.port j := by
  simp [State.port, State.setPort, h]
@[simp] theorem State.port_setTask (s : State) (j : Nat) (t : Nat) (x : Task) : (s.setTask t x).port j = s.port j := rfl
@[simp] theorem State.port_setCore (s : State) (j : Nat) (c : Nat) (x : Core) : (s.setCore c x).port j = s.port j := rfl
@[simp] theorem State.port_setHoop (s : State) (j : Nat) (h : Nat) (x : Hoop) : (s.setHoop h x).port j = s.port j := rfl
@[simp] theorem State.port_setDie (s : State) (j : Nat) (d : Nat) (x : Die) : (s.setDie d x).port j = s.port j := rfl
@[simp] theorem State.port_setCtx (s : State) (j : Nat) (c : Nat) (x : Context) : (s.setCtx c x).port j = s.port j := rfl
@[simp] theorem State.port_setQueue (s : State) (j : Nat) (q : Nat) (x : Queue) : (s.setQueue q x).port j = s.port j := rfl
@[simp] theorem State.port_setLaunch (s : State) (j : Nat) (l : Nat) (x : Launch) : (s.setLaunch l x).port j = s.port j := rfl
@[simp] theorem State.port_setGroup (s : State) (j : Nat) (g : Nat) (x : Group) : (s.setGroup g x).port j = s.port j := rfl
@[simp] theorem State.port_setStrand (s : State) (j : Nat) (r : StrandRef) (x : Strand) : (s.setStrand r x).port j = s.port j := rfl

/-! ## Strands -/

@[simp] theorem Task.strand_setStrand (x : Task) (u : UnitId) (d : Strand) : (x.setStrand u d).strand u = d := by
  cases u <;> rfl

theorem Task.strand_setStrand_ne (x : Task) {u v : UnitId} (d : Strand) (h : v ≠ u) :
    (x.setStrand u d).strand v = x.strand v := by
  cases u <;> cases v <;> first | rfl | exact absurd rfl h

@[simp] theorem Task.setStrand_setStrand (x : Task) (u : UnitId) (d e : Strand) :
    (x.setStrand u d).setStrand u e = x.setStrand u e := by
  cases u <;> rfl

@[simp] theorem Task.setStrand_ctx (x : Task) (u : UnitId) (d : Strand) : (x.setStrand u d).ctx = x.ctx := by
  cases u <;> rfl
@[simp] theorem Task.setStrand_queue (x : Task) (u : UnitId) (d : Strand) : (x.setStrand u d).queue = x.queue := by
  cases u <;> rfl
@[simp] theorem Task.setStrand_launch (x : Task) (u : UnitId) (d : Strand) : (x.setStrand u d).launch = x.launch := by
  cases u <;> rfl
@[simp] theorem Task.setStrand_index (x : Task) (u : UnitId) (d : Strand) : (x.setStrand u d).index = x.index := by
  cases u <;> rfl
@[simp] theorem Task.setStrand_group (x : Task) (u : UnitId) (d : Strand) : (x.setStrand u d).group = x.group := by
  cases u <;> rfl
@[simp] theorem Task.setStrand_member (x : Task) (u : UnitId) (d : Strand) : (x.setStrand u d).member = x.member := by
  cases u <;> rfl
@[simp] theorem Task.setStrand_gsize (x : Task) (u : UnitId) (d : Strand) : (x.setStrand u d).gsize = x.gsize := by
  cases u <;> rfl
@[simp] theorem Task.setStrand_code (x : Task) (u : UnitId) (d : Strand) : (x.setStrand u d).code = x.code := by
  cases u <;> rfl
@[simp] theorem Task.setStrand_hdr (x : Task) (u : UnitId) (d : Strand) : (x.setStrand u d).hdr = x.hdr := by
  cases u <;> rfl
@[simp] theorem Task.setStrand_core (x : Task) (u : UnitId) (d : Strand) : (x.setStrand u d).core = x.core := by
  cases u <;> rfl
@[simp] theorem Task.setStrand_slot (x : Task) (u : UnitId) (d : Strand) : (x.setStrand u d).slot = x.slot := by
  cases u <;> rfl
@[simp] theorem Task.setStrand_gran0 (x : Task) (u : UnitId) (d : Strand) : (x.setStrand u d).gran0 = x.gran0 := by
  cases u <;> rfl
@[simp] theorem Task.setStrand_spans (x : Task) (u : UnitId) (d : Strand) : (x.setStrand u d).spans = x.spans := by
  cases u <;> rfl
@[simp] theorem Task.setStrand_queues (x : Task) (u : UnitId) (d : Strand) : (x.setStrand u d).queues = x.queues := by
  cases u <;> rfl
@[simp] theorem Task.setStrand_chans (x : Task) (u : UnitId) (d : Strand) : (x.setStrand u d).chans = x.chans := by
  cases u <;> rfl
@[simp] theorem Task.setStrand_mat (x : Task) (u : UnitId) (d : Strand) : (x.setStrand u d).mat = x.mat := by
  cases u <;> rfl
@[simp] theorem Task.setStrand_povf (x : Task) (u : UnitId) (d : Strand) : (x.setStrand u d).povf = x.povf := by
  cases u <;> rfl
@[simp] theorem Task.setStrand_runtime (x : Task) (u : UnitId) (d : Strand) : (x.setStrand u d).runtime = x.runtime := by
  cases u <;> rfl
@[simp] theorem Task.setStrand_step (x : Task) (u : UnitId) (d : Strand) : (x.setStrand u d).step = x.step := by
  cases u <;> rfl
@[simp] theorem Task.setStrand_entry (x : Task) (u : UnitId) (d : Strand) : (x.setStrand u d).entry = x.entry := by
  cases u <;> rfl
@[simp] theorem Task.setStrand_taken (x : Task) (u : UnitId) (d : Strand) : (x.setStrand u d).taken = x.taken := by
  cases u <;> rfl
@[simp] theorem Task.setStrand_deliveries (x : Task) (u : UnitId) (d : Strand) : (x.setStrand u d).deliveries = x.deliveries := by
  cases u <;> rfl
@[simp] theorem Task.setStrand_dropped (x : Task) (u : UnitId) (d : Strand) : (x.setStrand u d).dropped = x.dropped := by
  cases u <;> rfl
@[simp] theorem Task.setStrand_sent (x : Task) (u : UnitId) (d : Strand) : (x.setStrand u d).sent = x.sent := by
  cases u <;> rfl
@[simp] theorem Task.setStrand_stopReq (x : Task) (u : UnitId) (d : Strand) : (x.setStrand u d).stopReq = x.stopReq := by
  cases u <;> rfl
@[simp] theorem Task.setStrand_stopFor (x : Task) (u : UnitId) (d : Strand) : (x.setStrand u d).stopFor = x.stopFor := by
  cases u <;> rfl
@[simp] theorem Task.setStrand_frozenBy (x : Task) (u : UnitId) (d : Strand) : (x.setStrand u d).frozenBy = x.frozenBy := by
  cases u <;> rfl
@[simp] theorem Task.setStrand_late (x : Task) (u : UnitId) (d : Strand) : (x.setStrand u d).late = x.late := by
  cases u <;> rfl
@[simp] theorem Task.setStrand_life (x : Task) (u : UnitId) (d : Strand) : (x.setStrand u d).life = x.life := by
  cases u <;> rfl
@[simp] theorem Task.setStrand_placed (x : Task) (u : UnitId) (d : Strand) : (x.setStrand u d).placed = x.placed := by
  cases u <;> rfl
@[simp] theorem Task.setStrand_image (x : Task) (u : UnitId) (d : Strand) : (x.setStrand u d).image = x.image := by
  cases u <;> rfl
@[simp] theorem Task.setStrand_savedAt (x : Task) (u : UnitId) (d : Strand) : (x.setStrand u d).savedAt = x.savedAt := by
  cases u <;> rfl
@[simp] theorem Task.setStrand_pending (x : Task) (u : UnitId) (d : Strand) : (x.setStrand u d).pending = x.pending := by
  cases u <;> rfl
@[simp] theorem Task.setStrand_complete (x : Task) (u : UnitId) (d : Strand) : (x.setStrand u d).complete = x.complete := by
  cases u <;> rfl
@[simp] theorem Task.setStrand_reasons (x : Task) (u : UnitId) (d : Strand) : (x.setStrand u d).reasons = x.reasons := by
  cases u <;> rfl
@[simp] theorem Task.setStrand_parked (x : Task) (u : UnitId) (d : Strand) : (x.setStrand u d).parked = x.parked := by
  cases u <;> rfl
@[simp] theorem Task.setStrand_refused (x : Task) (u : UnitId) (d : Strand) : (x.setStrand u d).refused = x.refused := by
  cases u <;> rfl
@[simp] theorem Task.setStrand_oldParty (x : Task) (u : UnitId) (d : Strand) : (x.setStrand u d).oldParty = x.oldParty := by
  cases u <;> rfl
@[simp] theorem Task.setStrand_engineEnd (x : Task) (u : UnitId) (d : Strand) : (x.setStrand u d).engineEnd = x.engineEnd := by
  cases u <;> rfl
@[simp] theorem Task.setStrand_carveEnd (x : Task) (u : UnitId) (d : Strand) : (x.setStrand u d).carveEnd = x.carveEnd := by
  cases u <;> rfl
@[simp] theorem Task.setStrand_savedVec (x : Task) (u : UnitId) (d : Strand) : (x.setStrand u d).savedVec = x.savedVec := by
  cases u <;> rfl
@[simp] theorem Task.setStrand_savedMat (x : Task) (u : UnitId) (d : Strand) : (x.setStrand u d).savedMat = x.savedMat := by
  cases u <;> rfl
@[simp] theorem Task.setStrand_savedCarve (x : Task) (u : UnitId) (d : Strand) : (x.setStrand u d).savedCarve = x.savedCarve := by
  cases u <;> rfl
@[simp] theorem Task.setStrand_savedSlots (x : Task) (u : UnitId) (d : Strand) : (x.setStrand u d).savedSlots = x.savedSlots := by
  cases u <;> rfl
@[simp] theorem Task.setStrand_savedAccs (x : Task) (u : UnitId) (d : Strand) : (x.setStrand u d).savedAccs = x.savedAccs := by
  cases u <;> rfl
@[simp] theorem Task.setStrand_savedRes (x : Task) (u : UnitId) (d : Strand) : (x.setStrand u d).savedRes = x.savedRes := by
  cases u <;> rfl
@[simp] theorem Task.setStrand_orphaned (x : Task) (u : UnitId) (d : Strand) : (x.setStrand u d).orphaned = x.orphaned := by
  cases u <;> rfl

@[simp] theorem State.strand_setStrand (s : State) (r : StrandRef) (d : Strand) : (s.setStrand r d).strand r = d := by
  simp [State.strand, State.setStrand]

theorem State.strand_setStrand_ne (s : State) {r q : StrandRef} (d : Strand) (h : q ≠ r) :
    (s.setStrand r d).strand q = s.strand q := by
  rcases r with ⟨t, u⟩
  rcases q with ⟨t', u'⟩
  by_cases ht : t' = t
  · subst ht
    have hu : u' ≠ u := fun e => h (by rw [e])
    simp [State.strand, State.setStrand, Task.strand_setStrand_ne _ _ hu]
  · simp [State.strand, State.setStrand, State.task_setTask_ne _ _ ht]

@[simp] theorem State.task_setStrand (s : State) (r : StrandRef) (d : Strand) :
    (s.setStrand r d).task r.task = (s.task r.task).setStrand r.unit d := by
  simp [State.setStrand]

theorem State.task_setStrand_ne (s : State) {k : Nat} (r : StrandRef) (d : Strand) (h : k ≠ r.task) :
    (s.setStrand r d).task k = s.task k := by
  simp [State.setStrand, State.task_setTask_ne _ _ h]

@[simp] theorem State.setTask_setTask (s : State) (t : Nat) (x y : Task) : (s.setTask t x).setTask t y = s.setTask t y := by
  simp [State.setTask]

@[simp] theorem State.setStrand_setStrand (s : State) (r : StrandRef) (d e : Strand) :
    (s.setStrand r d).setStrand r e = s.setStrand r e := by
  simp [State.setStrand]

theorem State.setTask_setStrand (s : State) (r : StrandRef) (d : Strand) (x : Task) :
    (s.setStrand r d).setTask r.task x = s.setTask r.task x := by
  simp [State.setStrand]

theorem State.curStrand_eq (s : State) : s.curStrand = s.strand s.cur := rfl

theorem State.curTask_eq (s : State) : s.curTask = s.task s.cur.task := rfl

@[simp] theorem State.curStrand_setStrand_cur (s : State) (d : Strand) : (s.setStrand s.cur d).curStrand = d := by
  simp [State.curStrand]

@[simp] theorem State.curTask_setTask_cur (s : State) (x : Task) : (s.setTask s.cur.task x).curTask = x := by
  simp [State.curTask]

@[simp] theorem State.setStrand_get (s : State) (r : StrandRef) (d : Strand) :
    Assoc.get? (s.setStrand r d).tasks r.task = some ((s.task r.task).setStrand r.unit d) := by
  simp [State.setStrand, State.setTask]

end Sys2Proof.Machine
end

