-- ==== Sys2Proof/Laws/Pending.lean ====
section
/-! SUPPORT. What the accesses of a strand that perform late leave: of the tasks, everything but that strand's queues of loads and
stores; and nothing happens where neither is pending. -/

namespace Sys2Proof.Machine

/-- Of the tasks nothing has changed but the loads and stores of one strand that are pending, and the same strand executes. -/
def State.sameButPending (s t : State) (r : StrandRef) : Prop :=
  t.cur = s.cur ∧ (∀ k, k ≠ r.task → t.task k = s.task k) ∧
  ∃ l p, t.task r.task = (s.task r.task).setStrand r.unit { s.strand r with loads := l, stores := p }

theorem Task.setStrand_strand (x : Task) (u : UnitId) : x.setStrand u (x.strand u) = x := by cases u <;> rfl

theorem State.sameButPending_refl (s : State) (r : StrandRef) : s.sameButPending s r :=
  ⟨rfl, fun _ _ => rfl, (s.strand r).loads, (s.strand r).stores, (Task.setStrand_strand ..).symm⟩

theorem State.sameButPending_of {s t : State} {r : StrandRef} (hc : t.cur = s.cur) (h : t.tasks = s.tasks) :
    s.sameButPending t r := by
  have hk : ∀ k, t.task k = s.task k := fun k => by simp only [State.task, h]
  exact ⟨hc, fun k _ => hk k, (s.strand r).loads, (s.strand r).stores, by rw [hk]; exact (Task.setStrand_strand ..).symm⟩

theorem State.sameButPending.trans {s t u : State} {r : StrandRef} (h : s.sameButPending t r) (k : t.sameButPending u r) :
    s.sameButPending u r := by
  obtain ⟨h1, h2, l, p, h3⟩ := h
  obtain ⟨k1, k2, m, q, k3⟩ := k
  refine ⟨by rw [k1, h1], fun n hn => by rw [k2 n hn, h2 n hn], m, q, ?_⟩
  rw [k3, h3]
  simp only [State.strand, h3, Task.strand_setStrand, Task.setStrand_setStrand]

theorem State.sameButPending_setStrand (s : State) (r : StrandRef) (l : List PendLoad) (p : List PendStore) :
    s.sameButPending (s.setStrand r { s.strand r with loads := l, stores := p }) r :=
  ⟨rfl, fun _ h => State.task_setStrand_ne _ _ _ h, l, p, State.task_setStrand ..⟩

/-! ## One access -/

theorem State.tasks_writePad (s : State) (c lo : Nat) (bs : List Byte) : (s.writePad c lo bs).tasks = s.tasks := rfl

theorem State.cur_writePad (s : State) (c lo : Nat) (bs : List Byte) : (s.writePad c lo bs).cur = s.cur := rfl

theorem State.tasks_dropResidency (s : State) (c lo n : Nat) : (s.dropResidency c lo n).tasks = s.tasks := by
  simp only [State.dropResidency]; split <;> rfl

theorem State.cur_dropResidency (s : State) (c lo n : Nat) : (s.dropResidency c lo n).cur = s.cur := by
  simp only [State.dropResidency]; split <;> rfl

theorem State.tasks_writeAt (s : State) (r : StrandRef) (l : Loc) (n v : Nat) : (s.writeAt r l n v).tasks = s.tasks := by
  cases l with
  | pad c lo sh => cases sh <;> simp [State.writeAt, State.tasks_dropResidency, State.tasks_writePad]
  | home pa pte => rfl
  | link _ _ _ => rfl

theorem State.cur_writeAt (s : State) (r : StrandRef) (l : Loc) (n v : Nat) : (s.writeAt r l n v).cur = s.cur := by
  cases l with
  | pad c lo sh => cases sh <;> simp [State.writeAt, State.cur_dropResidency, State.cur_writePad]
  | home pa pte => rfl
  | link _ _ _ => rfl

theorem State.dieSector_frame (s : State) (c d a : Nat) :
    (s.dieSector c d a).2.tasks = s.tasks ∧ (s.dieSector c d a).2.cur = s.cur ∧ (s.dieSector c d a).2.mem = s.mem := by
  simp only [State.dieSector]
  split
  · exact ⟨rfl, rfl, rfl⟩
  · split <;> exact ⟨rfl, rfl, rfl⟩

theorem State.coreSector_frame (s : State) (c k a : Nat) :
    (s.coreSector c k a).2.tasks = s.tasks ∧ (s.coreSector c k a).2.cur = s.cur ∧ (s.coreSector c k a).2.mem = s.mem := by
  simp only [State.coreSector]
  split
  · exact ⟨rfl, rfl, rfl⟩
  · exact s.dieSector_frame c (dieOf k) a

theorem State.loadG_frame (s : State) (c k a n : Nat) (uc : Bool) :
    (s.loadG c k a n uc).2.tasks = s.tasks ∧ (s.loadG c k a n uc).2.cur = s.cur ∧ (s.loadG c k a n uc).2.mem = s.mem := by
  cases uc
  · exact s.coreSector_frame c k a
  · exact s.dieSector_frame c (dieOf k) a

theorem State.readAt_frame (s : State) (r : StrandRef) (l : Loc) (n : Nat) :
    (s.readAt r l n).2.tasks = s.tasks ∧ (s.readAt r l n).2.cur = s.cur ∧ (s.readAt r l n).2.mem = s.mem := by
  cases l with
  | pad _ _ _ => exact ⟨rfl, rfl, rfl⟩
  | home pa pte => exact s.loadG_frame ..
  | link _ _ _ => exact ⟨rfl, rfl, rfl⟩

/-! ## What a late access leaves -/

theorem State.sameButPending_readLate (s : State) (r : StrandRef) (id : Nat) : s.sameButPending (s.readLate r id) r := by
  simp only [State.readLate]
  split
  · split
    · next l n _ =>
      have h := s.readAt_frame r l n
      exact (State.sameButPending_of (t := (s.forward r id l n).2) h.2.1 h.1).trans (State.sameButPending_setStrand ..)
    · exact s.sameButPending_refl r
  · exact s.sameButPending_refl r

theorem State.sameButPending_foldl {α : Type} {r : StrandRef} (f : State → α → State)
    (h : ∀ (s : State) a, s.sameButPending (f s a) r) (l : List α) (s : State) : s.sameButPending (l.foldl f s) r := by
  induction l generalizing s with
  | nil => exact s.sameButPending_refl r
  | cons a l ih => exact (h s a).trans (ih _)

theorem State.sameButPending_settle (s : State) (r : StrandRef) (id : Nat) (l : Loc) (n : Nat) :
    s.sameButPending (s.settle r id l n) r :=
  State.sameButPending_foldl _ (fun s _ => s.sameButPending_readLate r _) _ s

theorem State.sameButPending_landOne (s : State) (r : StrandRef) (id : Nat) : s.sameButPending (s.landOne r id) r := by
  simp only [State.landOne]
  split
  · next p _ =>
    exact ((s.sameButPending_settle r id p.loc p.size).trans (State.sameButPending_setStrand ..)).trans
      (State.sameButPending_of (State.cur_writeAt ..) (State.tasks_writeAt ..))
  · exact s.sameButPending_refl r

theorem State.sameButPending_clearFor (s : State) (r : StrandRef) (l : Loc) (n : Nat) :
    s.sameButPending (s.clearFor r l n) r :=
  (State.sameButPending_foldl _ (fun s _ => s.sameButPending_landOne r _) _ s).trans (State.sameButPending_settle ..)

theorem State.sameButPending_drainIf (s : State) (r : StrandRef) (f : Loc → Bool) : s.sameButPending (s.drainIf r f) r :=
  (State.sameButPending_foldl _ (fun s _ => s.sameButPending_readLate r _) _ s).trans
    (State.sameButPending_foldl _ (fun s _ => s.sameButPending_landOne r _) _ _)

/-- What `drain` leaves: of the tasks everything but what is pending of the strand. -/
theorem State.sameButPending_drain (s : State) (r : StrandRef) : s.sameButPending (s.drain r) r := s.sameButPending_drainIf r _

@[simp] theorem State.cur_drain (s : State) (r : StrandRef) : (s.drain r).cur = s.cur := (s.sameButPending_drain r).1

@[simp] theorem State.cur_drainIf (s : State) (r : StrandRef) (f : Loc → Bool) : (s.drainIf r f).cur = s.cur :=
  (s.sameButPending_drainIf r f).1

theorem State.cur_acquire (s : State) (c k : Nat) (sc : Scope) : (s.acquire c k sc).cur = s.cur := by
  cases sc <;> rfl

@[simp] theorem State.cur_mark (s : State) (k : Scope) : (s.mark k).cur = s.cur := by
  rw [State.mark, State.cur_acquire, State.cur_drain]

/-! ## Nothing pending -/

/-- No access of the strand is still to perform. -/
theorem State.settle_nothing {s : State} {r : StrandRef} (id : Nat) (l : Loc) (n : Nat) (h : (s.strand r).lateLoads = []) :
    s.settle r id l n = s := by
  simp only [State.settle, h, List.filter_nil, before, List.foldl_nil]

theorem State.landBefore_nothing {s : State} {r : StrandRef} (id : Nat) (l : Loc) (n : Nat) (h : (s.strand r).stores = []) :
    s.landBefore r id l n = s := by
  simp only [State.landBefore, h, List.filter_nil, List.map_nil, before, List.foldl_nil]

theorem State.clearFor_nothing {s : State} {r : StrandRef} (l : Loc) (n : Nat) (h : (s.strand r).lateLoads = [])
    (k : (s.strand r).stores = []) : s.clearFor r l n = s := by
  rw [State.clearFor, State.landBefore_nothing _ _ _ k, State.settle_nothing _ _ _ h]

theorem State.forward_nothing {s : State} {r : StrandRef} (id : Nat) (l : Loc) (n : Nat) (h : (s.strand r).stores = []) :
    s.forward r id l n = s.readAt r l n := by
  simp only [State.forward, h, List.filter_nil, List.foldl_nil]

theorem State.drain_nothing {s : State} {r : StrandRef} (h : (s.strand r).lateLoads = []) (k : (s.strand r).stores = []) :
    s.drain r = s := by
  simp only [State.drain, State.drainIf, h, k, List.filter_nil, List.foldl_nil]

theorem State.mark_nothing {s : State} (c : Scope) (h : s.curStrand.lateLoads = []) (k : s.curStrand.stores = []) :
    s.mark c = s.acquire s.curTask.ctx s.curTask.core c := by
  simp only [State.mark, State.drain_nothing (r := s.cur) h k]

end Sys2Proof.Machine
end

