-- ==== Sys2Proof/Laws/Ops.lean ====
section
/-! SUPPORT. What the operations shared by the instructions of a strand do: how an instruction runs, its operands, its
destination, its retirement, and taking a trap. -/

namespace Sys2Proof.Machine

/-! ## Running an instruction -/

/-- An instruction of a strand always answers a next state. -/
theorem runStrand_next_exists (v : View) (body : M Flow) (s : State) : ∃ t, runStrand v body s = .next t := by
  simp only [runStrand]
  split
  · exact ⟨_, rfl⟩
  · split
    · exact ⟨_, rfl⟩
    · split <;> exact ⟨_, rfl⟩

theorem State.admits_iff (s : State) (v : View) :
    s.admits v = true ↔
      encodingTrap v s.curStrand s.cur.unit = none ∧ (v.guard?.any fun g => !s.curStrand.guardHolds g) = false := by
  simp [State.admits, Option.isNone_iff_eq_none]

/-- The effect runs when the instruction is admitted. -/
theorem runStrand_of_admits {v : View} {s : State} (body : M Flow) (h : s.admits v = true) :
    runStrand v body s =
      match body s with
      | .ok .gone s' => .next s'
      | .ok f s' => .next (s.retire s' v f)
      | .error (.stall y keep) s' => .next ((if keep then s' else s).stall s.cur y)
      | .error (.trap t) s' => .next (s.trapped (if t.keep then s' else s) t.cause
          (t.value.getD (v.firstWord.zeroExtend 64)) (t.tpc.getD s.curStrand.pc) t.data) := by
  obtain ⟨h1, h2⟩ := (s.admits_iff v).mp h
  simp only [State.curStrand] at h1 h2
  simp only [runStrand, h1, h2, if_false, Bool.false_eq_true]
  rfl

theorem runStrand_next {v : View} {s s' : State} {body : M Flow} (h : s.admits v = true) (hb : body s = .ok .next s') :
    runStrand v body s = .next (s.retire s' v .next) := by
  rw [runStrand_of_admits body h, hb]

theorem runStrand_jump {v : View} {s s' : State} {body : M Flow} {t : DWord} (h : s.admits v = true)
    (hb : body s = .ok (.jump t) s') : runStrand v body s = .next (s.retire s' v (.jump t)) := by
  rw [runStrand_of_admits body h, hb]

theorem runStrand_gone {v : View} {s s' : State} {body : M Flow} (h : s.admits v = true) (hb : body s = .ok .gone s') :
    runStrand v body s = .next s' := by
  rw [runStrand_of_admits body h, hb]

theorem runStrand_stall {v : View} {s s' : State} {body : M Flow} {y : Why} {keep : Bool} (h : s.admits v = true)
    (hb : body s = .error (.stall y keep) s') : runStrand v body s = .next ((if keep then s' else s).stall s.cur y) := by
  rw [runStrand_of_admits body h, hb]

theorem runStrand_trap {v : View} {s s' : State} {body : M Flow} {t : TrapInfo} (h : s.admits v = true)
    (hb : body s = .error (.trap t) s') :
    runStrand v body s = .next (s.trapped (if t.keep then s' else s) t.cause (t.value.getD (v.firstWord.zeroExtend 64))
      (t.tpc.getD s.curStrand.pc) t.data) := by
  rw [runStrand_of_admits body h, hb]

/-- A trap with a value of its own leaves the state of R56. -/
theorem runStrand_raise {v : View} {s s' : State} {body : M Flow} {c : Nat} {w : DWord} (h : s.admits v = true)
    (hb : body s = .error (.trap { cause := c, value := some w }) s') :
    runStrand v body s = .next (s.trapped s c w s.curStrand.pc 0) := by
  rw [runStrand_of_admits body h, hb]
  rfl

/-- A trap whose value is the first word leaves the state of R56. -/
theorem runStrand_raiseWord {v : View} {s s' : State} {body : M Flow} {c : Nat} (h : s.admits v = true)
    (hb : body s = .error (.trap { cause := c }) s') :
    runStrand v body s = .next (s.trapped s c (v.firstWord.zeroExtend 64) s.curStrand.pc 0) := by
  rw [runStrand_of_admits body h, hb]
  rfl

/-- A trap that keeps what the instruction did so far, with a value of its own. -/
theorem runStrand_raiseKeep {v : View} {s s' : State} {body : M Flow} {c : Nat} {w : DWord} (h : s.admits v = true)
    (hb : body s = .error (.trap { cause := c, value := some w, keep := true }) s') :
    runStrand v body s = .next (s.trapped s' c w s.curStrand.pc 0) := by
  rw [runStrand_of_admits body h, hb]
  rfl

/-- A trap that keeps what the instruction did so far, its value the first word. -/
theorem runStrand_raiseWordKeep {v : View} {s s' : State} {body : M Flow} {c : Nat} (h : s.admits v = true)
    (hb : body s = .error (.trap { cause := c, keep := true }) s') :
    runStrand v body s = .next (s.trapped s' c (v.firstWord.zeroExtend 64) s.curStrand.pc 0) := by
  rw [runStrand_of_admits body h, hb]
  rfl

/-- A trap that keeps what the instruction did so far, with a value, data and maybe a trap PC of its own. -/
theorem runStrand_trapData {v : View} {s s' : State} {body : M Flow} {c : Nat} {w d : DWord} {t : Option DWord}
    (h : s.admits v = true)
    (hb : body s = .error (.trap { cause := c, value := some w, data := d, tpc := t, keep := true }) s') :
    runStrand v body s = .next (s.trapped s' c w (t.getD s.curStrand.pc) d) := by
  rw [runStrand_of_admits body h, hb]
  rfl

/-- A stall that keeps nothing. -/
theorem runStrand_stallOn {v : View} {s s' : State} {body : M Flow} {y : Why} (h : s.admits v = true)
    (hb : body s = .error (.stall y false) s') : runStrand v body s = .next (s.stall s.cur y) := by
  rw [runStrand_of_admits body h, hb]
  rfl

/-- A stall that keeps what the instruction did so far. -/
theorem runStrand_holdOn {v : View} {s s' : State} {body : M Flow} {y : Why} (h : s.admits v = true)
    (hb : body s = .error (.stall y true) s') : runStrand v body s = .next (s'.stall s.cur y) := by
  rw [runStrand_of_admits body h, hb]
  rfl

/-- An encoding check that fails takes its trap, whatever the effect would be. -/
theorem runStrand_encoding {v : View} {s : State} {c : Nat} (body : M Flow)
    (h : encodingTrap v s.curStrand s.cur.unit = some c) :
    runStrand v body s = .next (s.trapped s c (v.firstWord.zeroExtend 64) s.curStrand.pc 0) := by
  simp only [State.curStrand] at h
  simp only [runStrand, h]
  rfl

/-- A guarded-off instruction only advances. -/
theorem runStrand_off {v : View} {s : State} (body : M Flow) (h : encodingTrap v s.curStrand s.cur.unit = none)
    (g : (v.guard?.any fun g => !s.curStrand.guardHolds g) = true) :
    runStrand v body s = .next (s.retire s v .next) := by
  simp only [State.curStrand] at h g
  simp only [runStrand, h, g, if_true]
  rfl

/-! ## Operands -/

theorem State.ready_iff (s : State) (codes : List Nat) (dst : Option Nat) :
    s.ready codes dst = true ↔ s.operandStop codes dst = none := by
  simp [State.ready, Option.isNone_iff_eq_none]

theorem operands_ok {s : State} {codes : List Nat} {dst : Option Nat} (h : s.ready codes dst = true) :
    operands codes dst s = .ok (codes.map s.source) (s.popCodes codes) := by
  simp only [operands, (s.ready_iff codes dst).mp h]

theorem operands_error {s : State} {codes : List Nat} {dst : Option Nat} {e : Stop} (h : s.operandStop codes dst = some e) :
    operands codes dst s = .error e s := by
  simp only [operands, h]

theorem peekOperands_ok {s : State} {codes : List Nat} {dst : Option Nat} (h : s.ready codes dst = true) :
    peekOperands codes dst s = .ok (codes.map s.source) s := by
  simp only [peekOperands, (s.ready_iff codes dst).mp h]

theorem State.srcVal_source (s : State) (b : Src) : srcVal b (((Src.codes b).map s.source).headD 0) = s.valueB b := by
  cases b <;> rfl

theorem operandsAB_ok {s : State} {a : BitVec 9} {b : Src} {dst : Option Nat}
    (h : s.ready (a.toNat :: Src.codes b) dst = true) :
    operandsAB a b dst s = .ok (s.source a.toNat, s.valueB b) (s.popCodes (a.toNat :: Src.codes b)) := by
  simp only [operandsAB, bind, EStateM.bind, operands_ok h, pure, EStateM.pure]
  cases b <;> rfl

theorem operandB_ok {s : State} {b : Src} {dst : Option Nat} (h : s.ready (Src.codes b) dst = true) :
    operandB b dst s = .ok (s.valueB b) (s.popCodes (Src.codes b)) := by
  simp only [operandB, bind, EStateM.bind, operands_ok h, pure, EStateM.pure]
  cases b <;> rfl

theorem popCodes_nil (s : State) : s.popCodes [] = s := rfl

theorem writeDst_apply (c : Nat) (v : DWord) (s : State) : writeDst c v s = .ok () (s.writeDst c v) := rfl

/-! ## Destinations -/

/-- g0 is never written, and any other register holds what was written (R64). -/
theorem Strand.readG_writeG (d : Strand) (n : Nat) (v : DWord) : (d.writeG n v).readG n = if n = 0 then d.readG 0 else v := by
  by_cases h : n = 0
  · simp [Strand.writeG, h]
  · simp [Strand.writeG, h, Strand.readG, physG]

theorem Strand.readG_writeG_ne (d : Strand) {n k : Nat} (v : DWord) (h : physG d k ≠ physG d n) :
    (d.writeG n v).readG k = d.readG k := by
  by_cases h0 : n = 0
  · simp [Strand.writeG, h0]
  · simp only [Strand.writeG, h0, if_false, Strand.readG, physG]
    exact Assoc.getD_set_ne _ _ _ h

theorem Strand.writeG_sameButG (d : Strand) (n : Nat) (v : DWord) : (d.writeG n v) = { d with g := (d.writeG n v).g } := by
  by_cases h : n = 0 <;> simp [Strand.writeG, h]

/-- A scalar destination that is no queue is the g register (R64). -/
theorem State.writeDst_g (s : State) {c : Nat} (v : DWord) (h : c ≤ 63) :
    s.writeDst c v = s.setStrand s.cur (s.curStrand.writeG c v) := by
  have : queueOf c = none := by simp only [queueOf]; rw [if_neg]; omega
  simp only [State.writeDst, this]

/-- A scalar destination that is a queue gets an element (R64, R114). -/
theorem State.writeDst_queue (s : State) {c : Nat} (v : DWord) (h : 64 ≤ c) (h2 : c ≤ 95) :
    s.writeDst c v = s.setTask s.cur.task
      (s.curTask.setQueueReg ((c - 64) % 16) ((s.curTask.queueReg ((c - 64) % 16)).push v)) := by
  have : queueOf c = some ((c - 64) % 16) := by simp only [queueOf]; rw [if_pos ⟨h, h2⟩]
  simp only [State.writeDst, this]

@[simp] theorem State.cur_writeDst (s : State) (c : Nat) (v : DWord) : (s.writeDst c v).cur = s.cur := by
  simp only [State.writeDst]; split <;> rfl

@[simp] theorem State.mem_writeDst (s : State) (c : Nat) (v : DWord) : (s.writeDst c v).mem = s.mem := by
  simp only [State.writeDst]; split <;> rfl

theorem State.sameOutside_refl (s : State) : s.sameOutside s := rfl

theorem State.sameOutside_trans {s t u : State} (h : s.sameOutside t) (k : t.sameOutside u) : s.sameOutside u := by
  simp only [State.sameOutside] at *
  rw [k, h]

theorem State.sameOutside_setTask (s : State) (t : Nat) (x : Task) : s.sameOutside (s.setTask t x) := rfl

theorem State.sameOutside_setStrand (s : State) (r : StrandRef) (d : Strand) : s.sameOutside (s.setStrand r d) := rfl

/-- Writing a scalar destination changes tasks only. -/
theorem State.sameOutside_writeDst (s : State) (c : Nat) (v : DWord) : s.sameOutside (s.writeDst c v) := by
  simp only [State.writeDst]; split <;> rfl

/-- Popping operand queues changes tasks only. -/
theorem State.sameOutside_popCodes (s : State) (codes : List Nat) : s.sameOutside (s.popCodes codes) := by
  simp only [State.popCodes]
  generalize Sys2Proof.Machine.queuesOf (codes.filter isPopCode) = l
  suffices h : ∀ (l : List Nat) (t : State), s.sameOutside t →
      s.sameOutside (l.foldl (fun s q => s.setTask s.cur.task (s.curTask.setQueueReg q (s.curTask.queueReg q).pop)) t) from
    h l s rfl
  intro l
  induction l with
  | nil => intro t h; exact h
  | cons q l ih => intro t h; exact ih _ (State.sameOutside_trans h rfl)

/-! ## Retirement -/

/-- In a quiet state an instruction that retires changes nothing of the state but the strand's PC and what the end of an
instruction sets. -/
theorem State.retire_quiet {s s' : State} (v : View) (h : s'.quiet s.cur = true) :
    s.retire s' v .next = s'.setStrand s.cur
      { s'.strand s.cur with pc := s.curStrand.pc + BitVec.ofNat 64 v.size, state := .running, held := none } := by
  simp only [State.quiet, Bool.and_eq_true, Bool.not_eq_true', Option.isNone_iff_eq_none] at h
  obtain ⟨⟨⟨h1, h2⟩, h3⟩, h4⟩ := h
  have hi : s'.issue s.cur = s'.setStrand s.cur { s'.strand s.cur with state := .running } := by
    have hr : s'.startRecord s.cur = s' := by simp [State.startRecord, h3]
    simp only [State.issue, hr, h2]
  simp only [State.retire, hi, State.follow, State.strand_setStrand, State.setStrand_setStrand, State.boundary,
    State.setStrand_get, Task.setStrand_stopReq, h4, Option.isSome_none, Bool.false_and, Bool.false_eq_true, if_false]

theorem State.retire_jump_quiet {s s' : State} (v : View) (t : DWord) (h : s'.quiet s.cur = true) :
    s.retire s' v (.jump t) = s'.setStrand s.cur { s'.strand s.cur with pc := t, state := .running, held := none } := by
  simp only [State.quiet, Bool.and_eq_true, Bool.not_eq_true', Option.isNone_iff_eq_none] at h
  obtain ⟨⟨⟨h1, h2⟩, h3⟩, h4⟩ := h
  have hi : s'.issue s.cur = s'.setStrand s.cur { s'.strand s.cur with state := .running } := by
    have hr : s'.startRecord s.cur = s' := by simp [State.startRecord, h3]
    simp only [State.issue, hr, h2]
  simp only [State.retire, hi, State.follow, State.strand_setStrand, State.setStrand_setStrand, State.boundary,
    State.setStrand_get, Task.setStrand_stopReq, h4, Option.isSome_none, Bool.false_and, Bool.false_eq_true, if_false]

/-! ## Taking a trap -/

/-- A delivered trap changes the strand only: the trap registers, the level and the PC (R278). -/
theorem State.takeTrap_delivered {s : State} {r : StrandRef} {cause : Nat} (value tpc data : DWord)
    (h : s.delivers r cause = true) :
    s.takeTrap r cause value tpc data =
      s.setStrand r ((s.strand r).enter (s.ctx (s.task r.task).ctx).tvec cause value tpc data) := by
  simp only [State.takeTrap, h, if_true]

/-- A trap that is not delivered is a task fault with its cause, value and PC (R280). -/
theorem State.takeTrap_fault {s : State} {r : StrandRef} {cause : Nat} (value tpc data : DWord)
    (h : s.delivers r cause = false) :
    s.takeTrap r cause value tpc data = s.taskFault r.task ⟨cause, value, tpc, s.strandParty r, (s.strand r).lvl⟩ := by
  simp only [State.takeTrap, h, Bool.false_eq_true, if_false]

end Sys2Proof.Machine
end

