-- ==== Sys2Proof/Laws/Scalar.lean ====
section
/-! SUPPORT. What the effects of the scalar integer, scalar float and predicate instructions do when their operands are
ready. -/

namespace Sys2Proof.Machine

theorem modify_apply (f : State → State) (s : State) : (modify f : M Unit) s = .ok () (f s) := rfl

theorem get_apply (s : State) : (get : M State) s = .ok s s := rfl

theorem pure_apply {α : Type} (x : α) (s : State) : (pure x : M α) s = .ok x s := rfl

theorem bind_ok {α β : Type} {m : M α} {f : α → M β} {s s' : State} {a : α} (h : m s = .ok a s') :
    (m >>= f) s = f a s' := by
  simp only [bind, EStateM.bind, h]

theorem bind_error {α β : Type} {m : M α} {f : α → M β} {s s' : State} {e : Stop} (h : m s = .error e s') :
    (m >>= f) s = .error e s' := by
  simp only [bind, EStateM.bind, h]

/-! ## Integer -/

theorem intBody_ok (f : Alu → DWord → DWord → DWord) {x : Alu} {s : State}
    (h : s.ready (x.a.toNat :: Src.codes x.b) (some x.d.toNat) = true) :
    intBody f x s = .ok .next ((s.popCodes (x.a.toNat :: Src.codes x.b)).writeDst x.d.toNat
      (f x (s.source x.a.toNat) (s.valueB x.b))) := by
  rw [intBody, bind_ok (operandsAB_ok h)]
  rfl

theorem unaryBody_ok (f : Alu → DWord → DWord → DWord) {x : Alu} {s : State}
    (h : s.ready [x.a.toNat] (some x.d.toNat) = true) :
    unaryBody f x s = .ok .next ((s.popCodes [x.a.toNat]).writeDst x.d.toNat (f x (s.source x.a.toNat) 0)) := by
  rw [unaryBody, bind_ok (operands_ok h)]
  rfl

theorem bfiBody_ok {x : Alu} {s : State}
    (h : s.ready (x.a.toNat :: Src.codes x.b ++ [x.d.toNat]) (some x.d.toNat) = true) :
    bfiBody x s = .ok .next ((s.popCodes (x.a.toNat :: Src.codes x.b ++ [x.d.toNat])).writeDst x.d.toNat
      (bfiValue (s.source x.a.toNat) (s.valueB x.b) (s.source x.d.toNat))) := by
  rw [bfiBody, bind_ok (operands_ok h)]
  cases x.b <;> rfl

theorem popCodes_curStrand_pred (s : State) (codes : List Nat) (n : Nat) :
    (s.popCodes codes).curStrand.pred n = s.curStrand.pred n := by
  simp only [State.popCodes]
  generalize Sys2Proof.Machine.queuesOf (codes.filter isPopCode) = l
  induction l generalizing s with
  | nil => rfl
  | cons q l ih =>
    rw [List.foldl_cons, ih]
    simp only [State.curStrand, State.strand, State.setTask_cur, State.task_setTask, State.curTask, Task.setQueueReg]
    cases s.cur.unit <;> rfl

theorem selBody_ok {x : Alu} {s : State} (h : s.ready (x.a.toNat :: Src.codes x.b) (some x.d.toNat) = true) :
    selBody x s = .ok .next ((s.popCodes (x.a.toNat :: Src.codes x.b)).writeDst x.d.toNat
      (if s.curStrand.pred x.sub.toNat then s.source x.a.toNat else s.valueB x.b)) := by
  rw [selBody, bind_ok (operandsAB_ok h)]
  simp only [bind_ok (get_apply _), bind_ok (writeDst_apply _ _ _), popCodes_curStrand_pred]
  rfl

/-- The value of `movi`. -/
theorem moviBody_ok {x : Alu} {s : State} (h : s.ready [] (some x.d.toNat) = true) :
    moviBody x s = .ok .next (s.writeDst x.d.toNat (match x.b with
      | .imm v => if x.u then v.zeroExtend 64 else v.signExtend 64
      | .lit w => if x.u then w.zeroExtend 64 else w.signExtend 64
      | .code _ => 0)) := by
  rw [moviBody, bind_ok (operands_ok h)]
  rfl

theorem moviHiBody_ok {x : Alu} {s : State} (h : s.ready [x.d.toNat] (some x.d.toNat) = true) :
    moviHiBody x s = .ok .next ((s.popCodes [x.d.toNat]).writeDst x.d.toNat
      ((match x.b with | .lit w => w | _ => 0) ++ (s.source x.d.toNat).extractLsb' 0 32)) := by
  rw [moviHiBody, bind_ok (operands_ok h)]
  rfl

theorem cmpBody_ok {x : Alu} {s : State} (h : s.ready (x.a.toNat :: Src.codes x.b) none = true) :
    cmpBody x s = .ok .next ((s.popCodes (x.a.toNat :: Src.codes x.b)).withPred x.d.toNat
      (cmpHolds x.sub x.u (s.source x.a.toNat) (s.valueB x.b))) := by
  rw [cmpBody, bind_ok (operandsAB_ok h)]
  rfl

/-! ## Float -/

/-- The state with flags set in the current strand's fcsr (R42). -/
theorem setFlags_apply (k : Flags) (s : State) : setFlags k s = .ok () (s.withFlags k) := rfl

theorem captured_apply (r : BitVec 3) (s : State) : captured r s = .ok (s.capture r.toNat) s := rfl

theorem writeFloat_apply (c : Nat) (r : Nat × Flags) (s : State) :
    writeFloat c r s = .ok () ((s.writeDst c (BitVec.ofNat 64 r.1)).withFlags r.2) := rfl

theorem State.floatB_source (s : State) (md : FpMode) (dp : Bool) (b : Src) :
    floatB md dp b (((Src.codes b).map s.source).headD 0) = s.floatOperandB md dp b := by
  cases b <;> rfl

theorem floatBody_ok (f : FpMode → Nat → Val → Val → Nat × Flags) {x : Alu} {s : State}
    (h : s.ready (x.a.toNat :: Src.codes x.b) (some x.d.toNat) = true) :
    floatBody f x s = .ok .next
      (let r := f (s.capture x.rnd.toNat) (floatTag x.u) (floatVal (s.capture x.rnd.toNat) x.u (s.source x.a.toNat))
        (s.floatOperandB (s.capture x.rnd.toNat) x.u x.b)
       ((s.popCodes (x.a.toNat :: Src.codes x.b)).writeDst x.d.toNat (BitVec.ofNat 64 r.1)).withFlags r.2) := by
  rw [floatBody, bind_ok (captured_apply _ _), bind_ok (operands_ok h)]
  cases x.b <;> rfl

theorem ffmaBody_ok {x : Alu} {s : State} (h : s.ready (x.a.toNat :: Src.codes x.b ++ [x.d.toNat]) (some x.d.toNat) = true) :
    ffmaBody x s = .ok .next
      (let md := s.capture x.rnd.toNat
       let a := floatVal md x.u (s.source x.a.toNat)
       let c := floatVal md x.u (s.source x.d.toNat)
       let r := ffma md (floatTag x.u) (if x.sub.getLsbD 0 then a.negate else a) (s.floatOperandB md x.u x.b)
         (if x.sub.getLsbD 1 then c.negate else c)
       ((s.popCodes (x.a.toNat :: Src.codes x.b ++ [x.d.toNat])).writeDst x.d.toNat (BitVec.ofNat 64 r.1)).withFlags r.2) := by
  rw [ffmaBody, bind_ok (captured_apply _ _), bind_ok (operands_ok h)]
  cases x.b <;> rfl

theorem fcmpBody_ok {x : Alu} {s : State} (h : s.ready (x.a.toNat :: Src.codes x.b) none = true) :
    fcmpBody x s = .ok .next
      (let md := s.capture x.rnd.toNat
       let r := fcmpHolds x.sub.toNat (floatVal md x.u (s.source x.a.toNat)) (s.floatOperandB md x.u x.b)
       ((s.popCodes (x.a.toNat :: Src.codes x.b)).withPred x.d.toNat r.1).withFlags r.2) := by
  rw [fcmpBody, bind_ok (captured_apply _ _), bind_ok (operands_ok h)]
  cases x.b <;> rfl

theorem fcvtBody_ok {x : Alu} {s : State} (h : s.ready [x.a.toNat] (some x.d.toNat) = true) :
    fcvtBody x s = .ok .next
      (let r := fcvtValue (s.capture x.rnd.toNat) x.sub.toNat x.u (s.source x.a.toNat)
       ((s.popCodes [x.a.toNat]).writeDst x.d.toNat (BitVec.ofNat 64 r.1)).withFlags r.2) := by
  rw [fcvtBody, bind_ok (captured_apply _ _), bind_ok (operands_ok h)]
  rfl

theorem fsqrtBody_ok {x : Alu} {s : State} (h : s.ready [x.a.toNat] (some x.d.toNat) = true) :
    fsqrtBody x s = .ok .next
      (let r := fsqrt (s.capture x.rnd.toNat) (floatTag x.u) (floatVal (s.capture x.rnd.toNat) x.u (s.source x.a.toNat))
       ((s.popCodes [x.a.toNat]).writeDst x.d.toNat (BitVec.ofNat 64 r.1)).withFlags r.2) := by
  rw [fsqrtBody, bind_ok (captured_apply _ _), bind_ok (operands_ok h)]
  rfl

theorem fnegBody_ok {x : Alu} {s : State} (h : s.ready [x.a.toNat] (some x.d.toNat) = true) :
    fnegBody x s = .ok .next ((s.popCodes [x.a.toNat]).writeDst x.d.toNat
      (BitVec.ofNat 64 (fnegBits s.curCtx.ovf x.u (x.sub == 1) (floatBits x.u (s.source x.a.toNat))))) := by
  rw [fnegBody, bind_ok (captured_apply _ _), bind_ok (operands_ok h)]
  rfl

theorem fclassBody_ok {x : Alu} {s : State} (h : s.ready [x.a.toNat] none = true) :
    fclassBody x s = .ok .next ((s.popCodes [x.a.toNat]).withPred x.d.toNat
      (fclassHolds x.sub.toNat x.u (floatBits x.u (s.source x.a.toNat)))) := by
  rw [fclassBody, bind_ok (operands_ok h)]
  rfl

/-! ## Predicates -/

/-- Rotation keeps predicates apart. -/
theorem physP_inj (d : Strand) {n m : Nat} (hn : n < 96) (hm : m < 96) (h : physP d n = physP d m) : n = m := by
  unfold physP at h; split at h <;> split at h <;> omega

/-- Writing a predicate moves no rotation base. -/
theorem writeP_physP (d : Strand) (n : Nat) (b : Bool) (m : Nat) : physP (d.writeP n b) m = physP d m := by
  unfold Strand.writeP; split
  · rfl
  · rfl

/-- Reading a predicate after one was written; p0 stays as it is. -/
theorem writeP_pred (d : Strand) {n m : Nat} (b : Bool) (hn : n < 96) (hm : m < 96) :
    (d.writeP n b).pred m = if n = m ∧ n ≠ 0 then b else d.pred m := by
  unfold Strand.pred
  rw [writeP_physP]
  by_cases h0 : n = 0
  · subst h0; simp [Strand.writeP]
  · by_cases hnm : n = m
    · subst hnm
      have : physP d n ≠ 0 := by unfold physP; split <;> omega
      simp [this, h0, Strand.writeP, Assoc.getD_set]
    · have hp : physP d n ≠ physP d m := fun h => hnm (physP_inj d hn hm h)
      have hp' : physP d m ≠ physP d n := fun h => hp h.symm
      simp only [hnm, false_and, if_false, Strand.writeP, h0]
      simp [hp']

theorem predBody_ok (f : Bool → Bool → Bool) (x : Alu) (s : State) :
    predBody f x s = .ok .next (s.withPred x.d.toNat (f (predA x s.curStrand) (predB x s.curStrand))) := rfl

theorem pnotBody_ok (x : Alu) (s : State) : pnotBody x s = .ok .next (s.withPred x.d.toNat (!s.curStrand.pred x.a.toNat)) := rfl

theorem pmovBody_pred {x : Alu} {s : State} (k : x.sub = 0) :
    pmovBody x s = .ok .next (s.withPred x.d.toNat (s.curStrand.pred x.a.toNat)) := by
  simp only [pmovBody, k, if_true]
  rfl

theorem pmovBody_toBank {x : Alu} {s : State} (k : x.sub = 1) (h : s.ready [x.a.toNat] none = true) :
    pmovBody x s = .ok .next (let p := s.popCodes [x.a.toNat]
      p.setStrand p.cur (p.curStrand.writeBank x.d.toNat (s.source x.a.toNat))) := by
  have k0 : x.sub ≠ 0 := by rw [k]; decide
  simp only [pmovBody, if_neg k0, if_pos k]
  rw [bind_ok (operands_ok h)]
  rfl

theorem pmovBody_fromBank {x : Alu} {s : State} (k0 : x.sub ≠ 0) (k : x.sub ≠ 1) (h : s.ready [] (some x.d.toNat) = true) :
    pmovBody x s = .ok .next (s.writeDst x.d.toNat (BitVec.ofNat 64 (s.curStrand.readBank x.a.toNat))) := by
  simp only [pmovBody, if_neg k0, if_neg k]
  rw [bind_ok (operands_ok h)]
  rfl

theorem psetBody_reg {x : Alu} {s : State} (k : x.sub.getLsbD 1 = true) (h : s.ready [x.a.toNat] none = true) :
    psetBody x s = .ok .next ((s.popCodes [x.a.toNat]).withPred x.d.toNat
      ((s.source x.a.toNat != 0) != x.sub.getLsbD 0)) := by
  simp only [psetBody, k, if_true]
  rw [bind_ok (operands_ok h)]
  rfl

theorem psetBody_const {x : Alu} {s : State} (k : x.sub.getLsbD 1 = false) :
    psetBody x s = .ok .next (s.withPred x.d.toNat (x.sub.getLsbD 0)) := by
  simp only [psetBody, k, Bool.false_eq_true, if_false]
  rfl

end Sys2Proof.Machine
end

