-- ==== Sys2Proof/Laws/Control.lean ====
section
/-! SUPPORT. What branches, loops, strand control and section headers do when nothing keeps them from completing. -/

namespace Sys2Proof.Machine

theorem modifyCur_apply (f : Strand → Strand) (s : State) : modifyCur f s = .ok () (s.updCur f) := rfl

theorem modifyTask_apply (f : Task → Task) (s : State) : modifyTask f s = .ok () (s.updTask f) := rfl

/-! ## Branches -/

theorem branchBody_ok {n : Nat} (disp : BitVec n) (s : State) :
    branchBody disp s = .ok (.jump (s.branchTarget disp)) s := rfl

theorem callBody_ok {n : Nat} (link : Nat) (disp : BitVec n) (size : Nat) {s : State} (h : s.ready [] (some link) = true) :
    callBody link disp size s =
      .ok (.jump (s.branchTarget disp)) (s.writeDst link (s.curStrand.pc + BitVec.ofNat 64 size)) := by
  rw [callBody, bind_ok (get_apply s), bind_ok (operands_ok h)]
  rfl

theorem jumpTo_aligned {t : DWord} (h : t &&& 3 = 0) (s : State) : jumpTo t s = .ok (.jump t) s := by
  simp only [jumpTo, h, if_true]
  rfl

theorem jumpTo_misaligned {t : DWord} (h : t &&& 3 ≠ 0) (s : State) :
    jumpTo t s = .error (.trap { cause := 6, value := some t }) s := by
  simp only [jumpTo, h, if_false]
  rfl

theorem brrBody_ok {x : Gen} {s : State} (h : s.ready [x.a.toNat] (some x.d.toNat) = true)
    (k : s.source x.a.toNat &&& 3 = 0) :
    brrBody x s = .ok (.jump (s.source x.a.toNat))
      ((s.popCodes [x.a.toNat]).writeDst x.d.toNat (s.curStrand.pc + 8)) := by
  rw [brrBody, bind_ok (get_apply s), bind_ok (operands_ok h), bind_ok (writeDst_apply _ _ _)]
  exact jumpTo_aligned k _

theorem brrBody_misaligned {x : Gen} {s : State} (h : s.ready [x.a.toNat] (some x.d.toNat) = true)
    (k : s.source x.a.toNat &&& 3 ≠ 0) :
    ∃ s', brrBody x s = .error (.trap { cause := 6, value := some (s.source x.a.toNat) }) s' := by
  rw [brrBody, bind_ok (get_apply s), bind_ok (operands_ok h), bind_ok (writeDst_apply _ _ _)]
  exact ⟨_, jumpTo_misaligned k _⟩

theorem retBody_ok {x : Gen} {s : State} (h : s.ready [x.a.toNat] none = true) (k : s.source x.a.toNat &&& 3 = 0) :
    retBody x s = .ok (.jump (s.source x.a.toNat)) (s.popCodes [x.a.toNat]) := by
  rw [retBody, bind_ok (operands_ok h)]
  exact jumpTo_aligned k _

theorem retBody_misaligned {x : Gen} {s : State} (h : s.ready [x.a.toNat] none = true) (k : s.source x.a.toNat &&& 3 ≠ 0) :
    ∃ s', retBody x s = .error (.trap { cause := 6, value := some (s.source x.a.toNat) }) s' := by
  rw [retBody, bind_ok (operands_ok h)]
  exact ⟨_, jumpTo_misaligned k _⟩

/-! ## Loops -/

theorem popCodes_cur (s : State) (codes : List Nat) : (s.popCodes codes).cur = s.cur := by
  have h := State.sameOutside_popCodes s codes
  simp only [State.sameOutside] at h
  rw [h]

/-- Popping operand queues leaves every strand as it is. -/
theorem popCodes_strand (s : State) (codes : List Nat) (r : StrandRef) : (s.popCodes codes).strand r = s.strand r := by
  simp only [State.popCodes]
  generalize Sys2Proof.Machine.queuesOf (codes.filter isPopCode) = l
  induction l generalizing s with
  | nil => rfl
  | cons q l ih =>
    rw [List.foldl_cons, ih]
    simp only [State.strand]
    by_cases h : r.task = s.cur.task
    · rw [h, State.task_setTask]
      simp only [State.curTask, Task.setQueueReg]
      cases r.unit <;> rfl
    · rw [State.task_setTask_ne _ _ h]

/-- Popping operand queues changes nothing of a task but its queue registers. -/
theorem popCodes_task (s : State) (codes : List Nat) (t : Nat) :
    (s.popCodes codes).task t = { s.task t with queues := ((s.popCodes codes).task t).queues } := by
  simp only [State.popCodes]
  generalize Sys2Proof.Machine.queuesOf (codes.filter isPopCode) = l
  induction l generalizing s with
  | nil => rfl
  | cons q l ih =>
    rw [List.foldl_cons, ih]
    by_cases h : t = s.cur.task
    · rw [h, State.task_setTask]
      rfl
    · rw [State.task_setTask_ne _ _ h]

theorem popCodes_curStrand (s : State) (codes : List Nat) : (s.popCodes codes).curStrand = s.curStrand := by
  simp only [State.curStrand, popCodes_strand, popCodes_cur]

theorem loopBody_zero {x : Br} {s : State} (h : s.ready [x.a.toNat] none = true)
    (k : (s.source x.a.toNat).extractLsb' 0 32 = 0) :
    loopBody x s = .ok (.jump (s.branchTarget x.disp)) (s.popCodes [x.a.toNat]) := by
  rw [loopBody, bind_ok (operands_ok h), bind_ok (get_apply _)]
  simp only [List.map_cons, List.headD_cons]
  rw [if_pos k]
  simp only [Strand.target, popCodes_curStrand]
  rfl

theorem loopBody_push {x : Br} {s : State} (h : s.ready [x.a.toNat] none = true)
    (k : (s.source x.a.toNat).extractLsb' 0 32 ≠ 0) (m : s.curStrand.loops.length < 6) :
    loopBody x s = .ok .next ((s.popCodes [x.a.toNat]).updCur fun d =>
      { d with loops := ((s.source x.a.toNat).extractLsb' 0 32, 0) :: d.loops }) := by
  rw [loopBody, bind_ok (operands_ok h), bind_ok (get_apply _)]
  simp only [List.map_cons, List.headD_cons]
  rw [if_neg k, if_neg (by rw [popCodes_curStrand]; omega)]
  rfl

theorem loopBody_full {x : Br} {s : State} (h : s.ready [x.a.toNat] none = true)
    (k : (s.source x.a.toNat).extractLsb' 0 32 ≠ 0) (m : 6 ≤ s.curStrand.loops.length) :
    ∃ s', loopBody x s = .error (.trap { cause := 8 }) s' := by
  rw [loopBody, bind_ok (operands_ok h), bind_ok (get_apply _)]
  simp only [List.map_cons, List.headD_cons]
  rw [if_neg k, if_pos (by rw [popCodes_curStrand]; omega)]
  exact ⟨_, rfl⟩

theorem bloopBody_again {n : Nat} (disp : BitVec n) {s : State} {k i : Word} {rest : List (Word × Word)}
    (h : s.curStrand.loops = (k, i) :: rest) (m : i + 1 < k) :
    bloopBody disp s = .ok (.jump (s.branchTarget disp)) (s.updCur fun d =>
      { d.rotate with loops := (k, i + 1) :: rest, stop := if s.curTask.stopReq.isSome then .boundary else d.stop }) := by
  rw [bloopBody, bind_ok (get_apply _)]
  simp only [h]
  rw [if_pos m]
  rfl

theorem bloopBody_last {n : Nat} (disp : BitVec n) {s : State} {k i : Word} {rest : List (Word × Word)}
    (h : s.curStrand.loops = (k, i) :: rest) (m : ¬ i + 1 < k) :
    bloopBody disp s = .ok .next (s.updCur fun d =>
      { d.rotate with loops := rest, stop := if s.curTask.stopReq.isSome then .boundary else d.stop }) := by
  rw [bloopBody, bind_ok (get_apply _)]
  simp only [h]
  rw [if_neg m]
  rfl

theorem bloopBody_empty {n : Nat} (disp : BitVec n) {s : State} (h : s.curStrand.loops = []) :
    bloopBody disp s = .error (.trap { cause := 8 }) s := by
  rw [bloopBody, bind_ok (get_apply _)]
  simp only [h]
  rfl

theorem lbrkBody_ok {x : Br} {s : State} {e : Word × Word} {rest : List (Word × Word)} (h : s.curStrand.loops = e :: rest) :
    lbrkBody x s = .ok (.jump (s.branchTarget x.disp)) (s.updCur fun d => { d with loops := rest }) := by
  rw [lbrkBody, bind_ok (get_apply _)]
  simp only [h]
  rfl

theorem lbrkBody_empty {x : Br} {s : State} (h : s.curStrand.loops = []) :
    lbrkBody x s = .error (.trap { cause := 8 }) s := by
  rw [lbrkBody, bind_ok (get_apply _)]
  simp only [h]
  rfl

theorem rbsetBody_ok {x : Gen} {s : State} (h : s.ready (Src.codes x.b) none = true) :
    rbsetBody x s = .ok .next ((s.popCodes (Src.codes x.b)).updCur fun d => { d with
      bg := if x.fn.getLsbD 0 then (s.valueB x.b).extractLsb' 0 5 else d.bg
      bp := if x.fn.getLsbD 1 then (s.valueB x.b).extractLsb' 0 5 else d.bp
      bs := if x.fn.getLsbD 2 then (s.valueB x.b).extractLsb' 0 7 else d.bs }) := by
  rw [rbsetBody, bind_ok (operandB_ok h)]
  rfl

/-! ## Strand control -/

theorem leaveAs_ok (st : StrandState) (size : Nat) (s : State) :
    leaveAs st size s = .ok .gone (
      let p := (s.issue s.cur).drain (s.issue s.cur).cur
      (p.updCur fun d => { d with pc := d.pc + BitVec.ofNat 64 size, state := st, held := none, ended := p.cycle }).boundary
        p.cur) := rfl

@[simp] theorem State.cur_postPacket (s : State) (p : Party) (c k t : Nat) (l : List DWord) : (s.postPacket p c k t l).cur = s.cur := by
  simp only [State.postPacket]
  split
  · rfl
  · split
    · split <;> rfl
    · rfl

@[simp] theorem State.tasks_postPacket (s : State) (p : Party) (c k t : Nat) (l : List DWord) :
    (s.postPacket p c k t l).tasks = s.tasks := by
  simp only [State.postPacket]
  split
  · rfl
  · split
    · split <;> rfl
    · rfl

@[simp] theorem State.cur_writeEdge (s : State) (c : Nat) (k : Option Step) (e : Edge) : (s.writeEdge c k e).cur = s.cur := by
  simp only [State.writeEdge]
  split
  · simp
  · rfl

@[simp] theorem State.cur_taskEdge (s : State) (t : Nat) (e : Edge) : (s.taskEdge t e).cur = s.cur := State.cur_writeEdge ..

@[simp] theorem State.tasks_writeEdge (s : State) (c : Nat) (k : Option Step) (e : Edge) :
    (s.writeEdge c k e).tasks = s.tasks := by
  simp only [State.writeEdge]
  split
  · simp
  · rfl

@[simp] theorem State.tasks_taskEdge (s : State) (t : Nat) (e : Edge) : (s.taskEdge t e).tasks = s.tasks :=
  State.tasks_writeEdge ..

@[simp] theorem State.task_taskEdge (s : State) (t k : Nat) (e : Edge) : (s.taskEdge t e).task k = s.task k := by
  simp only [State.task, State.tasks_taskEdge]

@[simp] theorem State.strand_taskEdge (s : State) (t : Nat) (e : Edge) (r : StrandRef) : (s.taskEdge t e).strand r = s.strand r := by
  simp only [State.strand, State.task_taskEdge]

@[simp] theorem State.cur_startRecord (s : State) (r : StrandRef) : (s.startRecord r).cur = s.cur := by
  simp only [State.startRecord]
  split
  · simp
  · rfl

@[simp] theorem State.cur_endWait (s : State) (r : StrandRef) (w : Wait) : (s.endWait r w).cur = s.cur := by
  simp only [State.endWait]
  split
  · rfl
  · split
    · rfl
    · simp

@[simp] theorem State.cur_issue (s : State) (r : StrandRef) : (s.issue r).cur = s.cur := by
  simp only [State.issue]
  split <;> simp

/-- Where no stop is requested an instruction boundary changes nothing. -/
theorem State.boundary_none {s : State} {r : StrandRef} (h : (s.task r.task).stopReq = none) : s.boundary r = s := by
  simp only [State.boundary]
  split
  · rfl
  · next x hx =>
    have : s.task r.task = x := by simp [State.task, Assoc.getD, hx]
    rw [this] at h
    simp [h]

/-! ## Section headers -/

theorem Strand.rs_noteSection (d : Strand) (u : UnitId) (rs : BitVec 12) (p : Party) : (d.noteSection u rs p).rs = d.rs := by
  simp only [Strand.noteSection]
  split
  · split
    · split <;> rfl
    · rfl
  · rfl

theorem Strand.state_noteSection (d : Strand) (u : UnitId) (rs : BitVec 12) (p : Party) :
    (d.noteSection u rs p).state = d.state := by
  simp only [Strand.noteSection]
  split
  · split
    · split <;> rfl
    · rfl
  · rfl

/-- Reaching a header changes RS of its own strand, and of the others what their waits note. -/
theorem Task.strand_retireSections (x : Task) (u v : UnitId) (rs : BitVec 12) (p : Party) :
    (x.retireSections u rs p).strand v =
      if v = u then { x.strand u with rs } else (x.strand v).noteSection u rs p := by
  cases u <;> cases v <;> rfl

/-- A header whose waits are all satisfied opens its section, the strand's accesses performed (R78, R79, R264). -/
theorem headerBody_ok {h : Header} {s : State} (k : atOrAfter h.sect (s.drain s.cur).curStrand.xs = true)
    (w : ((headerWaits h (s.drain s.cur).cur.unit).all fun w => atOrAfter ((s.drain s.cur).curTask.strand w.1).rs w.2) = true) :
    headerBody h s = .ok .next
      (let p := s.drain s.cur
       (p.updTask fun x => x.retireSections p.cur.unit (h.sect - 1) (p.strandParty p.cur)).updCur fun d =>
        { d with xs := h.sect + 1, sect := some (d.pc + 8, h.words) }) := by
  have hl : ((headerWaits h (s.drain s.cur).cur.unit).filter fun w => !atOrAfter ((s.drain s.cur).curTask.strand w.1).rs w.2) = [] := by
    rw [List.filter_eq_nil_iff]
    intro a ha
    simp only [List.all_eq_true.mp w a ha, Bool.not_true, Bool.false_eq_true, not_false_eq_true]
  rw [headerBody, bind_ok (modify_apply _ _), bind_ok (get_apply _)]
  simp only [k, Bool.not_true, Bool.false_eq_true, if_false]
  rw [bind_ok (modifyTask_apply _ _)]
  simp only [hl, List.any_nil, Bool.false_eq_true, if_false]
  rfl

/-- A header with a wait left on live strands holds its strand, its own section retired before it (R79, R80). -/
theorem headerBody_wait {h : Header} {s : State} {l : List (UnitId × BitVec 12)} {e : UnitId × BitVec 12}
    (k : atOrAfter h.sect (s.drain s.cur).curStrand.xs = true)
    (hl : ((headerWaits h (s.drain s.cur).cur.unit).filter fun w => !atOrAfter ((s.drain s.cur).curTask.strand w.1).rs w.2) = e :: l)
    (live : ((e :: l).all fun w => ((s.drain s.cur).curTask.strand w.1).live) = true) :
    headerBody h s = .error (.stall (.sections (e :: l) e) true)
      (let p := s.drain s.cur
       p.updTask fun x => x.retireSections p.cur.unit (h.sect - 1) (p.strandParty p.cur)) := by
  have hn : ((e :: l).any fun w => !((s.drain s.cur).curTask.strand w.1).live) = false := by
    rw [List.any_eq_false]
    intro a ha
    simp only [List.all_eq_true.mp live a ha, Bool.not_true, Bool.false_eq_true, not_false_eq_true]
  rw [headerBody, bind_ok (modify_apply _ _), bind_ok (get_apply _)]
  simp only [k, Bool.not_true, Bool.false_eq_true, if_false]
  rw [bind_ok (modifyTask_apply _ _)]
  simp only [hl, hn, Bool.false_eq_true, if_false]
  rfl

/-! ## fork and join -/

/-- The strand that `fork` starts (Table 4-1): `d` is the main strand, `t` the strand named. -/
def forkedStrand (d t : Strand) (entry : DWord) : Strand :=
  { t.start entry d.lvl with
    g := forkRegs d.g t.g, fcsr := d.fcsr &&& 0x1F
    loads := t.loads.filter fun l => match l.dest with | .reg k => 16 ≤ k | .queue _ => true }

theorem forkBody_ok {x : Gen} {s : State} (live : (s.curTask.strand (unitOf (x.fn.toNat % 4))).live = false)
    (h : s.ready (Src.codes x.b) none = true)
    (al : (match x.b with | .code _ => s.valueB x.b | _ => s.curStrand.pc + (s.valueB x.b <<< 2)) &&& 3 = 0)
    (pend : ((List.range 15).any fun k => s.curStrand.pendingG (k + 1)) = false) :
    forkBody x s = .ok .next
      (let q := s.popCodes (Src.codes x.b)
       let p := q.drain q.cur
       let r : StrandRef := ⟨p.cur.task, unitOf (x.fn.toNat % 4)⟩
       ((p.taskEdge r.task { waiter := p.strandParty r, kind := 15, prod := p.strandParty p.cur, arrive := p.cycle }).setStrand r
         (forkedStrand s.curStrand (s.curTask.strand (unitOf (x.fn.toNat % 4)))
           (match x.b with | .code _ => s.valueB x.b | _ => s.curStrand.pc + (s.valueB x.b <<< 2)))).boundary r) := by
  rw [forkBody, bind_ok (get_apply _)]
  simp only [live, Bool.false_eq_true, if_false]
  rw [bind_ok (operandB_ok h)]
  cases hb : x.b <;> rw [hb] at al <;> simp only at al <;>
    simp only [al, pend, bne_self_eq_false, Bool.false_eq_true, if_false] <;> rfl

theorem lateTrap_none {u : UnitId} {f : Channel → Bool} {s : State} (h1 : s.curTask.late = [])
    (h2 : (s.curTask.chans.all fun c => !c.2.faulted) = true) (h3 : s.curTask.mat.late = []) :
    lateTrap u f s = .ok () s := by
  have hc : (s.curTask.chans.find? fun c => c.2.faulted && f c.2) = none := by
    rw [List.find?_eq_none]
    intro a ha
    have := List.all_eq_true.mp h2 a ha
    simp only [Bool.not_eq_true'] at this
    simp [this]
  rw [lateTrap, bind_ok (get_apply _)]
  cases u <;> simp only [h1, hc, h3] <;> rfl

theorem lateTraps_none {f : Channel → Bool} {s : State} (h1 : s.curTask.late = [])
    (h2 : (s.curTask.chans.all fun c => !c.2.faulted) = true) (h3 : s.curTask.mat.late = []) (us : List UnitId) :
    (forIn us PUnit.unit fun u _ => do lateTrap u f; pure (ForInStep.yield PUnit.unit) : M PUnit) s = .ok PUnit.unit s := by
  induction us with
  | nil => rfl
  | cons u us ih =>
    simp only [List.forIn_cons]
    have hu : ((do lateTrap u f; pure (ForInStep.yield PUnit.unit)) : M (ForInStep PUnit)) s =
        .ok (ForInStep.yield PUnit.unit) s := by
      rw [bind_ok (lateTrap_none h1 h2 h3)]
      rfl
    rw [bind_ok hu]
    exact ih

theorem joinBody_ok {x : Gen} {s : State} (h1 : s.curTask.late = []) (h2 : (s.curTask.chans.all fun c => !c.2.faulted) = true)
    (h3 : s.curTask.mat.late = []) (k : ((joinUnits x.fn.toNat).all fun u => s.joined s.cur.task u) = true) :
    joinBody x s = .ok .next
      (let p := s.updCur fun d => { d with wait := d.wait.map fun w =>
          { w with prod := s.taskParty s.cur.task (s.curTask.lastFinished (joinUnits x.fn.toNat)).code } }
       (p.dropEnds s.cur.task (p.curTask.joinEnds (joinUnits x.fn.toNat))).updTask
        fun x' => (joinUnits x.fn.toNat).foldl Task.idleRendezvous x') := by
  rw [joinBody]
  simp only []
  rw [bind_ok (lateTraps_none h1 h2 h3 _), bind_ok (get_apply _)]
  simp only [k, if_true]
  rfl

end Sys2Proof.Machine
end

