-- ==== Sys2Proof/Laws/Encode.lean ====
section
/-! SUPPORT. Decoding an encoded layout gives the layout back: the fields of a packed long form, and one lemma for each
layout. -/


namespace Sys2Proof

set_option linter.unusedSimpArgs false

/-! ## Fields -/

/-- The two words of a long form put together again. -/
theorem join_words (w : DWord) : w.extractLsb' 32 32 ++ w.extractLsb' 0 32 = w := by
  ext i hi
  simp only [BitVec.getElem_append, BitVec.getElem_extractLsb']
  split
  · rw [Nat.zero_add]; exact (BitVec.getLsbD_eq_getElem hi).symm ▸ rfl
  · rw [show 32 + (i - 32) = i by omega]; exact BitVec.getLsbD_eq_getElem hi

section pack
variable (op : Nat) (l : BitVec 2) (g : Guard) (d a b : BitVec 9) (m : BitVec 19)

theorem field_l : (packLong op l g d a b m).extractLsb' 0 2 = l := by
  simp (disch := omega) only [packLong, BitVec.extractLsb'_append_eq_of_add_le, BitVec.extractLsb'_eq_self]

theorem field_op : field (packLong op l g d a b m) 2 8 = BitVec.ofNat 8 op := by
  simp (disch := omega) only [field, packLong, BitVec.extractLsb'_append_eq_of_le, BitVec.extractLsb'_append_eq_of_add_le,
    BitVec.extractLsb'_eq_self, Nat.sub_self]

theorem field_d : field (packLong op l g d a b m) 18 9 = d := by
  simp (disch := omega) only [field, packLong, BitVec.extractLsb'_append_eq_of_le, BitVec.extractLsb'_append_eq_of_add_le,
    BitVec.extractLsb'_eq_self, Nat.sub_self]

theorem field_a : field (packLong op l g d a b m) 27 9 = a := by
  simp (disch := omega) only [field, packLong, BitVec.extractLsb'_append_eq_of_le, BitVec.extractLsb'_append_eq_of_add_le,
    BitVec.extractLsb'_eq_self, Nat.sub_self]

theorem field_b : field (packLong op l g d a b m) 36 9 = b := by
  simp (disch := omega) only [field, packLong, BitVec.extractLsb'_append_eq_of_le, BitVec.extractLsb'_append_eq_of_add_le,
    BitVec.extractLsb'_eq_self, Nat.sub_self]

/-- A field within the modifier field. -/
theorem field_m (lo n : Nat) (h : 45 ≤ lo) : field (packLong op l g d a b m) lo n = m.extractLsb' (lo - 45) n := by
  simp (disch := omega) only [field, packLong, BitVec.extractLsb'_append_eq_of_le]
  rw [show lo - 2 - 8 - 7 - 1 - 9 - 9 - 9 = lo - 45 by omega]

theorem bit_m (k : Nat) (h : 45 ≤ k) : (packLong op l g d a b m).getLsbD k = m.getLsbD (k - 45) := by
  simp only [packLong, BitVec.getLsbD_append]
  rw [if_neg (by omega), if_neg (by omega), if_neg (by omega), if_neg (by omega), if_neg (by omega), if_neg (by omega),
    if_neg (by omega), show k - 2 - 8 - 7 - 1 - 9 - 9 - 9 = k - 45 by omega]

theorem guard_pack : guardOf (packLong op l g d a b m) = g := by
  have h : field (packLong op l g d a b m) 10 7 = g.pr := by
    simp (disch := omega) only [field, packLong, BitVec.extractLsb'_append_eq_of_le, BitVec.extractLsb'_append_eq_of_add_le,
      BitVec.extractLsb'_eq_self, Nat.sub_self]
  have k : (packLong op l g d a b m).getLsbD 17 = g.pn := by
    simp only [packLong, BitVec.getLsbD_append, BitVec.getLsbD_ofBool, Nat.reduceLT, Nat.reduceSub, if_true, if_false,
      decide_true, Bool.true_and]
  rw [guardOf, h, k]

end pack

/-- A branch displacement put together from B and the modifier field (R74). -/
theorem field_disp (op : Nat) (l : BitVec 2) (g : Guard) (d a : BitVec 9) (x : BitVec 28) :
    field (packLong op l g d a (x.extractLsb' 0 9) (x.extractLsb' 9 19)) 36 28 = x := by
  refine BitVec.eq_of_getLsbD_eq fun k hk => ?_
  rw [field, BitVec.getLsbD_extractLsb', decide_eq_true hk, Bool.true_and]
  by_cases h : k < 9
  · simp only [packLong, BitVec.getLsbD_append]
    rw [if_neg (by omega), if_neg (by omega), if_neg (by omega), if_neg (by omega), if_neg (by omega), if_neg (by omega),
      if_pos (by omega), BitVec.getLsbD_extractLsb', decide_eq_true (by omega), Bool.true_and]
    congr 1; omega
  · rw [bit_m _ _ _ _ _ _ _ _ (by omega), BitVec.getLsbD_extractLsb', decide_eq_true (by omega), Bool.true_and]
    congr 1; omega

/-- What the words of an instruction decode to, words it does not have being zero. -/
def decodeEncoded (l : List Word) : Except DecodeError Instr := decodeWords (l.headD 0) (l.getD 1 0) (l.getD 2 0)

/-- A long form without a literal. -/
theorem decode_long (op : Nat) (g : Guard) (d a b : BitVec 9) (m : BitVec 19) :
    decodeEncoded (longWords (packLong op 1 g d a b m) none) =
      orUnassigned ((packLong op 1 g d a b m).extractLsb' 0 32) (decodeLong (packLong op 1 g d a b m) none) := by
  have h : ((packLong op 1 g d a b m).extractLsb' 0 32).extractLsb' 0 2 = 1#2 := by
    rw [BitVec.extractLsb'_extractLsb'_of_le (by omega)]; exact field_l ..
  simp only [decodeEncoded, longWords, Option.toList_none, List.append_nil, List.headD_cons, List.getD_cons_succ,
    List.getD_cons_zero, decodeWords, h, join_words]
  rfl

/-- A literal form. -/
theorem decode_literal (op : Nat) (g : Guard) (d a b : BitVec 9) (m : BitVec 19) (w : Word) :
    decodeEncoded (longWords (packLong op 2 g d a b m) (some w)) =
      orUnassigned ((packLong op 2 g d a b m).extractLsb' 0 32) (decodeLong (packLong op 2 g d a b m) (some w)) := by
  have h : ((packLong op 2 g d a b m).extractLsb' 0 32).extractLsb' 0 2 = 2#2 := by
    rw [BitVec.extractLsb'_extractLsb'_of_le (by omega)]; exact field_l ..
  simp only [decodeEncoded, longWords, Option.toList_some, List.cons_append, List.nil_append, List.headD_cons,
    List.getD_cons_succ, List.getD_cons_zero, decodeWords, h, join_words]
  rfl

/-- Both, with the literal of operand B. -/
theorem decode_src (op : Nat) (b : Src) (g : Guard) (d a c : BitVec 9) (m : BitVec 19) :
    decodeEncoded (longWords (packLong op b.lcode g d a c m) b.literal) =
      orUnassigned ((packLong op b.lcode g d a c m).extractLsb' 0 32) (decodeLong (packLong op b.lcode g d a c m) b.literal) := by
  cases b with
  | lit w => exact decode_literal ..
  | _ => exact decode_long ..

theorem op_toNat {op : Nat} (ho : op < 256) : (BitVec.ofNat 8 op).toNat = op := by rw [BitVec.toNat_ofNat]; omega

/-! ## Layouts -/

/-- B, I and M[8:0] give operand B back (R62, R63). -/
theorem srcOf_pack {w : DWord} (b : Src) (h1 : field w 36 9 = b.code9) (h2 : field w 45 9 = b.high9)
    (h3 : w.getLsbD 63 = b.immFlag) : srcOf b.literal w = .ok b := by
  cases b with
  | code c => simp only [srcOf, Src.literal, h1, h2, h3, Src.code9, Src.high9, Src.immFlag, Bool.false_eq_true, if_false, if_true]
  | imm v =>
    simp only [srcOf, Src.literal, h1, h2, h3, Src.code9, Src.high9, Src.immFlag, if_true]
    congr 2
    exact BitVec.eq_of_getLsbD_eq fun k hk => by
      rw [BitVec.getLsbD_append]
      split <;> rw [BitVec.getLsbD_extractLsb', decide_eq_true (by omega), Bool.true_and] <;> congr 1 <;> omega
  | lit l =>
    simp only [srcOf, Src.literal, h1, h2, h3, Src.code9, Src.high9, Src.immFlag, and_self, if_true]

/-! The opcode of a packed long form chooses the row. -/

theorem decodeLong_pack {op : Nat} (ho : op < 256) {l : BitVec 2} {g : Guard} {d a b : BitVec 9} {m : BitVec 19}
    {lit : Option Word} {y : Layout} (hl : layoutOf op = some y) (hx : (lit.isSome && !hasLiteral op) = false) :
    decodeLong (packLong op l g d a b m) lit =
      match y with
      | .alu => (aluOf lit (packLong op l g d a b m)).map (ofAlu op)
      | .gen => (genOf lit (packLong op l g d a b m)).map (ofGen op)
      | .br => .ok (ofBr op (brOf (packLong op l g d a b m)))
      | .mem => .ok (ofMem op (memOf (packLong op l g d a b m)))
      | .amo => .ok (ofAmo op (amoOf (packLong op l g d a b m)))
      | .vec => (vecOf lit (packLong op l g d a b m)).map (ofVec op)
      | .mat => (matOf (packLong op l g d a b m)).map (ofMat op)
      | .cpy => (cpyOf (packLong op l g d a b m)).map (ofCpy op) := by
  have h : (field (packLong op l g d a b m) 2 8).toNat = op := by rw [field_op, op_toNat ho]
  simp only [decodeLong, h, hx, hl, Bool.false_eq_true, if_false]
  cases y <;> rfl

theorem aluOf_pack (op : Nat) (x : Alu) :
    aluOf x.b.literal (packLong op x.b.lcode x.guard x.d x.a x.b.code9
      (BitVec.ofBool x.b.immFlag ++ (0 : BitVec 1) ++ x.rnd ++ BitVec.ofBool x.u ++ x.sub ++ x.b.high9)) = .ok x := by
  generalize hw : packLong op x.b.lcode x.guard x.d x.a x.b.code9 (BitVec.ofBool x.b.immFlag ++ (0 : BitVec 1) ++ x.rnd ++ BitVec.ofBool x.u ++ x.sub ++ x.b.high9) = w
  have hg : guardOf w = x.guard := by rw [← hw, guard_pack]
  have hd : field w 18 9 = x.d := by rw [← hw, field_d]
  have ha : field w 27 9 = x.a := by rw [← hw, field_a]
  have hb : field w 36 9 = x.b.code9 := by rw [← hw, field_b]
  have h0 : field w 45 9 = x.b.high9 := by
    rw [← hw, field_m _ _ _ _ _ _ _ _ _ (by omega)]
    simp (disch := omega) only [BitVec.extractLsb'_append_eq_of_le, BitVec.extractLsb'_append_eq_of_add_le,
      BitVec.extractLsb'_eq_self, Nat.sub_self, Nat.reduceSub]
  have h1 : field w 54 4 = x.sub := by
    rw [← hw, field_m _ _ _ _ _ _ _ _ _ (by omega)]
    simp (disch := omega) only [BitVec.extractLsb'_append_eq_of_le, BitVec.extractLsb'_append_eq_of_add_le,
      BitVec.extractLsb'_eq_self, Nat.sub_self, Nat.reduceSub]
  have h2 : w.getLsbD 58 = x.u := by
    rw [← hw, bit_m _ _ _ _ _ _ _ _ (by omega)]
    simp only [BitVec.getLsbD_append, BitVec.getLsbD_ofBool, Nat.reduceLT, Nat.reduceSub, if_true, if_false, decide_true,
      Bool.true_and, BitVec.ofNat_eq_ofNat, BitVec.getLsbD_zero]
  have h3 : field w 59 3 = x.rnd := by
    rw [← hw, field_m _ _ _ _ _ _ _ _ _ (by omega)]
    simp (disch := omega) only [BitVec.extractLsb'_append_eq_of_le, BitVec.extractLsb'_append_eq_of_add_le,
      BitVec.extractLsb'_eq_self, Nat.sub_self, Nat.reduceSub]
  have h4 : w.getLsbD 62 = false := by
    rw [← hw, bit_m _ _ _ _ _ _ _ _ (by omega)]
    simp only [BitVec.getLsbD_append, BitVec.getLsbD_ofBool, Nat.reduceLT, Nat.reduceSub, if_true, if_false, decide_true,
      Bool.true_and, BitVec.ofNat_eq_ofNat, BitVec.getLsbD_zero]
  have h5 : w.getLsbD 63 = x.b.immFlag := by
    rw [← hw, bit_m _ _ _ _ _ _ _ _ (by omega)]
    simp only [BitVec.getLsbD_append, BitVec.getLsbD_ofBool, Nat.reduceLT, Nat.reduceSub, if_true, if_false, decide_true,
      Bool.true_and, BitVec.ofNat_eq_ofNat, BitVec.getLsbD_zero]
  simp only [aluOf, srcOf_pack x.b hb h0 h5, h4, Bool.false_eq_true, if_false, hg, hd, ha, h1, h2, h3]

theorem genOf_pack (op : Nat) (x : Gen) :
    genOf x.b.literal (packLong op x.b.lcode x.guard x.d x.a x.b.code9
      (BitVec.ofBool x.b.immFlag ++ x.fn ++ x.b.high9)) = .ok x := by
  generalize hw : packLong op x.b.lcode x.guard x.d x.a x.b.code9 (BitVec.ofBool x.b.immFlag ++ x.fn ++ x.b.high9) = w
  have hg : guardOf w = x.guard := by rw [← hw, guard_pack]
  have hd : field w 18 9 = x.d := by rw [← hw, field_d]
  have ha : field w 27 9 = x.a := by rw [← hw, field_a]
  have hb : field w 36 9 = x.b.code9 := by rw [← hw, field_b]
  have h0 : field w 45 9 = x.b.high9 := by
    rw [← hw, field_m _ _ _ _ _ _ _ _ _ (by omega)]
    simp (disch := omega) only [BitVec.extractLsb'_append_eq_of_le, BitVec.extractLsb'_append_eq_of_add_le,
      BitVec.extractLsb'_eq_self, Nat.sub_self, Nat.reduceSub]
  have h1 : field w 54 9 = x.fn := by
    rw [← hw, field_m _ _ _ _ _ _ _ _ _ (by omega)]
    simp (disch := omega) only [BitVec.extractLsb'_append_eq_of_le, BitVec.extractLsb'_append_eq_of_add_le,
      BitVec.extractLsb'_eq_self, Nat.sub_self, Nat.reduceSub]
  have h2 : w.getLsbD 63 = x.b.immFlag := by
    rw [← hw, bit_m _ _ _ _ _ _ _ _ (by omega)]
    simp only [BitVec.getLsbD_append, BitVec.getLsbD_ofBool, Nat.reduceLT, Nat.reduceSub, if_true, if_false, decide_true,
      Bool.true_and, BitVec.ofNat_eq_ofNat, BitVec.getLsbD_zero]
  simp only [genOf, srcOf_pack x.b hb h0 h2, hg, hd, ha, h1]

theorem memOf_pack (op : Nat) (x : Mem) :
    memOf (packLong op 1 x.guard x.d x.a x.b
      (BitVec.ofBool x.pol ++ x.ord ++ x.scope ++ x.size ++ x.off)) = x := by
  generalize hw : packLong op 1 x.guard x.d x.a x.b (BitVec.ofBool x.pol ++ x.ord ++ x.scope ++ x.size ++ x.off) = w
  have hg : guardOf w = x.guard := by rw [← hw, guard_pack]
  have hd : field w 18 9 = x.d := by rw [← hw, field_d]
  have ha : field w 27 9 = x.a := by rw [← hw, field_a]
  have hb : field w 36 9 = x.b := by rw [← hw, field_b]
  have h0 : field w 45 11 = x.off := by
    rw [← hw, field_m _ _ _ _ _ _ _ _ _ (by omega)]
    simp (disch := omega) only [BitVec.extractLsb'_append_eq_of_le, BitVec.extractLsb'_append_eq_of_add_le,
      BitVec.extractLsb'_eq_self, Nat.sub_self, Nat.reduceSub]
  have h1 : field w 56 2 = x.size := by
    rw [← hw, field_m _ _ _ _ _ _ _ _ _ (by omega)]
    simp (disch := omega) only [BitVec.extractLsb'_append_eq_of_le, BitVec.extractLsb'_append_eq_of_add_le,
      BitVec.extractLsb'_eq_self, Nat.sub_self, Nat.reduceSub]
  have h2 : field w 58 3 = x.scope := by
    rw [← hw, field_m _ _ _ _ _ _ _ _ _ (by omega)]
    simp (disch := omega) only [BitVec.extractLsb'_append_eq_of_le, BitVec.extractLsb'_append_eq_of_add_le,
      BitVec.extractLsb'_eq_self, Nat.sub_self, Nat.reduceSub]
  have h3 : field w 61 2 = x.ord := by
    rw [← hw, field_m _ _ _ _ _ _ _ _ _ (by omega)]
    simp (disch := omega) only [BitVec.extractLsb'_append_eq_of_le, BitVec.extractLsb'_append_eq_of_add_le,
      BitVec.extractLsb'_eq_self, Nat.sub_self, Nat.reduceSub]
  have h4 : w.getLsbD 63 = x.pol := by
    rw [← hw, bit_m _ _ _ _ _ _ _ _ (by omega)]
    simp only [BitVec.getLsbD_append, BitVec.getLsbD_ofBool, Nat.reduceLT, Nat.reduceSub, if_true, if_false, decide_true,
      Bool.true_and, BitVec.ofNat_eq_ofNat, BitVec.getLsbD_zero]
  simp only [memOf, hg, hd, ha, hb, h0, h1, h2, h3, h4]

theorem amoOf_pack (op : Nat) (x : Amo) :
    amoOf (packLong op 1 x.guard x.d x.a x.b
      (BitVec.ofBool x.pol ++ x.ord ++ x.scope ++ x.size ++ x.func ++ x.off)) = x := by
  generalize hw : packLong op 1 x.guard x.d x.a x.b (BitVec.ofBool x.pol ++ x.ord ++ x.scope ++ x.size ++ x.func ++ x.off) = w
  have hg : guardOf w = x.guard := by rw [← hw, guard_pack]
  have hd : field w 18 9 = x.d := by rw [← hw, field_d]
  have ha : field w 27 9 = x.a := by rw [← hw, field_a]
  have hb : field w 36 9 = x.b := by rw [← hw, field_b]
  have h0 : field w 45 7 = x.off := by
    rw [← hw, field_m _ _ _ _ _ _ _ _ _ (by omega)]
    simp (disch := omega) only [BitVec.extractLsb'_append_eq_of_le, BitVec.extractLsb'_append_eq_of_add_le,
      BitVec.extractLsb'_eq_self, Nat.sub_self, Nat.reduceSub]
  have h1 : field w 52 4 = x.func := by
    rw [← hw, field_m _ _ _ _ _ _ _ _ _ (by omega)]
    simp (disch := omega) only [BitVec.extractLsb'_append_eq_of_le, BitVec.extractLsb'_append_eq_of_add_le,
      BitVec.extractLsb'_eq_self, Nat.sub_self, Nat.reduceSub]
  have h2 : field w 56 2 = x.size := by
    rw [← hw, field_m _ _ _ _ _ _ _ _ _ (by omega)]
    simp (disch := omega) only [BitVec.extractLsb'_append_eq_of_le, BitVec.extractLsb'_append_eq_of_add_le,
      BitVec.extractLsb'_eq_self, Nat.sub_self, Nat.reduceSub]
  have h3 : field w 58 3 = x.scope := by
    rw [← hw, field_m _ _ _ _ _ _ _ _ _ (by omega)]
    simp (disch := omega) only [BitVec.extractLsb'_append_eq_of_le, BitVec.extractLsb'_append_eq_of_add_le,
      BitVec.extractLsb'_eq_self, Nat.sub_self, Nat.reduceSub]
  have h4 : field w 61 2 = x.ord := by
    rw [← hw, field_m _ _ _ _ _ _ _ _ _ (by omega)]
    simp (disch := omega) only [BitVec.extractLsb'_append_eq_of_le, BitVec.extractLsb'_append_eq_of_add_le,
      BitVec.extractLsb'_eq_self, Nat.sub_self, Nat.reduceSub]
  have h5 : w.getLsbD 63 = x.pol := by
    rw [← hw, bit_m _ _ _ _ _ _ _ _ (by omega)]
    simp only [BitVec.getLsbD_append, BitVec.getLsbD_ofBool, Nat.reduceLT, Nat.reduceSub, if_true, if_false, decide_true,
      Bool.true_and, BitVec.ofNat_eq_ofNat, BitVec.getLsbD_zero]
  simp only [amoOf, hg, hd, ha, hb, h0, h1, h2, h3, h4, h5]

theorem vecOf_pack (op : Nat) (x : Vec)
    (hx : ∀ v, x.b ≠ .imm v) :
    vecOf x.b.literal (packLong op x.b.lcode x.guard x.d x.a x.b.code9
      ((0 : BitVec 1) ++ x.sub ++ BitVec.ofBool x.toBit ++ BitVec.ofBool x.sat ++ x.rnd ++ x.mask)) = .ok x := by
  generalize hw : packLong op x.b.lcode x.guard x.d x.a x.b.code9 ((0 : BitVec 1) ++ x.sub ++ BitVec.ofBool x.toBit ++ BitVec.ofBool x.sat ++ x.rnd ++ x.mask) = w
  have hg : guardOf w = x.guard := by rw [← hw, guard_pack]
  have hd : field w 18 9 = x.d := by rw [← hw, field_d]
  have ha : field w 27 9 = x.a := by rw [← hw, field_a]
  have hb : field w 36 9 = x.b.code9 := by rw [← hw, field_b]
  have h0 : field w 45 9 = x.mask := by
    rw [← hw, field_m _ _ _ _ _ _ _ _ _ (by omega)]
    simp (disch := omega) only [BitVec.extractLsb'_append_eq_of_le, BitVec.extractLsb'_append_eq_of_add_le,
      BitVec.extractLsb'_eq_self, Nat.sub_self, Nat.reduceSub]
  have h1 : field w 54 3 = x.rnd := by
    rw [← hw, field_m _ _ _ _ _ _ _ _ _ (by omega)]
    simp (disch := omega) only [BitVec.extractLsb'_append_eq_of_le, BitVec.extractLsb'_append_eq_of_add_le,
      BitVec.extractLsb'_eq_self, Nat.sub_self, Nat.reduceSub]
  have h2 : w.getLsbD 57 = x.sat := by
    rw [← hw, bit_m _ _ _ _ _ _ _ _ (by omega)]
    simp only [BitVec.getLsbD_append, BitVec.getLsbD_ofBool, Nat.reduceLT, Nat.reduceSub, if_true, if_false, decide_true,
      Bool.true_and, BitVec.ofNat_eq_ofNat, BitVec.getLsbD_zero]
  have h3 : w.getLsbD 58 = x.toBit := by
    rw [← hw, bit_m _ _ _ _ _ _ _ _ (by omega)]
    simp only [BitVec.getLsbD_append, BitVec.getLsbD_ofBool, Nat.reduceLT, Nat.reduceSub, if_true, if_false, decide_true,
      Bool.true_and, BitVec.ofNat_eq_ofNat, BitVec.getLsbD_zero]
  have h4 : field w 59 4 = x.sub := by
    rw [← hw, field_m _ _ _ _ _ _ _ _ _ (by omega)]
    simp (disch := omega) only [BitVec.extractLsb'_append_eq_of_le, BitVec.extractLsb'_append_eq_of_add_le,
      BitVec.extractLsb'_eq_self, Nat.sub_self, Nat.reduceSub]
  have h5 : w.getLsbD 63 = false := by
    rw [← hw, bit_m _ _ _ _ _ _ _ _ (by omega)]
    simp only [BitVec.getLsbD_append, BitVec.getLsbD_ofBool, Nat.reduceLT, Nat.reduceSub, if_true, if_false, decide_true,
      Bool.true_and, BitVec.ofNat_eq_ofNat, BitVec.getLsbD_zero]
  obtain ⟨g, d, a, b, sub, tb, sat, rnd, mask⟩ := x
  cases b with
  | imm v => exact absurd rfl (hx v)
  | code c => simp only [vecOf, Src.literal, h5, hg, hd, ha, hb, h0, h1, h2, h3, h4, Src.code9, Bool.false_eq_true, if_false]
  | lit v =>
    simp only [vecOf, Src.literal, h5, hg, hd, ha, hb, h0, h1, h2, h3, h4, Src.code9, Bool.false_eq_true, if_false, if_true]

theorem matOf_pack (op : Nat) (x : Mat) :
    matOf (packLong op 1 x.guard x.d x.a x.b
      ((0 : BitVec 2) ++ BitVec.ofBool x.ord ++ BitVec.ofBool x.sp ++ x.rnd ++ x.tb ++ x.ta)) = .ok x := by
  generalize hw : packLong op 1 x.guard x.d x.a x.b ((0 : BitVec 2) ++ BitVec.ofBool x.ord ++ BitVec.ofBool x.sp ++ x.rnd ++ x.tb ++ x.ta) = w
  have hg : guardOf w = x.guard := by rw [← hw, guard_pack]
  have hd : field w 18 9 = x.d := by rw [← hw, field_d]
  have ha : field w 27 9 = x.a := by rw [← hw, field_a]
  have hb : field w 36 9 = x.b := by rw [← hw, field_b]
  have h0 : field w 45 6 = x.ta := by
    rw [← hw, field_m _ _ _ _ _ _ _ _ _ (by omega)]
    simp (disch := omega) only [BitVec.extractLsb'_append_eq_of_le, BitVec.extractLsb'_append_eq_of_add_le,
      BitVec.extractLsb'_eq_self, Nat.sub_self, Nat.reduceSub]
  have h1 : field w 51 6 = x.tb := by
    rw [← hw, field_m _ _ _ _ _ _ _ _ _ (by omega)]
    simp (disch := omega) only [BitVec.extractLsb'_append_eq_of_le, BitVec.extractLsb'_append_eq_of_add_le,
      BitVec.extractLsb'_eq_self, Nat.sub_self, Nat.reduceSub]
  have h2 : field w 57 3 = x.rnd := by
    rw [← hw, field_m _ _ _ _ _ _ _ _ _ (by omega)]
    simp (disch := omega) only [BitVec.extractLsb'_append_eq_of_le, BitVec.extractLsb'_append_eq_of_add_le,
      BitVec.extractLsb'_eq_self, Nat.sub_self, Nat.reduceSub]
  have h3 : w.getLsbD 60 = x.sp := by
    rw [← hw, bit_m _ _ _ _ _ _ _ _ (by omega)]
    simp only [BitVec.getLsbD_append, BitVec.getLsbD_ofBool, Nat.reduceLT, Nat.reduceSub, if_true, if_false, decide_true,
      Bool.true_and, BitVec.ofNat_eq_ofNat, BitVec.getLsbD_zero]
  have h4 : w.getLsbD 61 = x.ord := by
    rw [← hw, bit_m _ _ _ _ _ _ _ _ (by omega)]
    simp only [BitVec.getLsbD_append, BitVec.getLsbD_ofBool, Nat.reduceLT, Nat.reduceSub, if_true, if_false, decide_true,
      Bool.true_and, BitVec.ofNat_eq_ofNat, BitVec.getLsbD_zero]
  have h5 : field w 62 2 = 0 := by
    rw [← hw, field_m _ _ _ _ _ _ _ _ _ (by omega)]
    simp (disch := omega) only [BitVec.extractLsb'_append_eq_of_le, BitVec.extractLsb'_append_eq_of_add_le,
      BitVec.extractLsb'_eq_self, Nat.sub_self, Nat.reduceSub]
  simp only [matOf, hg, hd, ha, hb, h0, h1, h2, h3, h4, h5, if_true]

theorem cpyOf_pack (op : Nat) (x : Cpy) :
    cpyOf (packLong op 1 x.guard x.d x.a x.b
      (BitVec.ofBool x.slot ++ (0 : BitVec 3) ++ x.sub ++ x.tag ++ x.rnd ++ x.ch)) = .ok x := by
  generalize hw : packLong op 1 x.guard x.d x.a x.b (BitVec.ofBool x.slot ++ (0 : BitVec 3) ++ x.sub ++ x.tag ++ x.rnd ++ x.ch) = w
  have hg : guardOf w = x.guard := by rw [← hw, guard_pack]
  have hd : field w 18 9 = x.d := by rw [← hw, field_d]
  have ha : field w 27 9 = x.a := by rw [← hw, field_a]
  have hb : field w 36 9 = x.b := by rw [← hw, field_b]
  have h0 : field w 45 2 = x.ch := by
    rw [← hw, field_m _ _ _ _ _ _ _ _ _ (by omega)]
    simp (disch := omega) only [BitVec.extractLsb'_append_eq_of_le, BitVec.extractLsb'_append_eq_of_add_le,
      BitVec.extractLsb'_eq_self, Nat.sub_self, Nat.reduceSub]
  have h1 : field w 47 3 = x.rnd := by
    rw [← hw, field_m _ _ _ _ _ _ _ _ _ (by omega)]
    simp (disch := omega) only [BitVec.extractLsb'_append_eq_of_le, BitVec.extractLsb'_append_eq_of_add_le,
      BitVec.extractLsb'_eq_self, Nat.sub_self, Nat.reduceSub]
  have h2 : field w 50 6 = x.tag := by
    rw [← hw, field_m _ _ _ _ _ _ _ _ _ (by omega)]
    simp (disch := omega) only [BitVec.extractLsb'_append_eq_of_le, BitVec.extractLsb'_append_eq_of_add_le,
      BitVec.extractLsb'_eq_self, Nat.sub_self, Nat.reduceSub]
  have h3 : field w 56 4 = x.sub := by
    rw [← hw, field_m _ _ _ _ _ _ _ _ _ (by omega)]
    simp (disch := omega) only [BitVec.extractLsb'_append_eq_of_le, BitVec.extractLsb'_append_eq_of_add_le,
      BitVec.extractLsb'_eq_self, Nat.sub_self, Nat.reduceSub]
  have h4 : field w 60 3 = 0 := by
    rw [← hw, field_m _ _ _ _ _ _ _ _ _ (by omega)]
    simp (disch := omega) only [BitVec.extractLsb'_append_eq_of_le, BitVec.extractLsb'_append_eq_of_add_le,
      BitVec.extractLsb'_eq_self, Nat.sub_self, Nat.reduceSub]
  have h5 : w.getLsbD 63 = x.slot := by
    rw [← hw, bit_m _ _ _ _ _ _ _ _ (by omega)]
    simp only [BitVec.getLsbD_append, BitVec.getLsbD_ofBool, Nat.reduceLT, Nat.reduceSub, if_true, if_false, decide_true,
      Bool.true_and, BitVec.ofNat_eq_ofNat, BitVec.getLsbD_zero]
  simp only [cpyOf, hg, hd, ha, hb, h0, h1, h2, h3, h4, h5, if_true]

theorem brOf_pack (op : Nat) (x : Br) :
    brOf (packLong op 1 x.guard x.d x.a (x.disp.extractLsb' 0 9) (x.disp.extractLsb' 9 19)) = x := by
  simp only [brOf, guard_pack, field_d, field_a, field_disp]

/-! ## One lemma for each layout -/

/-- What an instruction's words decode to, and the length that its first word gives. -/
def reads (l : List Word) (r : Option Instr) : Prop :=
  lengthWords (l.headD 0) = l.length ∧ decodeEncoded l = orUnassigned (l.headD 0) (.ok r)

theorem length_long (op : Nat) (g : Guard) (d a b : BitVec 9) (m : BitVec 19) :
    lengthWords ((longWords (packLong op 1 g d a b m) none).headD 0) = 2 := by
  have h : ((packLong op 1 g d a b m).extractLsb' 0 32).extractLsb' 0 2 = 1#2 := by
    rw [BitVec.extractLsb'_extractLsb'_of_le (by omega)]; exact field_l ..
  simp only [longWords, Option.toList_none, List.append_nil, List.headD_cons, lengthWords, h]
  rfl

theorem length_src (op : Nat) (b : Src) (g : Guard) (d a c : BitVec 9) (m : BitVec 19) :
    lengthWords ((longWords (packLong op b.lcode g d a c m) b.literal).headD 0) =
      (longWords (packLong op b.lcode g d a c m) b.literal).length := by
  cases b with
  | lit w =>
    have h : ((packLong op 2 g d a c m).extractLsb' 0 32).extractLsb' 0 2 = 2#2 := by
      rw [BitVec.extractLsb'_extractLsb'_of_le (by omega)]; exact field_l ..
    show lengthWords ((packLong op 2 g d a c m).extractLsb' 0 32) = 3
    simp only [lengthWords, h]
    rfl
  | _ => exact length_long ..

theorem decodeShort_some {w0 : Word} {i : Instr} (h : ofShort (w0.extractLsb' 2 8).toNat (shortOf w0) = some i) :
    decodeShort w0 = some i := by
  rw [decodeShort]
  generalize ofShort (w0.extractLsb' 2 8).toNat (shortOf w0) = o at h
  subst h
  rfl

theorem decodeShort_br {w0 : Word} (h : ofShort (w0.extractLsb' 2 8).toNat (shortOf w0) = none) :
    decodeShort w0 = ofShortBr (w0.extractLsb' 2 8).toNat (w0.extractLsb' 10 22) := by
  rw [decodeShort]
  generalize ofShort (w0.extractLsb' 2 8).toNat (shortOf w0) = o at h
  subst h
  rfl

theorem decodeWords_short {w0 w1 w2 : Word} (h : w0.extractLsb' 0 2 = 0#2) :
    decodeWords w0 w1 w2 = orUnassigned w0 (.ok (decodeShort w0)) := by
  simp only [decodeWords, h]
  rw [if_neg (by decide)]
  exact if_pos rfl

section layouts

variable {op : Nat} (ho : op < 256)
include ho

theorem reads_alu (hl : layoutOf op = some .alu) (x : Alu) (hx : (View.alu op x).formOk = true) :
    reads (View.alu op x).encode (ofAlu op x) := by
  refine ⟨length_src .., ?_⟩
  have h : (x.b.literal.isSome && !hasLiteral op) = false := by
    revert hx; simp only [View.formOk]; cases x.b <;> simp [Src.literal]
  rw [View.encode, decode_src, decodeLong_pack ho hl h, aluOf_pack]
  rfl

theorem reads_gen (hl : layoutOf op = some .gen) (x : Gen) (hx : (View.gen op x).formOk = true) :
    reads (View.gen op x).encode (ofGen op x) := by
  refine ⟨length_src .., ?_⟩
  have h : (x.b.literal.isSome && !hasLiteral op) = false := by
    revert hx; simp only [View.formOk]; cases x.b <;> simp [Src.literal]
  rw [View.encode, decode_src, decodeLong_pack ho hl h, genOf_pack]
  rfl

theorem reads_vec (hl : layoutOf op = some .vec) (x : Vec) (hx : (View.vec op x).formOk = true) :
    reads (View.vec op x).encode (ofVec op x) := by
  refine ⟨length_src .., ?_⟩
  have h : (x.b.literal.isSome && !hasLiteral op) = false := by
    revert hx; simp only [View.formOk]; cases x.b <;> simp [Src.literal]
  have k : ∀ v, x.b ≠ .imm v := by
    intro v e; revert hx; simp only [View.formOk, e]; simp
  rw [View.encode, decode_src, decodeLong_pack ho hl h, vecOf_pack op x k]
  rfl

theorem reads_br (hl : layoutOf op = some .br) (x : Br) : reads (View.br op x).encode (ofBr op x) := by
  refine ⟨length_long .., ?_⟩
  rw [View.encode, decode_long, decodeLong_pack ho hl rfl, brOf_pack]
  rfl

theorem reads_mem (hl : layoutOf op = some .mem) (x : Mem) : reads (View.mem op x).encode (ofMem op x) := by
  refine ⟨length_long .., ?_⟩
  rw [View.encode, decode_long, decodeLong_pack ho hl rfl, memOf_pack]
  rfl

theorem reads_amo (hl : layoutOf op = some .amo) (x : Amo) : reads (View.amo op x).encode (ofAmo op x) := by
  refine ⟨length_long .., ?_⟩
  rw [View.encode, decode_long, decodeLong_pack ho hl rfl, amoOf_pack]
  rfl

theorem reads_mat (hl : layoutOf op = some .mat) (x : Mat) : reads (View.mat op x).encode (ofMat op x) := by
  refine ⟨length_long .., ?_⟩
  rw [View.encode, decode_long, decodeLong_pack ho hl rfl, matOf_pack]
  rfl

theorem reads_cpy (hl : layoutOf op = some .cpy) (x : Cpy) : reads (View.cpy op x).encode (ofCpy op x) := by
  refine ⟨length_long .., ?_⟩
  rw [View.encode, decode_long, decodeLong_pack ho hl rfl, cpyOf_pack]
  rfl

theorem reads_short (x : Short) {i : Instr} (h : ofShort op x = some i) : reads (View.short op x).encode (some i) := by
  have hl : (x.f ++ x.b ++ x.a ++ x.d ++ BitVec.ofNat 8 op ++ (0 : BitVec 2)).extractLsb' 0 2 = 0#2 := by
    simp (disch := omega) only [BitVec.extractLsb'_append_eq_of_add_le, BitVec.extractLsb'_eq_self]; rfl
  have h0 : (x.f ++ x.b ++ x.a ++ x.d ++ BitVec.ofNat 8 op ++ (0 : BitVec 2)).extractLsb' 2 8 = BitVec.ofNat 8 op := by
    simp (disch := omega) only [BitVec.extractLsb'_append_eq_of_le, BitVec.extractLsb'_append_eq_of_add_le,
      BitVec.extractLsb'_eq_self, Nat.sub_self]
  have hs : shortOf (x.f ++ x.b ++ x.a ++ x.d ++ BitVec.ofNat 8 op ++ (0 : BitVec 2)) = x := by
    simp (disch := omega) only [shortOf, BitVec.extractLsb'_append_eq_of_le, BitVec.extractLsb'_append_eq_of_add_le,
      BitVec.extractLsb'_eq_self, Nat.sub_self, Nat.reduceSub]
  constructor
  · simp only [View.encode, List.headD_cons, lengthWords, hl]; rfl
  · have hd := decodeShort_some (w0 := x.f ++ x.b ++ x.a ++ x.d ++ BitVec.ofNat 8 op ++ (0 : BitVec 2))
      (by rw [h0, op_toNat ho, hs]; exact h)
    refine (decodeWords_short hl).trans ?_
    rw [hd]
    rfl

theorem reads_shortBr (x : BitVec 22) {i : Instr} (hn : ∀ y, ofShort op y = none) (h : ofShortBr op x = some i) :
    reads (View.shortBr op x).encode (some i) := by
  have hl : (x ++ BitVec.ofNat 8 op ++ (0 : BitVec 2)).extractLsb' 0 2 = 0#2 := by
    simp (disch := omega) only [BitVec.extractLsb'_append_eq_of_add_le, BitVec.extractLsb'_eq_self]; rfl
  have h0 : (x ++ BitVec.ofNat 8 op ++ (0 : BitVec 2)).extractLsb' 2 8 = BitVec.ofNat 8 op := by
    simp (disch := omega) only [BitVec.extractLsb'_append_eq_of_le, BitVec.extractLsb'_append_eq_of_add_le,
      BitVec.extractLsb'_eq_self, Nat.sub_self]
  have hs : (x ++ BitVec.ofNat 8 op ++ (0 : BitVec 2)).extractLsb' 10 22 = x := by
    simp (disch := omega) only [BitVec.extractLsb'_append_eq_of_le, BitVec.extractLsb'_eq_self, Nat.sub_self, Nat.reduceSub]
  constructor
  · simp only [View.encode, List.headD_cons, lengthWords, hl]; rfl
  · have hd := decodeShort_br (w0 := x ++ BitVec.ofNat 8 op ++ (0 : BitVec 2)) (by rw [h0, op_toNat ho]; exact hn _)
    refine (decodeWords_short hl).trans ?_
    rw [hd, h0, op_toNat ho, hs, h]
    rfl

end layouts

end Sys2Proof
end

