-- ==== Sys2Proof/Laws/Mem.lean ====
section
/-! SUPPORT. What the loads, stores and atomics do when nothing keeps them from completing, and what sends their requests. -/

namespace Sys2Proof.Machine

theorem indexedCodes_eq {sp : Space} (h : sp ≠ .x) (a b : BitVec 9) : a.toNat :: indexCodes sp b = indexedCodes a b := by
  cases sp <;> first | exact absurd rfl h | rfl

/-- A scratchpad access that finds its place performs there. -/
theorem resolve_pad {x : Acc} {s : State} {p : PadPlace} (h : s.padPlace x.space x.m x.a x.size x.write = some p) :
    resolve x s = .ok (.ok p.loc) s := by
  simp only [State.padPlace] at h
  split at h
  · rename_i ha
    obtain ⟨h1, h2⟩ := Option.filter_eq_some_iff.mp h
    simp only [State.padFree, Bool.and_eq_true, Bool.not_eq_true', Bool.or_eq_true, List.isEmpty_iff] at h2
    have hp : padAccess x p.core p.lo p.shared s = .ok (.ok p.loc) s := by
      have e : (if (p.shared && p.core == s.curTask.core) = true then s.scalarWaits p.lo x.size x.write else []) = [] := by
        split
        · rcases h2.2 with h3 | h3
          · rename_i h4; rw [h4] at h3; exact absurd h3 (by simp)
          · exact h3
        · rfl
      rw [padAccess, bind_ok (get_apply s)]
      simp only [h2.1.1, h2.1.2, Bool.false_eq_true, if_false, e, List.isEmpty_nil]
      rfl
    rw [resolve, bind_ok (get_apply s)]
    rw [if_neg (by simpa using ha)]
    cases hs : x.space <;> rw [hs] at h1
    · simp only at h1 ⊢
      split at h1
      · rename_i hb
        obtain rfl := Option.some.inj h1
        rw [if_pos hb, hp]
      · exact absurd h1 (by simp)
    · simp only at h1 ⊢
      split at h1
      · rename_i hb
        obtain rfl := Option.some.inj h1
        rw [if_pos hb, hp]
      · exact absurd h1 (by simp)
    · simp only at h1 ⊢
      split at h1
      · rename_i hb
        obtain ⟨⟨core, g0, cs⟩, hc, h1⟩ := Option.bind_eq_some_iff.mp h1
        simp only at h1
        split at h1
        · rename_i hd
          obtain rfl := Option.some.inj h1
          rw [if_neg (by omega)]
          simp only [hc]
          rw [if_pos hd, hp]
        · exact absurd h1 (by simp)
      · exact absurd h1 (by simp)
    · exact absurd h1 (by simp)
    · exact absurd h1 (by simp)
    · exact absurd h1 (by simp)
  · exact absurd h (by simp)

/-- A device access performs at the home when its translation is found and no sector is bad. -/
theorem resolve_home {x : Acc} {s s1 : State} {va pte : DWord} {pa : Nat} (ha : x.a.toNat % x.size = 0)
    (hv : s.deviceAddress x.space x.a = some va)
    (ht : s.translate (s.strandAccess x.write false) va = (.ok pa pte, s1))
    (hb : s1.meetsBad x.read x.write s1.curTask.ctx s1.curTask.core pa x.size (pteUc pte) = false) :
    resolve x s = .ok (.ok (.home pa pte)) s1 := by
  have hg : gAccess x va s = .ok (.ok (.home pa pte)) s1 := by
    have h1 : translateCur x.write false va s = .ok (.ok (pa, pte)) s1 := by
      simp only [translateCur, ht]
    rw [gAccess, bind_ok h1]
    simp only [bind_ok (get_apply s1), hb, Bool.false_eq_true, if_false]
    rfl
  rw [resolve, bind_ok (get_apply s)]
  rw [if_neg (by simpa using ha)]
  simp only [State.deviceAddress] at hv
  cases hs : x.space <;> rw [hs] at hv
  · simp only at hv ⊢
    split at hv
    · rename_i h
      simp only [Bool.and_eq_true, decide_eq_true_eq, bne_iff_ne, ne_eq] at h
      obtain rfl := Option.some.inj hv
      rw [if_neg (by omega), if_neg (by
        rw [Bool.or_eq_true, decide_eq_true_eq, beq_iff_eq]
        rintro (h' | h')
        · omega
        · exact h.2 h')]
      exact hg
    · exact absurd hv (by simp)
  · exact absurd hv (by simp)
  · exact absurd hv (by simp)
  · obtain rfl := Option.some.inj hv
    exact hg
  · exact absurd hv (by simp)
  · exact absurd hv (by simp)

/-- A peer access goes over its aperture's port. -/
theorem resolve_peer {x : Acc} {s : State} (hs : x.space = .x) (ha : x.a.toNat % x.size = 0)
    (hv : (Assoc.getD s.curCtx.apertures x.m {}).valid = true)
    (hz : x.a.toNat + x.size ≤ (Assoc.getD s.curCtx.apertures x.m {}).size.toNat)
    (hw : x.write = true → (Assoc.getD s.curCtx.apertures x.m {}).w = true)
    (hp : (s.port (Assoc.getD s.curCtx.apertures x.m {}).portNo).state = .up ∨
      (s.port (Assoc.getD s.curCtx.apertures x.m {}).portNo).state = .degraded) :
    resolve x s = .ok (.ok (.link (Assoc.getD s.curCtx.apertures x.m {}).portNo
      ((Assoc.getD s.curCtx.apertures x.m {}).target x.a.toNat)
      (s.pasid (Assoc.getD s.curCtx.apertures x.m {}) s.curTask.ctx))) s := by
  rw [resolve, bind_ok (get_apply s)]
  rw [if_neg (by simpa using ha)]
  simp only [hs, hv, Bool.not_true, Bool.false_or, decide_eq_true_eq]
  rw [if_neg (by omega), if_neg]
  · rw [portAccess, bind_ok (get_apply s)]
    rcases hp with hp | hp <;> rw [hp] <;> rfl
  · cases hx : x.write
    · simp
    · rw [hw hx]; simp

/-- A host access goes over the host port at its translated address. -/
theorem resolve_host {x : Acc} {s s1 : State} {pa : Nat} {pte : DWord} (hs : x.space = .h) (ha : x.a.toNat % x.size = 0)
    (ht : s.translate (s.strandAccess x.write true) x.a = (.ok pa pte, s1))
    (hp : (s1.port 0).state = .up ∨ (s1.port 0).state = .degraded) :
    resolve x s = .ok (.ok (.link 0 (BitVec.ofNat 64 pa) 0)) s1 := by
  have h1 : translateCur x.write true x.a s = .ok (.ok (pa, pte)) s1 := by simp only [translateCur, ht]
  rw [resolve, bind_ok (get_apply s)]
  rw [if_neg (by simpa using ha)]
  simp only [hs]
  rw [bind_ok h1]
  simp only [portAccess, bind_ok (get_apply s1)]
  rcases hp with hp | hp <;> rw [hp] <;> rfl

/-! ## Bodies -/

/-- The operand checks of an admitted instruction hold. -/
theorem operandsOk_of_admits {s : State} {v : View} {op : Nat} (h : s.admits v = true) (ho : v.op? = some op)
    (hv : (∀ x, v ≠ .header x)) : v.operandsOk = true := by
  have h1 := ((s.admits_iff v).mp h).1
  revert h1
  unfold encodingTrap
  split
  · rename_i x
    exact absurd rfl (hv x)
  · intro h1
    split at h1
    · exact absurd h1 (by simp)
    · split at h1
      · exact absurd h1 (by simp)
      · rw [ho] at h1
        simp only at h1
        split at h1
        · exact absurd h1 (by simp)
        · split at h1
          · exact absurd h1 (by simp)
          · split at h1
            · exact absurd h1 (by simp)
            · rename_i h2
              simpa using h2

theorem accessOf_address (s : State) (op : Nat) (sp : Space) (a b : BitVec 9) (off : DWord) (size : Nat) (rest : List Nat)
    (h : sp ≠ .x) (hn : sp = .n → b ≠ 0x1FF) :
    accessOf op sp b off size ((indexedCodes a b ++ rest).map s.source) =
      { op, space := sp, m := if sp = .n then s.memberOf b else 0, a := s.accessAddress sp a b off size, size } := by
  cases sp
  case n =>
    have hb : b ≠ 511#9 := hn rfl
    simp [accessOf, indexedCodes, hb, State.accessAddress, State.baseAddress, second, State.memberOf]
  case x => exact absurd rfl h
  all_goals
    by_cases hb : b = 511#9 <;>
      simp [accessOf, indexedCodes, hb, State.accessAddress, State.indexedAddress, second]

theorem popNow_apply (codes : List Nat) (s : State) : popNow codes s = .ok () (s.popCodes codes) := rfl

/-! ## Links and markers -/

theorem linkAnswer_ok {s : State} (h : s.noRequest = true) : linkAnswer s = .ok s.curStrand.held s := by
  have hf : (s.reqs.find? fun r => r.2.strand == s.cur) = none := by
    rw [List.find?_eq_none]
    intro q hq
    have := List.all_eq_true.mp h q hq
    simp only [bne_iff_ne, ne_eq] at this
    simp [this]
  rw [linkAnswer, bind_ok (get_apply s)]
  simp only [hf]
  rfl

/-- A marker with nothing to flush goes on. -/
theorem flushHost_ok {s : State} {yes : Bool} {k : Scope} (h : s.flushDone yes k = true) : flushHost yes k s = .ok none s := by
  simp only [State.flushDone, Bool.and_eq_true, Bool.not_eq_true'] at h
  obtain ⟨⟨h1, h2⟩, h3⟩ := h
  rw [flushHost, bind_ok (linkAnswer_ok h1), bind_ok (get_apply s)]
  simp only [h2, Bool.false_eq_true, if_false]
  revert h3
  cases hh : s.curStrand.held with
  | none => intro _; rfl
  | some w =>
    cases w with
    | trap c v => intro h; exact absurd h (by simp)
    | _ => intro _; rfl

theorem flushFor_ok {s : State} {k : Scope} (h : s.flushDone true k = true) : flushFor k s = .ok () s := by
  rw [flushFor, bind_ok (flushHost_ok h)]
  rfl

theorem qMark_apply (yes : Bool) (k : Nat) (s : State) :
    (if yes = true then qMark (scopeOf k) else pure ()) s = .ok () (s.ordered yes k) := by
  cases yes <;> rfl

theorem qMark_if (c : Prop) [Decidable c] (k : Nat) (s : State) :
    (if c then qMark (scopeOf k) else pure ()) s = .ok () (s.ordered (decide c) k) := by
  by_cases h : c
  · rw [if_pos h, decide_eq_true h]; rfl
  · rw [if_neg h, decide_eq_false h]; rfl

/-- A load on the card. -/
theorem loadBody_card {op : Nat} {x : Mem} {s s1 : State} {l : Loc} {sp : Space} {acc : Acc}
    (hsp : memSpace op = sp) (hx : sp ≠ .x) (hh : sp ≠ .h) (hn : sp = .n → x.b ≠ 0x1FF)
    (hr : s.ready (indexedCodes x.a x.b) (some x.d.toNat) = true)
    (hacc : acc = ⟨op, sp, if sp = .n then s.memberOf x.b else 0,
      s.accessAddress sp x.a x.b (x.off.signExtend 64) (2 ^ x.size.toNat), 2 ^ x.size.toNat, false, true⟩)
    (hl : resolve acc s = .ok (.ok l) s1) (hf : s1.flushDone (x.ord == 1) (scopeOf x.scope.toNat) = true)
    (hk : ∀ a b c, l ≠ .link a b c) :
    loadBody op x s = .ok .next (((s1.popCodes (indexedCodes x.a x.b)).loadIn x.d.toNat l (2 ^ x.size.toNat)).ordered
      (x.ord == 1) x.scope.toNat) := by
  have hc : x.a.toNat :: indexCodes sp x.b = indexedCodes x.a x.b := indexedCodes_eq hx x.a x.b
  have hp := peekOperands_ok hr
  have ha := accessOf_address s op sp x.a x.b (x.off.signExtend 64) (2 ^ x.size.toNat) [] hx hn
  rw [List.append_nil] at ha
  have hq : ∀ t : State, (if x.ord = 1 then qMark (scopeOf x.scope.toNat) else pure ()) t =
      .ok () (t.ordered (x.ord == 1) x.scope.toNat) := fun t => qMark_if _ _ t
  rw [loadBody]
  simp only [hsp]
  rw [bind_ok (pure_apply _ _), hc, bind_ok hp, ha, ← hacc]
  simp only
  rw [bind_ok hl]
  simp only
  rw [bind_ok (flushHost_ok hf)]
  cases l with
  | link a b c => exact absurd rfl (hk a b c)
  | pad core lo shared =>
    simp only
    rw [bind_ok (popNow_apply _ _), bind_ok (modify_apply _ _), bind_ok (hq _)]
    rfl
  | home pa pte =>
    simp only
    rw [bind_ok (popNow_apply _ _), bind_ok (modify_apply _ _), bind_ok (hq _)]
    rfl

/-- The operands of a store that issues. -/
theorem storeOperands_ok {s q : State} {codes : List Nat} {d : Nat} {v : DWord} (h : s.storeIssue codes d = some (v, q)) :
    storeOperands codes d s = .ok (codes.map s.source ++ [v]) q := by
  simp only [State.storeIssue] at h
  rw [storeOperands, bind_ok (get_apply s)]
  split at h
  · rename_i w hw
    obtain ⟨rfl, rfl⟩ := Prod.mk.inj (Option.some.inj h)
    simp only [hw]
    rfl
  · rename_i hw
    split at h
    · rename_i hr
      obtain ⟨rfl, rfl⟩ := Prod.mk.inj (Option.some.inj h)
      simp only [hw]
      rw [bind_ok (peekOperands_ok hr), bind_ok (popNow_apply _ _)]
      simp only [List.map_append, List.map_cons, List.map_nil]
      rfl
    · exact absurd h (by simp)

/-- A store on the card. -/
theorem storeBody_card {op : Nat} {x : Mem} {s q s1 : State} {l : Loc} {sp : Space} {acc : Acc} {v : DWord}
    (hsp : memSpace op = sp) (hx : sp ≠ .x) (hh : sp ≠ .h) (hn : sp = .n → x.b ≠ 0x1FF)
    (hr : s.storeIssue (indexedCodes x.a x.b) x.d.toNat = some (v, q))
    (hacc : acc = ⟨op, sp, if sp = .n then s.memberOf x.b else 0,
      s.accessAddress sp x.a x.b (x.off.signExtend 64) (2 ^ x.size.toNat), 2 ^ x.size.toNat, true, false⟩)
    (hl : resolve acc q = .ok (.ok l) s1) (hf : s1.flushDone (x.ord == 2) (scopeOf x.scope.toNat) = true)
    (hk : ∀ a b c, l ≠ .link a b c) :
    storeBody op x s = .ok .next ((s1.ordered (x.ord == 2) x.scope.toNat).storeOut l (2 ^ x.size.toNat)
      (storeData (2 ^ x.size.toNat) v)) := by
  have hc : x.a.toNat :: indexCodes sp x.b = indexedCodes x.a x.b := indexedCodes_eq hx x.a x.b
  have ha := accessOf_address s op sp x.a x.b (x.off.signExtend 64) (2 ^ x.size.toNat) [] hx hn
  rw [List.append_nil] at ha
  have hac : ∀ w : DWord, accessOf op sp x.b (x.off.signExtend 64) (2 ^ x.size.toNat)
      ((indexedCodes x.a x.b).map s.source ++ [w]) =
      accessOf op sp x.b (x.off.signExtend 64) (2 ^ x.size.toNat) ((indexedCodes x.a x.b).map s.source) := by
    intro w
    cases sp
    case n =>
      have hb : x.b ≠ 511#9 := hn rfl
      simp [accessOf, indexedCodes, hb, second]
    case x => exact absurd rfl hx
    all_goals by_cases hb : x.b = 511#9 <;> simp [accessOf, indexedCodes, hb, second]
  have hd : ((indexedCodes x.a x.b).map s.source ++ [v]).getLastD 0 = v := by simp
  have hbody : ∀ pop : Bool,
      storeRest acc none (x.ord == 2) pop (scopeOf x.scope.toNat) (storeData (2 ^ x.size.toNat) v) q =
      .ok () ((s1.ordered (x.ord == 2) x.scope.toNat).storeOut l (2 ^ x.size.toNat) (storeData (2 ^ x.size.toNat) v)) := by
    intro pop
    have hz : acc.size = 2 ^ x.size.toNat := by rw [hacc]
    rw [storeRest.eq_def]
    show (resolve acc >>= _) q = _
    rw [bind_ok hl]
    simp only
    rw [bind_ok (flushHost_ok hf)]
    cases ho : (x.ord == 2) <;> simp only [Bool.false_eq_true, if_false, if_true]
    · cases l with
      | link a b c => exact absurd rfl (hk a b c)
      | pad core lo shared => simp only [hz]; rfl
      | home pa pte => simp only [hz]; rfl
    · rw [bind_ok (show qMark (scopeOf x.scope.toNat) s1 = .ok () (s1.ordered true x.scope.toNat) from rfl)]
      cases l with
      | link a b c => exact absurd rfl (hk a b c)
      | pad core lo shared => simp only [hz]; rfl
      | home pa pte => simp only [hz]; rfl
  rw [storeBody]
  simp only [hsp]
  rw [bind_ok (pure_apply _ _), hc, bind_ok (storeOperands_ok hr)]
  simp only [hac, ha, hd, ← hacc]
  cases hp : isPopCode x.d.toNat
  · simp only [Bool.false_eq_true, if_false]
    rw [bind_ok (hbody false)]
    rfl
  · simp only [if_true]
    rw [bind_ok (show keepPopped v _ q = .ok () ((s1.ordered (x.ord == 2) x.scope.toNat).storeOut l (2 ^ x.size.toNat)
      (storeData (2 ^ x.size.toNat) v)) by simp only [keepPopped, hbody true])]
    rfl

/-- An atomic on the card. -/
theorem atomicBody_card {op : Nat} {x : Amo} {s s1 : State} {l : Loc} {sp : Space} {acc : Acc} {codes : List Nat}
    (hsp : amoSpace op = sp) (hx : sp ≠ .x) (hh : sp ≠ .h) (hn : sp = .n → x.b ≠ 0x1FF)
    (hcodes : codes = indexedCodes x.a x.b ++ [x.d.toNat] ++ (if x.func = 2 then [x.d.toNat + 1] else []))
    (hr : s.ready codes (some x.d.toNat) = true)
    (hacc : acc = ⟨op, sp, if sp = .n then s.memberOf x.b else 0,
      s.accessAddress sp x.a x.b (x.off.signExtend 64) (2 ^ x.size.toNat), 2 ^ x.size.toNat, true, true⟩)
    (hl : resolve acc s = .ok (.ok l) s1) (hfl : s1.flushDone (x.ord != 0) (scopeOf x.scope.toNat) = true)
    (hk : ∀ a b c, l ≠ .link a b c) :
    ∃ old t, atomicLoc l x.func.toNat (2 ^ x.size.toNat) (storeData (2 ^ x.size.toNat) (s.source x.d.toNat))
        (if x.func = 2 then storeData (2 ^ x.size.toNat) (s.source (x.d.toNat + 1)) else 0)
        (s1.ordered (x.ord.getLsbD 1) x.scope.toNat) = .ok old t ∧
      atomicBody op x s = .ok .next
        (((t.popCodes codes).writeDst x.d.toNat (BitVec.ofNat 64 old)).ordered (x.ord.getLsbD 0) x.scope.toNat) := by
  have hc : x.a.toNat :: indexCodes sp x.b = indexedCodes x.a x.b := indexedCodes_eq hx x.a x.b
  have hf : x.func.toNat = 2 ↔ x.func = 2 := by
    constructor
    · intro h; exact BitVec.eq_of_toNat_eq (by simpa using h)
    · intro h; rw [h]; rfl
  have hp := peekOperands_ok hr
  have ha := accessOf_address s op sp x.a x.b (x.off.signExtend 64) (2 ^ x.size.toNat)
    ([x.d.toNat] ++ (if x.func = 2 then [x.d.toNat + 1] else [])) hx hn
  rw [← List.append_assoc, ← hcodes] at ha
  have hlen : (indexCodes sp x.b).length + 1 = (indexedCodes x.a x.b).length := by rw [← hc]; rfl
  have h1 : (codes.map s.source).getD (1 + (indexCodes sp x.b).length) 0 = s.source x.d.toNat := by
    rw [Nat.add_comm, hlen, hcodes, List.append_assoc]
    simp [List.getD_eq_getElem?_getD]
  have h2 : storeData (2 ^ x.size.toNat) ((codes.map s.source).getD (2 + (indexCodes sp x.b).length) 0) =
      if x.func = 2 then storeData (2 ^ x.size.toNat) (s.source (x.d.toNat + 1)) else 0 := by
    rw [show 2 + (indexCodes sp x.b).length = (indexedCodes x.a x.b).length + 1 by omega, hcodes, List.append_assoc]
    by_cases h : x.func = 2
    · rw [if_pos h, if_pos h]; simp [List.getD_eq_getElem?_getD]
    · rw [if_neg h, if_neg h]; simp [List.getD_eq_getElem?_getD, storeData]
  obtain ⟨old, t, ht⟩ : ∃ old t, atomicLoc l x.func.toNat (2 ^ x.size.toNat)
      (storeData (2 ^ x.size.toNat) (s.source x.d.toNat))
      (if x.func = 2 then storeData (2 ^ x.size.toNat) (s.source (x.d.toNat + 1)) else 0)
      (s1.ordered (x.ord.getLsbD 1) x.scope.toNat) = .ok old t := by
    cases l <;> exact ⟨_, _, rfl⟩
  refine ⟨old, t, ht, ?_⟩
  have e : x.a.toNat :: indexCodes sp x.b ++ [x.d.toNat] ++ (if x.func.toNat = 2 then [x.d.toNat + 1] else []) = codes := by
    rw [hc, hcodes]; simp only [hf]
  rw [atomicBody]
  simp only [hsp]
  rw [bind_ok (pure_apply _ _), e, bind_ok hp, ha]
  simp only [← hacc, h1, h2]
  simp only [Bool.false_and, Bool.false_eq_true, if_false]
  rw [bind_ok hl]
  simp only
  rw [bind_ok (flushHost_ok hfl)]
  cases l with
  | link a b c => exact absurd rfl (hk a b c)
  | pad core lo shared =>
    cases ho : x.ord.getLsbD 1 <;> rw [ho] at ht
    · rw [show s1.ordered false x.scope.toNat = s1 from rfl] at ht
      simp only [Bool.false_eq_true, if_false]
      rw [bind_ok ht, bind_ok (popNow_apply _ _), bind_ok (writeDst_apply _ _ _), bind_ok (qMark_apply _ _ _)]
      rfl
    · simp only [if_true]
      rw [bind_ok (show qMark (scopeOf x.scope.toNat) s1 = .ok () (s1.ordered true x.scope.toNat) from rfl), bind_ok ht,
        bind_ok (popNow_apply _ _), bind_ok (writeDst_apply _ _ _), bind_ok (qMark_apply _ _ _)]
      rfl
  | home pa pte =>
    cases ho : x.ord.getLsbD 1 <;> rw [ho] at ht
    · rw [show s1.ordered false x.scope.toNat = s1 from rfl] at ht
      simp only [Bool.false_eq_true, if_false]
      rw [bind_ok ht, bind_ok (popNow_apply _ _), bind_ok (writeDst_apply _ _ _), bind_ok (qMark_apply _ _ _)]
      rfl
    · simp only [if_true]
      rw [bind_ok (show qMark (scopeOf x.scope.toNat) s1 = .ok () (s1.ordered true x.scope.toNat) from rfl), bind_ok ht,
        bind_ok (popNow_apply _ _), bind_ok (writeDst_apply _ _ _), bind_ok (qMark_apply _ _ _)]
      rfl

end Sys2Proof.Machine
end

