-- ==== Sys2Proof/Laws/Engine.lean ====
section
/-! SUPPORT. What the issue checks of engine instructions answer when every row of their tables passes. -/

namespace Sys2Proof.Machine

theorem checkerRoom_ok {u ch : Nat} {s : State} (h : s.tracked s.curTask.core < 64) : checkerRoom u ch s = .ok () s := by
  rw [checkerRoom, bind_ok (get_apply s), if_neg (by omega)]
  rfl

theorem vecRoom_ok {s : State} (h : s.hasRoom (s.core s.curTask.core).vq.length = true) : vecRoom s = .ok () s := by
  simp only [State.hasRoom, Bool.and_eq_true, decide_eq_true_eq] at h
  rw [vecRoom, bind_ok (get_apply s), if_neg (by omega), checkerRoom_ok h.2]

theorem matRoom_ok {s : State} (h : s.hasRoom (s.core s.curTask.core).mq.length = true) : matRoom s = .ok () s := by
  simp only [State.hasRoom, Bool.and_eq_true, decide_eq_true_eq] at h
  rw [matRoom, bind_ok (get_apply s), if_neg (by omega), checkerRoom_ok h.2]

/-- Every row of Table 6-3 passes and no older command writes what the checks read. -/
theorem checkVec_ok {s : State} {c : VecCmd} {srcs : List Nat} (h : ∀ r ∈ s.vecRows c srcs, r = none) (hn : c.n ≠ 0)
    (ho : s.olderWriters (s.checkedBytes c) = []) : checkVec c srcs s = .ok (s.withScales c) s := by
  simp only [State.vecRows, List.mem_cons, List.not_mem_nil, or_false, forall_eq_or_imp, forall_eq, Option.map_eq_none_iff,
    ite_eq_right_iff, reduceCtorEq, imp_false, Bool.not_eq_true] at h
  obtain ⟨a1, a2, a3, a4, a5, a6, a7, a8, a9⟩ := h
  simp only [State.olderWriters] at ho
  rw [checkVec, bind_ok (get_apply s)]
  simp only [a1, a2, a4, a5, a6, a8, a9, hn, Bool.false_eq_true, if_false, ho, List.isEmpty_nil, Bool.not_true] at a3 ⊢
  simp only [a3, Bool.false_eq_true, if_false]
  cases hs : s.sourceScales c with
  | error e => rw [hs] at a7; exact absurd a7 (by simp)
  | ok l => simp only [State.withScales, hs]; rfl

/-- Every row of Table 8-3 passes and no older command writes what the checks read. -/
theorem checkCpy_ok {s : State} {op : Nat} {c : CpyCmd} (h : ∀ r ∈ s.cpyRows op c, r = none)
    (ho : s.olderWriters (s.cpyStream op c) = []) : checkCpy op c s = .ok () s := by
  simp only [State.cpyRows, List.mem_cons, List.not_mem_nil, or_false, forall_eq_or_imp, forall_eq, Option.map_eq_none_iff,
    ite_eq_right_iff, reduceCtorEq, imp_false, Bool.not_eq_true] at h
  obtain ⟨a1, a2, a3, a4, a5, a6, a7, a8⟩ := h
  simp only [State.olderWriters] at ho
  rw [checkCpy, bind_ok (get_apply s)]
  simp only [a1, a3, a4, a5, a6, a7, a8, Bool.false_eq_true, if_false, ho, List.isEmpty_nil, Bool.not_true] at a2 ⊢
  simp only [a2, Bool.false_eq_true, if_false]
  rfl

theorem lateFor_none {s : State} {r w : List Resource} (h : s.lateOf r w = none) : lateFor r w s = .ok () s := by
  simp only [State.lateOf] at h
  rw [lateFor, bind_ok (get_apply s)]
  dsimp only at h ⊢
  split at h
  · exact absurd h (by simp)
  · rename_i hm
    simp only [hm]
    rw [Option.map_eq_none_iff] at h
    simp only [h]
    rfl

theorem lateFor_some {s t : State} {r w : List Resource} {l : LateTrap} (h : s.lateOf r w = some (l, t)) :
    lateFor r w s = .error (.trap { cause := l.cause, value := some l.value, keep := true }) (t.tookLate l) := by
  simp only [State.lateOf] at h
  rw [lateFor, bind_ok (get_apply s)]
  dsimp only at h ⊢
  split at h
  · rename_i l' hm
    simp only [Option.some.injEq, Prod.mk.injEq] at h
    obtain ⟨rfl, rfl⟩ := h
    simp only [hm]
    rfl
  · rename_i hm
    simp only [hm]
    rw [Option.map_eq_some_iff] at h
    obtain ⟨l', hl, hh⟩ := h
    simp only [Prod.mk.injEq] at hh
    obtain ⟨rfl, rfl⟩ := hh
    simp only [hl]
    rfl

end Sys2Proof.Machine
end

