-- ==== Sys2Proof/Laws/Float.lean ====
section
/-! SUPPORT. Rounding a quotient in each mode, and conversion into a binary format: a finite element comes back as it is,
without a flag. -/

namespace Sys2Proof.Machine

theorem log2_mul_two_pow (n k : Nat) (h : 0 < n) : (n * 2 ^ k).log2 = n.log2 + k := by
  have h1 := Nat.log2_self_le (Nat.ne_of_gt h)
  have h2 := @Nat.lt_log2_self n
  have hp : 0 < n * 2 ^ k := Nat.mul_pos h (Nat.two_pow_pos k)
  apply Nat.le_antisymm
  · apply Nat.le_of_lt_succ
    rw [Nat.log2_lt (Nat.ne_of_gt hp), show (n.log2 + k).succ = (n.log2 + 1) + k by omega, Nat.pow_add]
    exact Nat.mul_lt_mul_of_pos_right h2 (Nat.two_pow_pos k)
  · rw [Nat.le_log2 (Nat.ne_of_gt hp), Nat.pow_add]
    exact Nat.mul_le_mul_right _ h1

/-- The base-2 logarithm of N × 2^E. -/
theorem log2Ratio_dyadic {n : Nat} (h : 0 < n) (e : Nat) :
    log2Ratio (n * 2 ^ e) 1 = (n.log2 : Int) + e ∧ log2Ratio n (2 ^ e) = (n.log2 : Int) - e := by
  have h1 := Nat.log2_self_le (Nat.ne_of_gt h)
  have l1 : Nat.log2 1 = 0 := by decide
  constructor
  · have hk : (((n * 2 ^ e).log2 : Nat) : Int) - ((1 : Nat).log2 : Nat) = ((n.log2 + e : Nat) : Int) := by
      rw [log2_mul_two_pow n e h, l1]; omega
    simp only [log2Ratio, hk]
    rw [if_pos]
    · omega
    · rw [if_pos (by omega), Int.toNat_natCast, Nat.pow_add, Nat.one_mul]
      exact Nat.mul_le_mul_right _ h1
  · have hk : ((n.log2 : Nat) : Int) - (((2 : Nat) ^ e).log2 : Nat) = (n.log2 : Int) - e := by rw [Nat.log2_two_pow]
    simp only [log2Ratio, hk]
    rw [if_pos]
    by_cases g : (0 : Int) ≤ (n.log2 : Int) - e
    · rw [if_pos g, ← Nat.pow_add]
      have : e + ((n.log2 : Int) - e).toNat = n.log2 := by omega
      rw [this]; exact h1
    · rw [if_neg g]
      have : 2 ^ e = 2 ^ n.log2 * 2 ^ (-((n.log2 : Int) - e)).toNat := by
        rw [← Nat.pow_add]; congr 1; omega
      rw [this]; exact Nat.mul_le_mul_right _ h1

theorem roundQuot_exact (rm : Nat) (s : Bool) (q d : Nat) : roundQuot rm s q 0 d = q := by simp [roundQuot]

/-- The steps of ConvertTo on N × 2^E when the last place of the format at that magnitude is 2^E. -/
theorem convertBin_dyadic (md : FpMode) (tag ew mw low : Nat) (inf nan s : Bool) (n : Nat) (e : Int) (h : 0 < n)
    (hk : max ((n.log2 : Int) + e) (1 - (biasOf ew : Int)) = e + mw)
    (hc : (e + mw - (1 - (biasOf ew : Int))).toNat * 2 ^ mw + n ≤ maxCode ew mw inf nan)
    (hz : (md.fz && flushes tag) = false) :
    convertBin md tag ew mw low inf nan (Val.dyadic s n e) =
      (signCode ew mw low s ((e + mw - (1 - (biasOf ew : Int))).toNat * 2 ^ mw + n), 0) := by
  have hp := Nat.two_pow_pos
  have h0 : n ≠ 0 := Nat.ne_of_gt h
  by_cases g : 0 ≤ e
  · obtain ⟨m, rfl⟩ := Int.eq_ofNat_of_zero_le g
    have hl := (log2Ratio_dyadic h m).1
    have hn : n * 2 ^ m ≠ 0 := Nat.ne_of_gt (Nat.mul_pos h (hp m))
    have hs : ((m : Int) + mw) - mw = m := by omega
    simp only [Val.dyadic, if_pos g, Int.toNat_natCast, convertBin, if_neg hn, hl, hk, hs, Nat.one_mul,
      Nat.mul_mod_left, Nat.mul_div_cancel _ (hp m), roundQuot_exact, hz, Bool.false_and, if_true]
    rw [if_neg (Nat.not_lt.mpr hc)]
    simp
  · obtain ⟨m, rfl⟩ : ∃ m : Nat, e = -(m : Int) := ⟨(-e).toNat, by omega⟩
    have hl := (log2Ratio_dyadic h m).2
    have hs : (-(m : Int) + mw) - mw = -m := by omega
    have hq : (n.log2 : Int) - m = n.log2 + -m := by omega
    simp only [Val.dyadic, if_neg g, Int.neg_neg, Int.toNat_natCast, convertBin, if_neg h0, hl, hq, hk, hs,
      Nat.mul_mod_left, Nat.mul_div_cancel _ (hp m), roundQuot_exact, hz, Bool.false_and, if_true]
    rw [if_neg (Nat.not_lt.mpr hc)]
    simp

theorem field_zero (x n : Nat) : field x 0 n = x % 2 ^ n := by simp [field]

/-- ConvertTo gives a finite element back, without a flag (R23, R44). -/
theorem convertBin_decodeBin (md : FpMode) (tag ew mw low : Nat) (inf nan : Bool) (x : Nat) (hw : 2 ≤ ew)
    (hx : x < 2 ^ (ew + mw + 1)) (hz : (md.fz && flushes tag) = false)
    (hn : (decodeBin ew mw inf nan false x).isNan = false) (hi : (decodeBin ew mw inf nan false x).isInf = false) :
    convertBin md tag ew mw low inf nan (decodeBin ew mw inf nan false x) = (x * 2 ^ low, 0) := by
  have hp := Nat.two_pow_pos
  -- the element by its parts
  have hmag : field x 0 (ew + mw) = field x mw ew * 2 ^ mw + field x 0 mw := by
    simp only [field, Nat.pow_zero, Nat.div_one, Nat.add_comm ew mw, Nat.pow_add]
    rw [Nat.mod_mul, Nat.add_comm, Nat.mul_comm]
  have hm' : field x 0 mw < 2 ^ mw := by simp only [field_zero]; exact Nat.mod_lt _ (hp mw)
  have he' : field x mw ew < 2 ^ ew := Nat.mod_lt _ (hp ew)
  have hsign : signCode ew mw low (field x (ew + mw) 1 == 1) (field x 0 (ew + mw)) = x * 2 ^ low := by
    have : x / 2 ^ (ew + mw) < 2 := by
      rw [Nat.div_lt_iff_lt_mul (hp _), Nat.mul_comm, ← Nat.pow_succ]; exact hx
    have h1 : field x (ew + mw) 1 = x / 2 ^ (ew + mw) := Nat.mod_eq_of_lt this
    have h2 := Nat.div_add_mod x (2 ^ (ew + mw))
    rw [signCode, h1, field_zero]
    congr 1
    rcases Nat.lt_or_ge (x / 2 ^ (ew + mw)) 1 with h | h
    · have h' : x / 2 ^ (ew + mw) = 0 := by omega
      rw [h'] at h2 ⊢; simp at h2 ⊢; exact h2
    · have h' : x / 2 ^ (ew + mw) = 1 := by omega
      rw [h'] at h2 ⊢; simp at h2 ⊢; exact h2
  have hb : (1 : Int) ≤ biasOf ew := by
    have : 2 ^ 1 ≤ 2 ^ (ew - 1) := Nat.pow_le_pow_right (by omega) (by omega)
    simp only [biasOf]; omega
  unfold decodeBin at hn hi ⊢
  simp only [Bool.false_eq_true, if_false] at hn hi ⊢
  by_cases e0 : field x mw ew = 0
  · -- zero or subnormal
    simp only [e0, if_true]
    by_cases m0 : field x 0 mw = 0
    · have : field x 0 (ew + mw) = 0 := by rw [hmag, e0, m0]; simp
      rw [this] at hsign
      simp only [m0, Val.dyadic]
      split <;> simp [convertBin, hsign]
    · have hl : (field x 0 mw).log2 < mw := (Nat.log2_lt m0).mpr hm'
      have hmx : field x 0 mw ≤ maxCode ew mw inf nan := by
        have : 2 ^ mw * 2 ≤ 2 ^ (ew + mw) := by rw [← Nat.pow_succ]; exact Nat.pow_le_pow_right (by omega) (by omega)
        have : 2 ^ mw ≤ (2 ^ ew - 1) * 2 ^ mw := Nat.le_mul_of_pos_left _ (by
          have : 2 ^ 2 ≤ 2 ^ ew := Nat.pow_le_pow_right (by omega) hw
          omega)
        have := hp mw
        simp only [maxCode]; split <;> (try split) <;> omega
      rw [convertBin_dyadic md tag ew mw low inf nan _ _ _ (by omega) (by omega)
        (by rw [show (1 - (biasOf ew : Int) - mw + mw - (1 - (biasOf ew : Int))).toNat = 0 by omega]; omega) hz]
      rw [show (1 - (biasOf ew : Int) - mw + mw - (1 - (biasOf ew : Int))).toNat = 0 by omega]
      rw [hmag, e0, Nat.zero_mul] at hsign
      rw [Nat.zero_mul]; exact congrArg (·, 0) hsign
  · simp only [e0, if_false] at hn hi ⊢
    by_cases hI : (inf && field x mw ew == 2 ^ ew - 1) = true
    · rw [if_pos hI] at hn hi
      split at hi <;> simp_all [Val.isInf, Val.isNan]
    · rw [if_neg hI] at hn hi ⊢
      by_cases hN : (!inf && nan && field x 0 (ew + mw) == 2 ^ (ew + mw) - 1) = true
      · rw [if_pos hN] at hn; simp [Val.isNan] at hn
      · rw [if_neg hN]
        have hlog : (2 ^ mw + field x 0 mw).log2 = mw := by
          rw [Nat.log2_eq_iff (by have := hp mw; omega)]
          constructor
          · omega
          · rw [Nat.pow_succ]; omega
        have hE : (((field x mw ew : Nat) : Int) - 1 + (1 - (biasOf ew : Int)) - mw + mw - (1 - (biasOf ew : Int))).toNat
            = field x mw ew - 1 := by omega
        have hcode : (field x mw ew - 1) * 2 ^ mw + (2 ^ mw + field x 0 mw) = field x 0 (ew + mw) := by
          rw [hmag]
          obtain ⟨k, hk⟩ : ∃ k, field x mw ew = k + 1 := ⟨field x mw ew - 1, by omega⟩
          rw [hk, Nat.add_sub_cancel, Nat.succ_mul]; omega
        have hmx : field x 0 (ew + mw) ≤ maxCode ew mw inf nan := by
          have hlt : field x 0 (ew + mw) < 2 ^ (ew + mw) := by rw [field_zero]; exact Nat.mod_lt _ (hp _)
          simp only [maxCode]
          cases inf
          · cases nan
            · simp; omega
            · simp at hN ⊢; omega
          · simp at hI ⊢
            have : field x mw ew + 1 ≤ 2 ^ ew - 1 := by omega
            have := Nat.mul_le_mul_right (2 ^ mw) this
            rw [hmag]; rw [Nat.succ_mul] at this; omega
        rw [convertBin_dyadic md tag ew mw low inf nan _ _ _ (by have := hp mw; omega) (by rw [hlog]; omega)
          (by rw [hE, hcode]; exact hmx) hz, hE, hcode]
        exact congrArg (·, 0) hsign

/-- What rounding a quotient to an integer gives, in each mode. -/
theorem roundQuot_spec (rm : Nat) (neg : Bool) (q r d : Nat) (hr : r < d) :
    let k := roundQuot rm neg q r d
    (k = q ∨ k = q + 1) ∧ (r = 0 → k = q) ∧
    (rm = 0 ∨ rm = 4 → 2 * k * d ≤ 2 * (q * d + r) + d ∧ 2 * (q * d + r) ≤ 2 * k * d + d) ∧
    (2 * r = d → (rm = 0 → k % 2 = 0) ∧ (rm = 4 → k = q + 1)) ∧
    (r ≠ 0 → (rm = 1 → k = q) ∧ (rm = 2 → (k = q ↔ neg = true)) ∧ (rm = 3 → (k = q ↔ neg = false)) ∧ (rm = 5 → k % 2 = 1)) := by
  have e1 : ∀ a : Nat, 2 * a * d = 2 * (a * d) := fun a => Nat.mul_assoc ..
  have e2 : (q + 1) * d = q * d + d := Nat.succ_mul ..
  obtain ⟨p, hp⟩ : ∃ p, q * d = p := ⟨_, rfl⟩
  have main : ∀ k, roundQuot rm neg q r d = k → (k = q ∨ k = q + 1) ∧ (r = 0 → k = q) ∧
    (rm = 0 ∨ rm = 4 → 2 * k * d ≤ 2 * (q * d + r) + d ∧ 2 * (q * d + r) ≤ 2 * k * d + d) ∧
    (2 * r = d → (rm = 0 → k % 2 = 0) ∧ (rm = 4 → k = q + 1)) ∧
    (r ≠ 0 → (rm = 1 → k = q) ∧ (rm = 2 → (k = q ↔ neg = true)) ∧ (rm = 3 → (k = q ↔ neg = false)) ∧ (rm = 5 → k % 2 = 1)) := by
    intro k hk
    have hd : k = q ∧ 2 * k * d = 2 * p ∨ k = q + 1 ∧ 2 * k * d = 2 * p + 2 * d := by
      have : k = q ∨ k = q + 1 := by
        rw [← hk]; unfold roundQuot
        by_cases h0 : r = 0
        · simp [h0]
        · simp only [h0, if_false]
          split <;> (repeat' split) <;> omega
      rcases this with h | h
      · left; rw [e1, h, hp]; exact ⟨rfl, rfl⟩
      · right; rw [e1, h, e2, hp]; exact ⟨rfl, by omega⟩
    rw [hp]
    clear e1 e2 hp
    generalize 2 * k * d = K at hd ⊢
    unfold roundQuot at hk
    by_cases h0 : r = 0
    · simp [h0] at hk; subst hk
      have : ¬ 2 * r = d := by omega
      refine ⟨by omega, by omega, ?_, by omega, by omega⟩
      intro _; omega
    · simp only [h0, if_false] at hk
      split at hk
      · refine ⟨by omega, by omega, ?_, ?_, by omega⟩
        · intro _; split at hk
          · omega
          · split at hk <;> omega
        · intro h2; refine ⟨fun _ => ?_, by omega⟩
          rw [if_neg (by omega), if_neg (by omega)] at hk; omega
      · refine ⟨by omega, by omega, by omega, by omega, by omega⟩
      · refine ⟨by omega, by omega, by omega, by omega, fun _ => ⟨by omega, fun _ => ?_, by omega, by omega⟩⟩
        cases neg <;> simp at hk ⊢ <;> omega
      · refine ⟨by omega, by omega, by omega, by omega, fun _ => ⟨by omega, by omega, fun _ => ?_, by omega⟩⟩
        cases neg <;> simp at hk ⊢ <;> omega
      · refine ⟨by omega, by omega, ?_, ?_, by omega⟩
        · intro _; split at hk <;> omega
        · intro h2; rw [if_neg (by omega)] at hk; omega
      · rename_i n0 n1 n2 n3 n4
        have m0 : rm ≠ 0 := n0
        have m1 : rm ≠ 1 := n1
        have m2 : rm ≠ 2 := n2
        have m3 : rm ≠ 3 := n3
        have m4 : rm ≠ 4 := n4
        refine ⟨by omega, by omega, by omega, by omega, fun _ => ⟨by omega, by omega, by omega, ?_⟩⟩
        intro _; split at hk <;> omega
  exact main _ rfl

end Sys2Proof.Machine
end

