-- ==== Sys2Proof/Laws/Link.lean ====
section
/-! SUPPORT. What the accesses over a link do when they go out and when their completion has come, and what the accesses of a strand
do at once when nothing of it is pending. -/

namespace Sys2Proof.Machine

/-! ## Nothing pending -/

theorem Strand.calm_iff {d : Strand} : d.calm = true ↔ d.lateLoads = [] ∧ d.stores = [] := by
  simp [Strand.calm, List.isEmpty_iff]

theorem State.loadNow_calm {s : State} {l : Loc} {n : Nat} (h : s.curStrand.calm = true) :
    s.loadNow l n = s.readAt s.cur l n := by
  obtain ⟨a, b⟩ := Strand.calm_iff.mp h
  rw [State.loadNow, State.settle_nothing (r := s.cur) _ _ _ a, State.forward_nothing (r := s.cur) _ _ _ b]

theorem State.cur_loadNow (s : State) (l : Loc) (n : Nat) : (s.loadNow l n).2.cur = s.cur := by
  have h := (s.sameButPending_settle s.cur s.nextLoad l n).1
  simp only [State.loadNow, State.forward]
  rw [((s.settle s.cur s.nextLoad l n).readAt_frame s.cur l n).2.1, h]

theorem State.loadIn_now {s : State} {d : Nat} {l : Loc} {n : Nat} (h : ¬(s.defer = true ∧ d ≠ 0 ∧ d ≤ 63)) :
    s.loadIn d l n = (s.loadNow l n).2.writeDst d (BitVec.ofNat 64 (s.loadNow l n).1) := by
  rw [State.loadIn, if_neg]
  simpa [and_assoc] using h

theorem State.storeOut_now {s : State} {l : Loc} {n v : Nat} (h : s.curStrand.calm = true) (k : s.late = false) :
    s.storeOut l n v = s.writeAt s.cur l n v := by
  obtain ⟨a, b⟩ := Strand.calm_iff.mp h
  rw [State.storeOut, k]
  simp only [Bool.false_eq_true, if_false]
  rw [State.clearFor_nothing (r := s.cur) _ _ a b]

/-- Popping operand queues changes nothing outside the tasks. -/
theorem popCodes_outside (s : State) (codes : List Nat) : s.popCodes codes = { s with tasks := (s.popCodes codes).tasks } :=
  State.sameOutside_popCodes s codes

@[simp] theorem popCodes_defer (s : State) (codes : List Nat) : (s.popCodes codes).defer = s.defer := by
  rw [popCodes_outside]

@[simp] theorem popCodes_late (s : State) (codes : List Nat) : (s.popCodes codes).late = s.late := by
  rw [popCodes_outside]

@[simp] theorem popCodes_core (s : State) (codes : List Nat) (k : Nat) : (s.popCodes codes).core k = s.core k := by
  rw [popCodes_outside]; rfl

/-! ## Requests -/

theorem sendRequest_apply (r : LinkReq) (s : State) :
    sendRequest r s = .error (.stall (.link s.nextReq) true) (s.withRequest r) := rfl

theorem accessOf_host (op : Nat) (s : State) (a b : BitVec 9) (off : DWord) (size : Nat) (rest : List Nat) :
    accessOf op .h b off size ((indexedCodes a b ++ rest).map s.source) =
      { op, space := .h, a := s.indexedAddress a b off size, size } := by
  have := accessOf_address s op .h a b off size rest (by simp) (by simp)
  simpa [State.accessAddress] using this

/-- Nothing has come for the strand but the flush of a release. -/
def State.unanswered (s : State) : Prop :=
  s.noRequest = true ∧ (s.curStrand.held = none ∨ s.curStrand.held = some .flushed)

/-- A load that goes out over a port. -/
theorem loadBody_link {op : Nat} {x : Mem} {s s1 : State} {sp : Space} {acc : Acc} {codes : List Nat} {port : Nat} {addr : DWord}
    {pasid : BitVec 16} (hsp : memSpace op = sp) (hx : sp = .x ∨ sp = .h) (hn : s.unanswered)
    (hc : x.a.toNat :: indexCodes sp x.b = codes) (hr : s.ready codes (some x.d.toNat) = true)
    (hacc : accessOf op sp x.b (x.off.signExtend 64) (2 ^ x.size.toNat) (codes.map s.source) = acc)
    (hl : resolve acc s = .ok (.ok (.link port addr pasid)) s1) (hf : s1.flushDone (x.ord == 1) (scopeOf x.scope.toNat) = true) :
    loadBody op x s = .error (.stall (.link s1.nextReq) true) (s1.withRequest
      { port, kind := .read, addr, size := 2 ^ x.size.toNat, strand := s1.cur, since := s1.cycle, pasid, tval := acc.value
        dest := s1.destOf x.d.toNat }) := by
  obtain ⟨hn, hh⟩ := hn
  subst hacc
  rw [loadBody]
  simp only [hsp]
  rcases hx with rfl | rfl <;> simp only <;> rw [bind_ok (linkAnswer_ok hn), hc, bind_ok (peekOperands_ok hr)] <;>
    rcases hh with hh | hh <;> rw [hh] <;> simp only <;> rw [bind_ok hl] <;> simp only <;> rw [bind_ok (flushHost_ok hf)] <;> rfl

theorem storeRest_link {acc : Acc} {q s1 : State} {port : Nat} {addr : DWord} {pasid : BitVec 16} {held : Option Held}
    {rel pop : Bool} {k v : Nat} (hh : held = none ∨ held = some .flushed)
    (hl : resolve acc q = .ok (.ok (.link port addr pasid)) s1) (hf : s1.flushDone rel (scopeOf k) = true) :
    storeRest acc held rel pop (scopeOf k) v q = .error (.stall (.link (s1.ordered rel k).nextReq) true)
      (let m := s1.ordered rel k
       m.withRequest { port, kind := .write, addr, size := acc.size, x := BitVec.ofNat 64 v, strand := m.cur, since := m.cycle
                       pasid, tval := acc.value }) := by
  rcases hh with rfl | rfl <;> rw [storeRest.eq_def] <;> show (resolve acc >>= _) q = _ <;> rw [bind_ok hl] <;> simp only <;>
    rw [bind_ok (flushHost_ok hf)] <;> cases rel <;> rfl

/-- A store that goes out over a port: it keeps the element it has popped. -/
theorem storeBody_link {op : Nat} {x : Mem} {s q s1 : State} {sp : Space} {acc : Acc} {codes : List Nat} {port : Nat} {addr : DWord}
    {pasid : BitVec 16} {v : DWord} (hsp : memSpace op = sp) (hx : sp = .x ∨ sp = .h) (hn : s.unanswered)
    (hc : x.a.toNat :: indexCodes sp x.b = codes) (hr : s.storeIssue codes x.d.toNat = some (v, q))
    (hacc : { accessOf op sp x.b (x.off.signExtend 64) (2 ^ x.size.toNat) (codes.map s.source) with
      write := true, read := false } = acc)
    (hl : resolve acc q = .ok (.ok (.link port addr pasid)) s1) (hf : s1.flushDone (x.ord == 2) (scopeOf x.scope.toNat) = true) :
    storeBody op x s = .error (.stall (.link (s1.ordered (x.ord == 2) x.scope.toNat).nextReq) true)
      (let m := s1.ordered (x.ord == 2) x.scope.toNat
       let t := m.withRequest { port, kind := .write, addr, size := 2 ^ x.size.toNat
                                x := BitVec.ofNat 64 (storeData (2 ^ x.size.toNat) v), strand := m.cur, since := m.cycle
                                pasid, tval := acc.value }
       if isPopCode x.d.toNat then t.updCur fun x => { x with popped := some v } else t) := by
  obtain ⟨hn, hh⟩ := hn
  have hac : accessOf op sp x.b (x.off.signExtend 64) (2 ^ x.size.toNat) (codes.map s.source ++ [v]) =
      accessOf op sp x.b (x.off.signExtend 64) (2 ^ x.size.toNat) (codes.map s.source) := by
    rcases hx with rfl | rfl
    · rw [← hc]; rfl
    · rw [← hc]; by_cases hb : x.b = 511#9 <;> simp [accessOf, indexCodes, hb, second]
  have hz : acc.size = 2 ^ x.size.toNat := by rw [← hacc]; rcases hx with rfl | rfl <;> rfl
  have hd : (codes.map s.source ++ [v]).getLastD 0 = v := by simp
  have hb := fun pop => storeRest_link (pop := pop) (v := storeData (2 ^ x.size.toNat) v) hh hl hf
  rw [hz] at hb
  rw [storeBody]
  simp only [hsp]
  rcases hx with rfl | rfl <;> simp only <;> rw [bind_ok (linkAnswer_ok hn), hc, bind_ok (storeOperands_ok hr)] <;>
    simp only [hac, hacc, hd]
  all_goals
    cases isPopCode x.d.toNat
    · simp only [Bool.false_eq_true, if_false]
      exact bind_error (hb false)
    · simp only [if_true]
      exact bind_error (by simp only [keepPopped, hb true]; rfl)

/-- An atomic that goes out over a port. -/
theorem atomicBody_link {op : Nat} {x : Amo} {s s1 : State} {sp : Space} {acc : Acc} {codes : List Nat} {port : Nat} {addr : DWord}
    {pasid : BitVec 16} {f : HostAtomic} (hsp : amoSpace op = sp) (hx : sp = .x ∨ sp = .h) (hn : s.unanswered)
    (hc : x.a.toNat :: indexCodes sp x.b ++ [x.d.toNat] ++ (if x.func.toNat = 2 then [x.d.toNat + 1] else []) = codes)
    (hr : s.ready codes (some x.d.toNat) = true) (hk : linkAtomic x.func.toNat = some f)
    (hacc : { accessOf op sp x.b (x.off.signExtend 64) (2 ^ x.size.toNat) (codes.map s.source) with write := true } = acc)
    (hl : resolve acc s = .ok (.ok (.link port addr pasid)) s1) (hf : s1.flushDone (x.ord != 0) (scopeOf x.scope.toNat) = true) :
    atomicBody op x s = .error (.stall (.link (s1.ordered (x.ord.getLsbD 1) x.scope.toNat).nextReq) true)
      (let m := s1.ordered (x.ord.getLsbD 1) x.scope.toNat
       m.withRequest
         { port, kind := .atomic f, addr, size := 2 ^ x.size.toNat
           x := BitVec.ofNat 64 (storeData (2 ^ x.size.toNat) (s.source x.d.toNat))
           y := BitVec.ofNat 64 (if x.func.toNat = 2 then storeData (2 ^ x.size.toNat) (s.source (x.d.toNat + 1)) else 0)
           strand := m.cur, since := m.cycle, pasid, tval := acc.value, dest := m.destOf x.d.toNat }) := by
  obtain ⟨hn, hh⟩ := hn
  subst hacc
  have h1 : (codes.map s.source).getD (1 + (indexCodes sp x.b).length) 0 = s.source x.d.toNat := by
    rw [← hc, show 1 + (indexCodes sp x.b).length = (indexCodes sp x.b).length + 1 by omega]
    simp [List.getD_eq_getElem?_getD]
  have h2 : storeData (2 ^ x.size.toNat) ((codes.map s.source).getD (2 + (indexCodes sp x.b).length) 0) =
      if x.func.toNat = 2 then storeData (2 ^ x.size.toNat) (s.source (x.d.toNat + 1)) else 0 := by
    rw [← hc, show 2 + (indexCodes sp x.b).length = (indexCodes sp x.b).length + 1 + 1 by omega]
    by_cases h : x.func.toNat = 2
    · rw [if_pos h, if_pos h]; simp [List.getD_eq_getElem?_getD]
    · rw [if_neg h, if_neg h]; simp [List.getD_eq_getElem?_getD, storeData]
  rw [atomicBody]
  simp only [hsp]
  rcases hx with rfl | rfl <;> simp only <;>
    rw [bind_ok (linkAnswer_ok hn), hc, bind_ok (peekOperands_ok hr)] <;> rcases hh with hh | hh <;> rw [hh] <;>
    simp only [hk, Option.isNone_some, Bool.and_false, Bool.false_eq_true, if_false] <;> rw [bind_ok hl] <;>
    simp only [h1, h2] <;> rw [bind_ok (flushHost_ok hf)] <;> cases x.ord.getLsbD 1 <;> rfl

/-! ## Completions -/

/-- A load whose value has come over a link. -/
theorem loadBody_answered {op : Nat} {x : Mem} {s : State} {v : DWord} {codes : List Nat}
    (hx : memSpace op = .x ∨ memSpace op = .h) (hn : s.noRequest = true) (hc : x.a.toNat :: indexCodes (memSpace op) x.b = codes)
    (hr : s.ready codes (some x.d.toNat) = true) (hh : s.curStrand.held = some (.value v)) :
    loadBody op x s = .ok .next (((s.popCodes codes).writeDst x.d.toNat v).ordered (x.ord == 1) x.scope.toNat) := by
  rw [loadBody]
  rcases hx with hx | hx <;> simp only [hx] at hc ⊢ <;>
    rw [bind_ok (linkAnswer_ok hn), hc, bind_ok (peekOperands_ok hr), hh] <;> simp only <;>
    rw [bind_ok (popNow_apply _ _), bind_ok (writeDst_apply _ _ _), bind_ok (qMark_if _ _ _)] <;> rfl

theorem loadBody_failed {op : Nat} {x : Mem} {s : State} {v : DWord} {c : Nat} {codes : List Nat}
    (hx : memSpace op = .x ∨ memSpace op = .h) (hn : s.noRequest = true) (hc : x.a.toNat :: indexCodes (memSpace op) x.b = codes)
    (hr : s.ready codes (some x.d.toNat) = true) (hh : s.curStrand.held = some (.trap c v)) :
    loadBody op x s = .error (.trap { cause := c, value := some v, keep := true }) s := by
  rw [loadBody]
  rcases hx with hx | hx <;> simp only [hx] at hc ⊢ <;>
    rw [bind_ok (linkAnswer_ok hn), hc, bind_ok (peekOperands_ok hr), hh] <;> rfl

/-- A store that a link has answered. -/
theorem storeBody_answered {op : Nat} {x : Mem} {s q : State} {v : DWord} {codes : List Nat}
    (hx : memSpace op = .x ∨ memSpace op = .h) (hn : s.noRequest = true) (hc : x.a.toNat :: indexCodes (memSpace op) x.b = codes)
    (hr : s.storeIssue codes x.d.toNat = some (v, q)) (hh : s.curStrand.held = some .done) :
    storeBody op x s = .ok .next q := by
  rw [storeBody]
  rcases hx with hx | hx <;> simp only [hx] at hc ⊢ <;>
    rw [bind_ok (linkAnswer_ok hn), hc, bind_ok (storeOperands_ok hr), hh] <;> cases isPopCode x.d.toNat <;> rfl

theorem storeBody_failed {op : Nat} {x : Mem} {s q : State} {v w : DWord} {c : Nat} {codes : List Nat}
    (hx : memSpace op = .x ∨ memSpace op = .h) (hn : s.noRequest = true) (hc : x.a.toNat :: indexCodes (memSpace op) x.b = codes)
    (hr : s.storeIssue codes x.d.toNat = some (v, q)) (hh : s.curStrand.held = some (.trap c w)) :
    storeBody op x s = .error (.trap
      { cause := c, value := some w, keep := true
        data := if isPopCode x.d.toNat then BitVec.ofNat 64 (storeData (2 ^ x.size.toNat) v) else 0 }) q := by
  have hd : (codes.map s.source ++ [v]).getLastD 0 = v := by simp
  rw [storeBody]
  rcases hx with hx | hx <;> simp only [hx] at hc ⊢ <;>
    rw [bind_ok (linkAnswer_ok hn), hc, bind_ok (storeOperands_ok hr), hh] <;> simp only [hd] <;>
    cases isPopCode x.d.toNat <;> rfl

/-- An atomic whose value has come over a link. -/
theorem atomicBody_answered {op : Nat} {x : Amo} {s : State} {v : DWord} {codes : List Nat}
    (hx : amoSpace op = .x ∨ amoSpace op = .h) (hn : s.noRequest = true)
    (hc : x.a.toNat :: indexCodes (amoSpace op) x.b ++ [x.d.toNat] ++ (if x.func.toNat = 2 then [x.d.toNat + 1] else []) = codes)
    (hr : s.ready codes (some x.d.toNat) = true) (hh : s.curStrand.held = some (.value v)) :
    atomicBody op x s = .ok .next (((s.popCodes codes).writeDst x.d.toNat v).ordered (x.ord.getLsbD 0) x.scope.toNat) := by
  rw [atomicBody]
  rcases hx with hx | hx <;> simp only [hx] at hc ⊢ <;>
    rw [bind_ok (linkAnswer_ok hn), hc, bind_ok (peekOperands_ok hr), hh] <;> simp only <;>
    rw [bind_ok (popNow_apply _ _), bind_ok (writeDst_apply _ _ _), bind_ok (qMark_apply _ _ _)] <;> rfl

theorem atomicBody_failed {op : Nat} {x : Amo} {s : State} {v : DWord} {c : Nat} {codes : List Nat}
    (hx : amoSpace op = .x ∨ amoSpace op = .h) (hn : s.noRequest = true)
    (hc : x.a.toNat :: indexCodes (amoSpace op) x.b ++ [x.d.toNat] ++ (if x.func.toNat = 2 then [x.d.toNat + 1] else []) = codes)
    (hr : s.ready codes (some x.d.toNat) = true) (hh : s.curStrand.held = some (.trap c v)) :
    atomicBody op x s = .error (.trap { cause := c, value := some v, keep := true }) s := by
  rw [atomicBody]
  rcases hx with hx | hx <;> simp only [hx] at hc ⊢ <;>
    rw [bind_ok (linkAnswer_ok hn), hc, bind_ok (peekOperands_ok hr), hh] <;> rfl

end Sys2Proof.Machine
end

