-- ==== Sys2Proof/Laws/Memory.lean ====
section
/-! SUPPORT. Laws of memories: reading after writing, and the canonical form, which every memory operation keeps. -/

namespace Sys2Proof.Machine

/-! ## One byte -/

theorem Memory.wfFrom_mono {m : Memory} {lo hi : Nat} (h : lo ≤ hi) (w : Memory.wfFrom hi m = true) :
    Memory.wfFrom lo m = true := by
  cases m with
  | nil => rfl
  | cons e t =>
    obtain ⟨a, v⟩ := e
    simp only [Memory.wfFrom, Bool.and_eq_true, decide_eq_true_eq] at w ⊢
    exact ⟨⟨by omega, w.1.2⟩, w.2⟩

theorem Memory.byte_below {m : Memory} {lo a : Nat} (w : Memory.wfFrom lo m = true) (h : a < lo) : m.byte a = 0 := by
  cases m with
  | nil => rfl
  | cons e t =>
    obtain ⟨b, v⟩ := e
    simp only [Memory.wfFrom, Bool.and_eq_true, decide_eq_true_eq] at w
    have h1 : b ≠ a := by omega
    have h2 : a < b := by omega
    simp [Memory.byte, h1, h2]

theorem Memory.wfFrom_setByte {m : Memory} {lo : Nat} (a : Nat) (v : Byte) (w : Memory.wfFrom lo m = true) (h : lo ≤ a) :
    Memory.wfFrom lo (m.setByte a v) = true := by
  induction m generalizing lo with
  | nil =>
    by_cases hv : v = 0
    · simp only [Memory.setByte, if_pos hv]; rfl
    · simp only [Memory.setByte, if_neg hv, Memory.wfFrom, Bool.and_eq_true, decide_eq_true_eq, bne_iff_ne]
      exact ⟨⟨h, hv⟩, trivial⟩
  | cons e t ih =>
    obtain ⟨b, x⟩ := e
    have w' := w
    simp only [Memory.wfFrom, Bool.and_eq_true, decide_eq_true_eq, bne_iff_ne] at w'
    obtain ⟨⟨hb, hx⟩, ht⟩ := w'
    by_cases h1 : a < b
    · by_cases hv : v = 0
      · simpa only [Memory.setByte, if_pos h1, if_pos hv] using w
      · simp only [Memory.setByte, if_pos h1, if_neg hv, Memory.wfFrom, Bool.and_eq_true, decide_eq_true_eq, bne_iff_ne]
        exact ⟨⟨h, hv⟩, ⟨h1, hx⟩, ht⟩
    · by_cases h2 : a = b
      · subst h2
        by_cases hv : v = 0
        · simp only [Memory.setByte, if_neg h1, if_pos hv, if_true]
          exact Memory.wfFrom_mono (by omega) ht
        · simp only [Memory.setByte, if_neg h1, if_neg hv, if_true, Memory.wfFrom, Bool.and_eq_true, decide_eq_true_eq, bne_iff_ne]
          exact ⟨⟨h, hv⟩, ht⟩
      · simp only [Memory.setByte, if_neg h1, if_neg h2, Memory.wfFrom, Bool.and_eq_true, decide_eq_true_eq, bne_iff_ne]
        exact ⟨⟨hb, hx⟩, ih ht (by omega)⟩

/-- Writing a byte keeps the canonical form. -/
theorem Memory.wf_setByte {m : Memory} (a : Nat) (v : Byte) (w : m.wf = true) : (m.setByte a v).wf = true :=
  Memory.wfFrom_setByte a v w (Nat.zero_le a)

theorem Memory.byte_cons_eq (a : Nat) (v : Byte) (t : Memory) : Memory.byte ((a, v) :: t) a = v := by
  simp only [Memory.byte, if_true]

theorem Memory.byte_cons_lt {a b : Nat} (v : Byte) (t : Memory) (h : b < a) : Memory.byte ((a, v) :: t) b = 0 := by
  simp only [Memory.byte, if_neg (show ¬a = b by omega), if_pos h]

theorem Memory.byte_cons_gt {a b : Nat} (v : Byte) (t : Memory) (h : a < b) : Memory.byte ((a, v) :: t) b = t.byte b := by
  simp only [Memory.byte, if_neg (show ¬a = b by omega), if_neg (show ¬b < a by omega)]

theorem Memory.byte_setByte_from {m : Memory} {lo : Nat} (a b : Nat) (v : Byte) (w : Memory.wfFrom lo m = true) :
    (m.setByte a v).byte b = if b = a then v else m.byte b := by
  induction m generalizing lo with
  | nil =>
    by_cases hv : v = 0
    · rw [Memory.setByte, if_pos hv]
      show (0 : Byte) = if b = a then v else 0
      rw [hv, ite_self]
    · simp only [Memory.setByte, if_neg hv]
      rcases Nat.lt_trichotomy b a with h | h | h
      · rw [Memory.byte_cons_lt _ _ h, if_neg (by omega)]; rfl
      · subst h; rw [Memory.byte_cons_eq, if_pos rfl]
      · rw [Memory.byte_cons_gt _ _ h, if_neg (by omega)]
  | cons e t ih =>
    obtain ⟨c, x⟩ := e
    simp only [Memory.wfFrom, Bool.and_eq_true, decide_eq_true_eq] at w
    obtain ⟨⟨hc, hx⟩, ht⟩ := w
    by_cases h1 : a < c
    · by_cases hv : v = 0
      · simp only [Memory.setByte, if_pos h1, if_pos hv]
        by_cases h : b = a
        · rw [if_pos h, h, Memory.byte_cons_lt _ _ h1, hv]
        · rw [if_neg h]
      · simp only [Memory.setByte, if_pos h1, if_neg hv]
        rcases Nat.lt_trichotomy b a with h | h | h
        · rw [Memory.byte_cons_lt _ _ h, if_neg (by omega), Memory.byte_cons_lt _ _ (by omega)]
        · subst h; rw [Memory.byte_cons_eq, if_pos rfl]
        · rw [Memory.byte_cons_gt _ _ h, if_neg (by omega)]
    · by_cases h2 : a = c
      · subst h2
        by_cases hv : v = 0
        · simp only [Memory.setByte, if_neg h1, if_pos hv, if_true]
          rcases Nat.lt_trichotomy b a with h | h | h
          · rw [Memory.byte_cons_lt _ _ h, if_neg (by omega), Memory.byte_below ht (by omega)]
          · rw [if_pos h, h, Memory.byte_below ht (by omega), hv]
          · rw [Memory.byte_cons_gt _ _ h, if_neg (by omega)]
        · simp only [Memory.setByte, if_neg h1, if_neg hv, if_true]
          rcases Nat.lt_trichotomy b a with h | h | h
          · rw [Memory.byte_cons_lt _ _ h, Memory.byte_cons_lt _ _ h, if_neg (by omega)]
          · subst h; rw [Memory.byte_cons_eq, if_pos rfl]
          · rw [Memory.byte_cons_gt _ _ h, Memory.byte_cons_gt _ _ h, if_neg (by omega)]
      · simp only [Memory.setByte, if_neg h1, if_neg h2]
        rcases Nat.lt_trichotomy b c with h | h | h
        · rw [Memory.byte_cons_lt _ _ h, Memory.byte_cons_lt _ _ h, if_neg (by omega)]
        · subst h; rw [Memory.byte_cons_eq, Memory.byte_cons_eq, if_neg (by omega)]
        · rw [Memory.byte_cons_gt _ _ h, Memory.byte_cons_gt _ _ h, ih ht]

/-- A byte after a byte is written. -/
theorem Memory.byte_setByte {m : Memory} (a b : Nat) (v : Byte) (w : m.wf = true) :
    (m.setByte a v).byte b = if b = a then v else m.byte b :=
  Memory.byte_setByte_from a b v w

/-! ## Several bytes -/

/-- Writing bytes keeps the canonical form. -/
theorem Memory.wf_write {m : Memory} (bs : List Byte) (a : Nat) (w : m.wf = true) : (m.write a bs).wf = true := by
  induction bs generalizing m a with
  | nil => exact w
  | cons b t ih => exact ih (a + 1) (Memory.wf_setByte a b w)

theorem Memory.wf_setNat {m : Memory} (a n v : Nat) (w : m.wf = true) : (m.setNat a n v).wf = true := Memory.wf_write _ a w

theorem Memory.wf_setWord {m : Memory} (a : Nat) (v : DWord) (w : m.wf = true) : (m.setWord a v).wf = true :=
  Memory.wf_setNat a 8 _ w

/-- A byte outside the bytes written keeps its value. -/
theorem Memory.byte_write_outside {m : Memory} (bs : List Byte) (a b : Nat) (w : m.wf = true)
    (h : b < a ∨ a + bs.length ≤ b) : (m.write a bs).byte b = m.byte b := by
  induction bs generalizing m a with
  | nil => rfl
  | cons x t ih =>
    simp only [List.length_cons] at h
    have hne : b ≠ a := by omega
    rw [Memory.write, ih (a + 1) (Memory.wf_setByte a x w) (by omega), Memory.byte_setByte a b x w, if_neg hne]

/-- A byte inside the bytes written is the one written there. -/
theorem Memory.byte_write_inside {m : Memory} (bs : List Byte) (a k : Nat) (w : m.wf = true) (h : k < bs.length) :
    (m.write a bs).byte (a + k) = bs[k] := by
  induction bs generalizing m a k with
  | nil => simp at h
  | cons x t ih =>
    rw [Memory.write]
    cases k with
    | zero =>
      rw [Memory.byte_write_outside t (a + 1) (a + 0) (Memory.wf_setByte a x w) (by omega), Memory.byte_setByte a _ x w]
      simp
    | succ j =>
      have hj : j < t.length := by simpa using h
      have := ih (a + 1) j (Memory.wf_setByte a x w) hj
      simpa [Nat.add_assoc, Nat.add_comm 1 j] using this

theorem leBytes_length (v n : Nat) : (leBytes v n).length = n := by
  induction n generalizing v with
  | zero => rfl
  | succ n ih => simp [leBytes, ih]

/-- Little-endian bytes give the low bytes of the number back (R4). -/
theorem leNat_leBytes (v n : Nat) : leNat (leBytes v n) = v % 2 ^ (8 * n) := by
  induction n generalizing v with
  | zero => simp [leBytes, leNat, Nat.mod_one]
  | succ n ih =>
    have h : 2 ^ (8 * (n + 1)) = 256 * 2 ^ (8 * n) := by rw [Nat.mul_add, Nat.pow_add, Nat.mul_comm]
    simp only [leBytes, leNat, ih, BitVec.toNat_ofNat]
    rw [h, Nat.mod_mul]

theorem Memory.bytes_length (m : Memory) (a n : Nat) : (m.bytes a n).length = n := by
  induction n generalizing a with
  | zero => rfl
  | succ n ih => simp [Memory.bytes, ih]

theorem Memory.bytes_write {m : Memory} (bs : List Byte) (a : Nat) (w : m.wf = true) :
    (m.write a bs).bytes a bs.length = bs := by
  induction bs generalizing m a with
  | nil => rfl
  | cons x t ih =>
    rw [Memory.write, List.length_cons, Memory.bytes, ih (a + 1) (Memory.wf_setByte a x w),
      Memory.byte_write_outside t (a + 1) a (Memory.wf_setByte a x w) (by omega), Memory.byte_setByte a a x w]
    simp

/-- A number read after it was written. -/
theorem Memory.nat_setNat {m : Memory} (a n v : Nat) (w : m.wf = true) : (m.setNat a n v).nat a n = v % 2 ^ (8 * n) := by
  have h := Memory.bytes_write (m := m) (leBytes v n) a w
  rw [leBytes_length] at h
  rw [Memory.nat, Memory.setNat, h, leNat_leBytes]

theorem Memory.bytes_write_outside {m : Memory} (bs : List Byte) (a b n : Nat) (w : m.wf = true)
    (h : b + n ≤ a ∨ a + bs.length ≤ b) : (m.write a bs).bytes b n = m.bytes b n := by
  induction n generalizing b with
  | zero => rfl
  | succ n ih =>
    rw [Memory.bytes, Memory.bytes, ih (b + 1) (by omega), Memory.byte_write_outside bs a b w (by omega)]

/-- A number outside the bytes written keeps its value. -/
theorem Memory.nat_setNat_outside {m : Memory} (a k v b n : Nat) (w : m.wf = true) (h : b + n ≤ a ∨ a + k ≤ b) :
    (m.setNat a k v).nat b n = m.nat b n := by
  rw [Memory.nat, Memory.nat, Memory.setNat, Memory.bytes_write_outside _ a b n w (by rw [leBytes_length]; exact h)]

/-- Writing an element keeps the canonical form. -/
theorem Memory.wf_setElem {m : Memory} (base tag i v : Nat) (w : m.wf = true) : (m.setElem base tag i v).wf = true := by
  simp only [Memory.setElem]
  split <;> exact Memory.wf_setNat _ _ _ w

/-- Bytes listed from an address are a canonical memory. -/
theorem Memory.wfFrom_ofBytes (a : Nat) (bs : List Byte) : Memory.wfFrom a (Memory.ofBytes a bs) = true := by
  induction bs generalizing a with
  | nil => rfl
  | cons b t ih =>
    rw [Memory.ofBytes]
    split
    · exact Memory.wfFrom_mono (Nat.le_succ a) (ih (a + 1))
    · next h =>
      simp only [Memory.wfFrom, Bool.and_eq_true, decide_eq_true_eq, bne_iff_ne]
      exact ⟨⟨Nat.le_refl a, h⟩, ih (a + 1)⟩

theorem Memory.wf_ofBytes (a : Nat) (bs : List Byte) : (Memory.ofBytes a bs).wf = true :=
  Memory.wfFrom_mono (Nat.zero_le a) (Memory.wfFrom_ofBytes a bs)

/-! ## Ranges -/

theorem Memory.wfFrom_filter {m : Memory} {lo : Nat} (p : Host.Cell → Bool) (w : Memory.wfFrom lo m = true) :
    Memory.wfFrom lo (m.filter p) = true := by
  induction m generalizing lo with
  | nil => rfl
  | cons e t ih =>
    obtain ⟨a, v⟩ := e
    simp only [Memory.wfFrom, Bool.and_eq_true, decide_eq_true_eq] at w
    rw [List.filter_cons]
    split
    · simp only [Memory.wfFrom, Bool.and_eq_true, decide_eq_true_eq]
      exact ⟨w.1, ih w.2⟩
    · exact Memory.wfFrom_mono (by omega) (ih w.2)

/-- Clearing a range keeps the canonical form. -/
theorem Memory.wf_clear {m : Memory} (a n : Nat) (w : m.wf = true) : (m.clear a n).wf = true := Memory.wfFrom_filter _ w

theorem Memory.wfFrom_iff {m : Memory} {lo : Nat} :
    Memory.wfFrom lo m = true ↔
      (m.map Prod.fst).Pairwise (· < ·) ∧ (∀ e ∈ m, lo ≤ e.1) ∧ ∀ e ∈ m, e.2 ≠ 0 := by
  induction m generalizing lo with
  | nil => simp [Memory.wfFrom]
  | cons e t ih =>
    obtain ⟨a, v⟩ := e
    simp only [Memory.wfFrom, Bool.and_eq_true, decide_eq_true_eq, bne_iff_ne, ih, List.map_cons, List.pairwise_cons,
      List.mem_map, List.mem_cons, forall_eq_or_imp, forall_exists_index, and_imp, forall_apply_eq_imp_iff₂]
    constructor
    · rintro ⟨⟨h1, h2⟩, h3, h4, h5⟩
      exact ⟨⟨fun x hx => h4 x hx, h3⟩, ⟨h1, fun x hx => by have := h4 x hx; omega⟩, h2, h5⟩
    · rintro ⟨⟨h1, h2⟩, ⟨h3, h4⟩, h5, h6⟩
      exact ⟨⟨h3, h5⟩, h2, fun x hx => h1 x hx, h6⟩

/-- A slice moved to another address keeps the canonical form. -/
theorem Memory.wf_slice {m : Memory} (a n b : Nat) (w : m.wf = true) : (m.slice a n b).wf = true := by
  have h := Memory.wfFrom_iff.mp w
  refine Memory.wfFrom_iff.mpr ⟨?_, fun e _ => Nat.zero_le _, ?_⟩
  · rw [Memory.slice, List.map_map, List.pairwise_map]
    have hp : (m.filter fun e => a ≤ e.1 && e.1 < a + n).Pairwise fun x y => x.1 < y.1 :=
      (List.pairwise_map.mp h.1).sublist List.filter_sublist
    refine hp.imp_of_mem fun {x y} hx hy hxy => ?_
    simp only [List.mem_filter, Bool.and_eq_true, decide_eq_true_eq] at hx hy
    simp only [Function.comp]
    omega
  · intro e he
    simp only [Memory.slice, List.mem_map, List.mem_filter] at he
    obtain ⟨x, ⟨hx, _⟩, rfl⟩ := he
    exact h.2.2 x hx

/-- Replacing a range keeps the canonical form when what comes in lies in it. -/
theorem Memory.wf_paste {m src : Memory} (a n : Nat) (w : m.wf = true) (ws : src.wf = true)
    (hs : ∀ e ∈ src, a ≤ e.1 ∧ e.1 < a + n) : (m.paste a n src).wf = true := by
  have h := Memory.wfFrom_iff.mp w
  have k := Memory.wfFrom_iff.mp ws
  refine Memory.wfFrom_iff.mpr ⟨?_, fun e _ => Nat.zero_le _, ?_⟩
  · rw [List.pairwise_map]
    have hp := List.pairwise_map.mp h.1
    simp only [Memory.paste]
    refine List.pairwise_append.mpr ⟨List.pairwise_append.mpr
      ⟨hp.sublist List.filter_sublist, List.pairwise_map.mp k.1, ?_⟩, hp.sublist List.filter_sublist, ?_⟩
    · intro x hx y hy
      simp only [List.mem_filter, decide_eq_true_eq] at hx
      have := hs y hy
      omega
    · intro x hx y hy
      simp only [List.mem_filter, decide_eq_true_eq] at hy
      rcases List.mem_append.mp hx with hx | hx
      · simp only [List.mem_filter, decide_eq_true_eq] at hx
        omega
      · have := hs x hx
        omega
  · intro e he
    simp only [Memory.paste, List.mem_append, List.mem_filter] at he
    rcases he with (he | he) | he
    · exact h.2.2 e he.1
    · exact k.2.2 e he
    · exact h.2.2 e he.1

end Sys2Proof.Machine
end

