-- ==== Sys2Proof/Laws/PerInstr.lean ====
section
/-! SUPPORT. One lemma for each instruction: the words of an encodable instruction decode to it, and its first word gives its
length. Events have no words. -/

namespace Sys2Proof.Laws.RoundTrip

/-- The words of an instruction that some word encodes decode to it. -/
def Statement (i : Instr) : Prop :=
  i.encodable = true → i.view ≠ .event → (∀ w, i ≠ .unassignedOpcode w) →
    lengthWords (i.encode.headD 0) = i.encode.length ∧ decodeEncoded i.encode = .ok i

theorem of_reads {i : Instr} (h : reads i.view.encode (some i)) : Statement i := fun _ _ _ => ⟨h.1, h.2⟩

theorem form {i : Instr} (h : i.encodable = true) : i.view.formOk = true := by
  simp only [Instr.encodable, Bool.and_eq_true] at h
  exact h.2

theorem row {i : Instr} (h : i.encodable = true) : i.rowOk = true := by
  simp only [Instr.encodable, Bool.and_eq_true] at h
  exact h.1

theorem no_words {i : Instr} (h : i.view = .event) : Statement i := fun _ k _ => absurd h k

theorem nop (x : Short) : Statement (.nop x) := of_reads (reads_short (op := 0x00) (by decide) x rfl)

theorem nopLong (x : Alu) : Statement (.nopLong x) := fun h =>
  of_reads (reads_alu (op := 0x00) (by decide) rfl x (form h)) h

theorem add (x : Short) : Statement (.add x) := of_reads (reads_short (op := 0x01) (by decide) x rfl)

theorem addLong (x : Alu) : Statement (.addLong x) := fun h =>
  of_reads (reads_alu (op := 0x01) (by decide) rfl x (form h)) h

theorem sub (x : Short) : Statement (.sub x) := of_reads (reads_short (op := 0x02) (by decide) x rfl)

theorem subLong (x : Alu) : Statement (.subLong x) := fun h =>
  of_reads (reads_alu (op := 0x02) (by decide) rfl x (form h)) h

theorem mul (x : Short) : Statement (.mul x) := of_reads (reads_short (op := 0x03) (by decide) x rfl)

theorem mulLong (x : Alu) : Statement (.mulLong x) := fun h =>
  of_reads (reads_alu (op := 0x03) (by decide) rfl x (form h)) h

theorem mulh (x : Short) : Statement (.mulh x) := of_reads (reads_short (op := 0x04) (by decide) x rfl)

theorem mulhLong (x : Alu) : Statement (.mulhLong x) := fun h =>
  of_reads (reads_alu (op := 0x04) (by decide) rfl x (form h)) h

theorem div (x : Short) : Statement (.div x) := of_reads (reads_short (op := 0x05) (by decide) x rfl)

theorem divLong (x : Alu) : Statement (.divLong x) := fun h =>
  of_reads (reads_alu (op := 0x05) (by decide) rfl x (form h)) h

theorem rem (x : Short) : Statement (.rem x) := of_reads (reads_short (op := 0x06) (by decide) x rfl)

theorem remLong (x : Alu) : Statement (.remLong x) := fun h =>
  of_reads (reads_alu (op := 0x06) (by decide) rfl x (form h)) h

theorem and (x : Short) : Statement (.and x) := of_reads (reads_short (op := 0x07) (by decide) x rfl)

theorem andLong (x : Alu) : Statement (.andLong x) := fun h =>
  of_reads (reads_alu (op := 0x07) (by decide) rfl x (form h)) h

theorem or (x : Short) : Statement (.or x) := of_reads (reads_short (op := 0x08) (by decide) x rfl)

theorem orLong (x : Alu) : Statement (.orLong x) := fun h =>
  of_reads (reads_alu (op := 0x08) (by decide) rfl x (form h)) h

theorem xor (x : Short) : Statement (.xor x) := of_reads (reads_short (op := 0x09) (by decide) x rfl)

theorem xorLong (x : Alu) : Statement (.xorLong x) := fun h =>
  of_reads (reads_alu (op := 0x09) (by decide) rfl x (form h)) h

theorem andn (x : Short) : Statement (.andn x) := of_reads (reads_short (op := 0x0A) (by decide) x rfl)

theorem andnLong (x : Alu) : Statement (.andnLong x) := fun h =>
  of_reads (reads_alu (op := 0x0A) (by decide) rfl x (form h)) h

theorem shl (x : Short) : Statement (.shl x) := of_reads (reads_short (op := 0x0B) (by decide) x rfl)

theorem shlLong (x : Alu) : Statement (.shlLong x) := fun h =>
  of_reads (reads_alu (op := 0x0B) (by decide) rfl x (form h)) h

theorem shr (x : Short) : Statement (.shr x) := of_reads (reads_short (op := 0x0C) (by decide) x rfl)

theorem shrLong (x : Alu) : Statement (.shrLong x) := fun h =>
  of_reads (reads_alu (op := 0x0C) (by decide) rfl x (form h)) h

theorem sar (x : Short) : Statement (.sar x) := of_reads (reads_short (op := 0x0D) (by decide) x rfl)

theorem sarLong (x : Alu) : Statement (.sarLong x) := fun h =>
  of_reads (reads_alu (op := 0x0D) (by decide) rfl x (form h)) h

theorem rot (x : Short) : Statement (.rot x) := of_reads (reads_short (op := 0x0E) (by decide) x rfl)

theorem rotLong (x : Alu) : Statement (.rotLong x) := fun h =>
  of_reads (reads_alu (op := 0x0E) (by decide) rfl x (form h)) h

theorem min (x : Short) : Statement (.min x) := of_reads (reads_short (op := 0x0F) (by decide) x rfl)

theorem minLong (x : Alu) : Statement (.minLong x) := fun h =>
  of_reads (reads_alu (op := 0x0F) (by decide) rfl x (form h)) h

theorem max (x : Short) : Statement (.max x) := of_reads (reads_short (op := 0x10) (by decide) x rfl)

theorem maxLong (x : Alu) : Statement (.maxLong x) := fun h =>
  of_reads (reads_alu (op := 0x10) (by decide) rfl x (form h)) h

theorem abs (x : Short) : Statement (.abs x) := of_reads (reads_short (op := 0x11) (by decide) x rfl)

theorem absLong (x : Alu) : Statement (.absLong x) := fun h =>
  of_reads (reads_alu (op := 0x11) (by decide) rfl x (form h)) h

theorem clz (x : Short) : Statement (.clz x) := of_reads (reads_short (op := 0x12) (by decide) x rfl)

theorem clzLong (x : Alu) : Statement (.clzLong x) := fun h =>
  of_reads (reads_alu (op := 0x12) (by decide) rfl x (form h)) h

theorem ctz (x : Short) : Statement (.ctz x) := of_reads (reads_short (op := 0x13) (by decide) x rfl)

theorem ctzLong (x : Alu) : Statement (.ctzLong x) := fun h =>
  of_reads (reads_alu (op := 0x13) (by decide) rfl x (form h)) h

theorem popc (x : Short) : Statement (.popc x) := of_reads (reads_short (op := 0x14) (by decide) x rfl)

theorem popcLong (x : Alu) : Statement (.popcLong x) := fun h =>
  of_reads (reads_alu (op := 0x14) (by decide) rfl x (form h)) h

theorem bfx (x : Short) : Statement (.bfx x) := of_reads (reads_short (op := 0x15) (by decide) x rfl)

theorem bfxLong (x : Alu) : Statement (.bfxLong x) := fun h =>
  of_reads (reads_alu (op := 0x15) (by decide) rfl x (form h)) h

theorem bfi (x : Short) : Statement (.bfi x) := of_reads (reads_short (op := 0x16) (by decide) x rfl)

theorem bfiLong (x : Alu) : Statement (.bfiLong x) := fun h =>
  of_reads (reads_alu (op := 0x16) (by decide) rfl x (form h)) h

theorem sel (x : Short) : Statement (.sel x) := of_reads (reads_short (op := 0x17) (by decide) x rfl)

theorem selLong (x : Alu) : Statement (.selLong x) := fun h =>
  of_reads (reads_alu (op := 0x17) (by decide) rfl x (form h)) h

theorem mov (x : Short) : Statement (.mov x) := of_reads (reads_short (op := 0x18) (by decide) x rfl)

theorem movLong (x : Alu) : Statement (.movLong x) := fun h =>
  of_reads (reads_alu (op := 0x18) (by decide) rfl x (form h)) h

theorem movi (x : Alu) : Statement (.movi x) := fun h _ _ => by
  have k := row h
  have r := reads_alu (op := 0x19) (by decide) rfl x (form h)
  refine ⟨r.1, r.2.trans ?_⟩
  simp only [Instr.rowOk, Bool.not_eq_true'] at k
  show orUnassigned _ (.ok (some (if x.isMoviHi = true then .moviHi x else .movi x))) = _
  rw [k]
  rfl

theorem moviHi (x : Alu) : Statement (.moviHi x) := fun h _ _ => by
  have k := row h
  have r := reads_alu (op := 0x19) (by decide) rfl x (form h)
  refine ⟨r.1, r.2.trans ?_⟩
  simp only [Instr.rowOk] at k
  show orUnassigned _ (.ok (some (if x.isMoviHi = true then .moviHi x else .movi x))) = _
  rw [k]
  rfl

theorem lea (x : Short) : Statement (.lea x) := of_reads (reads_short (op := 0x1A) (by decide) x rfl)

theorem leaLong (x : Alu) : Statement (.leaLong x) := fun h =>
  of_reads (reads_alu (op := 0x1A) (by decide) rfl x (form h)) h

theorem cmp (x : Short) : Statement (.cmp x) := of_reads (reads_short (op := 0x1B) (by decide) x rfl)

theorem cmpLong (x : Alu) : Statement (.cmpLong x) := fun h =>
  of_reads (reads_alu (op := 0x1B) (by decide) rfl x (form h)) h

theorem fadd (x : Short) : Statement (.fadd x) := of_reads (reads_short (op := 0x20) (by decide) x rfl)

theorem faddLong (x : Alu) : Statement (.faddLong x) := fun h =>
  of_reads (reads_alu (op := 0x20) (by decide) rfl x (form h)) h

theorem fsub (x : Short) : Statement (.fsub x) := of_reads (reads_short (op := 0x21) (by decide) x rfl)

theorem fsubLong (x : Alu) : Statement (.fsubLong x) := fun h =>
  of_reads (reads_alu (op := 0x21) (by decide) rfl x (form h)) h

theorem fmul (x : Short) : Statement (.fmul x) := of_reads (reads_short (op := 0x22) (by decide) x rfl)

theorem fmulLong (x : Alu) : Statement (.fmulLong x) := fun h =>
  of_reads (reads_alu (op := 0x22) (by decide) rfl x (form h)) h

theorem ffma (x : Short) : Statement (.ffma x) := of_reads (reads_short (op := 0x23) (by decide) x rfl)

theorem ffmaLong (x : Alu) : Statement (.ffmaLong x) := fun h =>
  of_reads (reads_alu (op := 0x23) (by decide) rfl x (form h)) h

theorem fmin (x : Short) : Statement (.fmin x) := of_reads (reads_short (op := 0x24) (by decide) x rfl)

theorem fminLong (x : Alu) : Statement (.fminLong x) := fun h =>
  of_reads (reads_alu (op := 0x24) (by decide) rfl x (form h)) h

theorem fmax (x : Short) : Statement (.fmax x) := of_reads (reads_short (op := 0x25) (by decide) x rfl)

theorem fmaxLong (x : Alu) : Statement (.fmaxLong x) := fun h =>
  of_reads (reads_alu (op := 0x25) (by decide) rfl x (form h)) h

theorem fcmp (x : Short) : Statement (.fcmp x) := of_reads (reads_short (op := 0x26) (by decide) x rfl)

theorem fcmpLong (x : Alu) : Statement (.fcmpLong x) := fun h =>
  of_reads (reads_alu (op := 0x26) (by decide) rfl x (form h)) h

theorem fcvt (x : Short) : Statement (.fcvt x) := of_reads (reads_short (op := 0x27) (by decide) x rfl)

theorem fcvtLong (x : Alu) : Statement (.fcvtLong x) := fun h =>
  of_reads (reads_alu (op := 0x27) (by decide) rfl x (form h)) h

theorem fdiv (x : Short) : Statement (.fdiv x) := of_reads (reads_short (op := 0x28) (by decide) x rfl)

theorem fdivLong (x : Alu) : Statement (.fdivLong x) := fun h =>
  of_reads (reads_alu (op := 0x28) (by decide) rfl x (form h)) h

theorem fsqrt (x : Short) : Statement (.fsqrt x) := of_reads (reads_short (op := 0x29) (by decide) x rfl)

theorem fsqrtLong (x : Alu) : Statement (.fsqrtLong x) := fun h =>
  of_reads (reads_alu (op := 0x29) (by decide) rfl x (form h)) h

theorem fneg (x : Short) : Statement (.fneg x) := of_reads (reads_short (op := 0x2A) (by decide) x rfl)

theorem fnegLong (x : Alu) : Statement (.fnegLong x) := fun h =>
  of_reads (reads_alu (op := 0x2A) (by decide) rfl x (form h)) h

theorem fclass (x : Short) : Statement (.fclass x) := of_reads (reads_short (op := 0x2B) (by decide) x rfl)

theorem fclassLong (x : Alu) : Statement (.fclassLong x) := fun h =>
  of_reads (reads_alu (op := 0x2B) (by decide) rfl x (form h)) h

theorem pand (x : Short) : Statement (.pand x) := of_reads (reads_short (op := 0x30) (by decide) x rfl)

theorem pandLong (x : Alu) : Statement (.pandLong x) := fun h =>
  of_reads (reads_alu (op := 0x30) (by decide) rfl x (form h)) h

theorem por (x : Short) : Statement (.por x) := of_reads (reads_short (op := 0x31) (by decide) x rfl)

theorem porLong (x : Alu) : Statement (.porLong x) := fun h =>
  of_reads (reads_alu (op := 0x31) (by decide) rfl x (form h)) h

theorem pxor (x : Short) : Statement (.pxor x) := of_reads (reads_short (op := 0x32) (by decide) x rfl)

theorem pxorLong (x : Alu) : Statement (.pxorLong x) := fun h =>
  of_reads (reads_alu (op := 0x32) (by decide) rfl x (form h)) h

theorem pnot (x : Short) : Statement (.pnot x) := of_reads (reads_short (op := 0x33) (by decide) x rfl)

theorem pnotLong (x : Alu) : Statement (.pnotLong x) := fun h =>
  of_reads (reads_alu (op := 0x33) (by decide) rfl x (form h)) h

theorem pmov (x : Short) : Statement (.pmov x) := of_reads (reads_short (op := 0x34) (by decide) x rfl)

theorem pmovLong (x : Alu) : Statement (.pmovLong x) := fun h =>
  of_reads (reads_alu (op := 0x34) (by decide) rfl x (form h)) h

theorem pset (x : Short) : Statement (.pset x) := of_reads (reads_short (op := 0x35) (by decide) x rfl)

theorem psetLong (x : Alu) : Statement (.psetLong x) := fun h =>
  of_reads (reads_alu (op := 0x35) (by decide) rfl x (form h)) h

theorem br (x : BitVec 22) : Statement (.br x) := of_reads (reads_shortBr (op := 0x38) (by decide) x (fun _ => rfl) rfl)

theorem brLong (x : Br) : Statement (.brLong x) := of_reads (reads_br (op := 0x38) (by decide) rfl x)

theorem brr (x : Gen) : Statement (.brr x) := fun h =>
  of_reads (reads_gen (op := 0x39) (by decide) rfl x (form h)) h

theorem call (x : BitVec 22) : Statement (.call x) := of_reads (reads_shortBr (op := 0x3A) (by decide) x (fun _ => rfl) rfl)

theorem callLong (x : Br) : Statement (.callLong x) := of_reads (reads_br (op := 0x3A) (by decide) rfl x)

theorem ret (x : Short) : Statement (.ret x) := of_reads (reads_short (op := 0x3B) (by decide) x rfl)

theorem retLong (x : Gen) : Statement (.retLong x) := fun h =>
  of_reads (reads_gen (op := 0x3B) (by decide) rfl x (form h)) h

theorem loop (x : Br) : Statement (.loop x) := of_reads (reads_br (op := 0x3C) (by decide) rfl x)

theorem bloop (x : BitVec 22) : Statement (.bloop x) := of_reads (reads_shortBr (op := 0x3D) (by decide) x (fun _ => rfl) rfl)

theorem bloopLong (x : Br) : Statement (.bloopLong x) := of_reads (reads_br (op := 0x3D) (by decide) rfl x)

theorem lbrk (x : Br) : Statement (.lbrk x) := of_reads (reads_br (op := 0x3E) (by decide) rfl x)

theorem rbset (x : Gen) : Statement (.rbset x) := fun h =>
  of_reads (reads_gen (op := 0x3F) (by decide) rfl x (form h)) h

theorem fork (x : Gen) : Statement (.fork x) := fun h =>
  of_reads (reads_gen (op := 0x40) (by decide) rfl x (form h)) h

theorem join (x : Gen) : Statement (.join x) := fun h =>
  of_reads (reads_gen (op := 0x41) (by decide) rfl x (form h)) h

theorem rdv (x : Short) : Statement (.rdv x) := of_reads (reads_short (op := 0x42) (by decide) x rfl)

theorem rdvLong (x : Gen) : Statement (.rdvLong x) := fun h =>
  of_reads (reads_gen (op := 0x42) (by decide) rfl x (form h)) h

theorem halt (x : Short) : Statement (.halt x) := of_reads (reads_short (op := 0x43) (by decide) x rfl)

theorem haltLong (x : Gen) : Statement (.haltLong x) := fun h =>
  of_reads (reads_gen (op := 0x43) (by decide) rfl x (form h)) h

theorem exit (x : Gen) : Statement (.exit x) := fun h _ _ => by
  have k := row h
  have r := reads_gen (op := 0x44) (by decide) rfl x (form h)
  refine ⟨r.1, r.2.trans ?_⟩
  simp only [Instr.rowOk, Bool.not_eq_true'] at k
  show orUnassigned _ (.ok (some (if x.fn.getLsbD 0 = true then .exitSucc x else .exit x))) = _
  rw [k]
  rfl

theorem exitSucc (x : Gen) : Statement (.exitSucc x) := fun h _ _ => by
  have k := row h
  have r := reads_gen (op := 0x44) (by decide) rfl x (form h)
  refine ⟨r.1, r.2.trans ?_⟩
  simp only [Instr.rowOk] at k
  show orUnassigned _ (.ok (some (if x.fn.getLsbD 0 = true then .exitSucc x else .exit x))) = _
  rw [k]
  rfl

theorem qbind (x : Gen) : Statement (.qbind x) := fun h =>
  of_reads (reads_gen (op := 0x48) (by decide) rfl x (form h)) h

theorem qfree (x : Gen) : Statement (.qfree x) := fun h =>
  of_reads (reads_gen (op := 0x49) (by decide) rfl x (form h)) h

theorem qstat (x : Gen) : Statement (.qstat x) := fun h =>
  of_reads (reads_gen (op := 0x4A) (by decide) rfl x (form h)) h

theorem stbind (x : Gen) : Statement (.stbind x) := fun h =>
  of_reads (reads_gen (op := 0x4B) (by decide) rfl x (form h)) h

theorem ststop (x : Gen) : Statement (.ststop x) := fun h =>
  of_reads (reads_gen (op := 0x4C) (by decide) rfl x (form h)) h

theorem ldp (x : Mem) : Statement (.ldp x) := of_reads (reads_mem (op := 0x50) (by decide) rfl x)

theorem stp (x : Mem) : Statement (.stp x) := of_reads (reads_mem (op := 0x51) (by decide) rfl x)

theorem lds (x : Mem) : Statement (.lds x) := of_reads (reads_mem (op := 0x52) (by decide) rfl x)

theorem sts (x : Mem) : Statement (.sts x) := of_reads (reads_mem (op := 0x53) (by decide) rfl x)

theorem ldn (x : Mem) : Statement (.ldn x) := of_reads (reads_mem (op := 0x54) (by decide) rfl x)

theorem stn (x : Mem) : Statement (.stn x) := of_reads (reads_mem (op := 0x55) (by decide) rfl x)

theorem ldg (x : Mem) : Statement (.ldg x) := of_reads (reads_mem (op := 0x56) (by decide) rfl x)

theorem stg (x : Mem) : Statement (.stg x) := of_reads (reads_mem (op := 0x57) (by decide) rfl x)

theorem ldx (x : Mem) : Statement (.ldx x) := of_reads (reads_mem (op := 0x58) (by decide) rfl x)

theorem stx (x : Mem) : Statement (.stx x) := of_reads (reads_mem (op := 0x59) (by decide) rfl x)

theorem ldh (x : Mem) : Statement (.ldh x) := of_reads (reads_mem (op := 0x5A) (by decide) rfl x)

theorem sth (x : Mem) : Statement (.sth x) := of_reads (reads_mem (op := 0x5B) (by decide) rfl x)

theorem ams (x : Amo) : Statement (.ams x) := of_reads (reads_amo (op := 0x5C) (by decide) rfl x)

theorem amn (x : Amo) : Statement (.amn x) := of_reads (reads_amo (op := 0x5D) (by decide) rfl x)

theorem amg (x : Amo) : Statement (.amg x) := of_reads (reads_amo (op := 0x5E) (by decide) rfl x)

theorem amx (x : Amo) : Statement (.amx x) := of_reads (reads_amo (op := 0x5F) (by decide) rfl x)

theorem amh (x : Amo) : Statement (.amh x) := of_reads (reads_amo (op := 0x60) (by decide) rfl x)

theorem qmark (x : Gen) : Statement (.qmark x) := fun h =>
  of_reads (reads_gen (op := 0x61) (by decide) rfl x (form h)) h

theorem rfence (x : Gen) : Statement (.rfence x) := fun h =>
  of_reads (reads_gen (op := 0x62) (by decide) rfl x (form h)) h

theorem cflush (x : Mem) : Statement (.cflush x) := of_reads (reads_mem (op := 0x63) (by decide) rfl x)

theorem pfch (x : Mem) : Statement (.pfch x) := of_reads (reads_mem (op := 0x64) (by decide) rfl x)

theorem tlwait (x : Gen) : Statement (.tlwait x) := fun h =>
  of_reads (reads_gen (op := 0x68) (by decide) rfl x (form h)) h

theorem tlinc (x : Gen) : Statement (.tlinc x) := fun h =>
  of_reads (reads_gen (op := 0x69) (by decide) rfl x (form h)) h

theorem tlread (x : Gen) : Statement (.tlread x) := fun h =>
  of_reads (reads_gen (op := 0x6A) (by decide) rfl x (form h)) h

theorem tlset (x : Gen) : Statement (.tlset x) := fun h =>
  of_reads (reads_gen (op := 0x6B) (by decide) rfl x (form h)) h

theorem bar (x : Gen) : Statement (.bar x) := fun h =>
  of_reads (reads_gen (op := 0x6C) (by decide) rfl x (form h)) h

theorem barx (x : Gen) : Statement (.barx x) := fun h =>
  of_reads (reads_gen (op := 0x6D) (by decide) rfl x (form h)) h

theorem cwait (x : Gen) : Statement (.cwait x) := fun h =>
  of_reads (reads_gen (op := 0x6E) (by decide) rfl x (form h)) h

theorem cpstat (x : Gen) : Statement (.cpstat x) := fun h =>
  of_reads (reads_gen (op := 0x6F) (by decide) rfl x (form h)) h

theorem launch (x : Gen) : Statement (.launch x) := fun h =>
  of_reads (reads_gen (op := 0x70) (by decide) rfl x (form h)) h

theorem rsdecl (x : Gen) : Statement (.rsdecl x) := fun h =>
  of_reads (reads_gen (op := 0x71) (by decide) rfl x (form h)) h

theorem rsdrop (x : Gen) : Statement (.rsdrop x) := fun h =>
  of_reads (reads_gen (op := 0x72) (by decide) rfl x (form h)) h

theorem rsread (x : Gen) : Statement (.rsread x) := fun h =>
  of_reads (reads_gen (op := 0x73) (by decide) rfl x (form h)) h

theorem tlnext (x : Gen) : Statement (.tlnext x) := fun h =>
  of_reads (reads_gen (op := 0x74) (by decide) rfl x (form h)) h

theorem cpmarkBeg (x : Gen) : Statement (.cpmarkBeg x) := fun h _ _ => by
  have k := row h
  have r := reads_gen (op := 0x78) (by decide) rfl x (form h)
  refine ⟨r.1, r.2.trans ?_⟩
  simp only [Instr.rowOk, bne_iff_ne] at k
  show orUnassigned _ (.ok (some (if x.fn = 2 then .cpmarkEnd x else .cpmarkBeg x))) = _
  rw [if_neg k]
  rfl

theorem cpmarkEnd (x : Gen) : Statement (.cpmarkEnd x) := fun h _ _ => by
  have k := row h
  have r := reads_gen (op := 0x78) (by decide) rfl x (form h)
  refine ⟨r.1, r.2.trans ?_⟩
  simp only [Instr.rowOk, beq_iff_eq] at k
  show orUnassigned _ (.ok (some (if x.fn = 2 then .cpmarkEnd x else .cpmarkBeg x))) = _
  rw [if_pos k]
  rfl

theorem tmark (x : Gen) : Statement (.tmark x) := fun h =>
  of_reads (reads_gen (op := 0x79) (by decide) rfl x (form h)) h

theorem brk (x : Gen) : Statement (.brk x) := fun h =>
  of_reads (reads_gen (op := 0x7A) (by decide) rfl x (form h)) h

theorem ccnt (x : Short) : Statement (.ccnt x) := of_reads (reads_short (op := 0x7B) (by decide) x rfl)

theorem ccntLong (x : Alu) : Statement (.ccntLong x) := fun h =>
  of_reads (reads_alu (op := 0x7B) (by decide) rfl x (form h)) h

theorem sys (x : Gen) : Statement (.sys x) := fun h =>
  of_reads (reads_gen (op := 0x7C) (by decide) rfl x (form h)) h

theorem trap (x : Gen) : Statement (.trap x) := fun h =>
  of_reads (reads_gen (op := 0x82) (by decide) rfl x (form h)) h

theorem eret (x : Gen) : Statement (.eret x) := fun h =>
  of_reads (reads_gen (op := 0x7D) (by decide) rfl x (form h)) h

theorem csrr (x : Gen) : Statement (.csrr x) := fun h =>
  of_reads (reads_gen (op := 0x7E) (by decide) rfl x (form h)) h

theorem csrw (x : Gen) : Statement (.csrw x) := fun h =>
  of_reads (reads_gen (op := 0x7F) (by decide) rfl x (form h)) h

theorem ovtld (x : Gen) : Statement (.ovtld x) := fun h =>
  of_reads (reads_gen (op := 0x80) (by decide) rfl x (form h)) h

theorem tlbinv (x : Gen) : Statement (.tlbinv x) := fun h =>
  of_reads (reads_gen (op := 0x81) (by decide) rfl x (form h)) h

theorem vadd (x : Vec) : Statement (.vadd x) := fun h =>
  of_reads (reads_vec (op := 0x90) (by decide) rfl x (form h)) h

theorem vsub (x : Vec) : Statement (.vsub x) := fun h =>
  of_reads (reads_vec (op := 0x91) (by decide) rfl x (form h)) h

theorem vmul (x : Vec) : Statement (.vmul x) := fun h =>
  of_reads (reads_vec (op := 0x92) (by decide) rfl x (form h)) h

theorem vfma (x : Vec) : Statement (.vfma x) := fun h =>
  of_reads (reads_vec (op := 0x93) (by decide) rfl x (form h)) h

theorem vmin (x : Vec) : Statement (.vmin x) := fun h =>
  of_reads (reads_vec (op := 0x94) (by decide) rfl x (form h)) h

theorem vmax (x : Vec) : Statement (.vmax x) := fun h =>
  of_reads (reads_vec (op := 0x95) (by decide) rfl x (form h)) h

theorem vabs (x : Vec) : Statement (.vabs x) := fun h =>
  of_reads (reads_vec (op := 0x96) (by decide) rfl x (form h)) h

theorem vneg (x : Vec) : Statement (.vneg x) := fun h =>
  of_reads (reads_vec (op := 0x97) (by decide) rfl x (form h)) h

theorem vcmp (x : Vec) : Statement (.vcmp x) := fun h =>
  of_reads (reads_vec (op := 0x98) (by decide) rfl x (form h)) h

theorem vsel (x : Vec) : Statement (.vsel x) := fun h =>
  of_reads (reads_vec (op := 0x99) (by decide) rfl x (form h)) h

theorem vcvt (x : Vec) : Statement (.vcvt x) := fun h =>
  of_reads (reads_vec (op := 0x9A) (by decide) rfl x (form h)) h

theorem vand (x : Vec) : Statement (.vand x) := fun h =>
  of_reads (reads_vec (op := 0x9B) (by decide) rfl x (form h)) h

theorem vor (x : Vec) : Statement (.vor x) := fun h =>
  of_reads (reads_vec (op := 0x9C) (by decide) rfl x (form h)) h

theorem vxor (x : Vec) : Statement (.vxor x) := fun h =>
  of_reads (reads_vec (op := 0x9D) (by decide) rfl x (form h)) h

theorem vshl (x : Vec) : Statement (.vshl x) := fun h =>
  of_reads (reads_vec (op := 0x9E) (by decide) rfl x (form h)) h

theorem vshr (x : Vec) : Statement (.vshr x) := fun h =>
  of_reads (reads_vec (op := 0x9F) (by decide) rfl x (form h)) h

theorem vclamp (x : Vec) : Statement (.vclamp x) := fun h =>
  of_reads (reads_vec (op := 0xA0) (by decide) rfl x (form h)) h

theorem vexp (x : Vec) : Statement (.vexp x) := fun h =>
  of_reads (reads_vec (op := 0xA1) (by decide) rfl x (form h)) h

theorem vexp2 (x : Vec) : Statement (.vexp2 x) := fun h =>
  of_reads (reads_vec (op := 0xA2) (by decide) rfl x (form h)) h

theorem vlog (x : Vec) : Statement (.vlog x) := fun h =>
  of_reads (reads_vec (op := 0xA3) (by decide) rfl x (form h)) h

theorem vlog2 (x : Vec) : Statement (.vlog2 x) := fun h =>
  of_reads (reads_vec (op := 0xA4) (by decide) rfl x (form h)) h

theorem vrcp (x : Vec) : Statement (.vrcp x) := fun h =>
  of_reads (reads_vec (op := 0xA5) (by decide) rfl x (form h)) h

theorem vrsq (x : Vec) : Statement (.vrsq x) := fun h =>
  of_reads (reads_vec (op := 0xA6) (by decide) rfl x (form h)) h

theorem vsqrt (x : Vec) : Statement (.vsqrt x) := fun h =>
  of_reads (reads_vec (op := 0xA7) (by decide) rfl x (form h)) h

theorem vtanh (x : Vec) : Statement (.vtanh x) := fun h =>
  of_reads (reads_vec (op := 0xA8) (by decide) rfl x (form h)) h

theorem vsigm (x : Vec) : Statement (.vsigm x) := fun h =>
  of_reads (reads_vec (op := 0xA9) (by decide) rfl x (form h)) h

theorem vred (x : Vec) : Statement (.vred x) := fun h =>
  of_reads (reads_vec (op := 0xAA) (by decide) rfl x (form h)) h

theorem vscan (x : Vec) : Statement (.vscan x) := fun h =>
  of_reads (reads_vec (op := 0xAB) (by decide) rfl x (form h)) h

theorem vdot (x : Vec) : Statement (.vdot x) := fun h =>
  of_reads (reads_vec (op := 0xAC) (by decide) rfl x (form h)) h

theorem vperm (x : Vec) : Statement (.vperm x) := fun h =>
  of_reads (reads_vec (op := 0xAD) (by decide) rfl x (form h)) h

theorem vgath (x : Vec) : Statement (.vgath x) := fun h =>
  of_reads (reads_vec (op := 0xAE) (by decide) rfl x (form h)) h

theorem vscat (x : Vec) : Statement (.vscat x) := fun h =>
  of_reads (reads_vec (op := 0xAF) (by decide) rfl x (form h)) h

theorem vmov (x : Vec) : Statement (.vmov x) := fun h =>
  of_reads (reads_vec (op := 0xB0) (by decide) rfl x (form h)) h

theorem vfill (x : Vec) : Statement (.vfill x) := fun h =>
  of_reads (reads_vec (op := 0xB1) (by decide) rfl x (form h)) h

theorem visect (x : Vec) : Statement (.visect x) := fun h =>
  of_reads (reads_vec (op := 0xB2) (by decide) rfl x (form h)) h

theorem vhash (x : Vec) : Statement (.vhash x) := fun h =>
  of_reads (reads_vec (op := 0xB3) (by decide) rfl x (form h)) h

theorem vcnt (x : Vec) : Statement (.vcnt x) := fun h =>
  of_reads (reads_vec (op := 0xB4) (by decide) rfl x (form h)) h

theorem vcmpr (x : Vec) : Statement (.vcmpr x) := fun h =>
  of_reads (reads_vec (op := 0xB5) (by decide) rfl x (form h)) h

theorem vscale (x : Vec) : Statement (.vscale x) := fun h =>
  of_reads (reads_vec (op := 0xB6) (by decide) rfl x (form h)) h

theorem sdef (x : Gen) : Statement (.sdef x) := fun h =>
  of_reads (reads_gen (op := 0xB8) (by decide) rfl x (form h)) h

theorem sset (x : Gen) : Statement (.sset x) := fun h =>
  of_reads (reads_gen (op := 0xB9) (by decide) rfl x (form h)) h

theorem sget (x : Gen) : Statement (.sget x) := fun h =>
  of_reads (reads_gen (op := 0xBA) (by decide) rfl x (form h)) h

theorem sadv (x : Gen) : Statement (.sadv x) := fun h =>
  of_reads (reads_gen (op := 0xBB) (by decide) rfl x (form h)) h

theorem sfmt (x : Gen) : Statement (.sfmt x) := fun h =>
  of_reads (reads_gen (op := 0xBC) (by decide) rfl x (form h)) h

theorem mlease (x : Mat) : Statement (.mlease x) := of_reads (reads_mat (op := 0xC0) (by decide) rfl x)

theorem mfree (x : Mat) : Statement (.mfree x) := of_reads (reads_mat (op := 0xC1) (by decide) rfl x)

theorem mclaim (x : Mat) : Statement (.mclaim x) := of_reads (reads_mat (op := 0xC2) (by decide) rfl x)

theorem mrel (x : Mat) : Statement (.mrel x) := of_reads (reads_mat (op := 0xC3) (by decide) rfl x)

theorem mload (x : Mat) : Statement (.mload x) := of_reads (reads_mat (op := 0xC4) (by decide) rfl x)

theorem mbeg (x : Mat) : Statement (.mbeg x) := of_reads (reads_mat (op := 0xC5) (by decide) rfl x)

theorem mend (x : Mat) : Statement (.mend x) := of_reads (reads_mat (op := 0xC6) (by decide) rfl x)

theorem mmul (x : Mat) : Statement (.mmul x) := of_reads (reads_mat (op := 0xC7) (by decide) rfl x)

theorem mzero (x : Mat) : Statement (.mzero x) := of_reads (reads_mat (op := 0xC8) (by decide) rfl x)

theorem mstore (x : Mat) : Statement (.mstore x) := of_reads (reads_mat (op := 0xC9) (by decide) rfl x)

theorem mbmap (x : Mat) : Statement (.mbmap x) := of_reads (reads_mat (op := 0xCA) (by decide) rfl x)

theorem mstat (x : Mat) : Statement (.mstat x) := of_reads (reads_mat (op := 0xCB) (by decide) rfl x)

theorem cpy (x : Cpy) : Statement (.cpy x) := of_reads (reads_cpy (op := 0xD0) (by decide) rfl x)

theorem cpt (x : Cpy) : Statement (.cpt x) := of_reads (reads_cpy (op := 0xD1) (by decide) rfl x)

theorem cpg (x : Cpy) : Statement (.cpg x) := of_reads (reads_cpy (op := 0xD2) (by decide) rfl x)

theorem cps (x : Cpy) : Statement (.cps x) := of_reads (reads_cpy (op := 0xD3) (by decide) rfl x)

theorem cpm (x : Cpy) : Statement (.cpm x) := of_reads (reads_cpy (op := 0xD4) (by decide) rfl x)

theorem cpc (x : Cpy) : Statement (.cpc x) := of_reads (reads_cpy (op := 0xD5) (by decide) rfl x)

theorem cpz (x : Cpy) : Statement (.cpz x) := of_reads (reads_cpy (op := 0xD6) (by decide) rfl x)

theorem cpk (x : Cpy) : Statement (.cpk x) := of_reads (reads_cpy (op := 0xD7) (by decide) rfl x)

theorem vdec (x : Gen) : Statement (.vdec x) := fun h =>
  of_reads (reads_gen (op := 0xE0) (by decide) rfl x (form h)) h

theorem venc (x : Gen) : Statement (.venc x) := fun h =>
  of_reads (reads_gen (op := 0xE1) (by decide) rfl x (form h)) h

theorem flow (x : Gen) : Statement (.flow x) := fun h =>
  of_reads (reads_gen (op := 0xE2) (by decide) rfl x (form h)) h

theorem cmrun (x : Gen) : Statement (.cmrun x) := fun h =>
  of_reads (reads_gen (op := 0xE3) (by decide) rfl x (form h)) h

theorem sectionHeader (h : Header) : Statement (.sectionHeader h) := fun _ _ _ => by
  obtain ⟨sect, words, wait0, wait1, wait2⟩ := h
  constructor
  · simp (disch := omega) only [Instr.encode, Instr.view, View.encode, longWords, List.cons_append, List.nil_append,
      List.headD_cons, lengthWords, BitVec.extractLsb'_extractLsb'_of_le, BitVec.extractLsb'_append_eq_of_add_le,
      BitVec.extractLsb'_eq_self]
    rfl
  · simp (disch := omega) only [decodeEncoded, Instr.encode, Instr.view, View.encode, longWords, Option.toList_none,
      List.append_nil, List.headD_cons, List.getD_cons_succ, List.getD_cons_zero, decodeWords, join_words,
      BitVec.extractLsb'_extractLsb'_of_le, BitVec.extractLsb'_append_eq_of_add_le, BitVec.extractLsb'_eq_self, if_true]
    simp (disch := omega) only [headerOf, field, BitVec.extractLsb'_append_eq_of_le, BitVec.extractLsb'_append_eq_of_add_le,
      BitVec.extractLsb'_eq_self, Nat.sub_self, Nat.reduceSub]

theorem sectionWaitSatisfied : Statement .sectionWaitSatisfied := no_words rfl

theorem queuePopResume : Statement .queuePopResume := no_words rfl

theorem queuePushResume : Statement .queuePushResume := no_words rfl

theorem joinComplete : Statement .joinComplete := no_words rfl

theorem transferWaitEnd : Statement .transferWaitEnd := no_words rfl

theorem tableWaitEnd : Statement .tableWaitEnd := no_words rfl

theorem engineQueueSpace : Statement .engineQueueSpace := no_words rfl

theorem scalarEngineWaitEnd : Statement .scalarEngineWaitEnd := no_words rfl

theorem loadDataReturn : Statement .loadDataReturn := no_words rfl

theorem linkCompletion : Statement .linkCompletion := no_words rfl

theorem runLimitExpiry : Statement .runLimitExpiry := no_words rfl

theorem stopRequest : Statement .stopRequest := no_words rfl

theorem freezeWindowExpiry : Statement .freezeWindowExpiry := no_words rfl

theorem imageResultReturn : Statement .imageResultReturn := no_words rfl

theorem imageComplete : Statement .imageComplete := no_words rfl

theorem dispatchChoice : Statement .dispatchChoice := no_words rfl

theorem preemptionTimeout : Statement .preemptionTimeout := no_words rfl

theorem parkTimeout : Statement .parkTimeout := no_words rfl

theorem parkedWaitReread : Statement .parkedWaitReread := no_words rfl

theorem timelineWaitRelease : Statement .timelineWaitRelease := no_words rfl

theorem hostLaunchAccept : Statement .hostLaunchAccept := no_words rfl

theorem launchComplete : Statement .launchComplete := no_words rfl

theorem exitCarveStallEnd : Statement .exitCarveStallEnd := no_words rfl

theorem claimReleaseAtExit : Statement .claimReleaseAtExit := no_words rfl

theorem contextCreate : Statement .contextCreate := no_words rfl

theorem contextUpdate : Statement .contextUpdate := no_words rfl

theorem contextSuspend : Statement .contextSuspend := no_words rfl

theorem contextSuspended : Statement .contextSuspended := no_words rfl

theorem contextResume : Statement .contextResume := no_words rfl

theorem contextDestroy : Statement .contextDestroy := no_words rfl

theorem contextDestroyFinish : Statement .contextDestroyFinish := no_words rfl

theorem queueCreate : Statement .queueCreate := no_words rfl

theorem queueUpdate : Statement .queueUpdate := no_words rfl

theorem queueStop : Statement .queueStop := no_words rfl

theorem queueRestart : Statement .queueRestart := no_words rfl

theorem queuePoison : Statement .queuePoison := no_words rfl

theorem queueDestroy : Statement .queueDestroy := no_words rfl

theorem queueDestroyFinish : Statement .queueDestroyFinish := no_words rfl

theorem thresholds : Statement .thresholds := no_words rfl

theorem deviceModes : Statement .deviceModes := no_words rfl

theorem timelinePoisonCommand : Statement .timelinePoisonCommand := no_words rfl

theorem frameOwnerNone : Statement .frameOwnerNone := no_words rfl

theorem frameOwnerShared : Statement .frameOwnerShared := no_words rfl

theorem frameOwnerContext : Statement .frameOwnerContext := no_words rfl

theorem traceRing : Statement .traceRing := no_words rfl

theorem hoopOffline : Statement .hoopOffline := no_words rfl

theorem hoopOnline : Statement .hoopOnline := no_words rfl

theorem linkDisable : Statement .linkDisable := no_words rfl

theorem linkEnable : Statement .linkEnable := no_words rfl

theorem linkRetrain : Statement .linkRetrain := no_words rfl

theorem stage : Statement .stage := no_words rfl

theorem switch : Statement .switch := no_words rfl

theorem debugUnlock : Statement .debugUnlock := no_words rfl

theorem sensorSample : Statement .sensorSample := no_words rfl

theorem clampPoint2Timeout : Statement .clampPoint2Timeout := no_words rfl

theorem patrolScrub : Statement .patrolScrub := no_words rfl

theorem boot : Statement .boot := no_words rfl

theorem linkTrained : Statement .linkTrained := no_words rfl

theorem linkTrainingTimeout : Statement .linkTrainingTimeout := no_words rfl

theorem linkUncorrectableError : Statement .linkUncorrectableError := no_words rfl

theorem surpriseRemoval : Statement .surpriseRemoval := no_words rfl

theorem completionTimeout : Statement .completionTimeout := no_words rfl

theorem hostMrd : Statement .hostMrd := no_words rfl

theorem hostMwr : Statement .hostMwr := no_words rfl

theorem hostAtomicop : Statement .hostAtomicop := no_words rfl

theorem peerRequest : Statement .peerRequest := no_words rfl

theorem tracePacketWrite : Statement .tracePacketWrite := no_words rfl

theorem lossCountPacket : Statement .lossCountPacket := no_words rfl

theorem debugHalt : Statement .debugHalt := no_words rfl

theorem debugResume : Statement .debugResume := no_words rfl

theorem accessRegister : Statement .accessRegister := no_words rfl

theorem accessMemory : Statement .accessMemory := no_words rfl

theorem debugErrClear : Statement .debugErrClear := no_words rfl

theorem cordonnetWalk : Statement .cordonnetWalk := no_words rfl

theorem decodeRun : Statement .decodeRun := no_words rfl

theorem encodeRun : Statement .encodeRun := no_words rfl

theorem flowRun : Statement .flowRun := no_words rfl

theorem changeMaskRun : Statement .changeMaskRun := no_words rfl

theorem hostAssistedRunRelease : Statement .hostAssistedRunRelease := no_words rfl

theorem runEnd : Statement .runEnd := no_words rfl

theorem runQueueEntryFree : Statement .runQueueEntryFree := no_words rfl

theorem copyCommandStart : Statement .copyCommandStart := no_words rfl

theorem copyCommandComplete : Statement .copyCommandComplete := no_words rfl

theorem streamStart : Statement .streamStart := no_words rfl

theorem streamEnd : Statement .streamEnd := no_words rfl

theorem leaseGrant : Statement .leaseGrant := no_words rfl

theorem leaseIdleTimeout : Statement .leaseIdleTimeout := no_words rfl

theorem mfreeAtHead : Statement .mfreeAtHead := no_words rfl

theorem matrixCommandStart : Statement .matrixCommandStart := no_words rfl

theorem matrixCommandComplete : Statement .matrixCommandComplete := no_words rfl

theorem vectorCommandComplete : Statement .vectorCommandComplete := no_words rfl

theorem zeroingComplete : Statement .zeroingComplete := no_words rfl

theorem frameZeroingComplete : Statement .frameZeroingComplete := no_words rfl

theorem pagerService : Statement .pagerService := no_words rfl

theorem pageFaultServiceObserved : Statement .pageFaultServiceObserved := no_words rfl

theorem migrationRequest : Statement .migrationRequest := no_words rfl

theorem unassignedOpcode (w : Word) : Statement (.unassignedOpcode w) := fun _ _ k => absurd rfl (k w)

theorem barrierPost : Statement .barrierPost := no_words rfl

theorem ptmTimeUpdate : Statement .ptmTimeUpdate := no_words rfl

theorem linkCorrectableError : Statement .linkCorrectableError := no_words rfl

theorem spdmRequest : Statement .spdmRequest := no_words rfl

theorem hbmRecalibration : Statement .hbmRecalibration := no_words rfl

end Sys2Proof.Laws.RoundTrip
end

