-- ==== Sys2Proof/Laws/QueueRegs.lean ====
section
/-! SUPPORT. What the binding instructions of queue registers do. -/

namespace Sys2Proof.Machine

theorem raiseWord_apply {α : Type} (c : Nat) (s : State) : (raiseWord c : M α) s = .error (.trap { cause := c }) s := rfl

theorem raise_apply {α : Type} (c : Nat) (v : DWord) (s : State) :
    (raise c v : M α) s = .error (.trap { cause := c, value := some v }) s := rfl

theorem qbindBody_ok {x : Gen} {s : State} (h : (s.curTask.queueReg (queueCode x.d)).bind = .unbound) :
    qbindBody x s = .ok .next (s.updTask fun t => t.setQueueReg (queueCode x.d)
      { bind := .bound, size := x.fn.extractLsb' 0 2, prod := x.fn.extractLsb' 2 3, cons := x.fn.extractLsb' 5 3 }) := by
  rw [qbindBody, bind_ok (get_apply s)]
  simp only [h, bne_self_eq_false, Bool.false_eq_true, if_false]
  rfl

theorem qbindBody_bound {x : Gen} {s : State} (h : (s.curTask.queueReg (queueCode x.d)).bind ≠ .unbound) :
    qbindBody x s = .error (.trap { cause := 10 }) s := by
  rw [qbindBody, bind_ok (get_apply s)]
  simp only [bne_iff_ne, ne_eq, h, not_false_eq_true, if_true]
  rfl

theorem qfreeBody_ok {x : Gen} {s : State} (h : (s.curTask.queueReg (queueCode x.d)).bind ≠ .unbound) :
    qfreeBody x s = .ok .next ((s.updTask fun t => t.freeQueue (queueCode x.d)).markFreed s.cur.task (queueCode x.d)) := by
  rw [qfreeBody, bind_ok (get_apply s)]
  simp only [beq_iff_eq, h, if_false]
  rfl

theorem qfreeBody_unbound {x : Gen} {s : State} (h : (s.curTask.queueReg (queueCode x.d)).bind = .unbound) :
    qfreeBody x s = .error (.trap { cause := 10 }) s := by
  rw [qfreeBody, bind_ok (get_apply s)]
  simp only [h, beq_self_eq_true, if_true]
  rfl

theorem qstatBody_ok {x : Gen} {s : State} (h : s.ready [] (some x.d.toNat) = true) :
    qstatBody x s = .ok .next (s.writeDst x.d.toNat (s.curTask.queueStatus (s.curTask.queueReg (queueCode x.a)))) := by
  rw [qstatBody, bind_ok (operands_ok h)]
  rfl

theorem ststopBody_ok {x : Gen} {s : State} (h : (s.curTask.queueReg (queueCode x.d)).bind = .stream) :
    ststopBody x s = .ok .next ((s.updTask fun t =>
      let y := t.stopStream (queueCode x.d)
      y.setQueueReg (queueCode x.d) { y.queueReg (queueCode x.d) with bind := .stopped }).dropEnds s.cur.task
        (streamEndOf (queueCode x.d))) := by
  rw [ststopBody, bind_ok (get_apply s)]
  simp only [h, bne_self_eq_false, Bool.false_eq_true, if_false]
  rfl

theorem ststopBody_other {x : Gen} {s : State} (h : (s.curTask.queueReg (queueCode x.d)).bind ≠ .stream) :
    ststopBody x s = .error (.trap { cause := 10 }) s := by
  rw [ststopBody, bind_ok (get_apply s)]
  simp only [bne_iff_ne, ne_eq, h, not_false_eq_true, if_true]
  rfl

/-- A scratchpad access that meets no zeroing and no engine command goes through. -/
theorem padAccess_ok {x : Acc} {core lo : Nat} {shared : Bool} {s : State} (h : (s.core core).zeroingAt lo x.size = false)
    (b : (s.core core).badAt lo x.size = false)
    (w : (if shared && core == s.curTask.core then s.scalarWaits lo x.size x.write else []) = []) :
    padAccess x core lo shared s = .ok (.ok (.pad core lo shared)) s := by
  rw [padAccess, bind_ok (get_apply s)]
  simp only [h, b, w, List.isEmpty_nil, Bool.false_eq_true, if_false]
  rfl

/-- `stbind`: `s` is the state after the strand's scratchpad accesses, `p` the one after its operand queue is popped, `v` the
descriptor's offset, `ch` the channel. -/
theorem stbindBody_ok {x : Gen} {s0 s p : State} {v : DWord} {ch : Nat} {ws : List DWord}
    (hd0 : s = s0.drainIf s0.cur Loc.isPad) (h : s.ready [x.a.toNat] none = true)
    (hp : p = s.popCodes [x.a.toNat]) (hv : v = s.source x.a.toNat) (hch : ch = bitsOf (x.fn.zeroExtend 64) 2 2)
    (hws : ws = (p.core p.curTask.core).pad.words (p.curTask.carve + v.toNat) 8)
    (hb : (p.curTask.queueReg (queueCode x.d)).bind = .unbound)
    (ha : v.toNat % 64 = 0) (hc : v.toNat < p.curTask.hdr.cs)
    (hz : (p.core p.curTask.core).zeroingAt (p.curTask.carve + v.toNat) 64 = false)
    (he : (p.core p.curTask.core).badAt (p.curTask.carve + v.toNat) 64 = false)
    (hw : p.scalarWaits (p.curTask.carve + v.toNat) 64 false = [])
    (hd : descOk ws = true) (hm : ((descAddrs ws).all fun v => v % 2 ^ (x.fn.toNat % 4) == 0) = true)
    (hf : (p.curTask.chan ch).faulted = false) (hs : (p.curTask.chan ch).stream = none) :
    stbindBody x s0 = .ok .next (p.updTask fun t =>
      (t.setQueueReg (queueCode x.d)
        { bind := .stream, size := x.fn.extractLsb' 0 2, prod := BitVec.ofNat 3 (4 + ch)
          cons := (x.fn.extractLsb' 4 2).zeroExtend 3 }).setChan ch
        { t.chan ch with stream := some { q := queueCode x.d, desc := ws, started := (t.chan ch).cmds.isEmpty } }) := by
  have hfind : (descAddrs ws).find? (fun v => v % 2 ^ (x.fn.toNat % 4) != 0) = none := by
    rw [List.find?_eq_none]
    intro a ha
    have := List.all_eq_true.mp hm a ha
    simp only [beq_iff_eq] at this
    simp [this]
  rw [stbindBody, bind_ok (show drainPad s0 = .ok () s by rw [hd0]; rfl), bind_ok (operands_ok h), ← hp, bind_ok (get_apply p)]
  simp only [List.map_cons, List.map_nil, List.headD_cons, ← hv, ← hch, hb, ha, bne_self_eq_false, Bool.false_eq_true,
    if_false, if_neg (show ¬p.curTask.hdr.cs ≤ v.toNat by omega)]
  rw [bind_ok (padAccess_ok (shared := true) hz he (by simp only [hw, ite_self]))]
  simp only [← hws, hd, hfind, Bool.not_true, Bool.false_eq_true, if_false]
  rw [if_neg (by simp [hf, hs])]
  rfl

end Sys2Proof.Machine
end

