-- ==== Sys2Proof/Laws/Step.lean ====
section
/-! SUPPORT. What a step is: every instruction of a strand is one body run on its own view, every event answers a next state, and
a step runs what its turn names. -/

namespace Sys2Proof.Machine

/-- Every instruction of a strand is one body, run by the one operation that checks, runs and retires. -/
theorem exec_strand (i : Instr) (h : i.view ≠ .event) : ∃ body : M Flow, ∀ s, exec i s = runStrand i.view body s := by
  cases i <;> first | exact ⟨_, fun _ => rfl⟩ | exact ⟨nopBody, fun _ => rfl⟩ | exact ⟨mleaseBody, fun _ => rfl⟩ | exact (h rfl).elim | skip
  case pand x => exact ⟨predBody and x.toAlu, fun _ => rfl⟩
  case pandLong x => exact ⟨predBody and x, fun _ => rfl⟩
  case por x => exact ⟨predBody or x.toAlu, fun _ => rfl⟩
  case porLong x => exact ⟨predBody or x, fun _ => rfl⟩
  case pxor x => exact ⟨predBody xor x.toAlu, fun _ => rfl⟩
  case pxorLong x => exact ⟨predBody xor x, fun _ => rfl⟩
  case pnot x => exact ⟨pnotBody x.toAlu, fun _ => rfl⟩
  case pnotLong x => exact ⟨pnotBody x, fun _ => rfl⟩
  case br d => exact ⟨branchBody d, fun _ => rfl⟩
  case brLong x => exact ⟨branchBody x.disp, fun _ => rfl⟩
  case rdv => exact ⟨leaveAs .rendezvous 4, fun _ => rfl⟩
  case rdvLong => exact ⟨leaveAs .rendezvous 8, fun _ => rfl⟩
  case unassignedOpcode => exact ⟨raiseWord 1, fun _ => rfl⟩

/-- Every event answers a next state. -/
theorem exec_event (i : Instr) (h : i.view = .event) : ∀ s, ∃ t, exec i s = .next t := by
  cases i <;> first | exact fun _ => ⟨_, rfl⟩ | (exact absurd h (by nofun))

/-- A turn of a strand that may issue runs what its fetch gives. -/
theorem step_strand {s : State} {r : StrandRef} (hr : s.nextTurn.who = .strand r) :
    step s =
      if (s.begin s.nextTurn).mayIssue r then
        match (s.begin s.nextTurn).fetchInstr r with
        | (.run i, t) => exec i { t with cur := r }
        | (.stop e, t) => t.fetchStop r e
      else .next (s.begin s.nextTurn) := by
  simp only [step, State.enter, hr]
  cases (s.begin s.nextTurn).mayIssue r
  · rfl
  · simp only [Bool.not_true, Bool.false_eq_true, if_false, if_true]
    split
    · rename_i h
      split at h <;> first | (injection h with h1 h2; subst h1 h2; simp only [*]) | cases h
    · rename_i h
      split at h <;> first | (injection h with h1; subst h1; simp only [*]) | cases h

/-- A turn of an event runs the event. -/
theorem step_event {s : State} {j : Instr} {a : EventArg} (h : s.nextTurn.who = .event j a) :
    step s = if j.view = .event then exec j { s.begin s.nextTurn with arg := a } else .next (s.begin s.nextTurn) := by
  simp only [step, State.enter, h]
  by_cases hv : j.view = .event
  · simp only [hv, if_true, beq_self_eq_true]
  · rw [if_neg hv, if_neg (by simpa using hv)]

/-- Words fetched one after the other. -/
theorem fetchWords_cons {s t : State} {r : StrandRef} {va : DWord} {n : Nat} {w : Word} {ws : List Word}
    (h : s.fetchWords r va (n + 1) = (.ok (w :: ws), t)) : ∃ u, s.fetchWord r va = (.ok w, u) ∧ u.fetchWords r (va + 4) n = (.ok ws, t) := by
  simp only [State.fetchWords] at h
  split at h
  · cases h
  · rename_i w0 s1 h1
    split at h
    · cases h
    · rename_i wl s2 h2
      cases h
      exact ⟨_, h1, h2⟩

end Sys2Proof.Machine
end

