-- ==== Sys2Proof/Laws/System.lean ====
section
/-! SUPPORT. What the system, step and span instructions do when nothing keeps them from completing. -/

namespace Sys2Proof.Machine

theorem set_apply (t s : State) : (set t : M PUnit) s = .ok PUnit.unit t := rfl

/-! ## Traps, CSRs -/

theorem sysBody_ok {x : Gen} {s : State} (h : s.ready (Src.codes x.b) none = true) :
    sysBody x s = .error (.trap { cause := 33, value := some (s.valueB x.b &&& 0xFFFF), data := s.valueB x.b,
                                  tpc := some (s.curStrand.pc + 8), keep := true }) (s.popCodes (Src.codes x.b)) := by
  rw [sysBody, bind_ok (get_apply s), bind_ok (operandB_ok h)]
  rfl

theorem trapBody_ok {x : Gen} {s : State} (h : s.ready (Src.codes x.b) none = true) :
    trapBody x s = .error (.trap { cause := 34, value := some (s.valueB x.b), data := s.valueB x.b, keep := true })
      (s.popCodes (Src.codes x.b)) := by
  rw [trapBody, bind_ok (operandB_ok h)]
  rfl

theorem eretBody_ok {s : State} (h : s.curStrand.tpc &&& 3 = 0) :
    eretBody s = .ok (.jump s.curStrand.tpc) (s.updCur Strand.leave) := by
  rw [eretBody, bind_ok (get_apply s)]
  simp only [h, bne_self_eq_false, Bool.false_eq_true, if_false]
  rfl

theorem eretBody_misaligned {s : State} (h : s.curStrand.tpc &&& 3 ≠ 0) :
    eretBody s = .error (.trap { cause := 6, value := some s.curStrand.tpc }) s := by
  rw [eretBody, bind_ok (get_apply s)]
  simp only [bne_iff_ne, ne_eq, h, not_false_eq_true, if_true]
  rfl

theorem csrrBody_ok {x : Gen} {s : State} (h : s.ready [] (some x.d.toNat) = true) :
    csrrBody x s = .ok .next (s.writeDst x.d.toNat (s.csr s.cur x.fn.toNat)) := by
  rw [csrrBody, bind_ok (operands_ok h)]
  rfl

theorem csrwBody_ok {x : Gen} {s : State} (h : s.ready (Src.codes x.b) none = true) :
    csrwBody x s = .ok .next ((s.popCodes (Src.codes x.b)).setCsr s.cur x.fn.toNat (s.valueB x.b)) := by
  rw [csrwBody, bind_ok (operandB_ok h), bind_ok (modify_apply _ _), popCodes_cur]
  rfl

theorem ovtldBody_ok {x : Gen} {s : State} (h : s.ready [x.a.toNat, x.a.toNat + 1] none = true)
    (k : ∀ j, j < 64 → ovfEntry (s.source (x.a.toNat + 1) ++ s.source x.a.toNat) j ≠ 3) :
    ovtldBody x s = .ok .next (let p := s.popCodes [x.a.toNat, x.a.toNat + 1]
      p.setCtx p.curTask.ctx { p.curCtx with ovf := s.source (x.a.toNat + 1) ++ s.source x.a.toNat }) := by
  have hf : (List.range 64).find? (fun k => ovfEntry (s.source (x.a.toNat + 1) ++ s.source x.a.toNat) k == 3) = none := by
    rw [List.find?_eq_none]
    intro a ha
    simp [k a (List.mem_range.mp ha)]
  rw [ovtldBody, bind_ok (operands_ok h)]
  simp only [List.map_cons, List.map_nil, second, List.getD_cons_succ, List.getD_cons_zero, List.headD_cons, hf]
  rfl

theorem ccntBody_ok {x : Alu} {s : State} (h : s.ready [] (some x.d.toNat) = true) :
    ccntBody x s = .ok .next (s.writeDst x.d.toNat
      (BitVec.ofNat 64 (if x.sub = 1 then s.curTask.runTime s.cycle else s.cycle))) := by
  rw [ccntBody, bind_ok (operands_ok h)]
  rfl

theorem tmarkBody_ok {x : Gen} {s : State} (h : s.ready (x.a.toNat :: Src.codes x.b) none = true) :
    tmarkBody x s = .ok .next (let p := s.popCodes (x.a.toNat :: Src.codes x.b)
      p.postPacket (p.strandParty p.cur) p.curTask.ctx 1 (x.fn.toNat % 256) [s.source x.a.toNat, s.valueB x.b]) := by
  rw [tmarkBody, bind_ok (operandsAB_ok h)]
  rfl

theorem brkBody_attached {x : Gen} {s : State} (h : s.ready (Src.codes x.b) none = true)
    (ha : (s.popCodes (Src.codes x.b)).attached (s.popCodes (Src.codes x.b)).cur.task = true) :
    brkBody x s = .ok .gone (let p := (s.popCodes (Src.codes x.b)).issue s.cur
      let q := p.updCur fun e => { e with pc := s.curStrand.pc + 8, held := none }
      let die := dieOf q.curTask.core
      (q.setDie die { q.die die with dbg := { (q.die die).dbg with bcode := (s.valueB x.b).extractLsb' 0 32 } }).debugStop
        q.cur.task 2 ((s.valueB x.b).extractLsb' 0 32) (some (q.cur.unit, s.curStrand.pc))) := by
  rw [brkBody, bind_ok (operandB_ok h), bind_ok (get_apply _)]
  simp only [ha, if_true, popCodes_curStrand]
  rw [← popCodes_cur s (Src.codes x.b)]
  rfl

theorem brkBody_alone {x : Gen} {s : State} (h : s.ready (Src.codes x.b) none = true)
    (ha : (s.popCodes (Src.codes x.b)).attached (s.popCodes (Src.codes x.b)).cur.task = false) :
    brkBody x s = .error (.trap { cause := 35 }) (s.popCodes (Src.codes x.b)) := by
  rw [brkBody, bind_ok (operandB_ok h), bind_ok (get_apply _)]
  simp only [ha, Bool.false_eq_true, if_false]
  rfl

/-! ## Steps -/

theorem cpmarkBegBody_ok {x : Gen} {s : State} (h : s.ready [] (some x.d.toNat) = true) (k : s.curTask.step = none) :
    cpmarkBegBody x s = .ok .next
      (let id : Word := BitVec.ofNat 32 (s.curTask.queue * 2 ^ 22 + (s.queue s.curTask.queue).nextStep)
       let p := (s.issue s.cur).setQueue s.curTask.queue
        { s.queue s.curTask.queue with nextStep := nextStepSeq (s.queue s.curTask.queue).nextStep }
       let q := p.updTask fun t => { t with step := some ⟨id, s.curCtx.modes.getLsbD 4, s.cycle⟩ }
       (q.stepMark q.cur false).writeDst x.d.toNat (id.zeroExtend 64)) := by
  rw [cpmarkBegBody, bind_ok (operands_ok h), bind_ok (get_apply _)]
  rw [popCodes_nil]
  simp only [k, Option.isSome_none, Bool.false_eq_true, if_false]
  rfl

/-- `cpmark.end`: `p` is the state after its operand queue is popped. -/
theorem cpmarkEndBody_ok {x : Gen} {s p : State} {k : Step} (h : s.ready [x.a.toNat] none = true)
    (hp : p = s.popCodes [x.a.toNat]) (hk : p.curTask.step = some k)
    (ha : s.source x.a.toNat &&& 7 = 0) (hc : s.source x.a.toNat = 0 ∨ canonical (s.source x.a.toNat) = true)
    (hw : (p.die (dieOf p.curTask.core)).walks.length < 16) :
    cpmarkEndBody x s = .ok .next
      (let m := if p.curStrand.held.isNone then (p.issue p.cur).stepMark (p.issue p.cur).cur true else p
       let die := dieOf p.curTask.core
       let w : Walk :=
        { step := k.id, beg := k.beg, fin := p.cycle, party := p.strandParty p.cur, tl := s.source x.a.toNat
          ctx := p.curTask.ctx, hostMode := k.host }
       (m.setDie die { m.die die with walks := (m.die die).walks ++ [w] }).updTask fun t => { t with step := none }) := by
  have h1 : (s.source x.a.toNat != 0 && s.source x.a.toNat &&& 7 != 0) = false := by
    rw [ha]; simp
  have h2 : (s.source x.a.toNat != 0 && !canonical (s.source x.a.toNat)) = false := by
    rcases hc with hc | hc <;> simp [hc]
  have h3 : ¬16 ≤ (p.die (dieOf p.curTask.core)).walks.length := by omega
  rw [cpmarkEndBody, bind_ok (operands_ok h), ← hp, bind_ok (get_apply _)]
  simp only [List.map_cons, List.map_nil, List.headD_cons, hk, h1, h2, Bool.false_eq_true, if_false, if_neg h3]
  cases p.curStrand.held <;> rfl

/-! ## Spans -/

theorem sdefBody_ok {x : Gen} {s : State} (h : s.ready [x.a.toNat] none = true) :
    sdefBody x s = .ok .next ((s.popCodes [x.a.toNat]).writeSpan x.d.toNat (s.source x.a.toNat)) := by
  rw [sdefBody, bind_ok (operands_ok h)]
  rfl

theorem ssetBody_ok {x : Gen} {s : State} (h : s.ready (Src.codes x.b) none = true) :
    ssetBody x s = .ok .next (let p := s.popCodes (Src.codes x.b)
      p.writeSpan x.d.toNat (setField (p.readSpan x.d.toNat) (spanField (x.fn.toNat % 8)).1 (spanField (x.fn.toNat % 8)).2
        (s.valueB x.b))) := by
  rw [ssetBody, bind_ok (operandB_ok h)]
  rfl

theorem sgetBody_ok {x : Gen} {s : State} (h : s.ready [] (some x.d.toNat) = true) :
    sgetBody x s = .ok .next (s.writeDst x.d.toNat (sgetValue (x.fn.toNat % 8) (s.readSpan x.a.toNat))) := by
  rw [sgetBody, bind_ok (operands_ok h)]
  rfl

theorem sadvBody_bytes {x : Gen} {s p : State} (h : s.ready (Src.codes x.b) none = true) (hp : p = s.popCodes (Src.codes x.b))
    (k : x.fn.getLsbD 0 = true) :
    sadvBody x s = .ok .next (p.writeSpan x.d.toNat (setField (p.readSpan x.d.toNat) 0 18
      (BitVec.ofInt 64 (spBase (p.readSpan x.d.toNat) + (s.valueB x.b).toInt)))) := by
  rw [sadvBody, bind_ok (operandB_ok h), ← hp, bind_ok (get_apply _)]
  simp only [k, if_true]
  rfl

theorem sadvBody_elements {x : Gen} {s p : State} (h : s.ready (Src.codes x.b) none = true)
    (hp : p = s.popCodes (Src.codes x.b)) (k : x.fn.getLsbD 0 = false)
    (hr : reservedTag (spTag (p.readSpan x.d.toNat)) = false)
    (hb : (s.valueB x.b).toInt * spStride (p.readSpan x.d.toNat) * (elemBits (spTag (p.readSpan x.d.toNat)) : Nat) % 8 = 0) :
    sadvBody x s = .ok .next (p.writeSpan x.d.toNat (setField (p.readSpan x.d.toNat) 0 18
      (BitVec.ofInt 64 (spBase (p.readSpan x.d.toNat) +
        (s.valueB x.b).toInt * spStride (p.readSpan x.d.toNat) * (elemBits (spTag (p.readSpan x.d.toNat)) : Nat) / 8)))) := by
  rw [sadvBody, bind_ok (operandB_ok h), ← hp, bind_ok (get_apply _)]
  simp only [k, hr, hb, bne_self_eq_false, Bool.false_eq_true, if_false]
  rfl

theorem sadvBody_reserved {x : Gen} {s p : State} (h : s.ready (Src.codes x.b) none = true)
    (hp : p = s.popCodes (Src.codes x.b)) (k : x.fn.getLsbD 0 = false)
    (hr : reservedTag (spTag (p.readSpan x.d.toNat)) = true) :
    sadvBody x s = .ok .next (p.fresh.2.writeSpan x.d.toNat (setField (p.readSpan x.d.toNat) 0 18
      (BitVec.ofInt 64 p.fresh.1.toInt))) := by
  rw [sadvBody, bind_ok (operandB_ok h), ← hp, bind_ok (get_apply _)]
  simp only [k, hr, Bool.false_eq_true, if_false, if_true]
  rfl

theorem sfmtBody_ok {x : Gen} {s : State}
    (h1 : spCount (s.readSpan x.a.toNat) ≠ 0 →
      spStride (s.readSpan x.a.toNat) = 1 ∧ reservedTag (spTag (s.readSpan x.a.toNat)) = false)
    (h2 : spCount (s.readSpan x.a.toNat) * elemBits (spTag (s.readSpan x.a.toNat)) % elemBits (x.fn.toNat % 64) = 0)
    (h3 : spCount (s.readSpan x.a.toNat) * elemBits (spTag (s.readSpan x.a.toNat)) / elemBits (x.fn.toNat % 64) ≤ 65535) :
    sfmtBody x s = .ok .next (s.writeSpan x.d.toNat
      (setField (setField (s.readSpan x.a.toNat) 34 16 (BitVec.ofNat 64
        (spCount (s.readSpan x.a.toNat) * elemBits (spTag (s.readSpan x.a.toNat)) / elemBits (x.fn.toNat % 64))))
        50 6 (BitVec.ofNat 64 (x.fn.toNat % 64)))) := by
  have a1 : (spCount (s.readSpan x.a.toNat) != 0 && spStride (s.readSpan x.a.toNat) != 1) = false := by
    by_cases h : spCount (s.readSpan x.a.toNat) = 0
    · simp [h]
    · simp [(h1 h).1]
  have a2 : (spCount (s.readSpan x.a.toNat) != 0 && reservedTag (spTag (s.readSpan x.a.toNat))) = false := by
    by_cases h : spCount (s.readSpan x.a.toNat) = 0
    · simp [h]
    · simp [(h1 h).2]
  have a3 : ¬65535 < spCount (s.readSpan x.a.toNat) * elemBits (spTag (s.readSpan x.a.toNat)) / elemBits (x.fn.toNat % 64) := by
    omega
  rw [sfmtBody, bind_ok (get_apply _)]
  simp only [a1, a2, h2, a3, bne_self_eq_false, Bool.false_eq_true, if_false, Bool.false_or, decide_false]
  rfl

/-- The fields of the word of grpid. -/
theorem grpid_bits (v : DWord) (g m z : Nat) (hv : v = BitVec.ofNat 64 (g % 2 ^ 32 + m % 16 * 2 ^ 32 + z % 16 * 2 ^ 36)) :
    bitsOf v 0 32 = g % 2 ^ 32 ∧ bitsOf v 32 4 = m % 16 ∧ bitsOf v 36 4 = z % 16 ∧ bitsOf v 40 24 = 0 := by
  have h : v.toNat = g % 2 ^ 32 + m % 16 * 2 ^ 32 + z % 16 * 2 ^ 36 := by
    rw [hv, BitVec.toNat_ofNat]; apply Nat.mod_eq_of_lt; omega
  simp only [bitsOf, BitVec.extractLsb'_toNat, Nat.shiftRight_eq_div_pow, h]
  clear h hv
  refine ⟨?_, ?_, ?_, ?_⟩
  · omega
  · omega
  · omega
  · omega

end Sys2Proof.Machine
end

