-- ==== Sys2Proof/Laws/Timeline.lean ====
section
/-! SUPPORT. What the timeline instructions do when nothing keeps them from completing. -/

namespace Sys2Proof.Machine

/-- A timeline that can be used is reached at its physical address. -/
theorem tlAccess_ok {a : DWord} {w : Bool} {s t : State} {pa : Nat} (h : s.timelineAt a w = some (pa, t)) :
    tlAccess a w s = .ok pa t := by
  simp only [State.timelineAt] at h
  split at h
  · exact absurd h (by simp)
  · rename_i ha
    split at h
    · rename_i pa' pte t' ht
      split at h
      · exact absurd h (by simp)
      · rename_i hb
        simp only [Option.some.injEq, Prod.mk.injEq] at h
        obtain ⟨rfl, rfl⟩ := h
        simp only [Bool.or_eq_true, not_or, Bool.not_eq_true] at hb
        have h1 : translateCur w false a s = .ok (.ok (pa', pte)) t' := by simp only [translateCur, ht]
        rw [tlAccess]
        rw [if_neg (by simpa using ha), bind_ok h1]
        simp only [bind_ok (get_apply t'), hb.1, hb.2, Bool.false_eq_true, if_false]
        rfl
    · exact absurd h (by simp)

theorem tlwaitEnd_apply (x : Gen) (v : DWord) (s : State) : tlwaitEnd x v s = .ok .next (s.tlwaitDone x v) := rfl

theorem dropMyCopies_apply (pa : Nat) (s : State) : dropMyCopies pa s = .ok () (s.dropCopies s.curTask.core pa) := rfl

theorem tlWrite_apply (a : DWord) (pa : Nat) (v : DWord) (s : State) : tlWrite a pa v s = .ok () (s.timelineWrite a pa v) := rfl

theorem srcVal_second (s : State) (a : Nat) (b : Src) : srcVal b (second ((a :: Src.codes b).map s.source)) = s.valueB b := by
  cases b <;> rfl

theorem tlreadBody_ok {x : Gen} {s t : State} {pa : Nat} (h : s.ready [x.a.toNat] (some x.d.toNat) = true)
    (hp : s.timelineAt (s.source x.a.toNat) false = some (pa, t)) :
    tlreadBody x s = .ok .next ((((t.dropCopies t.curTask.core pa).ordered true (x.fn.toNat % 8)).popCodes
      [x.a.toNat]).writeDst x.d.toNat (t.mem.word pa)) := by
  rw [tlreadBody, bind_ok (peekOperands_ok h)]
  simp only [List.map_cons, List.map_nil, List.headD_cons]
  rw [bind_ok (tlAccess_ok hp)]
  rfl

theorem tlsetBody_ok {x : Gen} {s t : State} {pa : Nat} (h : s.ready (x.a.toNat :: Src.codes x.b) none = true)
    (hp : s.timelineAt (s.source x.a.toNat) true = some (pa, t)) (hf : t.flushDone true (scopeOf (x.fn.toNat % 8)) = true) :
    tlsetBody x s = .ok .next (((t.ordered true (x.fn.toNat % 8)).popCodes (x.a.toNat :: Src.codes x.b)).timelineWrite
      (s.source x.a.toNat) pa (s.valueB x.b)) := by
  rw [tlsetBody, bind_ok (peekOperands_ok h)]
  simp only [srcVal_second]
  simp only [List.map_cons, List.headD_cons]
  rw [bind_ok (tlAccess_ok hp), bind_ok (flushFor_ok hf)]
  rfl

theorem tlincBody_ok {x : Gen} {s t m : State} {pa : Nat} (h : s.ready (x.a.toNat :: Src.codes x.b) (some x.d.toNat) = true)
    (hp : s.timelineAt (s.source x.a.toNat) true = some (pa, t)) (hf : t.flushDone true (scopeOf (x.fn.toNat % 8)) = true)
    (hm : m = t.ordered true (x.fn.toNat % 8)) (hn : (m.mem.word pa).toNat + (s.valueB x.b).toNat < 2 ^ 64) :
    tlincBody x s = .ok .next (((m.popCodes (x.a.toNat :: Src.codes x.b)).timelineWrite
      (s.source x.a.toNat) pa (BitVec.ofNat 64 ((m.mem.word pa).toNat + (s.valueB x.b).toNat))).writeDst x.d.toNat
        (BitVec.ofNat 64 ((m.mem.word pa).toNat + (s.valueB x.b).toNat))) := by
  rw [tlincBody, bind_ok (peekOperands_ok h)]
  simp only [srcVal_second]
  simp only [List.map_cons, List.headD_cons]
  rw [bind_ok (tlAccess_ok hp), bind_ok (flushFor_ok hf),
    bind_ok (show qMark (scopeOf (x.fn.toNat % 8)) t = .ok () m by rw [hm]; rfl), bind_ok (get_apply m), if_neg (by omega)]
  rfl

theorem tlincBody_overflow {x : Gen} {s t m : State} {pa : Nat}
    (h : s.ready (x.a.toNat :: Src.codes x.b) (some x.d.toNat) = true)
    (hp : s.timelineAt (s.source x.a.toNat) true = some (pa, t)) (hf : t.flushDone true (scopeOf (x.fn.toNat % 8)) = true)
    (hm : m = t.ordered true (x.fn.toNat % 8)) (hn : 2 ^ 64 ≤ (m.mem.word pa).toNat + (s.valueB x.b).toNat) :
    tlincBody x s = .error (.trap { cause := 32, value := some (s.source x.a.toNat), keep := true }) m := by
  rw [tlincBody, bind_ok (peekOperands_ok h)]
  simp only [srcVal_second]
  simp only [List.map_cons, List.headD_cons]
  rw [bind_ok (tlAccess_ok hp), bind_ok (flushFor_ok hf),
    bind_ok (show qMark (scopeOf (x.fn.toNat % 8)) t = .ok () m by rw [hm]; rfl), bind_ok (get_apply m), if_pos hn]
  rfl

/-- A `tlwait` that has not entered the monitor and finds its threshold reached. -/
theorem tlwaitBody_reached {x : Gen} {s t : State} {pa : Nat}
    (h : s.ready (x.a.toNat :: Src.codes x.b) (some x.d.toNat) = true)
    (hw : (s.curStrand.wait.any fun w => w.why == .timeline (s.source x.a.toNat) (s.valueB x.b)) = false)
    (hp : s.timelineAt (s.source x.a.toNat) false = some (pa, t))
    (hv : (s.valueB x.b).toNat ≤ (t.mem.word pa).toNat) :
    tlwaitBody x s = .ok .next ((t.dropCopies t.curTask.core pa).tlwaitDone x (t.mem.word pa)) := by
  rw [tlwaitBody, bind_ok (peekOperands_ok h)]
  simp only [srcVal_second]
  simp only [List.map_cons, List.headD_cons]
  rw [bind_ok (get_apply s)]
  simp only [hw, Bool.false_eq_true, if_false]
  rw [bind_ok (tlAccess_ok hp), bind_ok (get_apply t), if_neg (by omega)]
  rfl

theorem tlwaitBody_below {x : Gen} {s t : State} {pa : Nat}
    (h : s.ready (x.a.toNat :: Src.codes x.b) (some x.d.toNat) = true)
    (hw : (s.curStrand.wait.any fun w => w.why == .timeline (s.source x.a.toNat) (s.valueB x.b)) = false)
    (hp : s.timelineAt (s.source x.a.toNat) false = some (pa, t))
    (hv : (t.mem.word pa).toNat < (s.valueB x.b).toNat) :
    tlwaitBody x s = .error (.stall (.timeline (s.source x.a.toNat) (s.valueB x.b)) true)
      (t.registerWait t.cur.task pa (s.valueB x.b)) := by
  rw [tlwaitBody, bind_ok (peekOperands_ok h)]
  simp only [srcVal_second]
  simp only [List.map_cons, List.headD_cons]
  rw [bind_ok (get_apply s)]
  simp only [hw, Bool.false_eq_true, if_false]
  rw [bind_ok (tlAccess_ok hp), bind_ok (get_apply t), if_pos hv]
  rfl

theorem tlwaitBody_released {x : Gen} {s : State} {e : Monitor} {r : DWord} {who : Party}
    (h : s.ready (x.a.toNat :: Src.codes x.b) (some x.d.toNat) = true)
    (hw : (s.curStrand.wait.any fun w => w.why == .timeline (s.source x.a.toNat) (s.valueB x.b)) = true)
    (hm : s.monitorOf s.cur.task = some e) (hr : e.released = some (r, who)) :
    tlwaitBody x s = .ok .next ((((s.dropMonitor s.cur.task).producedBy who).dropCopies
      ((s.dropMonitor s.cur.task).producedBy who).curTask.core e.addr).tlwaitDone x r) := by
  rw [tlwaitBody, bind_ok (peekOperands_ok h)]
  simp only [srcVal_second]
  simp only [List.map_cons, List.headD_cons]
  rw [bind_ok (get_apply s)]
  simp only [hw, if_true, hm, hr]
  rfl

theorem tlwaitBody_poisoned {x : Gen} {s : State} {e : Monitor}
    (h : s.ready (x.a.toNat :: Src.codes x.b) (some x.d.toNat) = true)
    (hw : (s.curStrand.wait.any fun w => w.why == .timeline (s.source x.a.toNat) (s.valueB x.b)) = true)
    (hm : s.monitorOf s.cur.task = some e) (hr : e.released = none) (hp : e.poisoned = true) :
    tlwaitBody x s = .error (.trap { cause := 31, value := some (s.source x.a.toNat), keep := true })
      ((s.dropMonitor s.cur.task).producedBy (controllerParty s)) := by
  rw [tlwaitBody, bind_ok (peekOperands_ok h)]
  simp only [srcVal_second]
  simp only [List.map_cons, List.headD_cons]
  rw [bind_ok (get_apply s)]
  simp only [hw, if_true, hm, hr, hp]
  rfl

theorem tlwaitBody_waits {x : Gen} {s : State} {e : Monitor}
    (h : s.ready (x.a.toNat :: Src.codes x.b) (some x.d.toNat) = true)
    (hw : (s.curStrand.wait.any fun w => w.why == .timeline (s.source x.a.toNat) (s.valueB x.b)) = true)
    (hm : s.monitorOf s.cur.task = some e) (hr : e.released = none) (hp : e.poisoned = false) :
    tlwaitBody x s = .error (.stall (.timeline (s.source x.a.toNat) (s.valueB x.b)) false) s := by
  rw [tlwaitBody, bind_ok (peekOperands_ok h)]
  simp only [srcVal_second]
  simp only [List.map_cons, List.headD_cons]
  rw [bind_ok (get_apply s)]
  simp only [hw, if_true, hm, hr, hp, Bool.false_eq_true, if_false]
  rfl

/-! ## Barriers -/

theorem barOperand (x : Gen) (ex : Bool) (s : State) :
    srcVal x.b ((((if ex then [x.a.toNat] else []) ++ Src.codes x.b).map s.source).getLastD 0) = s.valueB x.b := by
  cases ex <;> cases hb : x.b <;> simp [Src.codes, State.valueB, srcVal]

theorem barBytes (x : Gen) (ex : Bool) (s : State) :
    (if ex then bitsOf ((((if ex then [x.a.toNat] else []) ++ Src.codes x.b).map s.source).headD 0) 0 32 else 0) =
      if ex then bitsOf (s.source x.a.toNat) 0 32 else 0 := by
  cases ex <;> rfl

/-- A barrier instruction whose strand has not arrived, with its operands ready. -/
theorem barBody_enters (x : Gen) (ex : Bool) (s : State)
    (hw : ∀ k ph y w, s.curStrand.wait = some w → w.why ≠ .barrier k ph y)
    (hr : s.ready ((if ex then [x.a.toNat] else []) ++ Src.codes x.b) none = true) :
    barBody x ex s = (let codes := (if ex then [x.a.toNat] else []) ++ Src.codes x.b
    let k := barrierScope x.fn
    let n := (s.valueB x.b).toNat % 16
    let bytes := if ex then bitsOf (s.source x.a.toNat) 0 32 else 0
    let cnt := x.fn.toNat / 16
    if s.curTask.gsize < cnt || (ex && n < 12) then raiseWord 2
    else do
      flushFor k
      popNow codes
      modifyCur fun d => { d with held := none }
      qMark k
      let ph := (((s.withGroup s.cur.task).group (s.withGroup s.cur.task).curTask.groupNo).barrier n).phase
      modify fun s => s.arrive s.cur.task n cnt bytes
      let s ← get
      if ((s.group s.curTask.groupNo).barrier n).phase != ph then do
        qMark k
        pure .next
      else holdOn (.barrier n ph (bytes != 0)) : M Flow) s := by
  rw [barBody, bind_ok (get_apply s)]
  dsimp only
  cases h : s.curStrand.wait with
  | none =>
    simp only [Option.map_none]
    rw [bind_ok (peekOperands_ok hr)]
    simp only [barOperand, barBytes]
  | some w =>
    have := fun k ph y => hw k ph y w h
    simp only [Option.map_some]
    generalize w.why = y at this
    cases y with
    | barrier k ph y => exact absurd rfl (this k ph y)
    | _ =>
      dsimp only
      rw [bind_ok (peekOperands_ok hr)]
      simp only [barOperand, barBytes]

/-! ## The end of a task -/

/-- When no command uses the carve, no faulted channel has one that does. -/
theorem lateTrap_carve {s : State} (h : s.carveUsers s.cur.task = false) :
    lateTrap .copy (fun c => c.cmds.any fun k => k.hd.usesCarve) s = .ok () s := by
  have hc : (s.curTask.chans.find? fun c => c.2.faulted && (c.2.cmds.any fun k => k.hd.usesCarve)) = none := by
    rw [List.find?_eq_none]
    intro a ha
    simp only [Bool.and_eq_true, List.any_eq_true, not_and, not_exists]
    intro _ k hk ht
    rw [State.carveUsers, List.any_eq_false] at h
    refine h k.hd ?_ ht
    simp only [State.cmdHeads, Task.cpyHeads, List.mem_append, List.mem_flatMap, List.mem_map]
    exact .inr ⟨a, ha, k, hk, rfl⟩
  rw [lateTrap, bind_ok (get_apply _)]
  simp only [hc]
  rfl

theorem exitBody_ok {s : State} (h0 : s.curTask.engineLive = false) (h1 : s.curTask.late = [])
    (h3 : s.curTask.mat.late = []) (h4 : s.carveUsers s.cur.task = false) :
    exitBody s = .ok .gone (((s.producedBy s.curTask.carveEnd).issue s.cur).endTask s.cur.task false) := by
  have hv : lateTrap .vector (fun _ => true) s = .ok () s := by
    rw [lateTrap, bind_ok (get_apply _)]
    simp only [h1]
    rfl
  have hm : lateTrap .matrix (fun _ => true) s = .ok () s := by
    rw [lateTrap, bind_ok (get_apply _)]
    simp only [h3]
    rfl
  rw [exitBody, bind_ok (get_apply s)]
  simp only [h0, Bool.false_eq_true, if_false]
  rw [bind_ok hv, bind_ok (lateTrap_carve h4), bind_ok hm]
  simp only [h4, Bool.false_eq_true, if_false]
  rfl

end Sys2Proof.Machine
end

