-- ==== Sys2Proof/Laws/Vector.lean ====
section
/-! SUPPORT. Elements of vector commands: an integer result in its format, and the fixed tree of a reduction. -/

namespace Sys2Proof.Machine

/-- The value of an integer result placed into an integer format: wrapped, or clamped. -/
theorem placeInt_spec (sat : Bool) (tag : Nat) (v : Int) {sg : Bool} {k : Nat} (h : kindOf tag = some (.int sg k)) :
    let lo : Int := if sg then -(2 ^ (k - 1) : Nat) else 0
    let hi : Int := if sg then (2 ^ (k - 1) : Nat) - 1 else (2 ^ k : Nat) - 1
    placeInt sat tag v < 2 ^ k ∧ (if sat then intOf tag (placeInt sat tag v) = max lo (min hi v)
      else ((2 ^ k : Nat) : Int) ∣ intOf tag (placeInt sat tag v) - v) := by
  intro lo hi
  have he : elemBits tag = k := by simp [elemBits, h]
  have hkk : k = 4 ∨ k = 8 ∨ k = 16 ∨ k = 32 := by
    unfold kindOf at h; split at h <;> simp_all <;> omega
  simp only [placeInt, intOf, he, h, lo, hi]
  rcases hkk with rfl|rfl|rfl|rfl <;> cases sg <;> cases sat <;>
    simp only [Bool.false_eq_true, if_false, if_true, signedBits, Nat.reducePow, Nat.reduceSub] <;> constructor <;> (try split) <;> omega

theorem log2_between {n e : Nat} (h1 : 2 ^ e < n) (h2 : n ≤ 2 ^ (e + 1)) : (n - 1).log2 = e := by
  rw [Nat.log2_eq_iff (by have := Nat.two_pow_pos e; omega)]; omega

/-- One level of the tree. -/
theorem reduceTree_step (f : Nat → Nat → Nat × Flags) (n x y : Nat) (l : List Nat) :
    reduceTree f (n + 1) (x :: y :: l) =
      (let h := 2 ^ ((x :: y :: l).length - 1).log2
       let a := reduceTree f n ((x :: y :: l).take h)
       let b := reduceTree f n ((x :: y :: l).drop h)
       ((f a.1 b.1).1, a.2 ||| b.2 ||| (f a.1 b.1).2)) := rfl

/-- More fuel than a list needs changes nothing. -/
theorem reduceTree_fuel (f : Nat → Nat → Nat × Flags) : ∀ (k m n : Nat) (xs : List Nat), xs.length ≤ 2 ^ k → k < m → k < n →
    reduceTree f m xs = reduceTree f n xs := by
  intro k
  induction k with
  | zero =>
    intro m n xs h hm hn
    obtain ⟨m, rfl⟩ : ∃ j, m = j + 1 := ⟨m - 1, by omega⟩
    obtain ⟨n, rfl⟩ : ∃ j, n = j + 1 := ⟨n - 1, by omega⟩
    match xs, h with
    | [], _ => rfl
    | [x], _ => rfl
    | x :: y :: l, h => simp at h
  | succ k ih =>
    intro m n xs h hm hn
    by_cases h1 : xs.length ≤ 2 ^ k
    · exact ih m n xs h1 (by omega) (by omega)
    · obtain ⟨m, rfl⟩ : ∃ j, m = j + 1 := ⟨m - 1, by omega⟩
      obtain ⟨n, rfl⟩ : ∃ j, n = j + 1 := ⟨n - 1, by omega⟩
      have hl : (xs.length - 1).log2 = k := log2_between (by omega) h
      have hp := Nat.two_pow_pos k
      match xs, h, h1, hl with
      | [], _, h1, _ => simp at h1
      | [x], _, h1, _ => simp at h1
      | x :: y :: l, h, h1, hl =>
        simp only [reduceTree, hl]
        rw [ih m n _ (by rw [List.length_take]; omega) (by omega) (by omega),
          ih m n _ (by rw [List.length_drop]; rw [Nat.pow_succ] at h; omega) (by omega) (by omega)]

end Sys2Proof.Machine
end

