-- ==== Sys2Proof/Tests/Slice0.lean ====
section
/-! SUPPORT. Tests of the model, and a concrete state and operands that meet the hypotheses of each statement. Expected values are
worked out from the tables of the spec. -/

namespace Sys2Proof.Tests

set_option Elab.async false

open Sys2Proof Sys2Proof.Machine

/-! ## States -/

/-- A task of context 0 on core 0 with a running main strand at supervisor level, page 0 mapped, 4 KiB of shared and 1 KiB of
private memory, and some registers. -/
def base : State :=
  let s := State.reset.withFetchWord 64 0
  let s := { s with queues := [(0, { state := .ready })], cycle := 5000 }
  s.setTask 0 { s.task 0 with
    hdr := { gran := 8, cs := 4096, ps := 1024, slots := 2, acc := 1 }
    main := { (s.task 0).main with lvl := true, g := [(1, 64), (2, 3), (3, 0x80), (4, 0xFFFFFFFFFFFFFFFF), (6, 7)] } }

/-- The state with its main strand changed. -/
def main (f : Strand → Strand) (s : State := base) : State := s.setStrand ⟨0, .main⟩ (f (s.strand ⟨0, .main⟩))

/-- The state with its task changed. -/
def task (f : Task → Task) (s : State := base) : State := s.setTask 0 (f (s.task 0))

/-- The state in which an engine strand of the task is running and executes. -/
def on (u : UnitId) (s : State := base) : State :=
  let r : StrandRef := ⟨0, u⟩
  { s.setStrand r { s.strand r with state := .running, g := (s.strand ⟨0, .main⟩).g } with cur := r }

/-- Operands: D, A, B in the short form; D, A, B, U and SUB in the ALU layout; D, A, B and FN in the generic layout. -/
def short (d a b : BitVec 6) : Short := ⟨d, a, b, 0⟩
def alu (d a : BitVec 9) (b : Src) (u : Bool := false) (sub : BitVec 4 := 0) : Alu := ⟨.always, d, a, b, 0, u, sub⟩
def gen (d a : BitVec 9 := 0) (b : Src := .code 0) (fn : BitVec 9 := 0) : Gen := { guard := .always, d, a, b, fn }

/-- The instruction is admitted. -/
def ok (i : Instr) (s : State := base) : Bool := s.admits i.view

/-- The state that an instruction leaves. -/
def after (i : Instr) (s : State := base) : State := match exec i s with | .next t => t | _ => s

/-- g register `n` of the main strand. -/
def reg (s : State) (n : Nat) : DWord := (s.strand ⟨0, .main⟩).readG n

/-! ## Well-formedness: a term that each check refuses -/

theorem wf_accepts : ([.add (short 1 2 3), .addLong (alu 1 2 (.imm 5)), .vadd ⟨.always, 4, 5, .code 6, 0, false, false, 0, 0x1FF⟩,
    .sectionHeader ⟨1, 8, 0, 0, 0⟩, .call 4] : List Instr).all Instr.wellFormed = true := by decide +kernel

/-- The guards: predicate 96 does not exist, and the unguarded code has no complement. -/
theorem wf_guard : ([⟨⟨96, false⟩, 0, 0, .imm 1, 0, false, 0⟩, ⟨⟨127, true⟩, 0, 0, .imm 1, 0, false, 0⟩] : List Alu).all
    (fun x => !(Instr.addLong x).wellFormed) = true := by decide +kernel

/-- The constructor that the function field names. -/
theorem wf_row : ([.movi (alu 1 0 (.lit 7) false 2), .moviHi (alu 1 0 (.lit 7)), .exit (gen 0 1 (.code 2) 1), .exitSucc (gen 0 1 (.code 2)),
    .cpmarkBeg (gen 0 1 (.code 0) 2), .cpmarkEnd (gen 1 0 (.code 0) 1)] : List Instr).all (fun i => !i.wellFormed) = true := by decide +kernel

/-- A literal or an immediate where the opcode has none. -/
theorem wf_form : ([.clzLong (alu 1 2 (.lit 3)), .sys (gen 0 0 (.lit 3)), .vexp ⟨.always, 4, 5, .lit 6, 0, false, false, 0, 0x1FF⟩,
    .vadd ⟨.always, 4, 5, .imm 6, 0, false, false, 0, 0x1FF⟩, .popcLong (alu 1 2 (.imm 3)), .sdef (gen 1 2 (.imm 3))] :
    List Instr).all (fun i => !i.wellFormed) = true := by decide +kernel

/-- Reserved SUB, U, RND and FN values, CSR numbers, and format tags. -/
theorem wf_fields : ([.addLong (alu 1 2 (.code 3) false 4), .movLong (alu 1 2 (.code 0) true), .addLong ⟨.always, 1, 2, .code 3, 1, false, 0⟩,
    .faddLong ⟨.always, 1, 2, .code 3, 6, false, 0⟩, .join (gen 0 0 (.code 0) 0), .csrr (gen 1 0 (.code 0) 6), .csrw (gen 0 0 (.code 2) 4),
    .tlbinv (gen 0 1 (.imm 4)), .ldg ⟨.always, 1, 2, 0x1FF, false, 2, 0, 3, 0⟩, .stg ⟨.always, 1, 2, 0x1FF, false, 1, 0, 3, 0⟩,
    .ldg ⟨.always, 1, 2, 0x1FF, false, 0, 5, 3, 0⟩, .cflush ⟨.always, 0, 2, 0x1FF, true, 0, 0, 0, 0⟩, .amg ⟨.always, 1, 2, 0x1FF, false, 0, 0, 1, 0, 0⟩,
    .amg ⟨.always, 1, 2, 0x1FF, false, 0, 0, 3, 10, 0⟩, .vred ⟨.always, 4, 5, .code 0, 6, false, false, 0, 0x1FF⟩,
    .vcvt ⟨.always, 4, 5, .code 0, 0, true, false, 0, 0x1FF⟩, .mmul ⟨.always, 0, 0, 1, false, false, 0, 0, 0x1E⟩,
    .mmul ⟨.always, 0, 0, 1, true, false, 0, 0, 0⟩, .mclaim ⟨.always, 0, 2, 0, false, false, 0, 0, 2⟩, .cpc ⟨.always, 4, 1, 2, false, 2, 0, 0, 0⟩,
    .cpy ⟨.always, 4, 1, 0x1FF, false, 0, 0, 1, 0⟩, .cpy ⟨.always, 4, 1, 0x1FF, false, 0, 1, 0, 0⟩] : List Instr).all
    (fun i => !i.wellFormed) = true := by decide +kernel

/-- Operand codes outside the instruction's range. -/
theorem wf_operands : ([.addLong (alu 80 2 (.code 3)), .addLong (alu 1 102 (.code 3)), .cmpLong (alu 96 2 (.code 3)), .pmovLong (alu 33 1 (.code 0) false 1),
    .absLong (alu 1 2 (.code 3)), .nopLong (alu 1 0 (.code 0)), .qbind (gen 63), .qstat (gen 1 63), .launch (gen 64 1 (.code 2)),
    .ovtld (gen 0 63), .sdef (gen 384 1), .loop ⟨.always, 1, 2, 4⟩, .lds ⟨.always, 1, 64, 0x1FF, false, 0, 0, 3, 0⟩,
    .ldx ⟨.always, 1, 2, 16, false, 0, 0, 3, 0⟩, .sts ⟨.always, 96, 2, 0x1FF, false, 0, 0, 3, 0⟩, .amg ⟨.always, 3, 2, 0x1FF, false, 0, 0, 3, 2, 0⟩,
    .vadd ⟨.always, 400, 5, .code 6, 0, false, false, 0, 0x1FF⟩, .vsel ⟨.always, 4, 5, .code 6, 0, false, false, 0, 0x1FF⟩,
    .mmul ⟨.always, 8, 0, 1, false, false, 0, 0, 0⟩, .mmul ⟨.always, 0, 32, 1, false, false, 0, 0, 0⟩, .cpt ⟨.always, 4, 1, 63, false, 0, 0, 0, 0⟩,
    .cpy ⟨.always, 4, 1, 2, false, 0, 0, 0, 0⟩] : List Instr).all
    (fun i => i.encodable && !i.wellFormed) = true := by decide +kernel

/-- The rows of Table 3-15 that ask for the strand and the level: `fork` on an engine strand, `eret` at user level. -/
theorem wf_strand : strandOk 0x40 .vector = false ∧ strandOk 0x90 .copy = false ∧ strandOk 0xD0 .matrix = false ∧
    (Instr.eret (gen)).view.privileged = true ∧ (Instr.csrr (gen 1 0 (.code 0) 0x20)).view.privileged = true := by decide +kernel

/-! ## Decoding: words written out field by field -/

/-- A long form as one number, its second word above its first, decodes to the instruction; `lit` is a third word. -/
def reads (w : DWord) (i : Instr) (lit : Word := 0) : Bool :=
  match decodeWords (w.extractLsb' 0 32) (w.extractLsb' 32 32) lit with
  | .ok j => j == i
  | .error _ => false

/-- Tables 3-2, 3-3: short forms hold F, B, A, D, OP and LEN 0; a short branch holds a displacement of 22 bits. -/
theorem decode_short : reads 0b0000_000011_000010_000001_00000001_00 (.add ⟨1, 2, 3, 0⟩) = true ∧
    reads 0b0000_000000_000010_000001_00101001_00 (.fsqrt ⟨1, 2, 0, 0⟩) = true ∧
    reads 0b0000_000110_000101_000100_00110000_00 (.pand ⟨4, 5, 6, 0⟩) = true ∧
    reads 0b1111111111111111111110_00111101_00 (.bloop 0x3FFFFE) = true ∧
    reads 0b0000000000000000000100_00111010_00 (.call 4) = true := by decide +kernel

/-- The long forms of Tables 3-4 and 3-8: I, a reserved bit, RND, U, SUB, B with its immediate, A, D, PN, PR, OP, LEN. -/
theorem decode_alu : reads 0b0_0_000_0_0000_000000000_000000011_000000010_000000001_0_1111111_00000001_01 (.addLong (alu 1 2 (.code 3))) = true ∧
    reads 0b0_0_010_1_0000_000000000_000000011_000000010_000000001_0_1111111_00100010_01 (.fmulLong ⟨.always, 1, 2, .code 3, 2, true, 0⟩) = true ∧
    reads 0b0_0_000_0_0010_000000000_000000000_000000000_000000100_0_1111111_00011001_10 (.moviHi (alu 4 0 (.lit 0xDEADBEEF) false 2)) 0xDEADBEEF = true ∧
    reads 0b0_0_000_0_0001_000000000_000000000_000000000_000000001_0_1111111_01111011_01 (.ccntLong (alu 1 0 (.code 0) false 1)) = true := by
  decide +kernel

/-- The generic layout, one word of each family that has it: I, FN, B, A, D, PN, PR, OP, LEN. -/
theorem decode_gen : reads 0b1_000000001_000000000_000000010_000000000_000000000_0_1111111_01000000_01 (.fork (gen 0 0 (.imm 2) 1)) = true ∧
    reads 0b0_000010011_000000000_000000000_000000000_001000000_0_1111111_01001000_01 (.qbind (gen 64 0 (.code 0) 0x13)) = true ∧
    reads 0b1_000000011_000000000_000000111_000000100_000000011_0_1111111_01101000_01 (.tlwait (gen 3 4 (.imm 7) 3)) = true ∧
    reads 0b1_000100010_000000000_000001100_000000000_000000000_0_1111111_01101100_01 (.bar (gen 0 0 (.imm 12) 0x22)) = true ∧
    reads 0b0_000000000_000000000_000000010_000000001_000000101_0_1111111_01110000_01 (.launch (gen 5 1 (.code 2))) = true ∧
    reads 0b0_000000010_000000000_000000000_000000001_000000000_0_1111111_01111000_01 (.cpmarkEnd (gen 0 1 (.code 0) 2)) = true ∧
    reads 0b0_000000000_000000000_000000000_000000000_000000000_0_1111111_01111101_01 (.eret gen) = true ∧
    reads 0b0_000000100_000000000_000000000_000000000_000000001_0_1111111_01111110_01 (.csrr (gen 1 0 (.code 0) 4)) = true ∧
    reads 0b0_000000000_000000000_000000000_000000011_000000010_0_1111111_10111000_01 (.sdef (gen 2 3)) = true ∧
    reads 0b0_000000000_000000000_000000000_000000011_000000000_0_1111111_11100000_01 (.vdec (gen 0 3)) = true := by decide +kernel

/-- The MEM, AMO, VEC, MAT and CPY layouts of Tables 3-9 to 3-11a, and the branch layout. -/
theorem decode_layouts :
    reads 0b0000000000000000000000000100_000000010_000000000_0_1111111_00111100_01 (.loop ⟨.always, 0, 2, 4⟩) = true ∧
    reads 0b1_01_011_11_11111111111_000001010_000001000_000001001_0_1111111_01010110_01 (.ldg ⟨.always, 9, 8, 10, true, 1, 3, 3, 0x7FF⟩) = true ∧
    reads 0b0_00_000_10_00000000001_111111111_000001000_000001001_0_1111111_01010011_01 (.sts ⟨.always, 9, 8, 0x1FF, false, 0, 0, 2, 1⟩) = true ∧
    reads 0b0_11_010_10_0010_0000101_111111111_000010100_000000110_0_1111111_01011110_01 (.amg ⟨.always, 6, 20, 0x1FF, false, 3, 2, 2, 2, 5⟩) = true ∧
    reads 0b0_0000_1_0_001_111111111_000000110_000000101_000000100_0_1111111_10010000_01 (.vadd ⟨.always, 4, 5, .code 6, 0, true, false, 1, 0x1FF⟩) = true ∧
    reads 0b00_0_1_000_000101_000100_000000011_000000010_000000001_0_1111111_11000111_01 (.mmul ⟨.always, 1, 2, 3, false, true, 0, 5, 4⟩) = true ∧
    reads 0b0_000_1000_000000_000_10_000001100_000001011_000001010_0_1111111_11010001_01 (.cpt ⟨.always, 10, 11, 12, false, 8, 0, 0, 2⟩) = true := by
  decide +kernel

/-- The section header: LEN 3, SECT, WORDS and three waits. -/
theorem decode_header : reads 0b000000000000_000000000000_000000000101_00000000001000_000000000001_11 (.sectionHeader ⟨1, 8, 5, 0, 0⟩) = true := by
  decide +kernel

/-- What is no instruction: an unassigned opcode decodes as that, and a set reserved bit is refused. -/
theorem decode_refuses : reads 0b0000_000000_000000_000000_00011101_00 (.unassignedOpcode 0x74) = true ∧
    (∀ j ∈ ([.addLong (alu 1 2 (.code 3)), .nopLong (alu 0 0 (.code 0)), .addLong (alu 1 2 (.imm 3))] : List Instr),
      reads 0b0_1_000_0_0000_000000000_000000011_000000010_000000001_0_1111111_00000001_01 j = false) := by
  decide +kernel

/-! ## Witnesses: scalar, float, predicates, branches -/

/-- Queue registers: q0 is bound by the main strand and holds two elements, q1 is bound and empty, q2 is fed by a channel. -/
def withQueues (s : State := base) : State := task (fun t =>
  ((t.setQueueReg 0 ((({ bind := .bound, size := 3 } : QueueReg).push 5).push 9)).setQueueReg 1 { bind := .bound, size := 3 })) s

/-- Every operand form: registers, queue registers, a loop index, an immediate, a literal, and g0 as destination. -/
theorem witness_IntegerTwoSource :
    (∀ f ∈ ([.add, .sub, .mul, .mulh, .div, .rem, .and, .or, .xor, .andn, .shl, .shr, .sar, .rot, .min, .max, .bfx, .lea] :
      List (Short → Instr)), ok (f (short 5 1 2)) = true ∧ ok (f (short 0 1 2)) = true) ∧
    (∀ f ∈ ([.addLong, .subLong, .mulLong, .mulhLong, .divLong, .remLong, .andLong, .orLong, .xorLong, .andnLong, .shlLong, .shrLong,
      .sarLong, .rotLong, .minLong, .maxLong, .bfxLong, .leaLong] : List (Alu → Instr)),
      ∀ y ∈ [alu 5 1 (.code 2), alu 5 1 (.imm 0x3FFFE), alu 5 1 (.lit 7), alu 65 64 (.code 2), alu 0 96 (.code 2)],
        ok (f y) withQueues = true) ∧
    withQueues.ready [1, 2] (some 5) = true ∧ withQueues.ready [64, 2] (some 65) = true ∧ withQueues.ready [96, 2] (some 0) = true := by
  decide +kernel

theorem witness_IntegerOther :
    (∀ i ∈ ([.abs (short 5 1 0), .clz (short 5 1 0), .ctz (short 5 1 0), .popc (short 5 1 0), .mov (short 5 1 0), .absLong (alu 5 1 (.code 0)),
      .clzLong (alu 5 1 (.code 0)), .ctzLong (alu 5 1 (.code 0)), .popcLong (alu 5 1 (.code 0)), .movLong (alu 5 1 (.code 0)),
      .bfi (short 5 1 2), .bfiLong (alu 5 1 (.imm 7)), .sel (short 5 1 2), .selLong (alu 5 1 (.code 2) false 3), .cmp (short 5 1 2),
      .cmpLong (alu 5 1 (.lit 2) true 3), .movi (alu 5 0 (.imm 0x3FFFE)), .movi (alu 5 0 (.lit 7) true), .moviHi (alu 5 0 (.lit 7) false 2),
      .nop (short 0 0 0), .nopLong (alu 0 0 (.code 0))] : List Instr), ok i = true) ∧
    base.ready [1] (some 5) = true ∧ base.ready [1, 2, 5] (some 5) = true ∧ base.ready [1, 5] (some 5) = true ∧
    base.ready [1, 2] none = true ∧ base.ready [] (some 5) = true ∧ base.ready [5] (some 5) = true := by
  decide +kernel

/-- Both widths, both signs, the corner of the most negative number, and the modes of SUB. -/
theorem witness_values : (alu 5 1 (.code 2)).sub = 0 ∧ (alu 5 1 (.code 2) true 1).sub = 1 ∧
    (alu 5 1 (.code 2) true 2).sub = 2 ∧ (alu 5 1 (.code 2) true 2).u = true ∧ (alu 5 1 (.code 2) false 2).u = false ∧
    (alu 5 1 (.code 2) false 3).sub = 3 ∧ (alu 5 1 (.code 2) false 3).u = false ∧ (alu 5 1 (.code 2) true 3).u = true ∧
    (let x := alu 5 1 (.code 2)
     exact (aluW x) x.u 0x8000000000000000 = -(2 ^ (widthOf (aluW x) - 1) : Int) ∧ exact (aluW x) x.u (0xFFFFFFFFFFFFFFFF : DWord) = -1 ∧
       exact (aluW x) x.u (0 : DWord) = 0 ∧ exact (aluW x) x.u (3 : DWord) ≠ 0) := by
  decide +kernel

theorem witness_FloatArithmetic :
    (∀ f ∈ ([.fadd, .fsub, .fmul, .fmin, .fmax, .fdiv, .ffma, .fcmp] : List (Short → Instr)), ok (f (short 5 1 2)) = true) ∧
    (∀ f ∈ ([.faddLong, .fsubLong, .fmulLong, .fminLong, .fmaxLong, .fdivLong, .ffmaLong, .fcmpLong] : List (Alu → Instr)),
      ∀ y ∈ [alu 5 1 (.code 2), alu 5 1 (.lit 0x3F800000) true], ok (f y) = true) ∧
    (∀ f ∈ ([.fcvt, .fsqrt, .fneg, .fclass] : List (Short → Instr)), ok (f (short 5 1 0)) = true) ∧
    (∀ f ∈ ([.fcvtLong, .fsqrtLong, .fnegLong, .fclassLong] : List (Alu → Instr)), ok (f (alu 5 1 (.code 0) true)) = true) ∧
    base.ready [1, 2] (some 5) = true ∧ base.ready [1, 2, 5] (some 5) = true ∧ base.ready [1] (some 5) = true ∧
    base.ready [1, 2] none = true ∧ base.ready [1] none = true ∧ base.ready [1, 5] (some 5) = true := by
  decide +kernel

/-- Operands of every kind: a NaN, both infinities, zero times an infinity, finite numbers of both orders, zeros, a zero divisor and
a negative root; a sum of zero; quotients exact, halfway and between; the greatest finite code and a subnormal of a format, and in
both precisions a code with the last exponent and one without. -/
theorem witness_floatValues :
    (Val.nan true).isNan = true ∧ ((Val.num true 0 1).isZero && (Val.inf false).isInf) = true ∧
    (let md : FpMode := {}
     (fadd md 0 (.num false 3 2) (.num true 6 4)).1 = 0 ∧ fadd md 0 (.num false 1 2) (.num true 0 1) = (0x3F000000, 0) ∧
     fdiv md 0 (.num false 1 1) (.num true 2 1) = (0xBF000000, 0) ∧ md.fz = false) ∧
    signedOf true 1 * 1 < signedOf false 1 * 2 ∧ signedOf true 0 * 1 = signedOf false 0 * 1 ∧
    (∀ e ∈ ([(0, 2), (1, 2), (1, 3), (2, 3)] : List (Nat × Nat)), e.1 < e.2) ∧ roundQuot 4 false 7 1 2 = 8 ∧ roundQuot 0 true 6 1 2 = 6 ∧
    (∀ x ∈ [0, 1, 0x7F7FFFFF, 0x80000001], x < 2 ^ (8 + 23 + 1) ∧ (decodeVal 0 false (x * 2 ^ 0)).isNan = false ∧
      (decodeVal 0 false (x * 2 ^ 0)).isInf = false) ∧ kindOf 0 = some (.bin 8 23 0 true true) ∧
    (∀ x ∈ [0x7F800000, 0x7F800001, 0xFF800000, 0x80000001], x < 2 * 2 ^ (8 + 23)) ∧
    0x7F800000 / 2 ^ 23 % 2 ^ 8 = 2 ^ 8 - 1 ∧ 0x80000001 / 2 ^ 23 % 2 ^ 8 ≠ 2 ^ 8 - 1 ∧
    0x7FF0000000000000 / 2 ^ 52 % 2 ^ 11 = 2 ^ 11 - 1 ∧ 0x7FF0000000000000 < 2 * 2 ^ (11 + 52) := by
  decide +kernel

/-- A register that holds nothing and a full one; a predicate operand; a bank's first and last predicate, and one of another bank. -/
theorem witness_predicatesAndQueues :
    (alu 5 1 (.code 2) false 3).b = .code 2 ∧ 32 ∈ [0, 32, 64] ∧ 31 < 32 ∧ (63 < 96 ∧ 32 + 31 = 63) ∧ (64 < 96 ∧ 32 + 32 ≤ 64) ∧
    ({ } : QueueReg).count * ({ } : QueueReg).bytes ≤ 1024 ∧
    (withQueues.curTask.queueReg 0).count * (withQueues.curTask.queueReg 0).bytes ≤ 1024 := by
  decide +kernel

/-- Commands in an integer format with and without SAT, in a bit format and in a float format; lists of one, five and eight elements;
a task alone and one in a group. -/
theorem witness_elements :
    kindOf ({ f := 0x09, x := { (default : Vec) with sat := true } } : VecCmd).f = some (.int true 8) ∧
    (∀ op ∈ [0x90, 0x91, 0x92, 0x93, 0x94, 0x95, 0x96, 0x97, 0x98, 0x99, 0x9B, 0x9C, 0x9D, 0x9E, 0x9F, 0xB0, 0xB1],
      ({ hd := { op := op } } : VecCmd).op = op) ∧
    isFlt 0x09 = false ∧ isFlt 0 = true ∧ (default : Vec).sub = 0 ∧ ({ f := 0 } : VecCmd).readTag 0 = 0 ∧
    (VecCmd.element { hd := { op := 0x90 }, f := 0x09, x := { (default : Vec) with sat := true } } 0 0 0 0 true).2 = 0 ∧
    2 ^ 2 < [1, 2, 3, 4, 5].length ∧ [1, 2, 3, 4, 5, 6, 7, 8].length ≤ 2 ^ (2 + 1) ∧ 2 ^ 0 < [1, 2].length ∧
    (task fun t => { t with group := some 3 }).curTask.group = some 3 ∧ base.curTask.group = none ∧ 0x27 < 0x28 := by
  decide +kernel

theorem witness_PredicateResults :
    (∀ f ∈ ([.pand, .por, .pxor] : List (Short → Instr)), ok (f (short 5 1 2)) = true ∧ ok (f (short 0 1 2)) = true) ∧
    (∀ f ∈ ([.pandLong, .porLong, .pxorLong] : List (Alu → Instr)), ok (f (alu 95 1 (.code 2) false 3)) = true) ∧
    (∀ i ∈ ([.pnot (short 5 1 0), .pnotLong (alu 5 1 (.code 0)), .pmov (short 5 1 0), .pmovLong (alu 5 1 (.code 0)),
      .pmovLong (alu 32 1 (.code 0) false 1), .pmovLong (alu 5 64 (.code 0) false 2), .pset (short 5 0 0),
      .psetLong (alu 5 0 (.code 0) false 1), .psetLong (alu 5 1 (.code 0) false 2)] : List Instr), ok i = true) ∧
    base.ready [1] none = true ∧ base.ready [] (some 5) = true := by
  decide +kernel

/-- A strand inside one loop of three iterations, and one inside six. -/
def inLoop (k i : Word) : State := main fun d => { d with loops := [(k, i)] }
def fullLoops : State := main fun d => { d with loops := List.replicate 6 (3, 0) }

theorem witness_BranchResults :
    (∀ i ∈ ([.br 4, .brLong ⟨.always, 0, 0, 4⟩, .call 4, .callLong ⟨.always, 31, 0, 4⟩, .callLong ⟨.always, 0, 0, 4⟩, .brr (gen 0 1), .brr (gen 1 1),
      .ret (short 0 1 0), .retLong (gen 0 1), .loop ⟨.always, 0, 2, 4⟩, .loop ⟨.always, 0, 0, 4⟩, .rbset (gen 0 0 (.imm 7) 7),
      .rbset (gen 0 0 (.code 2) 1)] : List Instr), ok i = true) ∧
    base.ready [] (some 31) = true ∧ base.ready [1] (some 0) = true ∧ base.ready [1] none = true ∧ base.ready [2] none = true ∧
    base.ready [0] none = true ∧ base.source 1 &&& 3 = 0 ∧ (base.source 2).extractLsb' 0 32 = (3 : Word) ∧
    (base.source 0).extractLsb' 0 32 = (0 : Word) ∧ base.curStrand.loops.length < 6 ∧
    (∀ i ∈ ([.bloop 4, .bloopLong ⟨.always, 0, 0, 4⟩, .lbrk ⟨.always, 0, 0, 4⟩] : List Instr),
      ok i (inLoop 3 1) = true ∧ ok i (inLoop 3 2) = true) ∧
    (inLoop 3 1).curStrand.loops = [(3, 1)] ∧ (1 : Word) + 1 < 3 ∧ ¬((2 : Word) + 1 < 3) := by
  decide +kernel

theorem witness_ControlTraps :
    (∀ i ∈ ([.brr (gen 0 2), .ret (short 0 2 0), .retLong (gen 0 2), .loop ⟨.always, 0, 2, 4⟩, .bloop 4, .bloopLong ⟨.always, 0, 0, 4⟩,
      .lbrk ⟨.always, 0, 0, 4⟩] : List Instr), ok i = true ∧ ok i fullLoops = true) ∧
    base.source 2 &&& 3 ≠ 0 ∧ base.ready [2] (some 0) = true ∧ fullLoops.ready [2] none = true ∧ 6 ≤ fullLoops.curStrand.loops.length ∧
    (fullLoops.source 2).extractLsb' 0 32 ≠ (0 : Word) ∧ base.curStrand.loops = [] := by
  decide +kernel

/-- A debugger is attached to the task's context. -/
def attached (s : State := base) : State := s.setDie 0 { s.die 0 with dbg := { att := true, brk := true, ctx := 0 } }

theorem witness_StrandControl :
    ok (.fork (gen 0 0 (.imm 4) 1)) = true ∧ base.ready [] none = true ∧ (base.curTask.strand (unitOf 1)).live = false ∧
    (base.curStrand.pc + (base.valueB (.imm 4) <<< 2)) &&& 3 = 0 ∧ (∀ k, k < 15 → base.curStrand.pendingG (k + 1) = false) ∧
    base.curTask.stopReq = none ∧ unitOf 1 ≠ base.cur.unit ∧ unitOf 3 ≠ base.cur.unit ∧
    (∀ i ∈ ([.rdv (short 0 0 0), .rdvLong gen, .halt (short 0 0 0), .haltLong gen] : List Instr), ok i (on .vector) = true) ∧
    (∀ i ∈ ([.halt (short 0 0 0), .haltLong gen] : List Instr), ok i attached = true) ∧
    (on .vector).cur.unit ≠ .main ∧ attached.attached attached.cur.task = true ∧ base.attached base.cur.task = false ∧
    ok (.join (gen 0 0 (.code 0) 7)) = true ∧ base.curTask.late = [] ∧ base.curTask.chans.all (fun c => !c.2.faulted) = true ∧
    base.curTask.mat.late = [] ∧ (joinUnits 7).all (fun u => base.joined base.cur.task u) = true := by
  decide +kernel

/-- A header without waits, one that waits for a live strand, one for a strand that is not live, and one below its section. -/
theorem witness_SectionHeaders :
    let free : Header := ⟨1, 8, 0xFFF, 0xFFF, 0xFFF⟩
    let waits : Header := ⟨1, 8, 5, 0xFFF, 0xFFF⟩
    let two := { on .vector with cur := ⟨0, .main⟩ }
    let left (s : State) (h : Header) := (headerWaits h s.cur.unit).filter fun w => !atOrAfter (s.curTask.strand w.1).rs w.2
    ok (.sectionHeader free) = true ∧ atOrAfter 1 base.curStrand.xs = true ∧ left base free = [] ∧
    ok (.sectionHeader waits) two = true ∧ left two waits = [(.vector, 5)] ∧
    (left two waits).all (fun w => (two.curTask.strand w.1).live) = true ∧ atOrAfter 1 two.curStrand.xs = true ∧
    ok (.sectionHeader waits) = true ∧ (left base waits).any (fun w => !(base.curTask.strand w.1).live) = true ∧
    ok (.sectionHeader free) (main fun d => { d with xs := 2 }) = true ∧ atOrAfter 1 2 = false ∧
    (let s := main fun d => { d with xs := 2, sect := some (0, 0) }
     ok (.sectionHeader free) s = true ∧ s.curStrand.sect = some (0, 0) ∧ s.curStrand.pc = 0) := by
  decide +kernel

/-! ## Witnesses: queues, system, steps, spans -/

/-- A stream descriptor at offset 64 of the carve, one of 4 elements of 8 bytes from address 0x400. -/
def withDesc (s : State := base) : State := { s with cores := [(0, { pad := [(65, 4), (72, 4), (80, 8)] })] }

/-- q3 is fed by a stream. -/
def withStream : State := task fun t => t.setQueueReg 3 { bind := .stream, size := 3, prod := 4 }

theorem witness_QueueBinding :
    (∀ x ∈ [gen 64, gen 79 0 (.code 0) 0x13], ok (.qbind x) = true ∧ (base.curTask.queueReg (queueCode x.d)).bind = .unbound) ∧
    ok (.qbind (gen 64)) withQueues = true ∧ ok (.qfree (gen 64)) withQueues = true ∧
    (withQueues.curTask.queueReg (queueCode (64 : BitVec 9))).bind ≠ .unbound ∧ ok (.qstat (gen 5 64)) withQueues = true ∧
    withQueues.ready [] (some 5) = true ∧ ok (.ststop (gen 67)) withStream = true ∧
    (withStream.curTask.queueReg (queueCode (67 : BitVec 9))).bind = .stream ∧
    (let s := withDesc
     let x := gen 64 1 (.code 0) 3
     let q := s.drainIf s.cur Loc.isPad
     let p := q.popCodes [1]
     let v := q.source 1
     let ws := (p.core p.curTask.core).pad.words (p.curTask.carve + v.toNat) 8
     ok (.stbind x) s = true ∧ q.ready [1] none = true ∧ (p.core 0).badAt (p.curTask.carve + v.toNat) 64 = false ∧ (p.curTask.queueReg (queueCode x.d)).bind = .unbound ∧ v.toNat % 64 = 0 ∧
     v.toNat < p.curTask.hdr.cs ∧ (p.core p.curTask.core).zeroingAt (p.curTask.carve + v.toNat) 64 = false ∧
     p.scalarWaits (p.curTask.carve + v.toNat) 64 false = [] ∧ descOk ws = true ∧ ws ≠ [0, 0, 0, 0, 0, 0, 0, 0] ∧
     ((descAddrs ws).all fun v => v % 2 ^ (x.fn.toNat % 4) == 0) = true ∧ (p.curTask.chan 0).faulted = false ∧
     (p.curTask.chan 0).stream = none) := by
  decide +kernel

theorem witness_SystemTraps :
    (∀ b ∈ [Src.code 2, .imm 5], ∀ f ∈ ([.sys, .trap, .brk] : List (Gen → Instr)), ok (f (gen 0 0 b)) = true ∧
      base.ready (Src.codes b) none = true) ∧
    ok (.eret gen) = true ∧ base.curStrand.tpc &&& 3 = 0 ∧ ok (.eret gen) (main fun d => { d with tpc := 2 }) = true ∧
    (main fun d => { d with tpc := 2 }).curStrand.tpc &&& 3 ≠ 0 ∧ ok (.brk (gen 0 0 (.imm 5))) attached = true ∧
    attached.attached attached.cur.task = true ∧ base.attached base.cur.task = false := by
  decide +kernel

/-- A table whose entry 2 holds the reserved policy in g8, g9, and one without. -/
theorem witness_SpecialRegisters :
    (∀ n ∈ ([0, 1, 2, 3, 4, 5, 0x10, 0x20, 0x25, 0x30, 0x33, 0x40, 0x41, 0x100, 0x127] : List (BitVec 9)),
      ok (.csrr (gen 5 0 (.code 0) n)) = true) ∧ base.ready [] (some 5) = true ∧
    (∀ n ∈ ([0, 1, 2, 3, 0x10, 0x20, 0x21, 0x22, 0x23, 0x24, 0x25] : List (BitVec 9)), ok (.csrw (gen 0 0 (.code 2) n)) = true) ∧
    base.ready [2] none = true ∧ ok (.ovtld (gen 0 8)) = true ∧ base.ready [8, 9] none = true ∧
    (∀ j, j < 64 → ovfEntry (base.source 9 ++ base.source 8) j ≠ 3) ∧
    (let s := main fun d => { d with g := [(8, 0x30)] }
     ok (.ovtld (gen 0 8)) s = true ∧ s.ready [8, 9] none = true ∧ ovfEntry (s.source 9 ++ s.source 8) 2 = 3 ∧
     ∀ k, k < 2 → ovfEntry (s.source 9 ++ s.source 8) k ≠ 3) := by
  decide +kernel

/-- The task has an open step. -/
def inStep (g : Assoc DWord := []) : State :=
  task fun t => { t with step := some ⟨1, false, 100⟩, main := { t.main with g } }

/-- `cpmark.end` is admitted and ready with a timeline in g1. -/
def endsStep (v : DWord) : Bool :=
  let s := inStep [(1, v)]
  let p := s.popCodes [1]
  ok (.cpmarkEnd (gen 0 1 (.code 0) 2)) s && s.ready [1] none && p.curTask.step == some ⟨1, false, 100⟩ && s.source 1 == v &&
    decide ((p.die 0).walks.length < 16)

theorem witness_StepMarks :
    ok (.cpmarkBeg (gen 5 0 (.code 0) 1)) = true ∧ base.ready [] (some 5) = true ∧ base.curTask.step = none ∧
    ok (.cpmarkBeg (gen 5 0 (.code 0) 1)) inStep = true ∧ inStep.curTask.step ≠ none ∧
    endsStep 0 = true ∧ endsStep 0x100 = true ∧ endsStep 4 = true ∧ endsStep 0x0100000000000000 = true ∧
    canonical 0x100 = true ∧ canonical 0x0100000000000000 = false ∧ (4 : DWord) &&& 7 ≠ 0 ∧
    ok (.cpmarkEnd (gen 0 1 (.code 0) 2)) = true ∧
    (let s := inStep [(1, 0)]
     let s := s.setDie 0 { s.die 0 with walks := List.replicate 16 { step := 1, fin := 0, tl := 0 } }
     ok (.cpmarkEnd (gen 0 1 (.code 0) 2)) s = true ∧ s.ready [1] none = true ∧ 16 ≤ ((s.popCodes [1]).die 0).walks.length) ∧
    ok (.tmark (gen 0 1 (.imm 5) 7)) = true ∧ base.ready [1] none = true ∧ ok (.ccnt (short 5 0 0)) = true ∧
    ok (.ccntLong (alu 5 0 (.code 0) false 1)) = true := by
  decide +kernel

theorem witness_TranslationInvalidation :
    base.reqs = [] ∧ ok (.tlbinv (gen 0 1)) = true ∧ base.ready [1] none = true ∧ canonical (base.source 1) = true ∧
    ok (.tlbinv (gen 0 0 (.code 0) 2)) = true ∧ base.ready [] none = true ∧
    (∀ b ∈ [Src.code 2, .code 0, .imm 7], ok (.tlbinv (gen 0 1 b 1)) = true ∧ base.ready (1 :: Src.codes b) none = true) ∧
    base.valueB (.code 0) = 0 ∧ base.valueB (.code 2) ≠ 0 ∧
    canonical ((main fun d => { d with g := [(1, 0x0100000000000000)] }).source 1) = false ∧
    (let e : TlbEntry := ⟨0, 0, 0x4000F, 16⟩
     e.inPages 0 0 0 = true ∧ e.inPages 0 1 1 = false ∧ pageRanges 64 3 = [(0, 0)] ∧ pageRanges 64 0 = [] ∧
     canonical 0xFFC0000000000000 = true ∧ vpnOf 64 = 0) := by
  decide +kernel

/-- Span 4 holds 8 elements of tag 0 with stride 1, span 5 a stride of 2, span 6 elements of 4 bits with stride 1, span 7 a reserved
tag. -/
def withSpans (s : State := base) : State := task (fun t => { t with spans :=
  [(4, setField (setField 0 18 16 1) 34 16 8), (5, setField (setField 0 18 16 2) 34 16 8),
   (6, setField (setField (setField 0 18 16 1) 34 16 8) 50 6 8), (7, setField (setField (setField 0 18 16 1) 34 16 8) 50 6 0x3F)] }) s

theorem witness_SpanRegisters :
    let s := withSpans
    ok (.sdef (gen 4 1)) = true ∧ base.ready [1] none = true ∧
    (∀ f ∈ [0, 1, 2, 3, 4], ok (.sset (gen 4 0 (.code 2) f)) = true ∧ ok (.sget (gen 5 4 (.code 0) f)) = true) ∧
    ok (.sget (gen 5 4 (.code 0) 7)) = true ∧ base.ready [2] none = true ∧ base.ready [] (some 5) = true ∧
    ok (.sadv (gen 4 0 (.imm 3) 0)) s = true ∧ ok (.sadv (gen 4 0 (.code 2) 1)) s = true ∧ reservedTag (spTag (s.readSpan 4)) = false ∧
    ((s.valueB (.imm 3)).toInt * spStride (s.readSpan 4) * (elemBits (spTag (s.readSpan 4)) : Nat)) % 8 = 0 ∧
    reservedTag (spTag (s.readSpan 6)) = false ∧
    ((s.valueB (.imm 3)).toInt * spStride (s.readSpan 6) * (elemBits (spTag (s.readSpan 6)) : Nat)) % 8 ≠ 0 ∧
    ok (.sfmt (gen 7 4 (.code 0) 1)) s = true ∧ spStride (s.readSpan 4) = 1 ∧ spCount (s.readSpan 4) = 8 ∧
    spCount (s.readSpan 4) * elemBits (spTag (s.readSpan 4)) % elemBits 1 = 0 ∧
    spCount (s.readSpan 4) * elemBits (spTag (s.readSpan 4)) / elemBits 1 ≤ 65535 ∧
    ok (.sfmt (gen 7 5 (.code 0) 1)) s = true ∧ spCount (s.readSpan 5) ≠ 0 ∧ spStride (s.readSpan 5) ≠ 1 ∧
    ok (.sfmt (gen 7 8 (.code 0) 1)) s = true ∧ spCount (s.readSpan 8) = 0 ∧ ok (.sfmt (gen 8 7 (.code 0) 1)) s = true ∧
    ok (.sadv (gen 7 0 (.imm 3) 0)) s = true ∧ s.ready (Src.codes (.imm 3)) none = true ∧ reservedTag (spTag (s.readSpan 7)) = true ∧
    spStride (s.readSpan 7) = 1 ∧ spCount (s.readSpan 7) ≠ 0 ∧ ok (.sfmt (gen 8 6 (.code 0) 0)) (task fun t => { t with spans :=
      [(6, setField (setField (setField 0 18 16 1) 34 16 3) 50 6 8)] }) = true := by
  decide +kernel

/-! ## Witnesses: memory -/

def mem (d a : BitVec 9) (b : BitVec 9 := 0x1FF) (ord : BitVec 2 := 0) (off : BitVec 11 := 0) : Mem :=
  ⟨.always, d, a, b, false, ord, 0, 3, off⟩
def amo (d a : BitVec 9) (b : BitVec 9 := 0x1FF) (func : BitVec 4 := 0) : Amo := ⟨.always, d, a, b, false, 3, 0, 3, func, 0⟩

/-- The physical address that the strand's access to an address gives, if it translates. -/
def phys (s : State) (va : DWord) (write host : Bool) : Option Nat :=
  match (s.translate (s.strandAccess write host) va).1 with
  | .ok pa _ => some pa
  | _ => none

/-- The first byte, the last aligned word of each memory, and a member. -/
theorem witness_Scratchpad :
    (∀ off ∈ ([0, 119] : List (BitVec 11)), ok (.ldp (mem 5 1 0x1FF 0 off)) = true ∧ ok (.stp (mem 5 1 0x1FF 0 off)) = true ∧
      (base.padPlace .p 0 (base.accessAddress .p 1 0x1FF (off.signExtend 64) 8) 8 true).isSome = true) ∧
    (∀ off ∈ ([0, 503] : List (BitVec 11)), ok (.lds (mem 5 1 0x1FF 1 off)) = true ∧ ok (.sts (mem 5 1 0x1FF 2 off)) = true ∧
      (base.padPlace .s 0 (base.accessAddress .s 1 0x1FF (off.signExtend 64) 8) 8 true).isSome = true) ∧
    (base.padPlace .s 0 4096 8 true) = none ∧ (base.padPlace .p 0 1024 8 true) = none ∧ (base.padPlace .s 0 4 8 true) = none ∧
    ok (.ldn (mem 5 1 0)) = true ∧ ok (.stn (mem 5 1 0)) = true ∧
    (base.padPlace .n (base.memberOf 0) (base.accessAddress .n 1 0 0 8) 8 true).isSome = true ∧
    base.ready (indexedCodes 1 0x1FF) (some 5) = true ∧ base.ready (indexedCodes 1 0x1FF ++ [5]) none = true ∧
    base.ready (indexedCodes 1 0) (some 5) = true ∧ base.ready (indexedCodes 1 0 ++ [5]) none = true ∧
    (∀ k ∈ [Scope.core, .die, .dev, .sys], base.flushDone true k = true ∧ base.flushDone false k = true) ∧
    (base.storeIssue (indexedCodes 1 0x1FF) 5).isSome = true ∧ base.curStrand.calm = true ∧ base.defer = false ∧ base.late = false ∧
    (let s := main fun d => { d with popped := some 7 }
     ok (.sts (mem 5 1)) s = true ∧ (s.storeIssue (indexedCodes 1 0x1FF) 5).map (·.1) = some 7) ∧
    ({ base with defer := true, late := true }).late = true ∧
    (∀ f ∈ ([0, 2, 9] : List (BitVec 4)), ok (.ams (amo 6 1 0x1FF f)) = true ∧ ok (.amn (amo 6 1 0 f)) = true) ∧
    base.ready (indexedCodes 1 0x1FF ++ [6, 7]) (some 6) = true ∧ base.ready (indexedCodes 1 0 ++ [6]) (some 6) = true := by
  decide +kernel

/-- Page 0 is mapped. The private memory beyond the scratchpad lies at an overflow address in it. -/
theorem witness_Device :
    let s := task fun t => { t with povf := 0x1000 }
    let p := main (fun d => { d with g := [(1, 1024)] }) s
    ok (.ldg (mem 5 1)) = true ∧ ok (.stg (mem 5 1)) = true ∧ base.deviceAddress .g (base.indexedAddress 1 0x1FF 0 8) = some 64 ∧
    phys base 64 false false = some 0x40040 ∧ phys base 64 true false = some 0x40040 ∧
    (let s1 := (base.translate (base.strandAccess false false) 64).2
     s1.meetsBad true false 0 0 0x40040 8 false = false ∧ s1.flushDone true .dev = true ∧ s1.curStrand.calm = true ∧ s1.defer = false) ∧
    (base.storeIssue (indexedCodes 1 0x1FF) 5).isSome = true ∧ base.ready (indexedCodes 1 0x1FF) (some 5) = true ∧
    (let s1 := (base.translate (base.strandAccess true false) 64).2
     s1.meetsBad false true 0 0 0x40040 8 false = false ∧ s1.meetsBad true true 0 0 0x40040 8 false = false ∧
     s1.flushDone true .dev = true ∧ s1.mem.wf = true) ∧
    ok (.ldp (mem 5 1)) p = true ∧ ok (.stp (mem 5 1)) p = true ∧ p.deviceAddress .p (p.indexedAddress 1 0x1FF 0 8) = some 0x1000 ∧
    phys p 0x1000 false false = some 0x41000 ∧
    (∀ f ∈ ([0, 2] : List (BitVec 4)), ok (.amg (amo 6 1 0x1FF f)) = true) ∧
    base.ready (indexedCodes 1 0x1FF ++ [6]) (some 6) = true ∧ base.ready (indexedCodes 1 0x1FF ++ [6, 7]) (some 6) = true := by
  decide +kernel

/-- The host port and a peer port are open, and aperture 1 reaches 4 KiB of card 1. -/
def linked (s : State := base) : State :=
  { (s.setPort 0 { state := .up }).setPort 1 { state := .degraded } with
    contexts := [(0, { s.ctx 0 with apertures := [(1, { valid := true, w := true, card := 1, size := 4096, tbase := 0x2000 })] })] }

/-- The same with page 0 a page of the host. -/
def hosted : State := let s := linked; { s with mem := s.mem.setNat 0x60000 8 (0xF + 0x40000 + 0x10) }

theorem witness_LinkRequests :
    let s := linked
    let ap := Assoc.getD s.curCtx.apertures 1 {}
    s.noRequest = true ∧ s.curStrand.held = none ∧ s.flushDone true .sys = true ∧ (s.storeIssue [1] 5).isSome = true ∧ (s.baseAddress 1 0 8).toNat % 8 = 0 ∧ ap.valid = true ∧ ap.w = true ∧
    (s.baseAddress 1 0 8).toNat + 8 ≤ ap.size.toNat ∧ (s.port ap.portNo).state = .degraded ∧
    ok (.ldx (mem 5 1 1)) s = true ∧ ok (.stx (mem 5 1 1)) s = true ∧ s.ready [1] (some 5) = true ∧ s.ready [1, 5] none = true ∧
    ok (.amx (amo 6 1 1 0)) s = true ∧ ok (.amx (amo 6 1 1 2)) s = true ∧ (linkAtomic 0).isSome = true ∧ (linkAtomic 2).isSome = true ∧
    s.ready [1, 6] (some 6) = true ∧ s.ready [1, 6, 7] (some 6) = true ∧
    ok (.amx (amo 6 1 1 9)) s = true ∧ linkAtomic 9 = none ∧ ok (.amh (amo 6 1 0x1FF 9)) s = true ∧
    (let h := hosted
     ok (.ldh (mem 5 1)) h = true ∧ ok (.sth (mem 5 1)) h = true ∧ phys h 64 false true = some 0x40040 ∧
     phys h 64 true true = some 0x40040 ∧ ((h.translate (h.strandAccess true true) 64).2.port 0).state = .up ∧
     (h.translate (h.strandAccess true true) 64).2.flushDone true .sys = true ∧ (h.storeIssue (indexedCodes 1 0x1FF) 5).isSome = true ∧
     ok (.amh (amo 6 1)) h = true ∧ h.ready (indexedCodes 1 0x1FF ++ [6]) (some 6) = true ∧
     h.ready (indexedCodes 1 0x1FF) (some 5) = true ∧ h.ready (indexedCodes 1 0x1FF ++ [5]) none = true) := by
  decide +kernel

def held (h : Held) (s : State := linked) : State := main (fun d => { d with held := some h }) s

theorem witness_LinkCompletions :
    (∀ i ∈ ([.ldx (mem 5 1 1), .ldh (mem 5 1)] : List Instr), ok i (held (.value 7)) = true ∧ ok i (held (.trap 22 7)) = true) ∧
    (∀ i ∈ ([.stx (mem 5 1 1), .sth (mem 5 1)] : List Instr), ok i (held .done) = true) ∧
    (∀ i ∈ ([.amx (amo 6 1 1), .amh (amo 6 1)] : List Instr), ok i (held (.value 7)) = true) ∧
    (held (.value 7)).noRequest = true ∧ (held (.value 7)).ready [1] (some 5) = true ∧ (held .done).ready [1, 5] none = true ∧
    ((held .done).storeIssue [1] 5).isSome = true ∧ ((held (.trap 22 7)).storeIssue (indexedCodes 1 0x1FF) 5).isSome = true ∧
    (∀ i ∈ ([.stx (mem 5 1 1), .sth (mem 5 1), .amx (amo 6 1 1), .amh (amo 6 1)] : List Instr), ok i (held (.trap 22 7)) = true) ∧
    (held (.value 7)).ready [1, 6] (some 6) = true ∧ (held (.trap 22 7)).curStrand.held = some (.trap 22 7) := by
  decide +kernel

theorem witness_OrderingMarkers :
    (∀ f ∈ ([0, 4] : List (BitVec 9)), ok (.qmark (gen 0 0 (.code 0) f)) = true ∧ ok (.rfence (gen 0 1 (.code 0) f)) = true ∧
      ok (.rfence (gen 0 0 (.code 0) (f + 8))) = true) ∧ base.ready [1] none = true ∧ base.ready [] none = true ∧
    (∀ k ∈ [Scope.core, .die, .dev, .sys], base.flushDone true k = true) ∧
    ok (.cflush ⟨.always, 0, 1, 0, false, 0, 0, 0, 0⟩) = true ∧ (base.source 0).toNat = 0 ∧ base.ready (indexedCodes 1 0) none = true ∧
    ok (.cflush ⟨.always, 0, 1, 2, false, 0, 0, 1, 0⟩) = true ∧ (base.source 2).toNat ≠ 0 ∧
    ok (.cflush ⟨.always, 0, 1, 0x1FF, false, 0, 0, 0, 0⟩) = true ∧ ok (.pfch ⟨.always, 0, 1, 0x1FF, false, 0, 0, 1, 0⟩) = true ∧
    base.ready (indexedCodes 1 0x1FF) none = true ∧ canonical (base.source 1 + 0) = true ∧
    (let s := main fun d => { d with g := [(1, 0x0100000000000000)] }
     ok (.cflush ⟨.always, 0, 1, 0x1FF, false, 0, 0, 0, 0⟩) s = true ∧ canonical (s.source 1) = false) := by
  decide +kernel

/-! ## Witnesses: timelines, barriers, transfers -/

/-- The main strand waits on the timeline at 64 for the value 3, in the monitor of its home. -/
def waiting (released : Option (DWord × Party)) (poisoned : Bool := false) : State :=
  let s := main fun d => { d with state := .stalled, wait := some { why := .timeline 64 3, since := 4000 } }
  let k := Config.homeDie 0x40040
  s.setDie k { s.die k with monitor := [{ addr := 0x40040, threshold := 3, task := 0, released, poisoned }] }

theorem witness_Timelines :
    let x := gen 5 1 (.code 2)
    (∀ f ∈ ([.tlwait, .tlinc] : List (Gen → Instr)), ok (f x) = true) ∧ ok (.tlread (gen 5 1)) = true ∧ ok (.tlset (gen 0 1 (.imm 9))) = true ∧
    base.ready [1, 2] (some 5) = true ∧ base.ready [1] (some 5) = true ∧ base.ready [1] none = true ∧
    (base.curStrand.wait.any fun w => w.why == .timeline 64 3) = false ∧
    (base.timelineAt 64 false).map (·.1) = some 0x40040 ∧ (base.timelineAt 64 true).map (·.1) = some 0x40040 ∧
    ((base.timelineAt 64 true).any fun e => e.2.flushDone true .sys) = true ∧
    ok (.tlwait (gen 5 1 (.imm 0))) = true ∧ (base.mem.word 0x40040).toNat < 3 ∧
    (let s := { base with mem := base.mem.setNat 0x40040 8 (2 ^ 64 - 1) }
     (s.timelineAt 64 true).map (·.1) = some 0x40040 ∧ 2 ^ 64 ≤ (s.mem.word 0x40040).toNat + (base.valueB (.code 2)).toNat) ∧
    ok (.tlwait x) (waiting (some (5, 7))) = true ∧ ((waiting none).curStrand.wait.any fun w => w.why == .timeline 64 3) = true ∧
    ((waiting (some (5, 7))).monitorOf 0).map (·.released) = some (some (5, 7)) ∧ ((waiting none).monitorOf 0).map (·.released) = some none ∧
    ((waiting none true).monitorOf 0).map (·.poisoned) = some true ∧ ((waiting none).monitorOf 0).map (·.poisoned) = some false ∧
    (waiting none).ready [1, 2] (some 5) = true := by
  decide +kernel

/-- The main strand waits for phase 0 of barrier 12, with bytes expected. -/
def atBarrier (h : Option Held := none) : State :=
  main fun d => { d with state := .stalled, held := h, wait := some { why := .barrier 12 0 true, since := 4000 } }

/-- A count of the group's size and one above it; a barrier of `barx` at 12 and below it. -/
theorem witness_GroupBarriers :
    (∀ x ∈ [gen 0 0 (.imm 3) 0, gen 0 0 (.imm 3) 16, gen 0 0 (.imm 3) 32], ok (.bar x) = true) ∧
    (∀ x ∈ [gen 0 1 (.imm 12) 16, gen 0 0 (.imm 12) 0, gen 0 1 (.imm 11) 0], ok (.barx x) = true) ∧
    base.curStrand.wait = none ∧ base.ready [] none = true ∧ base.ready [1] none = true ∧ base.curTask.gsize = 1 ∧
    (∀ k ∈ [Scope.core, .die, .dev, .sys], base.flushDone true k = true) ∧
    ((task fun t => t.setChan 0 { faulted := true }).curTask.chan 0).faulted = true ∧
    ¬(base.curTask.gsize < 16 / 16) ∧ base.curTask.gsize < 32 / 16 ∧ (base.valueB (.imm 11)).toNat % 16 < 12 ∧
    (∀ i ∈ ([.bar (gen 0 0 (.imm 12)), .barx (gen 0 1 (.imm 12))] : List Instr), ok i atBarrier = true ∧ ok i (atBarrier (some .done)) = true) ∧
    (atBarrier.curStrand.wait.map (·.why)) = some (.barrier 12 0 true) ∧ (atBarrier.curTask.chan 0).faulted = false := by
  decide +kernel

/-- Channel 0 has issued 5 transfers and done 3; channel 1 is Faulted at its transfer 4. -/
def moving : State := task fun t => (t.setChan 0 { issued := 5, done := 3 }).setChan 1 { issued := 5, done := 3, faulted := true, fid := 4 }

theorem witness_TransferWaits :
    (∀ b ∈ [Src.imm 3, .imm 4, .imm 5, .imm 6], ok (.cwait (gen 0 0 b)) moving = true ∧ ok (.cwait (gen 0 0 b 1)) moving = true) ∧
    moving.ready [] none = true ∧ moving.ready [] (some 5) = true ∧
    (∀ f ∈ ([0, 4, 8, 12, 1, 13] : List (BitVec 9)), ok (.cpstat (gen 5 0 (.code 0) f)) moving = true) ∧
    (moving.curTask.chan 0).done = 3 ∧ (moving.curTask.chan 0).issued = 5 ∧ (moving.curTask.chan 1).faulted = true ∧
    ((3 : Word) - 3).toNat < 2 ^ 31 ∧ ¬(((3 : Word) - 4).toNat < 2 ^ 31) ∧ ((5 : Word) - 5).toNat < 2 ^ 31 ∧
    ¬(((5 : Word) - 6).toNat < 2 ^ 31) ∧ ((4 : Word) - 4).toNat < 2 ^ 31 := by
  decide +kernel

/-! ## Witnesses: launches, tiles, residency, the end of a task -/

/-- A residency entry of task 0 for record 7 and key 0, its offset 64 and length 128. -/
def resident : State := { base with cores := [(0, { residency := [(0, { state := .owned, record := 7, ver := 3, off := 64, len := 128, order := 1 })] })] }

/-- g6 names record 7 and key 0; g7 a version of 3; g8 a range of 64 bytes from 32. -/
def declaring (s : State := base) : State := main (fun d => { d with g := [(6, 7), (7, 3), (8, 32 + 64 * 2 ^ 32)] }) s

def full : State := { declaring with cores := [(0, { residency := (List.range 64).map fun k => (k, { state := .owned, record := 9, order := k }) })] }

theorem witness_TilesAndResidency :
    ok (.tlnext (gen 4)) = true ∧ base.ready [] (some 4) = true ∧ base.curStrand.pendingG 5 = false ∧ base.curTask.taken = true ∧
    (task fun t => { t with taken := false }).curTask.taken = false ∧
    (let x := gen 4 6 (.code 8)
     let s := declaring
     ok (.rsdecl x) s = true ∧ s.ready [6, 7, 8] (some 4) = true ∧ bitsOf (s.valueB x.b) 0 18 = 32 ∧ bitsOf (s.valueB x.b) 32 19 = 64 ∧
     32 + 64 ≤ s.curTask.hdr.cs ∧ s.writersOf 0 (s.curTask.carve + 32) 64 = [] ∧ (s.declare 0 7 0 3 32 64).isSome = true ∧
     ok (.rsdecl x) full = true ∧ (full.declare 0 7 0 3 32 64) = none) ∧
    (let s := declaring resident
     ok (.rsdrop (gen 0 0 (.code 0) 1)) s = true ∧ ok (.rsdrop (gen 0 6)) s = true ∧ s.ready [6] none = true ∧
     ok (.rsread (gen 4 6)) s = true ∧ s.ready [6, 7] (some 4) = true ∧ s.curStrand.pendingG 5 = false ∧
     ((s.core 0).residency.map fun e => e.2.isOf 0 7 0 && e.2.ver == 3) = [true] ∧ ok (.rsread (gen 4 6)) = true ∧
     (base.core 0).residency = []) := by
  decide +kernel

/-- A code object at 0x800 of 8 granules, 1 KiB of private memory, one task a group and entry 256, and a record for it at 64 that
names 4 tasks. -/
def withCode : State := { base with
  mem := ((((base.mem.setNat 0x40800 8 (1 + 8 * 2 ^ 24 + 8 * 2 ^ 32 + 2 * 2 ^ 48 + 2 ^ 56)).setNat 0x40808 8 256).setNat 0x40040 8 0x800).setNat 0x40048
    8 (4 * 2 ^ 32)) }

theorem witness_DeviceLaunch :
    let x := gen 5 1 (.code 0) 1
    let s1 := (withCode.translate (withCode.strandAccess false false) 64).2
    ok (.launch x) withCode = true ∧ withCode.ready [1] (some 5) = true ∧ withCode.source 1 &&& 63 = 0 ∧ base.source 2 &&& 63 ≠ 0 ∧
    ok (.launch (gen 5 2 (.code 0) 1)) = true ∧ phys withCode 64 false false = some 0x40040 ∧ s1.isBad 0x40040 64 = false ∧
    (s1.queue 0).state = .ready ∧ (s1.queue 0).ctx = s1.curTask.ctx ∧ (s1.queue 1).state = .free ∧
    ok (.launch (gen 5 1 (.imm 1))) withCode = true ∧
    (match (s1.acceptLaunch 0 (some (s1.mem.words 0x40040 8)) (s1.strandParty s1.cur) none).1 with | .ok n => n | .error _ => 9) = 0 ∧
    (match (s1.acceptLaunch 0 (some (s1.mem.words 0x40040 8)) (s1.strandParty s1.cur) none).2.launches with
      | [l] => l.2.count | _ => 0) = 4 := by
  decide +kernel

/-- The task of the code object at 0x800, whose address g1 holds. -/
def succ (g1 : DWord := 0x800) : State :=
  task (fun t => { t with
    hdr := { gran := 8, cs := 8 * granule - 1024, ps := 1024, slots := 2, acc := 1 }, main := { t.main with g := [(1, g1), (2, 3)] } }) withCode

/-- A queued `cpy` of task 0 that uses the carve, its channel Faulted or not, or that has finished with the carve. -/
def usingCarve (faulted off : Bool := false) : State :=
  task fun t => t.setChan 0 { faulted, cmds := [{ hd := { off, reads := [.pad 0 64] } }] }

theorem witness_TaskEnds :
    let l : LateTrap := ⟨{}, 14, 7⟩
    ok (.exit gen) = true ∧ base.curTask.engineLive = false ∧ ({ on .vector with cur := ⟨0, .main⟩ }).curTask.engineLive = true ∧
    ok (.exit gen) { on .vector with cur := ⟨0, .main⟩ } = true ∧ base.curTask.late = [] ∧ base.curTask.mat.late = [] ∧
    (task fun t => { t with late := [l] }).curTask.late = [l] ∧ (task fun t => { t with mat := { late := [l] } }).curTask.mat.late = [l] ∧
    base.carveUsers 0 = false ∧ usingCarve.carveUsers 0 = true ∧ (usingCarve false true).carveUsers 0 = false ∧
    (((usingCarve true).curTask.chans.find? fun c => c.2.faulted && c.2.cmds.any fun k => k.hd.usesCarve).map (·.1)) = some 0 ∧
    (usingCarve.curTask.chans.find? fun c => c.2.faulted && c.2.cmds.any fun k => k.hd.usesCarve) = none ∧
    (let x := gen 0 1 (.code 2) 1
     let q := succ.drainTask 0
     let o := match (q.devRead q.tableAccess 0x800 32).1 with | .ok ws => parseHeader ws | _ => none
     ok (.exitSucc x) succ = true ∧ succ.ready [1, 2] none = true ∧ succ.source 1 &&& 0xFF = 0 ∧ o.map (·.hdr) = some q.curTask.hdr ∧
     o.map (·.gsize) = some q.curTask.gsize ∧ o.map (·.entry) = some 256 ∧ base.source 1 &&& 0xFF ≠ 0 ∧
     (match (((succ 0x900).drainTask 0).devRead ((succ 0x900).drainTask 0).tableAccess 0x900 32).1 with
       | .ok ws => parseHeader ws | _ => none) = none ∧
     (((succ 0x0100000000000000).drainTask 0).devRead ((succ 0x0100000000000000).drainTask 0).tableAccess 0x0100000000000000 32).1 = .bad ∧
     (match (((succ 0x900000).drainTask 0).devRead ((succ 0x900000).drainTask 0).tableAccess 0x900000 32).1 with
       | .wait _ => true | _ => false) = true ∧
     (match ((withCode.drainTask 0).devRead (withCode.drainTask 0).tableAccess 0x800 32).1 with | .ok ws => (parseHeader ws).map (·.hdr) | _ => none) ≠
       some (withCode.drainTask 0).curTask.hdr) := by
  decide +kernel

/-! ## Witnesses: engine instructions -/

/-- A span of a tag, of `n` elements with stride 1, at a base. -/
def span (tag base n : Nat) : DWord := BitVec.ofNat 64 (base + 2 ^ 18 + n * 2 ^ 34 + tag * 2 ^ 50)

/-- Spans 0 to 2 of 32 FP32 elements; 3 of 32 bits; 4, 5 and 9 of 32 integers; 6, 7 of two and one FP32; 8 of one scale; 10 of one
integer; 11 misaligned; 12 past the carve; 13 empty. -/
def vec (u : UnitId := .main) (s : State := base) : State := on u (task (fun t => { t with spans :=
  [(0, span 0 0 32), (1, span 0 0x100 32), (2, span 0 0x200 32), (3, span 0x1D 0x300 32), (4, span 0x18 0x400 32), (5, span 0x18 0x500 32),
   (6, span 0 0x600 2), (7, span 0 0x680 1), (8, span 0x0A 0x6C0 1), (9, span 0x18 0x700 32), (10, span 0x18 0x7C0 1), (11, span 0 2 32),
   (12, span 0 4096 32), (13, span 0 0 0)] }) s)

def v (d a : BitVec 9) (b : BitVec 9 := 0) (mask : BitVec 9 := 0x1FF) (sub : BitVec 4 := 0) : Vec :=
  ⟨.always, d, a, .code b, sub, false, false, 0, mask⟩

/-- The command passes every row of Table 6-3, waits for nothing, and has room. -/
def passes (op : Nat) (x : Vec) (s : State := vec) : Bool :=
  let q := s.drainIf s.cur Loc.isPad
  let c := q.captureVec op x
  ((q.vecRows c []).all Option.isNone) && c.n != 0 && (q.olderWriters (q.checkedBytes c)).isEmpty && q.hasRoom (q.core 0).vq.length &&
    (let e := q.vecSets (q.withScales c); q.lateOf e.1 e.2).isNone

/-- A completed command of the vector engine that wrote the whole carve has left a trap. -/
def trapped (s : State := vec) : State := task (fun t => { t with late := [⟨{ id := 7, task := 0, op := 0x90, writes := [.pad 0 4096] }, 14, 7⟩] }) s

theorem witness_VectorIssue :
    (∀ e ∈ ([(.vadd, 0x90), (.vsub, 0x91), (.vmul, 0x92), (.vfma, 0x93), (.vmin, 0x94), (.vmax, 0x95)] : List ((Vec → Instr) × Nat)),
      ok (e.1 (v 0 1 2)) vec = true ∧ passes e.2 (v 0 1 2) = true) ∧
    (∀ e ∈ ([(.vabs, 0x96), (.vneg, 0x97), (.vexp, 0xA1), (.vexp2, 0xA2), (.vlog, 0xA3), (.vlog2, 0xA4), (.vrcp, 0xA5), (.vrsq, 0xA6),
      (.vsqrt, 0xA7), (.vtanh, 0xA8), (.vsigm, 0xA9), (.vscan, 0xAB), (.vmov, 0xB0)] : List ((Vec → Instr) × Nat)),
      ok (e.1 (v 0 1)) vec = true ∧ passes e.2 (v 0 1) = true) ∧
    (∀ e ∈ ([(.vand, 0x9B), (.vor, 0x9C), (.vxor, 0x9D), (.vshl, 0x9E), (.vshr, 0x9F), (.vhash, 0xB3)] : List ((Vec → Instr) × Nat)),
      ok (e.1 (v 4 5 9)) vec = true ∧ passes e.2 (v 4 5 9) = true) ∧
    (∀ e ∈ ([(.vperm, 0xAD), (.vgath, 0xAE), (.vscat, 0xAF)] : List ((Vec → Instr) × Nat)),
      ok (e.1 (v 0 1 4)) vec = true ∧ passes e.2 (v 0 1 4) = true) ∧
    (∀ e ∈ ([(.vcmp (v 3 1 2), 0x98, v 3 1 2), (.vsel (v 0 1 2 3), 0x99, v 0 1 2 3), (.vcvt (v 0 4), 0x9A, v 0 4),
      (.vclamp (v 0 1 6), 0xA0, v 0 1 6), (.vred (v 7 1), 0xAA, v 7 1), (.vdot (v 7 1 2), 0xAC, v 7 1 2), (.visect (v 10 4 5), 0xB2, v 10 4 5),
      (.vcnt (v 10 3), 0xB4, v 10 3), (.vcmpr (v 0 1 0 3), 0xB5, v 0 1 0 3), (.vscale (v 0 1 8), 0xB6, v 0 1 8)] : List (Instr × Nat × Vec)),
      ok e.1 vec = true ∧ passes e.2.1 e.2.2 = true) ∧
    (let c := trapped.captureVec 0x90 (v 0 1 2)
     let e := trapped.vecSets (trapped.withScales c)
     ok (.vadd (v 0 1 2)) trapped = true ∧ (trapped.lateOf e.1 e.2).map (·.1.cause) = some 14 ∧
       (let c := trapped.captureVec 0xB1 (v 0 2)
        let e := trapped.vecSets (trapped.withScales c)
        (trapped.lateOf e.1 e.2).map (·.1.cause) = some 14)) ∧
    vec.curStrand.wait = none ∧ ok (.vfill (v 0 2)) vec = true ∧ passes 0xB1 (v 0 2) = true ∧ vec.ready [2] none = true ∧
    ok (.vfill { v 0 0 with b := .lit 7 }) vec = true ∧ passes 0xB1 { v 0 0 with b := .lit 7 } = true := by
  decide +kernel

/-- The first row that fails: the format row, the alignment row, the range row; an empty span; and a held command that is done or
has trapped. -/
theorem witness_VectorTraps :
    ((vec.vecRows (vec.captureVec 0x90 (v 0 4 2)) []).map (·.map (·.1))).take 3 = [none, none, some 25] ∧
    ((vec.vecRows (vec.captureVec 0x90 (v 0 11 2)) []).map (·.map (·.1))).take 4 = [none, none, none, some 13] ∧
    ((vec.vecRows (vec.captureVec 0x90 (v 0 12 2)) []).map (·.map (·.1))).take 6 = [none, none, none, none, none, some 15] ∧
    (vec.captureVec 0x90 (v 13 13 13)).n = 0 ∧ ((vec.vecRows (vec.captureVec 0x90 (v 13 13 13)) []).take 2).all Option.isNone = true ∧
    (let s := fun h => { vec .vector with tasks := (vec .vector).tasks.map fun t => (t.1, { t.2 with vector := { t.2.vector with
        wait := some { why := .vectorHold 1, since := 0 }, held := some h } }) }
     ok (.vadd (v 0 1 2)) (s .done) = true ∧ ok (.vadd (v 0 1 2)) (s (.trap 25 7)) = true ∧
     (s .done).curStrand.wait.map (·.why) = some (.vectorHold 1)) := by
  decide +kernel

def mat (d a b : BitVec 9 := 0) (ta tb : BitVec 6 := 0) : Mat := ⟨.always, d, a, b, false, false, 0, tb, ta⟩

/-- The task holds the lease of hoop 0, slots 0 and 1 and accumulator 0. -/
def matrix (open_ : Bool := false) : State :=
  let s := task fun t => { t with mat := { lease := .held, open_, smap := [(0, 4), (1, 5)], amap := [(0, 2)], slots := [4, 5], accs := [2] } }
  s.setHoop 0 { s.hoop 0 with holder := some 0 }

theorem witness_MatrixIssue :
    (∀ e ∈ ([(.mload (mat 0 1 8), 0xC4), (.mbeg (mat), 0xC5), (.mmul (mat 0 0 1), 0xC7), (.mzero (mat), 0xC8), (.mstore (mat 1 0 8), 0xC9),
      (.mbmap (mat 1 1 0 4), 0xCA), (.mfree (mat), 0xC1)] : List (Instr × Nat)), ok e.1 matrix = true) ∧
    (∀ e ∈ [(mat 0 1 8, 0xC4), (mat, 0xC5), (mat 0 0 1, 0xC7), (mat, 0xC8), (mat 1 0 8, 0xC9), (mat 1 1 0 4, 0xCA), (mat, 0xC1)],
      let vs := (matSources e.2 e.1).map matrix.source
      matrix.ready (matSources e.2 e.1) none = true ∧ matFormatOk e.2 e.1 = true ∧ matrix.curTask.matrixState e.2 e.1 0 = none ∧
      matRangeTrap e.2 e.1 matrix.curTask.hdr.cs vs = none) ∧ matrix.hasRoom (matrix.core 0).mq.length = true ∧
    (let c := matrix.matCommand 0xC4 (mat 0 1 8) ((matSources 0xC4 (mat 0 1 8)).map matrix.source)
     (matrix.lateOf c.hd.reads c.hd.writes) = none ∧ ((trapped matrix).lateOf c.hd.reads c.hd.writes).map (·.1.cause) = some 14) ∧
    ok (.mend (mat)) (matrix true) = true ∧ (matrix true).curTask.matrixState 0xC6 (mat) 0 = none ∧
    ok (.mmul (mat 0 0 1 0x19 0x19)) matrix = true ∧ matFormatOk 0xC7 (mat 0 0 1 0x19 0x19) = false ∧
    ok (.mmul (mat 0 0 2)) matrix = true ∧ matrix.curTask.matrixState 0xC7 (mat 0 0 2) 0 = some 2 ∧
    ok (.mload (mat 0 2 8)) matrix = true ∧ matRangeTrap 0xC4 (mat 0 2 8) 4096 ((matSources 0xC4 (mat 0 2 8)).map matrix.source) = some (13, 3) ∧
    ok (.mload (mat 0 1 3)) matrix = true ∧
    (matRangeTrap 0xC4 (mat 0 1 3) 4096 ((matSources 0xC4 (mat 0 1 3)).map matrix.source)).map (·.1) = some 15 := by
  decide +kernel

theorem witness_MatrixState :
    ok (.mfree (mat)) = true ∧ base.curTask.mat.lease = .none ∧ base.curTask.mat.open_ = false ∧ ok (.mlease (mat)) = true ∧
    (base.hoop 0).holder = none ∧ base.candidates 0 = [] ∧ ok (.mlease (mat)) matrix = true ∧ matrix.curTask.mat.lease ≠ .none ∧
    (base.setHoop 0 { base.hoop 0 with holder := some 5 }).curTask.mat.lease = .none ∧
    ((base.setHoop 0 { base.hoop 0 with holder := some 5 }).hoop 0).holder ≠ none ∧
    (let s := main fun d => { d with g := [(1, 3), (2, 1)] }
     ok (.mclaim (mat 0 1)) s = true ∧ s.ready [1] none = true ∧ s.curTask.matrixState 0xC2 (mat 0 1) 3 = none ∧
     ok (.mclaim (mat 0 2 0 1)) s = true ∧ s.curTask.matrixState 0xC2 (mat 0 2 0 1) 1 = none) ∧
    ok (.mrel (mat 0 1)) matrix = true ∧ matrix.curTask.matrixState 0xC3 (mat 0 1) 3 = none ∧
    matrix.curTask.matrixState 0xC3 (mat 0 1 0 1) 1 = none ∧ matrix.curTask.matrixState 0xC3 (mat 0 1) 4 = some 9 ∧
    matrix.curTask.matrixState 0xC2 (mat 0 1) 4 = some 8 ∧ ok (.mstat (mat 5)) = true ∧ base.ready [] (some 5) = true ∧
    (base.matCmds 0).length = 0 ∧ base.curTask.mat.late = [] ∧
    (task fun t => { t with mat := { late := [⟨{}, 23, 2⟩] } }).curTask.mat.late = [⟨{}, 23, 2⟩] := by
  decide +kernel

def cp (d a b : BitVec 9) (sub : BitVec 4 := 0) (tag : BitVec 6 := 0) : Cpy := ⟨.always, d, a, b, false, sub, tag, 0, 0⟩

/-- The command passes every row of Table 8-3, and its channel and the checker have room. -/
def copies (op : Nat) (x : Cpy) (s : State := vec) : Bool :=
  let c := s.captureCpy op x ((cpyCodes op x).map s.source)
  let set := s.cpySet op c
  (s.lateOf (if cpyIsStore op x then set else []) (if cpyIsStore op x then [] else set)).isNone &&
  ((s.cpyRows op c).all Option.isNone) && (s.olderWriters (s.cpyStream op c)).isEmpty && (s.curTask.chan 0).cmds.length < 8 &&
    s.tracked 0 < 64 && s.ready (cpyCodes op x) none

theorem witness_CopyIssue :
    (∀ e ∈ ([(.cpy (cp 0 1 0x1FF), 0xD0, cp 0 1 0x1FF), (.cpy (cp 0 1 0x1FF 1), 0xD0, cp 0 1 0x1FF 1), (.cpt (cp 0 1 2), 0xD1, cp 0 1 2),
      (.cpt (cp 0 1 2 1), 0xD1, cp 0 1 2 1), (.cpg (cp 0 1 1), 0xD2, cp 0 1 1), (.cps (cp 0 1 1), 0xD3, cp 0 1 1), (.cpm (cp 0 1 2), 0xD4, cp 0 1 2),
      (.cpc (cp 0 1 2), 0xD5, cp 0 1 2), (.cpz (cp 0 0 0x1FF), 0xD6, cp 0 0 0x1FF), (.cpk (cp 2 1 0x1FF 0 0x16), 0xD7, cp 2 1 0x1FF 0 0x16)] :
      List (Instr × Nat × Cpy)), ok e.1 vec = true ∧ copies e.2.1 e.2.2 = true) ∧
    (let c := trapped.captureCpy 0xD0 (cp 0 1 0x1FF) ((cpyCodes 0xD0 (cp 0 1 0x1FF)).map trapped.source)
     (trapped.lateOf [] (trapped.cpySet 0xD0 c)).map (·.1.cause) = some 14) ∧
    (let x := cp 12 1 0x1FF
     let c := vec.captureCpy 0xD0 x ((cpyCodes 0xD0 x).map vec.source)
     ok (.cpy x) vec = true ∧ ((vec.cpyRows 0xD0 c).map (·.map (·.1))).take 5 = [none, none, none, none, some 15]) := by
  decide +kernel

/-! ## Witnesses: runs, steps, checks, traps, frames -/

theorem witness_RunIssue :
    let s := main fun d => { d with g := [(1, 128), (2, 64)] }
    let q := (s.popCodes [1]).mark .dev
    (∀ f ∈ ([.vdec, .venc, .flow, .cmrun] : List (Gen → Instr)), ok (f (gen 0 1)) s = true ∧ ok (f (gen 0 2)) s = true) ∧
    s.ready [1] none = true ∧ s.source 1 &&& 127 = 0 ∧ s.source 2 &&& 127 ≠ 0 ∧ phys q 128 false false = some 0x40080 ∧
    (∀ k ∈ [0, 1, 2, 3], ((q.translate (q.strandAccess false false) 128).2.die 0).runCount k < 64) ∧
    64 ≤ (({ runs := [(1, List.replicate 64 {})] } : Die).runCount 1) := by
  decide +kernel

/-- A turn of the strand with an `add` at its PC, one with a word with reserved bits, one of an event. -/
theorem witness_StepRunsDecoded :
    let i := Instr.add (short 5 1 2)
    let s := State.reset.withFetchWord 32 0b0000_000010_000001_000101_00000001_00
    let s0 := s.begin s.nextTurn
    let bad := State.reset.withFetchWord 64 0b0_1_000_0_0000_000000000_000000011_000000010_000000001_0_1111111_00000001_01
    let b0 := bad.begin bad.nextTurn
    let gone := main (fun d => { d with pc := 0x900000 }) s
    let zeroing := main (fun d => { d with pc := 0x10000 }) { s with mem := s.mem.setNat 0x60008 8 0x5000F }
    s.nextTurn.who = .strand ⟨0, .main⟩ ∧ s0.mayIssue ⟨0, .main⟩ = true ∧ i.wellFormed = true ∧
    (match (s0.fetchWords ⟨0, .main⟩ 0 i.encode.length).1 with | .ok ws => ws | .error _ => []) = i.encode ∧ i.view ≠ .event ∧
    (s0.strand ⟨0, .main⟩).inSection (4 * i.encode.length) = true ∧
    (main (fun d => { d with sect := some (0, 0) }) s0 |>.strand ⟨0, .main⟩).inSection 4 = false ∧
    (match ((s0.fetchWord ⟨0, .main⟩ 0).1) with | .ok w => w.extractLsb' 0 2 != 3 && lengthWords w == 1 | _ => false) = true ∧
    (match (b0.fetchWords ⟨0, .main⟩ 0 2).1 with
      | .ok (w :: ws) => (match decodeWords w (ws.getD 0 0) (ws.getD 1 0) with | .ok _ => false | .error _ => true)
      | _ => false) = true ∧
    (match ((gone.begin gone.nextTurn).fetchWord ⟨0, .main⟩ 0x900000).1 with | .error (.trap _) => true | _ => false) = true ∧
    (match ((zeroing.begin zeroing.nextTurn).fetchWord ⟨0, .main⟩ 0x10000).1 with | .error (.stall _ _) => true | _ => false) = true ∧
    ({ s with turns := [{ who := .event .boot {} }] }.nextTurn.who = .event .boot {}) ∧ Instr.boot.view = .event ∧
    (main (fun d => { d with state := .rendezvous }) s).mayIssue ⟨0, .main⟩ = false := by
  decide +kernel

theorem witness_EncodingChecks :
    let user := main fun d => { d with lvl := false }
    let short_ := main fun d => { d with sect := some (0, 1), pc := 0 }
    let guarded := Instr.addLong { alu 5 1 (.code 2) with guard := ⟨3, false⟩ }
    (main fun d => { d with ih := true }).curStrand.ih = true ∧
    (Instr.addLong (alu 5 1 (.code 2))).view.op? = some 1 ∧ short_.curStrand.inSection (Instr.addLong (alu 5 1 (.code 2))).view.size = false ∧
    (Instr.addLong (alu 5 1 (.code 2) false 4)).view.fieldsOk = false ∧
    (let w := Instr.fork (gen 0 0 (.imm 4) 1)
     (on .vector).curStrand.inSection w.view.size = true ∧ w.view.fieldsOk = true ∧ strandOk 0x40 (on .vector).cur.unit = false) ∧
    (let w := Instr.eret gen
     user.curStrand.inSection w.view.size = true ∧ w.view.fieldsOk = true ∧ strandOk 0x7D user.cur.unit = true ∧ w.view.privileged = true ∧
     user.curStrand.lvl = false) ∧
    (let w := Instr.addLong (alu 80 1 (.code 2))
     w.view.fieldsOk = true ∧ strandOk 1 base.cur.unit = true ∧ w.view.privileged = false ∧ w.view.operandsOk = false) ∧
    guarded.view.fieldsOk = true ∧ guarded.view.operandsOk = true ∧ guarded.view.guard? = some ⟨3, false⟩ ∧
    base.curStrand.guardHolds ⟨3, false⟩ = false := by
  decide +kernel

/-- A context that traps causes 1 and 33 to a handler; cause 36 is never delivered. -/
theorem witness_TrapDelivery :
    let s := { base with contexts := [(0, { base.ctx 0 with tvec := 0x4000, trapmask := 0x200000002 })] }
    (s.ctx (s.task 0).ctx).trapmask.getLsbD 1 = true ∧ (s.ctx 0).trapmask.getLsbD 33 = true ∧ (s.ctx 0).tvec ≠ 0 ∧
    (s.strand ⟨0, .main⟩).ih = false ∧ (s.ctx 0).trapmask.getLsbD 36 = false ∧ (base.ctx 0).tvec = 0 ∧ (base.task 0).group = none ∧
    ((task fun t => { t with group := some 1 }).task 0).group = some 1 ∧ (base.queue 0).state = .ready ∧ 1 ≤ base.nextZombie := by
  decide +kernel

/-- Instructions of every layout that some word encodes. -/
theorem witness_RoundTrip : ∀ i ∈ ([.add (short 1 2 3), .br 0x3FFFFD, .subLong (alu 65 7 (.imm 0x3FFFE) true 2), .moviHi (alu 4 0 (.lit 7) false 2),
    .tlwait (gen 3 4 (.imm 7) 3), .loop ⟨.always, 0, 2, 4⟩, .ldg (mem 9 8 10), .amg (amo 6 20), .vadd (v 4 5 6), .mmul (mat 1 2 3), .cpt (cp 10 11 12),
    .sectionHeader ⟨1, 8, 5, 0, 0⟩] : List Instr), i.encodable = true ∧ i.view ≠ .event ∧
    (match decodeWords (i.encode.getD 0 0) (i.encode.getD 1 0) (i.encode.getD 2 0) with | .ok j => j == i | .error _ => false) = true := by
  decide +kernel

/-- The frames' states: the task is known, the strand waits for nothing and has no access pending; the loads and stores of
`witness_Scratchpad` and `witness_Device` run in them. -/
theorem witness_Frames : base.quiet base.cur = true ∧ withQueues.quiet withQueues.cur = true ∧ base.curStrand.calm = true ∧
    base.mem.wf = true ∧ (base.core 0).pad.wf = true ∧ (base.translate (base.strandAccess true false) 64).2.quiet base.cur = true ∧
    (base.translate (base.strandAccess false false) 64).2.quiet base.cur = true ∧
    (Instr.add (short 5 1 2)).view.op? = some 1 ∧ (Instr.sdef (gen 4 1)).view.op? = some 0xB8 ∧ (after (.add (short 5 1 2))).mem.wf = true := by
  decide +kernel

/-! ## Witnesses: events -/

def evt (a : EventArg) (s : State := base) : State := { s with arg := a }

/-- The main strand is stalled by a wait, the task may issue, and a test of the state holds. -/
def resumes (y : Why) (f : State → Bool) (s : State := base) (held : Option Held := none) : Bool :=
  let t := main (fun d => { d with state := .stalled, held, wait := some { why := y, since := 0 } }) s
  t.canResume t.argStrand && ((t.strand t.argStrand).wait.any fun w => w.why == y) && f t

theorem witness_ResumeEvents : ([
    resumes (.sections [(.main, 0xFFF)] (.main, 0xFFF)) fun s => atOrAfter ((s.task 0).strand .main).rs 0xFFF,
    resumes (.sections [(.vector, 3)] (.vector, 3)) fun s => !((s.task 0).strand .vector).live,
    resumes (.pop 0) (fun s => 0 < ((s.task 0).queueReg 0).count) withQueues,
    resumes (.pop 5) fun s => ((s.task 0).popTrap 0 ((s.task 0).queueReg 5)).isSome,
    resumes (.pop 5) (fun s => (s.strand s.argStrand).held == some (.doom 10 none)) base (some (.doom 10 none)),
    resumes (.push 5) (fun s => (s.strand s.argStrand).held == some (.doom 10 none)) base (some (.doom 10 none)),
    resumes (.push 1) (fun s => 0 < ((s.task 0).queueReg 1).room) withQueues,
    resumes (.push 5) (fun s => ((s.task 0).pushTrap 0 0 ((s.task 0).queueReg 5)).isSome)
      (task fun t => t.setQueueReg 5 { bind := .bound, size := 3, beats := List.replicate 16 ([1], true) }),
    resumes (.join 7) fun s => (joinUnits 7).all fun u => s.joined 0 u,
    resumes (.transfer 1 0) fun s => (((s.task 0).chan 1).done - 0).toNat < 2 ^ 31,
    resumes (.transfer 1 5) (fun s => ((s.task 0).chan 1).faulted) (task fun t => { t with chans := [(1, { faulted := true })] }),
    resumes (.engineQueue 2 1) fun s => s.engineRoom (s.task 0) 2 1,
    resumes (.engines 0xB8 [4]) fun s => (s.cmdHeads 0).all fun h => h.id ∉ [4],
    resumes .exitCarve fun s => (s.cmdHeads 0).all fun h => h.usesCarve = false,
    resumes (.timeline 0x800 5) (fun s => (s.monitorOf 0).any fun e => e.released.isSome)
      (base.setDie 0 { base.die 0 with monitor := [{ addr := 0x800, threshold := 5, task := 0, released := some (5, 0) }] }),
    resumes (.timeline 0x800 5) (fun s => (s.monitorOf 0).any fun e => e.poisoned)
      (base.setDie 0 { base.die 0 with monitor := [{ addr := 0x800, threshold := 5, task := 0, poisoned := true }] }),
    resumes (.runQueue 2) fun s => (s.die (dieOf (s.task 0).core)).runCount 2 < 64,
    !base.canResume base.argStrand] : List Bool).all id = true := by
  decide +kernel

/-- An outstanding request of the main strand over the open port 0, answered. -/
def request (kind : ReqKind) (answer : LinkAnswer) (since : Nat := 0) (size : Nat := 8) (port : Nat := 0) : State :=
  evt { k := 3, answer } { base with
    ports := [(port, { state := .up })], reqs := [(3, { port, kind, addr := 0x100, size, x := 7, strand := ⟨0, .main⟩, since })] }

/-- A load of task 0 to a destination that has its value, or still has to read eight bytes of the carve. -/
def loading (dest : LoadDest) (late : Bool := false) : State :=
  evt { k := 2 } (main (fun d => { d with loads := [⟨2, dest, 77, if late then some (.pad 0 8 true, 8) else none⟩] }) withDesc)

theorem witness_AnswerEvents : ([
    ([(.reg 5, false, 77), (.queue 0, false, 77), (.reg 5, true, 0)] : List (LoadDest × Bool × DWord)).all fun e =>
      let s := loading e.1 e.2.1
      let m := s.readLate s.argStrand 2
      (((m.strand s.argStrand).loads.find? fun o => o.id == s.arg.k).any fun l => l.dest == e.1 && l.value == e.2.2) &&
        (m.task 0).frozenBy.isNone && (m.task 0).life == .running,
    let ks := [ReqKind.read, .write, .atomic .swap]
    ks.all fun k => ([.served, .data 9, .abort, .unsupported] : List LinkAnswer).all fun a =>
      let s := request k a
      s.arg.answer = a ∧ ((Assoc.get? s.reqs 3).any fun q => q.kind = k ∧ q.port = 0 ∧ q.size = 8 ∧ q.strand.task = 0) ∧
        (Assoc.get? s.tasks 0).isSome ∧ (s.task 0).life ≠ .saved ∧ (s.port 0).state = .up,
    ([.served, .data 9] : List LinkAnswer).all fun a =>
      let s := request .read a 0 0
      (Assoc.get? s.reqs 3).any fun q => q.size = 0 ∧ q.port = 0 ∧ q.kind = .read,
    let s := request .write .served 0 8 1
    (Assoc.get? s.reqs 3).any fun q => q.port ≠ 0 ∧ (s.port q.port).state = .up,
    let s := request .read .abort
    (Assoc.get? s.reqs 3).any fun q => s.cycle < q.since + 1200000,
    let s := { request .read .abort with cycle := 1200000 }
    (Assoc.get? s.reqs 3).any fun q => q.since + 1200000 ≤ s.cycle,
    let s := evt { zero := .granule 0 7, k := 2 } { base.setCore 0 { base.core 0 with zeroing := [7] } with zeroing := [(2, 0)] }
    (s.core 0).zeroing.contains 7 ∧ Assoc.get? s.zeroing s.arg.k = some 0 ∧ s.mem.wf,
    let s := evt { zero := .slot 0 3 } (base.setHoop 0 { base.hoop 0 with slots := [(3, { zeroing := true })], accs := [(1, { zeroing := true })] })
    ((s.hoop 0).slot 3).zeroing ∧ ((s.hoop 0).acc 1).zeroing] : List Bool).all id = true := by
  decide +kernel

/-- Port `p` is in a state. -/
def port (p : BitVec 2) (state : LinkState) (a : EventArg) (since : Nat := 0) : State :=
  evt { a with port := p } { base with ports := [(p.toNat, { state, since })], cnv := true, cycle := 120000000 }

theorem witness_PortEvents : ([
    let s := port 0 .retrain { width := 16 }
    s.arg.port.toNat ≤ 2 ∧ s.arg.width.toNat ∈ [1, 2, 4, 8, 16] ∧ (s.port 0).state = .retrain ∧ (s.port 0).since + 120000000 ≤ s.cycle,
    let s := port 0 .training { width := 1 }
    s.arg.width.toNat ∈ [1, 2, 4, 8, 16] ∧ (s.port 0).state = .training ∧ s.arg.port.toNat = 0,
    let s := port 2 .training { width := 8, partner := 1, pass := true }
    (s.port 2).state = .training ∧ s.arg.port.toNat ≠ 0 ∧ s.cnv ∧ s.arg.pass ∧ s.arg.partner ≠ s.cardno,
    let s := port 2 .training { width := 8, partner := 0, pass := true }
    (s.port 2).state = .training ∧ s.arg.port.toNat ≤ 2 ∧ ¬s.arg.partner ≠ s.cardno,
    let s := port 1 .degraded {}
    (s.port 1).state = .degraded ∧ (s.port 1).state ≠ .down,
    let s := port 0 .up { time := 9 }
    (s.port (if s.cardUsed = 0 then 0 else 1)).state = .up ∧ s.timed = false ∧ ({ s with contexts := [] }.contexts.all fun c => c.2.state == CtxState.free),
    let s := port 0 .up { time := 120000001 }
    s.cycle < s.arg.time.toNat ∧ s.slewAt + 1024 ≤ s.cycle ∧ { s with timed := true }.timed,
    let s := port 0 .up { time := 119999999 }
    s.arg.time.toNat < s.cycle ∧ s.slewAt + 1024 ≤ s.cycle ∧ ¬({ s with slewAt := s.cycle - 5 }.slewAt + 1024 ≤ s.cycle)] : List Bool).all id = true := by
  decide +kernel

/-- A peer's request by port 1 from card 1, context 2, to context 0 of this card, and import entries that admit it or not. -/
def peer (act : PeerAct) (imports : Bool) (dst : BitVec 4 := 0) : State :=
  let s := { base with ports := [(0, { state := .up }), (1, { state := .up, pcard := 1 }), (2, { state := .up, pcard := 3 })] }
  let s := s.setCtx 0 { s.ctx 0 with imports :=
    if imports then [(0, { valid := true, w := true, card := 1, ctx := 2, size := 0x10000, tbase := 0 })] else [] }
  evt { port := 1, peer := ⟨false, 1, 2, dst, 0, 0x108, act⟩ } s

theorem witness_HostEvents : ([
    let s := peer (.read 8) true
    (s.port 0).state = .up ∧ { s with bad := [0] }.isBad 0x10 8 ∧ 0x100 + 8 ≤ 2 ^ 20 ∧ 2 ^ 39 - 8 + 8 ≤ 2 ^ 39 ∧ s.isBad (2 ^ 39 - 8) 8 = false ∧ s.frameLocked 0x100 8 = false ∧
      2 ^ 20 < 2 ^ 20 - 4 + 8,
    base.ctxWordAt 0x100 = none ∧ base.queueWordAt 0x100 = none ∧ base.mem.wf ∧ base.partBad 0x100 4 = false ∧
      ((List.range 4).all fun k => base.hostMask (0x100 + k) = 255) ∧
      ((List.range 4).all fun k => base.hostMask (base.ctxtab + 256 + 2 + k) = 0),
    ([.read 8, .write [1, 2], .atomic .fetchAdd 8 5 0] : List PeerAct).all fun a =>
      let s := peer a true
      let q := s.arg.peer
      let e : Aperture := { valid := true, w := true, card := 1, ctx := 2, size := 0x10000, tbase := 0 }
      let access : Access := { ctx := 0, die := Config.homeDie (s.ctx 0).ptroot.toNat, write := actWrites q.act, eng := true
                               party := partyOf s.cardUsed 0 6 1, joined := .link 1 }
      q.dstCard == (s.port 1).card && (s.ctx 0).imports == [(0, e)] && e.admits q && (q.addr.signExtend 64).toNat % 4096 + actBytes q.act ≤ 4096 &&
        (match s.translate access (q.addr.signExtend 64) with | (.ok pa _, t) => !t.isBad pa 8 && !t.partBad pa 2 && pa % 8 == 0 | _ => false),
    let s := peer (.read 8) false
    s.arg.peer.dstCard = (s.port 1).card ∧ (s.ctx 0).imports = [],
    let s := peer (.read 8) false 3
    s.arg.peer.dstCard ≠ (s.port 1).card ∧ (s.port (3 - 1)).state = .up ∧ (s.port (3 - 1)).pcard ≠ s.arg.peer.srcCard] : List Bool).all id = true := by
  decide +kernel

/-- Words at an address. -/
def words (a : Nat) (ws : List Nat) (m : Memory) : Memory := m.write a (ws.flatMap fun w => leBytes w 8)

/-- The management timeline has been incremented, and entry `c` of the context table holds a descriptor and a command. -/
def ctxCmd (cmd : Nat) (x : Context) (desc : List Nat := []) : State :=
  evt { ctx := 3 } { base with
    booted := true, timed := true, contexts := [(3, x)]
    mem := ((words (base.ctxtab + 3 * 512) desc base.mem).setNat (base.ctxtab + 3 * 512 + 256) 1 cmd).setNat base.mgmttl 8 1 }

/-- A descriptor that nothing is wrong with, with PAPT `papt` and SAVECNT `cnt`. -/
def desc (papt : Nat := 0) (cnt : Nat := 4) : List Nat :=
  [0x100000, 0, 2 ^ 21, 0, 0, 0x4000, 0, 0x200000, cnt + 32 * 2 ^ 16, 0, papt, 0x8000]

def serves (s : State) (cmd : Nat) : Bool := s.serves (.context 3) && s.ctxCmd 3 == cmd && s.arg.ctx == 3

theorem witness_ContextCommands : ([
    serves (ctxCmd 1 { state := .active }) 1,
    let s := ctxCmd 1 {} (desc 0 0)
    serves s 1 && (s.ctx 3).state == .free && descStatus (s.descriptor 3) true != 0,
    let s := ctxCmd 1 {} (desc 0x10000)
    serves s 1 && descStatus (s.descriptor 3) true == 0 && (((s.setCtx 3 (contextOf (s.descriptor 3))).claimTable 3 0x10000).loadApertures 3 0x10000).isNone,
    let s := ctxCmd 1 {} desc
    serves s 1 && descStatus (s.descriptor 3) true == 0 && (((s.setCtx 3 (contextOf (s.descriptor 3))).claimTable 3 0).loadApertures 3 0).isSome &&
      s.timed && !{ s with timed := false }.timed,
    serves (ctxCmd 2 {}) 2,
    let s := ctxCmd 2 { state := .active } [0, 0, 2 ^ 31]
    serves s 2 && descStatus (s.descriptor 3) false != 0,
    let s := ctxCmd 2 { state := .active } (desc 0 0)
    serves s 2 && descStatus (s.descriptor 3) false == 0 && ((s.claimTable 3 0).loadApertures 3 0).isSome,
    let s := ctxCmd 2 { state := .active } (desc 0x10000)
    serves s 2 && descStatus (s.descriptor 3) false == 0 && ((s.claimTable 3 0x10000).loadApertures 3 0x10000).isNone,
    serves (ctxCmd 3 {}) 3, serves (ctxCmd 3 { state := .active }) 3, serves (ctxCmd 4 { state := .active }) 4,
    serves (ctxCmd 4 { state := .suspended }) 4, serves (ctxCmd 5 {}) 5, serves (ctxCmd 5 { state := .destroying, torn := true }) 5,
    serves (ctxCmd 5 { state := .active }) 5, (ctxCmd 0 { state := .destroying }).destroyable 3,
    !{ base with contexts := [(0, { state := .destroying })] }.destroyable 0, serves (ctxCmd 6 {}) 6, serves (ctxCmd 15 {}) 15,
    ((ctxCmd 0 { state := .suspending }).placedTasks 3).isEmpty,
    let s := ctxCmd 0 { state := .destroying, torn := true }
    (s.ctx 3).state == .destroying && (s.ctx 3).torn && ((s.payStat 3 0).ctx 3).owed == 0,
    let s := ctxCmd 0 { state := .destroying, torn := true, owed := 1 }
    ((s.payStat 3 1).ctx 3).owed == 1,
    (ctxCmd 0 {}).mem.wf && 255 < 256] : List Bool).all id = true := by
  decide +kernel

/-- The same for entry 2 of the queue table. -/
def queueCmd (cmd : Nat) (x : Queue) (desc : List Nat := []) (ctx : CtxState := .active) : State :=
  evt { queue := 2 } { base with
    booted := true, contexts := [(0, { base.ctx 0 with state := ctx })], queues := [(2, x)]
    mem := ((words (base.qtab + 2 * 128) desc base.mem).setNat (base.qtab + 2 * 128 + 64) 1 cmd).setNat base.mgmttl 8 1 }

/-- A queue descriptor of weight `w` and timeline `tl`. -/
def qdesc (w : Nat := 1) (tl : Nat := 0x800) : List Nat := [w * 2 ^ 16, 0x10000, 16, tl, 0x808, 0x20000, 0x30000]

def servesQ (s : State) (cmd : Nat) : Bool :=
  s.serves (.queue 2) && s.queueCmd 2 == cmd && s.arg.queue == 2 && !(s.queue 2).destroying

theorem witness_QueueCommands : ([
    servesQ (queueCmd 1 { state := .idle }) 1,
    servesQ (queueCmd 1 {} (qdesc 0)) 1 && !queueReservedOk ((queueCmd 1 {} (qdesc 0)).queueDesc 2),
    let ws := (queueCmd 1 {} (qdesc 1 4)).queueDesc 2
    servesQ (queueCmd 1 {} (qdesc 1 4)) 1 && queueReservedOk ws && !queueAligned ws,
    let s := queueCmd 1 {} qdesc .suspended
    servesQ s 1 && (s.ctx (newQueue (s.queueDesc 2)).ctx).state == .suspended,
    let s := queueCmd 1 {} qdesc
    servesQ s 1 && queueReservedOk (s.queueDesc 2) && queueAligned (s.queueDesc 2) && (newQueue (s.queueDesc 2)).ctx == 0 &&
      (s.ctx 0).state == .active && (s.queuesOf 0).length < 1024 && (s.ctx 0).qmax == 0,
    let s := queueCmd 1 {} qdesc
    let s := { (s.setCtx 0 { s.ctx 0 with qmax := 1 }) with queues := [(5, { state := .idle })] }
    servesQ s 1 && !((s.queuesOf 0).length < (s.ctx 0).qmax),
    servesQ (queueCmd 2 {}) 2, servesQ (queueCmd 2 { state := .idle } (qdesc 0)) 2, servesQ (queueCmd 2 { state := .idle } (qdesc 255)) 2,
    servesQ (queueCmd 3 { state := .drain }) 3, servesQ (queueCmd 3 { state := .faulted }) 3, servesQ (queueCmd 4 { state := .ready }) 4,
    servesQ (queueCmd 4 { state := .stopped }) 4, servesQ (queueCmd 4 { state := .faulted }) 4, servesQ (queueCmd 5 {}) 5,
    servesQ (queueCmd 5 { state := .stopped }) 5 && ((queueCmd 5 { state := .stopped }).poisonDone 2 []).1,
    let s := { queueCmd 5 { state := .ready, launches := [4] } with launches := [(4, { queue := 2, donetl := 0x900000 })] }
    servesQ s 5 && !(s.poisonDone 2 [0x900000]).1,
    servesQ (queueCmd 6 {}) 6, servesQ (queueCmd 6 { state := .ready }) 6, servesQ (queueCmd 7 {}) 7,
    ((queueCmd 6 { destroying := true }).queueTasks 2).isEmpty] : List Bool).all id = true := by
  decide +kernel

/-- The management block holds a command with its arguments. -/
def block (cmd : Nat) (as : List Nat) (a : EventArg := {}) (s : State := base) : State :=
  evt a { s with booted := true, mem := ((words (s.mgmttl + 24) as s.mem).setNat (s.mgmttl + 16) 1 cmd).setNat s.mgmttl 8 1 }

def servesB (cmd : Nat) (as : List Nat) (a : EventArg := {}) (s : State := base) (f : State → Bool := fun _ => true) : Bool :=
  let t := block cmd as a s
  t.serves .block && t.mcmd == cmd && !t.recovery && f t

def host (x : LinkState) : State := { base with ports := [(0, { state := x }), (1, { state := x }), (2, { state := x })] }

theorem witness_ManagementCommands : ([
    servesB 1 [1000 + 1760 * 2 ^ 16], servesB 1 [1000 + 1761 * 2 ^ 16], servesB 1 [1000 + 1000 * 2 ^ 16],
    ((block 1 [1000 + 1760 * 2 ^ 16]).marg 0).extractLsb' 16 16 == 110 * 16, servesB 11 [], servesB 255 [], servesB 2 [3],
    servesB 3 [0x804, 0] {} base fun s => (s.marg 0).toNat % 8 != 0,
    servesB 3 [0x800, 64] {} base fun s => (s.marg 1).toNat == 64,
    servesB 3 [0x800, 63] {} base fun s => canonical (s.marg 0) && (s.ctx 63).state == .free,
    servesB 3 [0x800, 0] {} base fun s => (s.ctx 0).state == .active && (s.peekMap 0 0x800).any fun e => pteSpace e.2 == 0,
    servesB 3 [0x900000, 0] {} base fun s => canonical (s.marg 0) && (s.peekMap 0 0x900000).isNone,
    servesB 4 [0x10001, 0, 0], servesB 4 [0x10000, 3, 0], servesB 4 [2 ^ 39 - 65536, 0, 0], servesB 4 [0x10000, 1, 0], servesB 4 [0x10000, 2, 63],
    base.mem.wf && !base.owned 0 9 && { base with owners := [(9, .ctx 0)] }.owned 0 9,
    servesB 5 [2 ^ 24, 23, 0], servesB 5 [2 ^ 39 - 2 ^ 24, 24, 7], servesB 5 [2 ^ 32, 32, 7], servesB 5 [2 ^ 39 - 2 ^ 24, 25, 0],
    servesB 5 [2 ^ 24, 24, 7] {} { base with traceBase := 2 ^ 24, traceSize := 2 ^ 24 },
    servesB 6 [255, 0] {} base fun s => let m := (s.drainHoop 255).finishDrain 0
      m.serves .block && m.mcmd == 6 && m.marg 1 == 0 && m.hoopTasks 255 == [],
    servesB 6 [0, 0] {} base fun s => let m := (s.drainHoop 0).finishDrain 0
      m.serves .block && m.mcmd == 6 && m.marg 1 == 0 && !(m.hoop 0).offline && m.hoopTasks 0 != [],
    !base.serves .block && !(base.finishDrain 0).serves .block && !(base.hoop 0).draining && base.hoopTasks 5 == [],
    servesB 6 [255, 2] {} base fun s => (s.finishDrain 0).marg 1 == 2 && (s.finishDrain 0).serves .block, servesB 6 [0, 1] { pass := true }, servesB 6 [0, 1] { pass := false },
    servesB 7 [3, 0], servesB 7 [2, 3], servesB 7 [2, 0], servesB 7 [2, 1] {} (host .down), servesB 7 [2, 1] {} (host .up),
    servesB 7 [0, 2] {} (host .degraded), servesB 7 [0, 2] {} (host .training),
    servesB 8 [0x1000, 2, 2], servesB 8 [2 ^ 39, 1, 1] {} { base with stagingHost := true }, servesB 8 [0x1000, 2, 1] {} (host .down),
    servesB 8 [0x1000, 2, 0] { pass := false } (host .up), servesB 8 [0x1000, 2, 0] { pass := true } (host .up),
    servesB 8 [2 ^ 39 - 1, 1, 1] { pass := true } { base with stagingHost := true }, servesB 8 [0x1000, 2, 0] {} (host .retrain),
    servesB 9 [2], servesB 9 [1], servesB 9 [1] {} { base with fw := [(1, { staged := true })] },
    servesB 10 [] { token := ⟨true, 5, 1⟩ } { base with nonce := some 5 }, servesB 10 [] { token := ⟨true, 6, 1⟩ } { base with nonce := some 5 },
    (block 9 [0] {} { base with recovery := true }).serves .block && (block 8 [0] {} { base with recovery := true }).serves .block] : List Bool).all id = true := by
  decide +kernel

/-- A card on which layer `k` is in a state and the sensors of die 0 show a temperature. -/
def sensors (v : Nat) (x : Layer := {}) (a : EventArg := {}) : State :=
  evt { a with samples := List.replicate 160 (BitVec.ofNat _ (v + 2 ^ 16)) } ({ base with booted := true }.setLayer 0 x)

theorem witness_MonitoringEvents : ([
    let s := sensors 1919
    let got (d i : Nat) : Nat := (s.arg.samples.getD (40 * d + i) 0).toNat
    let t := { s.putSensors got with sampled := s.cycle }
    s.booted && s.powered && s.sampled + 1200 ≤ s.cycle && t.layerTemp 0 == some (1919 : Int) && t.layerTemp 7 == some (1919 : Int) && t.tmig < (1919 : Int),
    let s := sensors 1920
    let got (d i : Nat) : Nat := (s.arg.samples.getD (40 * d + i) 0).toNat
    ({ s.putSensors got with sampled := s.cycle }.layerTemp 0) == some (1920 : Int),
    !({ sensors 0 with sampled := 4000 }.sampled + 1200 ≤ 5000) && base.layerTemp 3 == none,
    ([(.normal, 1520, .migrate), (.normal, 1519, .normal), (.migrate, 1680, .clamp), (.migrate, 1440, .migrate), (.migrate, 1439, .normal),
      (.clamp, 1599, .migrate), (.clamp, 1600, .clamp)] : List (Throttle × Int × Throttle)).all fun e =>
        (({ state := e.1 } : Layer).sample 1520 1680 9 (some e.2.1)).state == e.2.2,
    let s := { sensors 1919 { state := .clamp, point := 1 } with cycle := 1200000 }
    let s := s.putSensors fun d i => (s.arg.samples.getD (40 * d + i) 0).toNat
    (s.layer 0).state == .clamp && (s.layer 0).since + 1200000 ≤ s.cycle && s.layerTemp 0 == some (1919 : Int) && s.tclamp ≤ (1919 : Int),
    let x : Hoop := { errors := List.replicate 16 5 }
    x.failing 1200000005 && !x.failing 1200000006 && !({ errors := List.replicate 15 5 } : Hoop).failing 5,
    !base.booted && base.powered,
    let b := (evt { boot := ⟨true, false, false, true, [], none⟩ }).arg.boot
    (b.mgmtA || b.mgmtB) && (b.frontA || b.frontB),
    let b := (evt { boot := ⟨true, true, false, false, [], none⟩ }).arg.boot
    !(b.frontA || b.frontB),
    (evt { boot := ⟨true, true, true, true, [255], none⟩ }).arg.boot.failed == [255],
    (evt { spdm := .certificates }).arg.spdm == .certificates && (evt { spdm := .measurement 4 }).arg.spdm == .measurement 4 &&
      (evt { spdm := .measurement 0 }).arg.spdm == .measurement 0 && (evt { spdm := .nonce 5 }).arg.spdm == .nonce 5] : List Bool).all id = true := by
  decide +kernel

/-- A stop in progress at task 0, its strands halted, in a context whose save area is at `at_` and whose image 0 is the task's. -/
def stopping (r : StopReq := { arrived := 4400, reasons := 1 }) (at_ : DWord := 0) : State :=
  let s := task fun t => { t.mapStrands (fun d => if d.live then { d with stop := .boundary } else d) with
    stopReq := some r, life := .stopping, image := some 0 }
  s.setCtx 0 { s.ctx 0 with savebase := at_, savecnt := 1, savesz := 64, slots := [0] }

/-- The context of task 0 is changed. -/
def ctx (f : Context → Context) (s : State := base) : State := s.setCtx 0 (f (s.ctx 0))

/-- A launch of 2 single tasks of 8 granules, placed by hint on core 0, on queue 0, which is ready with a deficit, and no other
task. -/
def launched (x : Launch := { count := 2, hint := some 0 }) (q : Queue := {}) : State :=
  { base with
    contexts := [(0, { base.ctx 0 with modes := 4 })]
    tasks := [], launches := [(1, { x with hdr := { gran := 8, cs := 4096, ps := 1024, slots := 2, acc := 1 } })], cycle := 5000
    queues := [(0, { q with state := .ready, launches := [1], deficit := 1, weight := 1 })] }

/-- Queue 1 of a higher level waits with a launch of a task of `n` granules for core 0, where task 0 of queue 0 runs. -/
def contended (n : Nat := 16) (cnt : Nat := 4) : State :=
  let s := evt { queue := 1 } (ctx fun c => { c with savecnt := cnt, savesz := 64 })
  { s with
    launches := [(1, { count := 1, queue := 1, hint := some 0, hdr := { gran := n } })]
    contexts := [(0, { s.ctx 0 with modes := 4 })]
    queues := [(0, { state := .ready, prio := 1 }), (1, { state := .ready, launches := [1], deficit := 1, weight := 1, unfit := some (.fresh 1 0, 0) })] }

def halted : State := task fun t => { t with frozenBy := some { cause := 1, code := 0, since := 0 } }

theorem witness_TaskEvents : ([
    let s := ctx fun c => { c with runlim := 1 }
    (Assoc.get? s.tasks 0).isSome && (s.task 0).placedNow && 1 * 4096 < (s.task 0).runTime s.cycle && (base.ctx 0).runlim == 0,
    let s := task fun t => { t with sent := some { arrived := 0, reasons := 1 } }
    (s.task 0).sent.isSome && (s.task 0).frozenBy.isNone && (s.task 0).placedNow,
    (base.task 0).main.live && (base.task 0).main.stop == .none && (base.task 0).main.loops == [] && !(base.task 0).vector.live,
    let s := ctx fun c => { c with state := .suspending, savecnt := 1 }
    (s.task 0).sent.isNone && (s.task 0).stopReq.isNone && (s.task 0).placedNow && (s.ctx 0).state == .suspending && (s.sendStop 0 forSuspend false).isSome &&
      ((ctx fun c => { c with state := .suspending }).sendStop 0 forSuspend false).isNone,
    (base.task 0).asked == false && ((base.ctx 0).freeImages 1).length < (base.members 0).length + (base.endedMembers 0).length,
    let s := stopping
    ((s.task 0).stopReq.any fun r => r.arrived + 600 ≤ s.cycle) && (s.task 0).frozenBy.isNone && (s.task 0).life == .stopping,
    (stopping { arrived := 4401, reasons := 1 }).cycle < 4401 + 600, (base.members 0).any fun m => !base.stopped m,
    let s := stopping { arrived := 4401, reasons := 1, discard := true }
    let z := (s.members 0).foldl State.drainTask s
    ((s.members 0).all s.stopped) && (s.task 0).group.isNone && (s.members 0).any fun m => (z.task m).stopReq.any (·.discard),
    let s := base.setHoop 0 { base.hoop 0 with draining := true }
    (s.task 0).sent.isNone && (s.task 0).stopReq.isNone && (s.ctx 0).state != .suspending && (s.hoop (hoopOf (s.task 0).core)).draining,
    halted.refusesStop 0 1 && halted.refusesStop 0 4 && !halted.refusesStop 0 8 && !base.refusesStop 0 1,
    let s := stopping
    let s := s.setTask 0 { s.task 0 with hdr := {}, mat := {} }
    let z := s.drainTask 0
    (s.members 0 == [0]) && s.stopped 0 && (z.writeImages [0]).1.isNone && ((z.writeImages [0]).2.writeEnded 0 0 []).1.isNone && (s.queue 0).state == .ready,
    match (((stopping { arrived := 0, reasons := 1 } 0x0100000000000000).drainTask 0).writeImages [0]).1 with | some (_, _, .trap _) => true | _ => false,
    match (({ stopping with owners := [] }.drainTask 0).writeImages [0]).1 with | some (_, _, .stall _) => true | _ => false,
    let s := evt { k := 2 } (main (fun d => { d with loads := [⟨2, .reg 5, 77, none⟩] }) (task fun t => { t with life := .saved, pending := 1 }))
    (s.task 0).life == .saved && ((s.strand s.argStrand).loads.find? fun l => l.id == s.arg.k).isSome,
    let s := request .read .abort
    let s := task (fun t => { t with life := .saved }) s
    ((s.strand s.argStrand).loads.isEmpty) && (Assoc.get? s.reqs 3).any fun q => q.strand.task == 0 && q.answers s.arg.answer && s.portOpen q.port && !{ s with ports := [] }.portOpen q.port,
    ((launched.round (launched.levelQueues 0)).firstServed (launched.levelOrder 0)).1 == some 0 &&
      ((base.round (base.levelQueues 0)).firstServed (base.levelOrder 0)).1 == none && (base.queue 0).deficit ≤ 0,
    0 < (launched.queue 0).deficit && (launched.ctx 0).state == .active && (launched.serveQueue 0).1 == .given && launched.savedOrder 0 == [] &&
      launched.headLaunch 0 == some 1 && (launched.tryAll 0 1 (launched.offered 0 1)).1 == .given,
    let s := ctx (fun c => { c with modes := 4 }) (task fun t => { t with life := .saved, launch := 1 })
    let s := { s with launches := [(1, { hint := some 3 })] }
    ((s.savedOrder 0).findSome? fun t => (s.placeSaved t).map fun as => (t, as)).isSome,
    !(base.queue 0).unfit.isSome && (contended.queue 1).unfit == some (.fresh 1 0, 0) &&
      ({ contended with queues := [(1, { unfit := some (.fresh 1 0, 0) })] }.candidate 1).isNone &&
      (contended.candidate 1).any (fun k => k.key == .fresh 1 0 && (contended.placeNow k).isNone) &&
      ((contended 2).candidate 1).any (fun k => ((contended 2).placeNow k).isSome) &&
      (contended.setQueue 1 { contended.queue 1 with unfit := some (.fresh 1 1, 0) }).candidate 1 == contended.candidate 1,
    let s := contended.settleUnfit 1
    let y := s.queue 1
    y.state == .ready && 0 < y.deficit && (s.ctx y.ctx).state == .active && !s.preempting 1 && (y.unfit.any fun k => k.2 + 4096 ≤ s.cycle) &&
      (s.candidate 1).isSome && s.victims 1 == [0],
    (contended.candidate 1).any fun k => contended.stopHelps 0 k && (contended.sendStop 0 forPreemption false).isSome &&
      !contended.stopHelps 0 { k with hint := some 9 },
    let s := base.setDie 0 { base.die 0 with monitor := [{ addr := 0x800, threshold := 5, task := 0 }] }
    let s := ctx (fun c => { c with savecnt := 1 }) (main (fun d => { d with wait := some { why := .timeline 0x800 5, since := 904 } }) s)
    (s.task 0).placedNow && (s.task 0).frozenBy.isNone && !(s.task 0).parked && s.timelineWait 0 == some 4096 && (s.sendStop 0 forParking false).isSome &&
      base.timelineWait 0 == none && (s.task 0).refused == 0 && ({ s with contexts := [(0, base.ctx 0)] }.sendStop 0 forParking false).isNone,
    let s := { withCode with queues := [(0, { state := .idle, subtl := 0x400, acctl := 0x408, lwbase := 64, lwlen := 1 })] }
    match s.devRead (s.dispatcherAccess 0 false jobHost 0) 0x400 1 with | (.ok [0], _) => true | _ => false,
    let s := { withCode with mem := withCode.mem.setNat 0x40400 8 1, queues := [(0, { state := .idle, subtl := 0x400, acctl := 0x408, lwbase := 64, lwlen := 1 })] }
    match s.devRead (s.dispatcherAccess 0 false jobHost 0) 0x400 1 with
    | (.ok [1], s1) => (match s1.devRead (s.dispatcherAccess 0 false jobHost 0) (64 + BitVec.ofNat 64 (64 * (0 % max 1 1))) 8 with
      | (.ok rec, s2) => (match s2.translate (s2.dispatcherAccess 0 true jobHost 0) 0x408 with
        | (.ok _ _, s3) => (match (s3.acceptLaunch 0 (some rec) (hostParty s3) none).1 with | .ok _ => true | _ => false)
        | _ => false)
      | _ => false)
    | _ => false,
    let x : Launch := { count := 1, complete := 1, next := 1 }
    !x.undispatched && x.donetl == 0 && ({ x with complete := 0 } : Launch).complete < 1,
    let goes (a : DWord) : Nat := match (base.translate (base.dispatcherAccess (base.queueCtx 0) true jobDone 1) a).1 with
      | .ok _ _ => if a.toNat % 8 = 0 then 0 else 1 | .stall _ => 2 | .trap _ => 3
    goes 0x408 == 0 && goes 0x404 == 1 && goes 0x900000 == 2 && goes 0x0100000000000000 == 3] : List Bool).all id = true := by
  decide +kernel

/-- A command of die 0's debug core on task 0's main strand. -/
def dbg (w : DebugWrite) (att : Bool := true) (s : State := base) : State :=
  evt { dbg := w } (s.setDie 0 { s.die 0 with dbg := { att } })

/-- The state after the block is loaded. -/
def loaded (s : State) : State := s.putBlock (s.debugBlock.load s.arg.dbg)

def cmd (regno : BitVec 16 := 5) (wr : Bool := false) (space : BitVec 3 := 0) (size : BitVec 2 := 3) (addr : DWord := 8)
    (sel : Party := 0) (reserved again : Bool := false) : DebugWrite :=
  { brk := false, ctx := 0, sel, regno, wr, space, size, addr, data := 77, reserved, again }

/-- What an access to memory by the debug core of die 0 does: 0 waits, 1 goes on, else its ERR and 2 more. -/
def tries (w : DebugWrite) (s : State := base) : Nat :=
  let v := (loaded (dbg w true s)).tryMemory
  if v.debugBlock.busy then 0 else v.debugBlock.err.toNat % 16 + 1

/-- One packet of source 0 stands before a ring of 16 MiB. -/
def ring (rptr : Nat := 0) (wptr : Nat := 0) : State :=
  { base with traceBase := 2 ^ 24, traceSize := 2 ^ 24, wptr, mem := base.mem.setNat (2 ^ 24 + 8) 8 rptr, trace := [(0, { buf := [⟨[1, 2, 3, 4, 5, 6, 7, 8]⟩] })] }

/-- A step of queue 0 has ended at cycle `fin`. -/
def walking (fin : Nat) (tl : DWord := 0) (q : Queue := { state := .ready, rpta := 0x800 }) : State :=
  let s := base.setDie 0 { base.die 0 with walks := [{ step := 1, fin, tl }] }
  { s with queues := [(0, q)] }

/-- A page fault of context 0 at page 1, whose leaf is absent and backed by the host's frame 3; port 0 is in a state. -/
def faulted (x : LinkState) (pte : Nat := 2 + 4 + 0x800 + 0x90000) : State :=
  let s := ctx (fun c => { c with posts := [⟨0, 1, false, [.strand ⟨0, .main⟩]⟩] })
  { s with ports := [(0, { state := x })], mem := ((words 0x20040 [0x10000, 8] s.mem).setNat 0x60008 8 pte).setNat 0x70008 8 0x30000 }

/-- A migration request of context 0 for page 0, to a frame. -/
def migrating (target : Nat) (l : Option MigLock := none) : State :=
  let s := ctx fun c => { c with lock := l }
  { s with mem := words 0x28040 [0, target] (s.mem.setNat 0x28000 8 1) }

theorem witness_DebugTraceWalkPages : ([
    !(dbg (cmd) false).debugBlock.att && (dbg (cmd 5 false 0 3 8 0 true)).debugBlock.att && (cmd 5 false 0 3 8 0 true).reserved,
    (loaded (dbg (cmd 5 false 0 3 8 1))).debugTarget.isNone && (loaded (dbg (cmd))).debugTarget == some 0,
    (loaded (dbg (cmd) true halted)).debugTarget == some 0 && (halted.task 0).frozenBy.isSome && (base.task 0).frozenBy.isNone && (base.task 0).life == .running,
    let s := stopping
    (s.task 0).placedNow && (s.task 0).life == .stopping && (s.task 0).frozenBy.isNone,
    debugReg 5 == some (.g 5) && debugReg 0x3F == some (.g 63) && debugReg 0x40 == none && debugReg 0x2000 == some .pc && debugReg 0xFFFF == none,
    let s := dbg (cmd 5 false 0 3 8 0 false true)
    s.arg.dbg.again && !s.debugBlock.busy && (s.putBlock { s.debugBlock with busy := true }).debugBlock.busy,
    (cmd 5 false 4).space.toNat > 3 && (cmd 5 false 3 3 4).addr.toNat % 2 ^ 3 != 0 && (cmd 5 false 2 3 (BitVec.ofNat 64 (2 ^ 39 - 8))).addr.toNat + 8 ≤ 2 ^ 39,
    [tries (cmd 5 false 4), tries (cmd 5 false 0 3 4), tries (cmd 5 false 0 3 8 1), tries (cmd 5 false 0 3 0x20000),
      tries (cmd 5 false 0 3 8) (base.setCore 0 { base.core 0 with zeroing := [0] }),
      tries (cmd 5 false 0 3 8) (base.setCore 0 { base.core 0 with bad := [8] }), tries (cmd), tries (cmd 5 true)] == [4, 9, 5, 9, 0, 9, 1, 1],
    [tries (cmd 5 false 1 3 0x900000), tries (cmd 5 false 1), tries (cmd 5 true 1),
      tries (cmd 5 true 1) (ctx fun c => { c with lock := some ⟨0, 0, 0, 0x40000, 0⟩ })] == [9, 1, 1, 0],
    [tries (cmd 5 false 2), tries (cmd 5 true 2), tries (cmd 5 false 2) { base with bad := [0] }, tries (cmd 5 true 2 0) { base with bad := [0] },
      tries (cmd 5 false 2 3 (BitVec.ofNat 64 (2 ^ 39)))] == [1, 1, 9, 9, 9],
    (let r := { base with rings := [(ringOf 0, [{}])] }
     [tries (cmd 5 false 3) r, tries (cmd 5 true 3) r, tries (cmd 5 false 3 3 32) r, tries (cmd 5 false 3 3 8 0x100000) r]) == [1, 9, 9, 5],
    { (linked base) with arg := { reach0 := 2 } }.reachable 1 && !{ (linked base) with arg := { reach1 := 2 } }.reachable 1,
    let s := ring
    s.traceSize != 0 && (s.wptr + 2 ^ 64 - s.mem.nat (s.traceBase + 8) 8) % 2 ^ 64 ≤ s.traceSize - 65536 - 64 && (Assoc.getD s.trace (ringOf s.arg.src) {}).buf != [],
    let s := ring 0 (2 ^ 24 - 65536 - 63)
    !((s.wptr + 2 ^ 64 - s.mem.nat (s.traceBase + 8) 8) % 2 ^ 64 ≤ s.traceSize - 65536 - 64) && (Assoc.getD base.trace 0 {}).buf == [],
    (base.die 0).walks == [] && ((walking 4872).die 0).walks != [] && 4872 + 128 ≤ base.cycle && !(4873 + 128 ≤ base.cycle) &&
      !(walking 4872).walkBehind { step := 1, fin := 4872 } && ((walking 0 0 {}).queue 0).state == .free,
    let s := walking 4872 0x808
    let access : Access := { ctx := 0, die := 0, write := true, eng := true, party := partyOf s.cardUsed 0 4 10, joined := .walk 0 }
    match s.translate access 0x800 with
    | (.ok _ _, v) => (match v.translate access 0x808 with | (.ok _ _, _) => (s.queue (BitVec.toNat (1 : Word) / 2 ^ 22)).rpta == 0x800 | _ => false)
    | _ => false,
    !((base.ctx 0).posts.any fun p => p.n == 0) && base.mem.wf && base.mem.nat ((base.ctx 0).pageArea + 8) 8 == 0 &&
      ((faulted .up).ctx 0).posts.any fun p => p.n == (faulted .up).mem.nat (((faulted .up).ctx 0).pageArea + 8) 8 && !p.hostMode,
    ([LinkState.up, .down].all fun x => ((faulted x).servePage 0 0).isSome) && ((faulted .training).servePage 0 0).isNone,
    let s := faulted .up
    (match s.walk (s.ctx 0).ptroot.toNat (bitsOf (s.mem.word ((s.ctx 0).descAt 0)) 0 55) with
      | .absent 2 pte at_ => fillable pte && at_ == 0x60008 && bitsOf (s.mem.word ((s.ctx 0).descAt 0 + 8)) 2 2 == 2 | _ => false),
    match (faulted .up 0).walk 0x10000 0x10000 with | .absent 2 pte _ => !fillable pte | _ => false,
    ([1, 2].all fun r =>
      let s := faulted .up
      let s := { s with mem := (s.mem.setNat (s.ctx 0).pageArea.succ.pred 8 1).setNat ((s.ctx 0).pageArea + 8) 8 1 }
      let s := { s with mem := s.mem.setNat ((s.ctx 0).descAt 0 + 10) 1 r }
      0 < s.mem.nat ((s.ctx 0).pageArea + 8) 8 && (s.mem.byte ((s.ctx 0).descAt 0 + 10)).toNat == r &&
        (s.ctx 0).posts.any fun p => p.n == 0 && !p.joined.contains .controller),
    !(ctx fun c => { c with state := .free }).curCtx.trusted && (base.ctx 0).trusted && (base.ctx 0).lock.isNone,
    let s := migrating 0x90000
    0 < s.mem.nat ((s.ctx 0).pageArea + 0x8000) 8 && s.mem.nat ((s.ctx 0).pageArea + 0x8008) 8 == 0 &&
      (s.movable 0 (s.mem.word ((s.ctx 0).reqAt 0))).isSome && s.mem.word ((s.ctx 0).reqAt 0 + 8) == 0x90000 && s.locksOf 0 < 16 &&
      s.mem.nat ((s.ctx 0).reqAt 0 + 17) 15 == 0,
    let s := migrating 0x90001
    (s.mem.word ((s.ctx 0).reqAt 0 + 8)).toNat % 65536 != 0,
    let s := migrating 0x90000
    s.owned 0 4 && !{ s with owners := [] }.owned 0 4 && ptePa ((s.movable 0 0).getD (0, 0)).1 / 65536 == 4,
    let s := { migrating 0x90000 with contexts := (0, base.ctx 0) :: (List.range 16).map fun k => (k + 1, ({ lock := some ⟨0, 0, 0, 0x40000, 0⟩ } : Context)) }
    (s.ctx 0).lock.isNone && 16 ≤ s.locksOf 0,
    let s := { migrating 0x90000 with mem := (migrating 0).mem.setNat 0x28040 8 0x900000 }
    (s.movable 0 (s.mem.word ((s.ctx 0).reqAt 0))).isNone,
    let s := migrating 0x90000 (some ⟨0, 0, 0x60000, 0x4000F, 0x90000⟩)
    ((s.ctx 0).lock.any fun l => s.mem.word l.at_ == l.pte) && (migrating 0 (some ⟨0, 0, 0x60000, 0x4000D, 0x90000⟩)).mem.word 0x60000 != 0x4000D] : List Bool).all id = true := by
  decide +kernel

/-- How the head of channel 0 starts: 0 well, 1 with a wait, 2 with a fault; 8 not clear, 9 none. -/
def starts (s : State) : Nat :=
  match s.cpyHead 0 0 with
  | some c =>
    let u := if c.hd.started then s else s.startCmd c.hd
    let k : CpyCmd := { c with hd := { c.hd with started := true } }
    if !(c.run.isNone && s.engineFree 0 && !s.blocked c.hd && !s.meetsZeroing c.hd && !s.cpyZeroing c) then 8
    else match startRun k u with | .ok _ _ => 0 | .error (.wait _ _) _ => 1 | .error (.fault _ _) _ => 2
  | none => 9

/-- How the next beat of the head of channel 0 goes: 0 on, 1 the last, 2 with a wait, 3 with a fault. -/
def beats (s : State) : Nat :=
  match s.cpyHead 0 0 with
  | some c =>
    match c.run with
    | some r => (match c.beat r s with | .ok (_, e) _ => (if e then 1 else 0) | .error (.wait _ _) _ => 2 | .error (.fault _ _) _ => 3)
    | none => 8
  | none => 9

/-- A `cpy` of task 0 from an address, started. -/
def copying (a : Nat) (started : Bool := true) : State :=
  let s := vec .main (main fun d => { d with g := [(1, BitVec.ofNat 64 a), (2, 3)] })
  let s := task (fun t => { t with spans := [(0, span 0 0 64)] }) s
  let s := evt { beats := 1 } (after (.cpy (cp 0 1 0x1FF)) { s with cur := ⟨0, .main⟩ })
  if started then after .copyCommandStart s else s

/-- A `cpt` that names record 3; the records lie at an address. -/
def recorded (at_ : DWord) (len : Nat := 8) : State :=
  let s := ctx fun c => { c with rtbase := at_, rtlen := len }
  after (.cpt (cp 0 2 2)) (vec .main (main (fun d => { d with g := [(2, 3 * 2 ^ 0)] }) s))

/-- Channel 1 has a stream run. -/
def streaming (r : StreamRun) : State := evt { ch := 1, beats := 1 } (task (fun t => { t with chans := [(1, { stream := some r })] }) withQueues)

/-- A matrix command of task 0 stands at the head of its queue. -/
def queued (i : Instr) (s : State := matrix) : State := after i s

/-- A second task of the hoop waits for its lease. -/
def rival (s : State) : State :=
  let c : MatCmd := { hd := { id := 99, task := 1, op := 0xC8 } }
  let s := s.setTask 1 { s.task 0 with slot := 1, mat := { lease := .waiting } }
  s.setCore 0 { s.core 0 with mq := (s.core 0).mq ++ [c] }

/-- A vector command of task 0. -/
def vectored (s : State := vec) : State := { after (.vadd (v 0 1 2)) s with cur := ⟨0, .main⟩ }

/-- What the vector engine's moves end in: 0 done, 1 a trap, 2 a wait, 3 more to do; 9 no command. -/
def vecEnd (s : State) : Nat :=
  match (s.core 0).vq.find? s.vecFree with
  | some c =>
    let u := if c.run.isNone then s.startCmd c.hd else s
    (match (u.vecMoves { c with hd := { c.hd with started := true } } (c.run.getD (s.startVec c)) (if s.arg.beats = 0 then c.fuel else s.arg.beats)).2.2 with
      | some .done => 0 | some (.trap _ _) => 1 | some (.wait _ _) => 2 | none => 3 | some (.go _ _) => 8)
  | none => 9

/-- A flow run in engine 1 of die 0. -/
def running (r : Run) : State :=
  evt { eng := 1, beats := 1, front := .flow 1 } (base.setDie 0 { base.die 0 with active := [(17, { r with kind := 2 })] })

def runEnds (s : State) : Nat :=
  match s.activeRun 0 2 1 with
  | some r => (match runMove 0 1 r s with | .ok _ _ => 0 | .error (.fault _ _) _ => 1 | .error (.wait _ _) _ => 2)
  | none => 9

theorem witness_EngineEvents : ([
    (base.cpyHead 0 0).isNone, starts (copying 64 false) == 0, starts (recorded 0 2) == 2, starts (recorded 0x900000) == 1, beats (copying 64) == 0,
    beats (after .copyCommandComplete (copying 64)) == 1, beats (copying 0x900000) == 2, beats (copying 0x0100000000000000) == 3,
    (copying 64).engineFree 0 && (copying 64).arg.beats == 1,
    let s := task fun t => { t with chans := [(0, { cmds := [{ hd := { wait := some { why := .table 0, since := 0 } } }], tables := [⟨0x16, []⟩] })] }
    ((s.cpyHead 0 0).any fun c => c.hd.wait.any fun w => w.why == .table 0) && ((s.task 0).chan 0).tables != [] && s.engineFree 0,
    let s := streaming {}
    ((s.task 0).chan 1).cmds == [] && s.engineFree 0 && ((s.task 0).chan 1).stream == some {},
    (match streamMove 0 1 { q := 1, started := true, held := some 5 } (streaming {}) with | .ok (some _) _ => true | _ => false),
    (match streamMove 0 1 { q := 1, started := true, desc := [0x900000, 1, 1] } (streaming {}) with | .error (.wait _ _) _ => true | _ => false),
    (match streamMove 0 1 { q := 1, started := true, pos := 9, fin := true } (streaming {}) with | .ok none _ => true | _ => false),
    (match streamMove 0 1 { q := 1, started := true, desc := [0x10000, 1, 1] } { streaming {} with mem := base.mem.setNat 0x60008 8 0x1003 } with | .error (.fault _ _) _ => true | _ => false),
    let s := task fun t => { t with chans := [(1, { posts := 64 })], group := some 2 }
    ((s.task 0).chan 1).posts == 64 && (s.task 0).life != .ended && (Assoc.get? { s with groups := [(2, {})] }.groups 2).isSome,
    (((task fun t => { t with group := some 2, chans := [(1, { posts := 64 })] }).task 0).group == some 2) &&
      ((task fun t => { t with life := .ended, chans := [(1, { posts := 64 })] }).task 0).life == .ended,
    let s := copying 64
    (s.cpyHead 0 0).any fun c => c.hd.usesCarve && (c.run.any fun r => !c.allRead r),
    let s := rival base
    (s.hoop 0).holder.isNone && nextCandidate (s.hoop 0).last (s.candidates 0) == some 1 && nextCandidate 0 (base.candidates 0) == none,
    let s := rival matrix
    (s.hoop 0).holder == some 0 && (s.matHead 0).isNone && !(s.task 0).mat.qopen && s.rivals 0 0 && !matrix.rivals 0 0,
    let s := rival (queued (.mzero (mat)))
    let s := s.setHoop 0 { s.hoop 0 with gap := 6000, blocked := some 4744 }
    ((s.matHead 0).any fun c => !c.hd.started && !s.matReady c) && (s.hoop 0).blocked == some 4744 && 4744 + 256 ≤ s.cycle,
    let s := queued (.mzero (mat))
    (s.matHead 0).any fun c => s.matReady c && !c.hd.started,
    let s := evt {} (after .matrixCommandStart (evt {} (queued (.mzero (mat)))))
    ((s.matHead 0).any fun c => c.hd.started) && s.mayFinish 0,
    let s := queued (.mfree (mat))
    ((s.matHead 0).any fun c => c.hd.op == 0xC1) && s.engineFree 0 && (s.hoop 0).holder == some 0 && !s.rivals 0 0 && (rival s).rivals 0 0,
    (task (fun t => { t with mat := { t.mat with rpend := true } }) matrix |>.task 0).mat.rpend && !(matrix.task 0).mat.rpend,
    let s := task fun t => { t with life := .ended }
    (s.task 0).life == .ended && s.matCmds 0 == [] && (s.task 0).cpyHeads.isEmpty && (base.task 0).life != .ended,
    let s := task (fun t => { t with life := .stopping }) vectored
    ((s.core 0).vq.all fun c => !s.vecFree c) && !s.engineFree 0 &&
      ((s.core 0).vq.any fun c => s.vecFree { c with run := some { pos := 1 } }) && vectored.vecFree { hd := {} } &&
      ({ run := some { fin := true } } : VecCmd).run.any VecRun.fin,
    vecEnd vectored == 0 && vecEnd (evt { beats := 1 } vectored) == 3,
    let s := evt {} vectored
    ((s.core 0).vq.any fun c => s.blocked c.hd || s.meetsZeroing c.hd || s.spanZeroing c) == false,
    let s := vectored.setCore 0 { vectored.core 0 with zeroing := [0] }
    (s.core 0).vq.any fun c => c.run.isNone && (s.blocked c.hd || s.meetsZeroing c.hd || s.spanZeroing c),
    (base.core 0).vq.isEmpty && (base.activeRun 0 2 1).isNone && (base.nextRunOf 0 2).isNone && 1 < engines 2 && engines 2 ≤ 2,
    let s := base.setDie 0 { base.die 0 with runs := [(2, [{ kind := 2, addr := 0x80 }])] }
    (s.activeRun 0 2 1).isNone && (s.nextRunOf 0 2).isSome,
    (running { st := some 0 }).activeRun 0 2 1 |>.any Run.isDone, runEnds (running { addr := 0x80 }) == 0,
    runEnds (running { addr := 0x0100000000000000 }) == 1,
    let r : Run := { hostMode := true, desc := [0, 0, 0, 0, 0, 0, 0x400, 0] }
    let s := running r
    ((s.activeRun 0 2 1).any fun r => r.hostMode && r.desc != [] && r.st.isNone) && (match copyPage (s.runAccess 0 2 1 0 false) 0x400 s with
      | .ok (.home pa) v => 0 ≤ v.mem.nat pa 8 && v.mem.nat pa 8 < 1 | _ => false),
    let r : Run := { hostMode := true, desc := [0, 0, 0, 0, 0, 0, 0x400, 0] }
    let s := running r
    ({ s with bad := [(0x40400 : Nat) / 32] }.isBad 0x40400 8) && (match copyPage (s.runAccess 0 2 1 0 false) 0x400 s with
      | .ok (.home pa) _ => pa == 0x40400 | _ => false) &&
      (match copyPage (s.runAccess 0 2 1 0 false) 0x900000 s with | .error (.wait _ _) _ => true | _ => false) &&
      (match copyPage (s.runAccess 0 2 1 0 false) 0x0100000000000000 s with | .error (.fault _ _) _ => true | _ => false),
    let s := ctx (fun c => { c with state := .destroying }) (running { desc := [1] })
    ((s.activeRun 0 2 1).any fun r => r.atFrame) && (s.ctx 0).state == .destroying && !({ pend := [(0, [])] } : Run).atFrame,
    (match finishRun ((running {}).runAccess 0 2 1 0 true) { st := some 0, addr := 0x900080, kind := 2 } (running {}) with
      | .error (.wait _ _) _ => true | _ => false),
    (match finishRun ((running {}).runAccess 0 2 1 0 true) { st := some 0, addr := 0x0100000000000080, kind := 2 } (running {}) with
      | .error (.fault _ v) _ => v &&& 0xFFFFFFFFFFFF0000 == 0x0100000000000080 &&& 0xFFFFFFFFFFFF0000 | _ => false),
    (match finishRun ((running {}).runAccess 0 2 1 0 true) { st := some 0, addr := 0x80, kind := 2 } (running {}) with | .ok () _ => true | _ => false)] : List Bool).all id = true := by
  decide +kernel

/-! ## Behaviour -/

/-- The main strand with some g registers. -/
def regs (l : List (Nat × DWord)) : State := main fun d => { d with g := l }

/-- Table 4-4, `add`: A + B modulo 2^64. -/
theorem test_add_wraps : reg (after (.add (short 5 4 2))) 5 = 2 := by decide +kernel

/-- Table 4-1: a write to g0 is discarded. -/
theorem test_add_g0 : reg (after (.add (short 0 1 2))) 0 = 0 := by decide +kernel

/-- R100: all ones when b = 0, and `rem` gives a. -/
theorem test_div_by_zero : reg (after (.div (short 5 2 0))) 5 = 0xFFFFFFFFFFFFFFFF ∧ reg (after (.rem (short 5 2 0))) 5 = 3 := by
  decide +kernel

/-- R100: −2^63 over −1. -/
theorem test_div_most_negative :
    let s := regs [(1, 0x8000000000000000), (2, 0xFFFFFFFFFFFFFFFF)]
    reg (after (.div (short 5 1 2)) s) 5 = 0x8000000000000000 ∧ reg (after (.rem (short 5 1 2)) s) 5 = 0 := by
  decide +kernel

/-- R100: −7 over 2 is −3, remainder −1. -/
theorem test_div_toward_zero :
    let s := regs [(1, 0xFFFFFFFFFFFFFFF9), (2, 2)]
    reg (after (.div (short 5 1 2)) s) 5 = 0xFFFFFFFFFFFFFFFD ∧ reg (after (.rem (short 5 1 2)) s) 5 = 0xFFFFFFFFFFFFFFFF := by
  decide +kernel

/-- Table 4-4, `mulh`: the upper half of −1 × 3. -/
theorem test_mulh_signed : reg (after (.mulh (short 5 4 2))) 5 = 0xFFFFFFFFFFFFFFFF := by decide +kernel

/-- Table 4-4, `sar`: −8 by 65, which counts as 1. -/
theorem test_sar_count : reg (after (.sar (short 5 1 2)) (regs [(1, 0xFFFFFFFFFFFFFFF8), (2, 65)])) 5 = 0xFFFFFFFFFFFFFFFC := by
  decide +kernel

/-- R101: bits 7:4 of 0xF0, sign-extended; with len 0 nothing; a len past bit 63 is cut. -/
theorem test_bfx_sign :
    reg (after (.bfx (short 5 1 2)) (regs [(1, 0xF0), (2, 4 + 4 * 64)])) 5 = 0xFFFFFFFFFFFFFFFF ∧
    reg (after (.bfx (short 5 1 2)) (regs [(1, 0xF0), (2, 4)])) 5 = 0 ∧
    reg (after (.bfx (short 5 1 2)) (regs [(1, 0x4000000000000000), (2, 62 + 9 * 64)])) 5 = 1 := by
  decide +kernel

/-- R101: three bits of 5 put at bit 1 of all ones. -/
theorem test_bfi_field : reg (after (.bfi (short 5 1 2)) (regs [(1, 5), (2, 1 + 3 * 64), (5, 0xFF)])) 5 = 0xFB := by decide +kernel

/-- The example of `lea.sh3` in 04. -/
theorem test_lea_shift : reg (after (.leaLong (alu 5 1 (.code 2) false 3))) 5 = 88 := by decide +kernel

/-- R102: `movi.hi` keeps bits 31:0. -/
theorem test_movi_hi : reg (after (.moviHi (alu 5 0 (.lit 7) false 2)) (regs [(5, 0xAAAAAAAA00000011)])) 5 = 0x700000011 := by
  decide +kernel

/-- Table 4-6: 1 + 2 in FP32. -/
theorem test_fadd_fp32 : reg (after (.fadd (short 5 1 2)) (regs [(1, 0x3F800000), (2, 0x40000000)])) 5 = 0x40400000 := by decide +kernel

/-- Table 4-5: equal is true of equal sources; p0 stays true. -/
theorem test_cmp_eq :
    ((after (.cmp (short 5 1 1))).strand ⟨0, .main⟩).pred 5 = true ∧ ((after (.cmp (short 5 1 2))).strand ⟨0, .main⟩).pred 5 = false ∧
    ((after (.cmp (short 0 1 2))).strand ⟨0, .main⟩).pred 0 = true := by
  decide +kernel

/-- R130: a load of four bytes is zero-extended. -/
theorem test_ldg_zero_extends :
    let s := { base with mem := base.mem.setNat 0x40040 8 0xFFFFFFFFFFFFFFFF }
    reg (after (.ldg ⟨.always, 5, 1, 0, false, 0, 0, 2, 0⟩) s) 5 = 0xFFFFFFFF := by
  decide +kernel

/-- R280: an illegal instruction enters the handler at TVEC: cause, value, PC, level and IH. -/
theorem test_trap_entry :
    let s := { main (fun d => { d with pc := 0x40, lvl := false }) with contexts := [(0, { base.ctx 0 with tvec := 0x4000, trapmask := 2 })] }
    let d := (after (.unassignedOpcode 0x74) s).strand ⟨0, .main⟩
    d.pc = 0x4000 ∧ d.tcause = 1 ∧ d.tval = 0x74 ∧ d.tpc = 0x40 ∧ d.pp = false ∧ d.ih = true ∧ d.lvl = true := by
  decide +kernel

/-- R283: `eret` restores PC and level and clears IH. -/
theorem test_eret :
    let d := (after (.eret gen) (main fun d => { d with tpc := 0x100, pp := false, ih := true })).strand ⟨0, .main⟩
    d.pc = 0x100 ∧ d.lvl = false ∧ d.ih = false := by
  decide +kernel

/-- Table 14-2, `tlinc`: the addend is added to the timeline word, and D gets the new value. -/
theorem test_tlinc :
    (after (.tlinc (gen 5 1 (.code 2)))).mem.nat 0x40040 8 = 3 ∧ reg (after (.tlinc (gen 5 1 (.code 2)))) 5 = 3 := by
  decide +kernel

/-- A step fetches and runs the first instruction: `add g5, g1, g2` at PC 0 leaves PC at 4. -/
theorem test_step_pc :
    (match step (State.reset.withFetchWord 32 0b0000_000010_000001_000101_00000001_00) with
      | .next t => (t.strand ⟨0, .main⟩).pc | _ => 0) = 4 := by
  decide +kernel

/-- Reset: memory lists nothing and is canonical. -/
theorem test_reset_memory : State.reset.mem.wf = true ∧ State.reset.mem.byte 0 = 0 := by decide +kernel

end Sys2Proof.Tests
end

section
/-! SUPPORT. The state after reset: a memory that lists nothing reads 0 everywhere, and a part that no file of the reset state
names is at its default. -/

namespace Sys2Proof.Machine

/-! ## The empty memory -/

@[simp] theorem Memory.wf_nil : Memory.wf [] = true := rfl

@[simp] theorem Memory.byte_nil (a : Nat) : Memory.byte [] a = 0 := rfl

theorem Memory.bytes_nil (a n : Nat) : Memory.bytes [] a n = List.replicate n 0 := by
  induction n generalizing a with
  | zero => rfl
  | succ n ih => rw [Memory.bytes, Memory.byte_nil, ih, List.replicate_succ]

theorem leNat_replicate_zero (n : Nat) : leNat (List.replicate n 0) = 0 := by
  induction n with
  | zero => rfl
  | succ n ih => rw [List.replicate_succ, leNat, ih]; rfl

@[simp] theorem Memory.nat_nil (a n : Nat) : Memory.nat [] a n = 0 := by
  rw [Memory.nat, Memory.bytes_nil, leNat_replicate_zero]

/-! ## What the reset state lists and reads -/

@[simp] theorem State.reset_mem : State.reset.mem = [] := rfl
@[simp] theorem State.reset_host : State.reset.host = [] := rfl
@[simp] theorem State.reset_owners : State.reset.owners = [] := rfl
@[simp] theorem State.reset_ctx (c : Nat) : State.reset.ctx c = {} := rfl
@[simp] theorem State.reset_queue (q : Nat) : State.reset.queue q = {} := rfl
@[simp] theorem State.reset_port (p : Nat) : State.reset.port p = {} := rfl
@[simp] theorem State.reset_die (d : Nat) : State.reset.die d = {} := rfl

/-- Settles O46: the fields that reset gives outright hold by definition; contexts, queues, ports, dies and owners are the
defaults of empty files; both memories list nothing. -/
theorem resetState : Obligations.ResetState := by
  unfold Obligations.ResetState
  have owners (f : Nat) : Assoc.getD State.reset.owners f .none = .none := by rw [State.reset_owners, Assoc.getD_nil]
  have memories (a n : Nat) : State.reset.mem.nat a n = 0 ∧ State.reset.host.nat a n = 0 := by
    rw [State.reset_mem, State.reset_host, Memory.nat_nil, and_self]
  refine ⟨rfl, rfl, rfl, fun c => ?free, fun q => ?queueFree, fun p => ?down, owners, rfl, rfl, fun d => ?detached,
    rfl, rfl, rfl, rfl, ?canonical, ?hostCanonical, memories⟩
  case free => rw [State.reset_ctx]
  case queueFree => rw [State.reset_queue]
  case down => rw [State.reset_port]
  case detached => rw [State.reset_die]
  case canonical => rw [State.reset_mem, Memory.wf_nil]
  case hostCanonical => rw [State.reset_host, Memory.wf_nil]

end Sys2Proof.Machine
end

section
/-! SUPPORT. The round trips of the encoding (R54, R57 to R74): every instruction's words decode to it, read as words or as bytes,
and every word that is an instruction is the one its fields give back. -/

namespace Sys2Proof

/-! ## The forms by length code (Table 3-1) -/

theorem lengthCode_cases (l : BitVec 2) : l = 0#2 ∨ l = 1#2 ∨ l = 2#2 ∨ l = 3#2 := by revert l; decide

section forms
variable {w0 : Word} (w1 w2 : Word)

theorem decodeWords_long (h : w0.extractLsb' 0 2 = 1#2) :
    decodeWords w0 w1 w2 = orUnassigned w0 (decodeLong (w1 ++ w0) none) := by
  simp only [decodeWords, h]; rfl

theorem decodeWords_literal (h : w0.extractLsb' 0 2 = 2#2) :
    decodeWords w0 w1 w2 = orUnassigned w0 (decodeLong (w1 ++ w0) (some w2)) := by
  simp only [decodeWords, h]; rfl

theorem decodeWords_header (h : w0.extractLsb' 0 2 = 3#2) :
    decodeWords w0 w1 w2 = .ok (.sectionHeader (headerOf (w1 ++ w0))) := by
  simp only [decodeWords, h]; rfl

theorem lengthWords_eq {l : BitVec 2} (h : w0.extractLsb' 0 2 = l) :
    lengthWords w0 = if l = 0 then 1 else if l = 2 then 3 else 2 := by rw [lengthWords, h]

end forms

theorem lengthWords_cases (w0 : Word) : lengthWords w0 = 1 ∨ lengthWords w0 = 2 ∨ lengthWords w0 = 3 := by
  rcases lengthCode_cases (w0.extractLsb' 0 2) with h | h | h | h <;> rw [lengthWords_eq h] <;> decide

/-- Words that the form of the first word does not have are not read. -/
theorem decodeWords_congr {w0 w1 w2 v1 v2 : Word} (h1 : 1 < lengthWords w0 → w1 = v1) (h2 : 2 < lengthWords w0 → w2 = v2) :
    decodeWords w0 w1 w2 = decodeWords w0 v1 v2 := by
  rcases lengthCode_cases (w0.extractLsb' 0 2) with h | h | h | h <;> rw [lengthWords_eq h] at h1 h2
  · rw [decodeWords_short h, decodeWords_short h]
  · rw [decodeWords_long _ _ h, decodeWords_long _ _ h, h1 (by decide)]
  · rw [decodeWords_literal _ _ h, decodeWords_literal _ _ h, h1 (by decide), h2 (by decide)]
  · rw [decodeWords_header _ _ h, decodeWords_header _ _ h, h1 (by decide)]

/-! ## Words as bytes -/

theorem Word.length_bytes (w : Word) : w.bytes.length = 4 := rfl

theorem length_flatMap_bytes (ws : List Word) : (ws.flatMap Word.bytes).length = 4 * ws.length := by
  induction ws with
  | nil => rfl
  | cons w ws ih => rw [List.flatMap_cons, List.length_append, ih, Word.length_bytes, List.length_cons]; omega

theorem wordAt_zero (w : Word) (l : List Byte) : wordAt (w.bytes ++ l) 0 = w := by
  show w.extractLsb' 24 8 ++ w.extractLsb' 16 8 ++ w.extractLsb' 8 8 ++ w.extractLsb' 0 8 = w
  simp (disch := omega) only [BitVec.extractLsb'_append_extractLsb'_eq_extractLsb']
  exact BitVec.extractLsb'_eq_self

theorem wordAt_succ (w : Word) (l : List Byte) (k : Nat) : wordAt (w.bytes ++ l) (k + 1) = wordAt l k := by
  have h (j : Nat) : (w.bytes ++ l).getD (j + 4) 0 = l.getD j 0 := rfl
  rw [wordAt, wordAt, show 4 * (k + 1) + 3 = 4 * k + 3 + 4 by omega, show 4 * (k + 1) + 2 = 4 * k + 2 + 4 by omega,
    show 4 * (k + 1) + 1 = 4 * k + 1 + 4 by omega, show 4 * (k + 1) = 4 * k + 4 by omega, h, h, h, h]

/-- A word of the bytes of a list of words is that word of the list. -/
theorem wordAt_flatMap (ws : List Word) (rest : List Byte) {k : Nat} (h : k < ws.length) :
    wordAt (ws.flatMap Word.bytes ++ rest) k = ws.getD k 0 := by
  induction ws generalizing k with
  | nil => exact absurd h (Nat.not_lt_zero _)
  | cons w ws ih =>
    rw [List.flatMap_cons, List.append_assoc]
    cases k with
    | zero => rw [wordAt_zero, List.getD_cons_zero]
    | succ k => rw [wordAt_succ, List.getD_cons_succ, ih (Nat.lt_of_succ_lt_succ h)]

/-- Words that decode decode as bytes as well, and the bytes behind them stay (R54). -/
theorem decodeBytes_flatMap {ws : List Word} (h : lengthWords (ws.headD 0) = ws.length) (rest : List Byte) :
    decodeBytes (ws.flatMap Word.bytes ++ rest) = some (decodeEncoded ws, rest) := by
  have hl := length_flatMap_bytes ws
  have hpos : 0 < ws.length := by rcases lengthWords_cases (ws.headD 0) with e | e | e <;> omega
  have h0 : wordAt (ws.flatMap Word.bytes ++ rest) 0 = ws.headD 0 := by
    rw [wordAt_flatMap ws rest hpos]; cases ws <;> rfl
  have hn : ¬ ((ws.flatMap Word.bytes ++ rest).length < 4 ∨ (ws.flatMap Word.bytes ++ rest).length < 4 * ws.length) := by
    rw [List.length_append, hl]; omega
  rw [decodeBytes]
  simp only [h0, h]
  rw [if_neg hn, decodeWords_congr (fun k => wordAt_flatMap ws rest (h ▸ k)) (fun k => wordAt_flatMap ws rest (h ▸ k)), ← hl,
    List.drop_left]
  rfl

/-! ## Every instruction -/

/-- The lemmas of the single instructions, in the order of the constructors. -/
theorem words_decode (i : Instr) : Laws.RoundTrip.Statement i := by
  open Laws.RoundTrip in
  exact Instr.casesOn (motive := Statement) i
      nop nopLong add addLong sub subLong mul mulLong mulh mulhLong div divLong rem remLong and andLong or orLong xor xorLong andn
      andnLong shl shlLong shr shrLong sar sarLong rot rotLong min minLong max maxLong abs absLong clz clzLong ctz ctzLong popc
      popcLong bfx bfxLong bfi bfiLong sel selLong mov movLong movi moviHi lea leaLong cmp cmpLong fadd faddLong fsub fsubLong
      fmul fmulLong ffma ffmaLong fmin fminLong fmax fmaxLong fcmp fcmpLong fcvt fcvtLong fdiv fdivLong fsqrt fsqrtLong fneg
      fnegLong fclass fclassLong pand pandLong por porLong pxor pxorLong pnot pnotLong pmov pmovLong pset psetLong br brLong brr
      call callLong ret retLong loop bloop bloopLong lbrk rbset fork join rdv rdvLong halt haltLong exit exitSucc qbind qfree
      qstat stbind ststop ldp stp lds sts ldn stn ldg stg ldx stx ldh sth ams amn amg amx amh qmark rfence cflush pfch tlwait
      tlinc tlread tlset bar barx cwait cpstat launch rsdecl rsdrop rsread tlnext cpmarkBeg cpmarkEnd tmark brk ccnt ccntLong sys
      trap eret csrr csrw ovtld tlbinv vadd vsub vmul vfma vmin vmax vabs vneg vcmp vsel vcvt vand vor vxor vshl vshr vclamp vexp
      vexp2 vlog vlog2 vrcp vrsq vsqrt vtanh vsigm vred vscan vdot vperm vgath vscat vmov vfill visect vhash vcnt vcmpr vscale
      sdef sset sget sadv sfmt mlease mfree mclaim mrel mload mbeg mend mmul mzero mstore mbmap mstat cpy cpt cpg cps cpm cpc cpz
      cpk vdec venc flow cmrun sectionHeader unassignedOpcode sectionWaitSatisfied queuePopResume queuePushResume joinComplete
      transferWaitEnd tableWaitEnd engineQueueSpace scalarEngineWaitEnd loadDataReturn linkCompletion runLimitExpiry stopRequest
      freezeWindowExpiry imageResultReturn imageComplete dispatchChoice preemptionTimeout parkTimeout parkedWaitReread
      timelineWaitRelease hostLaunchAccept launchComplete exitCarveStallEnd claimReleaseAtExit contextCreate contextUpdate
      contextSuspend contextSuspended contextResume contextDestroy contextDestroyFinish queueCreate queueUpdate queueStop
      queueRestart queuePoison queueDestroy queueDestroyFinish thresholds deviceModes timelinePoisonCommand frameOwnerNone
      frameOwnerShared frameOwnerContext traceRing hoopOffline hoopOnline linkDisable linkEnable linkRetrain stage switch
      debugUnlock sensorSample clampPoint2Timeout patrolScrub boot linkTrained linkTrainingTimeout linkUncorrectableError
      surpriseRemoval completionTimeout hostMrd hostMwr hostAtomicop peerRequest tracePacketWrite lossCountPacket debugHalt
      debugResume accessRegister accessMemory debugErrClear cordonnetWalk decodeRun encodeRun flowRun changeMaskRun
      hostAssistedRunRelease runEnd runQueueEntryFree copyCommandStart copyCommandComplete streamStart streamEnd leaseGrant
      leaseIdleTimeout mfreeAtHead matrixCommandStart matrixCommandComplete vectorCommandComplete zeroingComplete
      frameZeroingComplete pagerService pageFaultServiceObserved migrationRequest barrierPost ptmTimeUpdate linkCorrectableError
      spdmRequest hbmRecalibration

/-- Settles O43: the words of every instruction decode to it, and so do their bytes. -/
theorem roundTrip : Obligations.RoundTrip := by
  unfold Obligations.RoundTrip
  intro i rest he hv hw
  obtain ⟨hl, hd⟩ := words_decode i he hv hw
  rw [Instr.bytes, decodeBytes_flatMap hl, hd]

end Sys2Proof
end

section
/-! SUPPORT. Every bit of a word that decodes stands in a field of the instruction (R54, R57, R60, R62, R66, R70, R72, R74). -/

namespace Sys2Proof

/-! ## Fields of a word put together again -/

theorem ofBool_getLsbD (w : DWord) (k : Nat) : BitVec.ofBool (w.getLsbD k) = w.extractLsb' k 1 := by
  refine BitVec.eq_of_getLsbD_eq fun i hi => ?_
  obtain rfl : i = 0 := by omega
  simp only [Nat.lt_add_one, BitVec.getLsbD_eq_getElem, BitVec.getElem_ofBool, BitVec.getElem_extractLsb', Nat.add_zero]

/-- Bits of a field are bits of the word. -/
theorem extractLsb'_field (w : DWord) (lo : Nat) {m start n : Nat} (h : start + n ≤ m) :
    (field w lo m).extractLsb' start n = field w (lo + start) n := by
  refine BitVec.eq_of_getLsbD_eq fun i hi => ?_
  rw [field, field, BitVec.getLsbD_extractLsb', BitVec.getLsbD_extractLsb', BitVec.getLsbD_extractLsb', decide_eq_true hi,
    decide_eq_true (by omega), Nat.add_assoc]
  rfl

/-- The fields that every long form has make up the word (Table 3-4). -/
theorem packLong_fields (w : DWord) (m : BitVec 19) (hm : m = field w 45 19) :
    packLong (field w 2 8).toNat (w.extractLsb' 0 2) (guardOf w) (field w 18 9) (field w 27 9) (field w 36 9) m = w := by
  simp (disch := omega) only [hm, packLong, guardOf, field, BitVec.ofNat_toNat, BitVec.setWidth_eq, ofBool_getLsbD,
    BitVec.extractLsb'_append_extractLsb'_eq_extractLsb']
  exact BitVec.extractLsb'_eq_self

theorem headerOf_fields {w : DWord} (h : w.extractLsb' 0 2 = 3) : (View.header (headerOf w)).encode = longWords w none := by
  rw [View.encode, ← h]
  simp (disch := omega) only [headerOf, field, BitVec.extractLsb'_append_extractLsb'_eq_extractLsb']
  rw [show w.extractLsb' 0 (12 + 12 + 12 + 14 + 12 + 2) = w from BitVec.extractLsb'_eq_self]

/-- Operand B, its flag and M[8:0] lose nothing (R62, R63). -/
theorem srcOf_fields {lit : Option Word} {w : DWord} {b : Src} (h : srcOf lit w = .ok b) :
    b.literal = lit ∧ b.code9 = field w 36 9 ∧ b.high9 = field w 45 9 ∧ b.immFlag = w.getLsbD 63 := by
  unfold srcOf at h
  split at h
  · split at h
    · rename_i k
      obtain ⟨k1, k2, k3⟩ := k
      cases h
      exact ⟨rfl, k1.symm, k2.symm, k3.symm⟩
    · cases h
  · split at h
    · rename_i k
      cases h
      refine ⟨rfl, ?_, ?_, k.symm⟩
      · exact BitVec.extractLsb'_append_eq_right
      · exact BitVec.extractLsb'_append_eq_left
    · rename_i k
      split at h
      · rename_i k1
        cases h
        exact ⟨rfl, rfl, k1.symm, (eq_false_of_ne_true k).symm⟩
      · cases h

/-- A bit that is not set, as a field. -/
theorem zero_bit {w : DWord} {k : Nat} (h : ¬w.getLsbD k = true) : (0 : BitVec 1) = w.extractLsb' k 1 := by
  rw [← ofBool_getLsbD, eq_false_of_ne_true h]
  rfl

/-! ## The words of each layout -/

section literal
variable {lit : Option Word} {w : DWord} (hl : w.extractLsb' 0 2 = if lit.isSome then 2 else 1)
include hl

theorem aluOf_fields {x : Alu} (h : aluOf lit w = .ok x) : (View.alu (field w 2 8).toNat x).encode = longWords w lit := by
  unfold aluOf at h
  split at h
  · cases h
  · rename_i b hb
    obtain ⟨k1, k2, k3, k4⟩ := srcOf_fields hb
    split at h
    · cases h
    · rename_i hr
      cases h
      rw [View.encode]
      simp only [Src.lcode, k1, k2, k3, k4, ← hl]
      rw [packLong_fields]
      rw [zero_bit hr]
      simp (disch := omega) only [ofBool_getLsbD, field, BitVec.extractLsb'_append_extractLsb'_eq_extractLsb']

theorem genOf_fields {x : Gen} (h : genOf lit w = .ok x) : (View.gen (field w 2 8).toNat x).encode = longWords w lit := by
  unfold genOf at h
  split at h
  · cases h
  · rename_i b hb
    obtain ⟨k1, k2, k3, k4⟩ := srcOf_fields hb
    cases h
    rw [View.encode]
    simp only [Src.lcode, k1, k2, k3, k4, ← hl]
    rw [packLong_fields]
    simp (disch := omega) only [ofBool_getLsbD, field, BitVec.extractLsb'_append_extractLsb'_eq_extractLsb']

theorem vecOf_fields {x : Vec} (h : vecOf lit w = .ok x) : (View.vec (field w 2 8).toNat x).encode = longWords w lit := by
  unfold vecOf at h
  split at h
  · cases h
  · rename_i hr
    split at h
    · rename_i l
      split at h
      · rename_i hb
        cases h
        have hc : (Src.lit l).lcode = w.extractLsb' 0 2 := hl.symm
        rw [View.encode]
        simp only [hc, Src.literal, Src.code9, ← hb]
        rw [packLong_fields]
        rw [zero_bit hr]
        simp (disch := omega) only [ofBool_getLsbD, field, BitVec.extractLsb'_append_extractLsb'_eq_extractLsb']
      · cases h
    · cases h
      have hc : (Src.code (field w 36 9)).lcode = w.extractLsb' 0 2 := hl.symm
      rw [View.encode]
      simp only [hc, Src.literal, Src.code9]
      rw [packLong_fields]
      rw [zero_bit hr]
      simp (disch := omega) only [ofBool_getLsbD, field, BitVec.extractLsb'_append_extractLsb'_eq_extractLsb']

end literal

section long
variable {w : DWord} (hl : w.extractLsb' 0 2 = 1)
include hl

theorem brOf_fields : (View.br (field w 2 8).toNat (brOf w)).encode = longWords w none := by
  have low : (field w 36 28).extractLsb' 0 9 = field w 36 9 := extractLsb'_field w 36 (by decide)
  have high : (field w 36 28).extractLsb' 9 19 = field w 45 19 := extractLsb'_field w 36 (by decide)
  rw [View.encode, ← hl]
  simp only [brOf, low]
  rw [packLong_fields _ _ high]

theorem memOf_fields : (View.mem (field w 2 8).toNat (memOf w)).encode = longWords w none := by
  rw [View.encode, ← hl]
  simp only [memOf]
  rw [packLong_fields]
  simp (disch := omega) only [ofBool_getLsbD, field, BitVec.extractLsb'_append_extractLsb'_eq_extractLsb']

theorem amoOf_fields : (View.amo (field w 2 8).toNat (amoOf w)).encode = longWords w none := by
  rw [View.encode, ← hl]
  simp only [amoOf]
  rw [packLong_fields]
  simp (disch := omega) only [ofBool_getLsbD, field, BitVec.extractLsb'_append_extractLsb'_eq_extractLsb']

theorem matOf_fields {x : Mat} (h : matOf w = .ok x) : (View.mat (field w 2 8).toNat x).encode = longWords w none := by
  unfold matOf at h
  split at h
  · rename_i hr
    cases h
    rw [View.encode, ← hl, ← hr]
    simp only []
    rw [packLong_fields]
    simp (disch := omega) only [ofBool_getLsbD, field, BitVec.extractLsb'_append_extractLsb'_eq_extractLsb']
  · cases h

theorem cpyOf_fields {x : Cpy} (h : cpyOf w = .ok x) : (View.cpy (field w 2 8).toNat x).encode = longWords w none := by
  unfold cpyOf at h
  split at h
  · rename_i hr
    cases h
    rw [View.encode, ← hl, ← hr]
    simp only []
    rw [packLong_fields]
    simp (disch := omega) only [ofBool_getLsbD, field, BitVec.extractLsb'_append_extractLsb'_eq_extractLsb']
  · cases h

end long

theorem shortOf_fields {w0 : Word} (h : w0.extractLsb' 0 2 = 0) :
    (View.short (w0.extractLsb' 2 8).toNat (shortOf w0)).encode = [w0] := by
  rw [View.encode, ← h]
  simp (disch := omega) only [shortOf, BitVec.ofNat_toNat, BitVec.setWidth_eq,
    BitVec.extractLsb'_append_extractLsb'_eq_extractLsb']
  exact congrArg (fun w => [w]) BitVec.extractLsb'_eq_self

theorem shortBr_fields {w0 : Word} (h : w0.extractLsb' 0 2 = 0) :
    (View.shortBr (w0.extractLsb' 2 8).toNat (w0.extractLsb' 10 22)).encode = [w0] := by
  rw [View.encode, ← h]
  simp (disch := omega) only [BitVec.ofNat_toNat, BitVec.setWidth_eq, BitVec.extractLsb'_append_extractLsb'_eq_extractLsb']
  exact congrArg (fun w => [w]) BitVec.extractLsb'_eq_self

/-! ## The view of what an opcode stands for (Table 3-13) -/

/-- An instruction whose view is known and whose constructor is the one its fields name. -/
def Instr.isRow (i : Instr) (v : View) : Prop := i.view = v ∧ i.rowOk = true

theorem ofShort_isRow {op : Nat} {x : Short} {i : Instr} (h : ofShort op x = some i) : i.isRow (.short op x) := by
  unfold ofShort at h
  split at h <;> cases h <;> exact ⟨rfl, rfl⟩

theorem ofShortBr_isRow {op : Nat} {x : BitVec 22} {i : Instr} (h : ofShortBr op x = some i) : i.isRow (.shortBr op x) := by
  unfold ofShortBr at h
  split at h <;> cases h <;> exact ⟨rfl, rfl⟩

theorem ofBr_isRow {op : Nat} {x : Br} {i : Instr} (h : ofBr op x = some i) : i.isRow (.br op x) := by
  unfold ofBr at h
  split at h <;> cases h <;> exact ⟨rfl, rfl⟩

theorem ofMem_isRow {op : Nat} {x : Mem} {i : Instr} (h : ofMem op x = some i) : i.isRow (.mem op x) := by
  unfold ofMem at h
  split at h <;> cases h <;> exact ⟨rfl, rfl⟩

theorem ofAmo_isRow {op : Nat} {x : Amo} {i : Instr} (h : ofAmo op x = some i) : i.isRow (.amo op x) := by
  unfold ofAmo at h
  split at h <;> cases h <;> exact ⟨rfl, rfl⟩

theorem ofVec_isRow {op : Nat} {x : Vec} {i : Instr} (h : ofVec op x = some i) : i.isRow (.vec op x) := by
  unfold ofVec at h
  split at h <;> cases h <;> exact ⟨rfl, rfl⟩

theorem ofMat_isRow {op : Nat} {x : Mat} {i : Instr} (h : ofMat op x = some i) : i.isRow (.mat op x) := by
  unfold ofMat at h
  split at h <;> cases h <;> exact ⟨rfl, rfl⟩

theorem ofCpy_isRow {op : Nat} {x : Cpy} {i : Instr} (h : ofCpy op x = some i) : i.isRow (.cpy op x) := by
  unfold ofCpy at h
  split at h <;> cases h <;> exact ⟨rfl, rfl⟩

theorem ofAlu_isRow {op : Nat} {x : Alu} {i : Instr} (h : ofAlu op x = some i) : i.isRow (.alu op x) := by
  unfold ofAlu at h
  split at h
  case h_26 =>
    cases h
    split
    · rename_i k; exact ⟨rfl, k⟩
    · rename_i k; exact ⟨rfl, by simp only [Instr.rowOk, eq_false_of_ne_true k, Bool.not_false]⟩
  all_goals cases h <;> exact ⟨rfl, rfl⟩

theorem ofGen_isRow {op : Nat} {x : Gen} {i : Instr} (h : ofGen op x = some i) : i.isRow (.gen op x) := by
  unfold ofGen at h
  split at h
  case h_8 =>
    cases h
    split
    · rename_i k; exact ⟨rfl, k⟩
    · rename_i k; exact ⟨rfl, by simp only [Instr.rowOk, eq_false_of_ne_true k, Bool.not_false]⟩
  case h_29 =>
    cases h
    split
    · rename_i k; exact ⟨rfl, by simp only [Instr.rowOk, k, beq_self_eq_true]⟩
    · rename_i k; exact ⟨rfl, bne_iff_ne.mpr k⟩
  all_goals cases h <;> exact ⟨rfl, rfl⟩

/-! ## The forms that exist -/

theorem aluOf_literal {lit : Option Word} {w : DWord} {x : Alu} (h : aluOf lit w = .ok x) : x.b.literal = lit := by
  unfold aluOf at h
  split at h
  · cases h
  · rename_i hb
    split at h <;> cases h
    exact (srcOf_fields hb).1

theorem genOf_literal {lit : Option Word} {w : DWord} {x : Gen} (h : genOf lit w = .ok x) : x.b.literal = lit := by
  unfold genOf at h
  split at h <;> cases h
  rename_i hb
  exact (srcOf_fields hb).1

/-- Operand B of the VEC layout is the literal of the literal form, and a code of the long form (R166). -/
theorem vecOf_src {lit : Option Word} {w : DWord} {x : Vec} (h : vecOf lit w = .ok x) :
    x.b = lit.elim (.code (field w 36 9)) .lit := by
  unfold vecOf at h
  split at h
  · cases h
  · split at h
    · split at h <;> cases h
      rfl
    · cases h
      rfl

theorem formOk_alu {op : Nat} {x : Alu} (h : (x.b.literal.isSome && !hasLiteral op) = false) : (View.alu op x).formOk = true := by
  rw [View.formOk]
  revert h
  cases x.b <;> simp only [Src.literal, Option.isSome_none, Option.isSome_some, Bool.false_and, Bool.true_and,
    Bool.not_eq_eq_eq_not, Bool.not_false, imp_self]

theorem formOk_gen {op : Nat} {x : Gen} (h : x.b.literal = none) : (View.gen op x).formOk = true := by
  rw [View.formOk]
  revert h
  cases x.b <;> simp only [Src.literal, reduceCtorEq, Bool.false_eq_true, imp_self]

theorem formOk_vec {op : Nat} {x : Vec} {lit : Option Word} {c : BitVec 9}
    (hb : x.b = lit.elim (.code c) .lit) (h : (lit.isSome && !hasLiteral op) = false) :
    (View.vec op x).formOk = true := by
  rw [View.formOk, hb]
  cases lit with
  | none => rfl
  | some l => simpa only [Option.elim_some, Option.isSome_some, Bool.true_and, Bool.not_eq_eq_eq_not, Bool.not_false] using h

/-- Only the ALU and VEC layouts have a literal form (R63). -/
theorem layoutOf_of_hasLiteral : ∀ op < 256, hasLiteral op = true → layoutOf op = some .alu ∨ layoutOf op = some .vec := by
  decide +kernel

/-- The words of an instruction that some word encodes. -/
def Instr.hasWords (i : Instr) (l : List Word) : Prop := i.encode = l ∧ i.encodable = true ∧ i.view ≠ .event

theorem Instr.isRow.hasWords {i : Instr} {v : View} {l : List Word} (h : i.isRow v) (hf : v.formOk = true) (hv : v ≠ .event)
    (he : v.encode = l) : i.hasWords l := by
  obtain ⟨rfl, hr⟩ := h
  exact ⟨he, by rw [Instr.encodable, hr, hf]; rfl, hv⟩

theorem except_map_ok {ε α β : Type} {e : Except ε α} {f : α → β} {b : β} (h : e.map f = .ok b) :
    ∃ a, e = .ok a ∧ f a = b := by
  cases e with
  | error e => cases h
  | ok a => exact ⟨a, rfl, Except.ok.inj h⟩

/-- A long or literal form that decodes has the words it came from. -/
theorem decodeLong_hasWords {w : DWord} {lit : Option Word} {i : Instr} (hl : w.extractLsb' 0 2 = if lit.isSome then 2 else 1)
    (h : decodeLong w lit = .ok (some i)) : i.hasWords (longWords w lit) := by
  have ho : (field w 2 8).toNat < 256 := (field w 2 8).isLt
  unfold decodeLong at h
  simp only at h
  split at h
  · cases h
  · rename_i hx
    have hx := eq_false_of_ne_true hx
    have long {y : Layout} (hy : layoutOf (field w 2 8).toNat = some y) (ha : y ≠ .alu) (hv : y ≠ .vec) : lit = none := by
      cases lit with
      | none => rfl
      | some l =>
        have lit : hasLiteral (field w 2 8).toNat = true := by
          simpa only [Option.isSome_some, Bool.true_and, Bool.not_eq_eq_eq_not, Bool.not_false] using hx
        rcases layoutOf_of_hasLiteral _ ho lit with e | e <;> cases hy.symm.trans e
        · exact absurd rfl ha
        · exact absurd rfl hv
    split at h
    case h_1 => cases h
    case h_2 =>
      obtain ⟨x, hx', hi⟩ := except_map_ok h
      exact (ofAlu_isRow hi).hasWords (formOk_alu (by rw [aluOf_literal hx', hx])) nofun (aluOf_fields hl hx')
    case h_3 hy =>
      obtain ⟨x, hx', hi⟩ := except_map_ok h
      obtain rfl := long hy nofun nofun
      exact (ofGen_isRow hi).hasWords (formOk_gen (genOf_literal hx')) nofun (genOf_fields hl hx')
    case h_4 hy =>
      obtain rfl := long hy nofun nofun
      exact (ofBr_isRow (Except.ok.inj h)).hasWords rfl nofun (brOf_fields hl)
    case h_5 hy =>
      obtain rfl := long hy nofun nofun
      exact (ofMem_isRow (Except.ok.inj h)).hasWords rfl nofun (memOf_fields hl)
    case h_6 hy =>
      obtain rfl := long hy nofun nofun
      exact (ofAmo_isRow (Except.ok.inj h)).hasWords rfl nofun (amoOf_fields hl)
    case h_7 =>
      obtain ⟨x, hx', hi⟩ := except_map_ok h
      exact (ofVec_isRow hi).hasWords (formOk_vec (vecOf_src hx') hx) nofun (vecOf_fields hl hx')
    case h_8 hy =>
      obtain ⟨x, hx', hi⟩ := except_map_ok h
      obtain rfl := long hy nofun nofun
      exact (ofMat_isRow hi).hasWords rfl nofun (matOf_fields hl hx')
    case h_9 hy =>
      obtain ⟨x, hx', hi⟩ := except_map_ok h
      obtain rfl := long hy nofun nofun
      exact (ofCpy_isRow hi).hasWords rfl nofun (cpyOf_fields hl hx')

/-- A short form that decodes has the word it came from. -/
theorem decodeShort_hasWords {w0 : Word} {i : Instr} (hl : w0.extractLsb' 0 2 = 0) (h : decodeShort w0 = some i) :
    i.hasWords [w0] := by
  unfold decodeShort at h
  simp only at h
  split at h
  · rename_i hi
    cases h
    exact (ofShort_isRow hi).hasWords rfl nofun (shortOf_fields hl)
  · exact (ofShortBr_isRow h).hasWords rfl nofun (shortBr_fields hl)

theorem orUnassigned_ok {w0 : Word} {r : Except DecodeError (Option Instr)} {i : Instr} (h : orUnassigned w0 r = .ok i)
    (hi : i ≠ .unassignedOpcode w0) : r = .ok (some i) := by
  unfold orUnassigned at h
  split at h <;> cases h
  · exact absurd rfl hi
  · rfl

/-- The words that a long form keeps are the two it was read from. -/
theorem longWords_append (w0 w1 : Word) (lit : Option Word) : longWords (w1 ++ w0) lit = [w0, w1] ++ lit.toList := by
  rw [longWords, BitVec.extractLsb'_append_eq_left, BitVec.extractLsb'_append_eq_right]

/-- Settles O44: the fields of a word that decodes, put together again, are the word. -/
theorem decodeEncodes : Obligations.DecodeEncodes := by
  unfold Obligations.DecodeEncodes
  intro w0 w1 w2 i h hi
  have code : (w1 ++ w0).extractLsb' 0 2 = w0.extractLsb' 0 2 := BitVec.extractLsb'_append_eq_of_add_le (by decide)
  show i.hasWords _
  rcases lengthCode_cases (w0.extractLsb' 0 2) with l | l | l | l <;> rw [lengthWords_eq l]
  · rw [decodeWords_short l] at h
    exact decodeShort_hasWords l (Except.ok.inj (orUnassigned_ok h (hi w0)))
  · rw [decodeWords_long _ _ l] at h
    have := decodeLong_hasWords (lit := none) (code.trans l) (orUnassigned_ok h (hi w0))
    rwa [longWords_append] at this
  · rw [decodeWords_literal _ _ l] at h
    have := decodeLong_hasWords (lit := some w2) (code.trans l) (orUnassigned_ok h (hi w0))
    rwa [longWords_append] at this
  · rw [decodeWords_header _ _ l] at h
    cases h
    refine Instr.isRow.hasWords (v := .header _) ⟨rfl, rfl⟩ rfl nofun ?_
    rw [headerOf_fields (code.trans l), longWords_append]
    rfl

end Sys2Proof
end

section
/-! SUPPORT. Branches, calls and loops: where they go and where they trap (R59, R74, R108 to R110, Table 4-9). -/

namespace Sys2Proof.Machine

/-- Both forms of `ret` run one body. -/
theorem exec_ret (h : Short) (g : Gen) :
    ∀ e ∈ ([(.ret h, h.toGen), (.retLong g, g)] : List (Instr × Gen)), ∀ s,
      exec e.1 s = runStrand e.1.view (retBody e.2) s := by
  intro e he s
  simp only [List.mem_cons, List.not_mem_nil, or_false] at he
  rcases he with rfl | rfl <;> rfl

/-- Settles O8: each branch, call and loop instruction runs its body, whose lemma gives what it leaves and where it goes. -/
theorem branchResults : Obligations.BranchResults := by
  unfold Obligations.BranchResults
  refine ⟨fun s disp x g h => ⟨fun ha => ?br, fun ha => ?brLong, fun ha hr => ?call, fun ha hr => ?callLong,
    fun ha hr k => ?brr, ?ret⟩, fun s disp x g => ⟨fun ha hr => ?loop, fun k i rest hl => ⟨?bloop, fun ha => ?lbrk⟩,
    fun ha hr => ?rbset⟩⟩
  case br => exact runStrand_jump ha (branchBody_ok disp s)
  case brLong => exact runStrand_jump ha (branchBody_ok x.disp s)
  case call => exact runStrand_jump ha (callBody_ok 31 disp 4 hr)
  case callLong => exact runStrand_jump ha (callBody_ok x.d.toNat x.disp 8 hr)
  case brr => exact runStrand_jump ha (brrBody_ok hr k)
  case ret =>
    intro e he ha hr k
    rw [exec_ret h g e he]
    exact runStrand_jump ha (retBody_ok hr k)
  case loop => exact ⟨fun n => runStrand_jump ha (loopBody_zero hr n), fun n m => runStrand_next ha (loopBody_push hr n m)⟩
  case bloop =>
    intro e he ha
    simp only [List.mem_cons, List.not_mem_nil, or_false] at he
    rcases he with rfl | rfl
    · exact ⟨fun m => runStrand_jump ha (bloopBody_again disp hl m), fun m => runStrand_next ha (bloopBody_last disp hl m)⟩
    · exact ⟨fun m => runStrand_jump ha (bloopBody_again x.disp hl m), fun m => runStrand_next ha (bloopBody_last x.disp hl m)⟩
  case lbrk => exact runStrand_jump ha (lbrkBody_ok hl)
  case rbset => exact runStrand_next ha (rbsetBody_ok hr)

/-- Settles O9: a misaligned target and a loop stack that is empty or full raise their trap in the body. -/
theorem controlTraps : Obligations.ControlTraps := by
  unfold Obligations.ControlTraps
  intro s disp x g h
  refine ⟨fun ha hr k => ?brr, fun e he ha hr k => ?ret, fun ha hr n m => ?loop, fun i hi ha hl => ?empty⟩
  case brr =>
    obtain ⟨t, ht⟩ := brrBody_misaligned hr k
    exact runStrand_raise ha ht
  case ret =>
    obtain ⟨t, ht⟩ := retBody_misaligned hr k
    rw [exec_ret h g e he]
    exact runStrand_raise ha ht
  case loop =>
    obtain ⟨t, ht⟩ := loopBody_full hr n m
    exact runStrand_raiseWord ha ht
  case empty =>
    simp only [List.mem_cons, List.not_mem_nil, or_false] at hi
    rcases hi with rfl | rfl | rfl
    · exact runStrand_raiseWord ha (bloopBody_empty disp hl)
    · exact runStrand_raiseWord ha (bloopBody_empty x.disp hl)
    · exact runStrand_raiseWord ha (lbrkBody_empty hl)

end Sys2Proof.Machine
end

section
/-! SUPPORT. Strand control (R81, R94, R111, Table 4-1). -/

namespace Sys2Proof.Machine

/-! ## rdv and halt -/

theorem leaveAs_cur (st : StrandState) (size : Nat) {s : State} {r : StrandRef} (h : s.cur = r) :
    leaveAs st size s = .ok .gone (
      let p := (s.issue r).drain r
      (p.updCur fun d =>
        { d with pc := d.pc + BitVec.ofNat 64 size, state := st, held := none, ended := p.cycle }).boundary r) := by
  subst h
  rw [leaveAs_ok]
  simp only [State.cur_issue, State.cur_drain]

theorem haltBody_engine (size : Nat) {s : State} (h : s.cur.unit ≠ .main) :
    haltBody size s = leaveAs .halted size (s.dropEnds s.cur.task (strandEnd s.cur.unit)) := by
  rw [haltBody, bind_ok (get_apply s)]
  cases hu : s.cur.unit with
  | main => exact absurd hu h
  | _ => exact bind_ok (modify_apply _ s)

theorem haltBody_attached (size : Nat) {s : State} (h : s.cur.unit = .main) (k : s.attached s.cur.task = true) :
    haltBody size s = .ok .gone (((s.issue s.cur).updCur fun d =>
      { d with pc := s.curStrand.pc + BitVec.ofNat 64 size, held := none }).debugStop s.cur.task 3 0
        (some (.main, s.curStrand.pc))) := by
  rw [haltBody, bind_ok (get_apply s)]
  simp only [h, k, if_true]
  rw [issueNow, bind_ok (modify_apply _ s), bind_ok (modifyCur_apply _ _), bind_ok (modify_apply _ _)]
  generalize ht : s.issue s.cur = t
  have hc : t.cur = s.cur := by rw [← ht, State.cur_issue]
  rw [← hc]
  exact pure_apply _ _

theorem haltBody_alone (size : Nat) {s : State} (h : s.cur.unit = .main) (k : s.attached s.cur.task = false) :
    haltBody size s = .error (.trap { cause := 37 }) s := by
  rw [haltBody, bind_ok (get_apply s)]
  simp only [h, k, Bool.false_eq_true, if_false]
  rfl

/-! ## fork -/

/-- The entry of a `fork`: an address in a register, or a displacement in words from the `fork` (R111). -/
def State.forkEntry (s : State) (b : Src) : DWord :=
  match b with
  | .code _ => s.valueB b
  | _ => s.curStrand.pc + (s.valueB b <<< 2)

theorem forkBody_live {x : Gen} {s : State} (h : (s.curTask.strand (unitOf (x.fn.toNat % 4))).live = true) :
    forkBody x s = .error (.trap { cause := 9 }) s := by
  rw [forkBody, bind_ok (get_apply s)]
  simp only [h, if_true]
  rfl

theorem forkBody_misaligned {x : Gen} {s : State} (live : (s.curTask.strand (unitOf (x.fn.toNat % 4))).live = false)
    (h : s.ready (Src.codes x.b) none = true) (k : s.forkEntry x.b &&& 3 ≠ 0) :
    ∃ t, forkBody x s = .error (.trap { cause := 6, value := some (s.forkEntry x.b) }) t := by
  rw [forkBody, bind_ok (get_apply s)]
  simp only [live, Bool.false_eq_true, if_false]
  rw [bind_ok (operandB_ok h), bind_ok (modify_apply _ _)]
  exact ⟨_, congrFun (if_pos (bne_iff_ne.mpr k)) _⟩

/-- A requested stop is the same after a strand's pending accesses have performed. -/
theorem State.stopReq_drain (s : State) (r : StrandRef) : ((s.drain r).task r.task).stopReq = (s.task r.task).stopReq := by
  obtain ⟨-, -, l, p, h⟩ := s.sameButPending_drain r
  rw [h, Task.setStrand_stopReq]

/-- The strand that a completed `fork` leaves when no stop is requested. -/
theorem strand_forked {s : State} (codes : List Nat) (u : UnitId) (e : Edge) (d : Strand) (h : s.curTask.stopReq = none) :
    let p := (s.popCodes codes).drain (s.popCodes codes).cur
    ((((p.taskEdge p.cur.task e).setStrand ⟨p.cur.task, u⟩ d).boundary ⟨p.cur.task, u⟩).strand ⟨s.cur.task, u⟩) = d := by
  intro p
  have hc : p.cur = s.cur := by rw [State.cur_drain, popCodes_cur]
  have hs : (p.task p.cur.task).stopReq = none := by
    rw [State.cur_drain, State.stopReq_drain, popCodes_cur, popCodes_task]
    exact h
  rw [State.boundary_none (by rw [State.task_setStrand, Task.setStrand_stopReq, State.task_taskEdge, hs]), hc,
    State.strand_setStrand]

/-- Settles O10: the lemma of each body, with what `fork` leaves of the strand it starts. -/
theorem strandControl : Obligations.StrandControl := by
  unfold Obligations.StrandControl
  intro s x g
  refine ⟨fun ha hr => ?fork, ?rdv, ?halt, fun ha h1 h2 h3 k => ?join, fun ha live => ?live, fun ha hr => ?misaligned⟩
  case fork =>
    intro u entry live al pend stop _
    have hp : ((List.range 15).any fun k => s.curStrand.pendingG (k + 1)) = false :=
      List.any_eq_false.mpr fun k hk => Bool.eq_false_iff.mp (pend k (List.mem_range.mp hk))
    refine ⟨_, runStrand_next ha (forkBody_ok live hr al hp), ?_⟩
    intro n
    have hn : n = forkedStrand s.curStrand (s.curTask.strand u) entry := strand_forked _ u _ _ stop
    rw [hn]
    exact ⟨rfl, rfl, rfl, rfl, rfl, rfl, rfl, rfl, rfl, rfl, rfl, rfl, rfl, rfl⟩
  case rdv =>
    intro e he ha
    simp only [List.mem_cons, List.not_mem_nil, or_false] at he
    rcases he with rfl | rfl
    · exact runStrand_gone ha (leaveAs_cur .rendezvous 4 rfl)
    · exact runStrand_gone ha (leaveAs_cur .rendezvous 8 rfl)
  case halt =>
    have body : ∀ e ∈ ([(.halt x, 4), (.haltLong g, 8)] : List (Instr × Nat)), ∀ t,
        exec e.1 t = runStrand e.1.view (haltBody e.2) t := by
      intro e he t
      simp only [List.mem_cons, List.not_mem_nil, or_false] at he
      rcases he with rfl | rfl <;> rfl
    intro e he ha
    rw [body e he]
    refine ⟨fun hu => ?_, fun hu k => ?_, fun hu k => ?_⟩
    · exact runStrand_gone ha ((haltBody_engine e.2 hu).trans (leaveAs_cur .halted e.2 rfl))
    · exact runStrand_gone ha (haltBody_attached e.2 hu k)
    · exact runStrand_raiseWord ha (haltBody_alone e.2 hu k)
  case join => exact runStrand_next ha (joinBody_ok h1 h2 h3 k)
  case live => exact runStrand_raiseWord ha (forkBody_live live)
  case misaligned =>
    intro entry live k
    obtain ⟨t, ht⟩ := forkBody_misaligned live hr k
    exact runStrand_raise ha ht

end Sys2Proof.Machine
end

section
/-! SUPPORT. Section headers (R77 to R82, Table 3-12). -/

namespace Sys2Proof.Machine

/-- What `drain` leaves of its strand: everything but what is pending. -/
theorem State.strand_drain (s : State) (r : StrandRef) :
    ∃ l p, (s.drain r).strand r = { s.strand r with loads := l, stores := p } := by
  obtain ⟨-, -, l, p, h⟩ := s.sameButPending_drain r
  exact ⟨l, p, by rw [State.strand, h, Task.strand_setStrand]⟩

section body
variable {h : Header} {s : State}

/-- A header with a wait left on a strand that is not live traps, its own section retired before it (R79, R81). -/
theorem headerBody_notLive (k : atOrAfter h.sect (s.drain s.cur).curStrand.xs = true)
    (dead : (((headerWaits h (s.drain s.cur).cur.unit).filter fun w =>
      !atOrAfter ((s.drain s.cur).curTask.strand w.1).rs w.2).any fun w => !((s.drain s.cur).curTask.strand w.1).live) = true) :
    headerBody h s = .error (.trap { cause := 7, keep := true })
      (let p := s.drain s.cur
       p.updTask fun x => x.retireSections p.cur.unit (h.sect - 1) (p.strandParty p.cur)) := by
  rw [headerBody, bind_ok (modify_apply _ _), bind_ok (get_apply _)]
  simp only [k, Bool.not_true, Bool.false_eq_true, if_false]
  rw [bind_ok (modifyTask_apply _ _)]
  simp only [dead, if_true]
  rfl

/-- A header below the strand's section is illegal; right behind the section in force it retires that section first (R82). -/
theorem headerBody_below (k : atOrAfter h.sect (s.drain s.cur).curStrand.xs = false) :
    headerBody h s = .error (.trap { cause := 1, keep := true })
      (let p := s.drain s.cur
       if p.curStrand.sect.any fun e => e.1 + 4 * e.2.zeroExtend 64 == p.curStrand.pc then
         p.updTask fun x => x.retireSections p.cur.unit (p.curStrand.xs - 1) (p.strandParty p.cur)
       else p) := by
  rw [headerBody, bind_ok (modify_apply _ _), bind_ok (get_apply _)]
  simp only [k, Bool.not_false, if_true]
  split <;> rfl

end body

/-- The PC stands right behind the section in force. -/
theorem sect_any_iff (d : Strand) :
    (d.sect.any fun e => e.1 + 4 * e.2.zeroExtend 64 == d.pc) = true ↔
      ∃ a n, d.sect = some (a, n) ∧ a + 4 * n.zeroExtend 64 = d.pc := by
  simp only [Option.any_eq_true, beq_iff_eq, Prod.exists]

/-- Settles O11: by whether the header is at or above the strand's section, and by the waits that are left. -/
theorem sectionHeaders : Obligations.SectionHeaders := by
  unfold Obligations.SectionHeaders
  intro s h ha p d retired left
  obtain ⟨l, st, hd⟩ := s.strand_drain s.cur
  have hc : p.cur = s.cur := State.cur_drain ..
  have hs : d = { s.curStrand with loads := l, stores := st } := by
    show p.strand p.cur = _
    rw [hc]
    exact hd
  refine ⟨fun k hl => ?opens, fun e w k hl live => ?waits, fun k dead => ?dead,
    fun k => ⟨fun atEnd => ?behind, fun atEnd => ?below⟩, by rw [hs], by rw [hs], by rw [hs], hc⟩
  case opens =>
    have all : ((headerWaits h p.cur.unit).all fun w => atOrAfter (p.curTask.strand w.1).rs w.2) = true :=
      List.all_eq_true.mpr fun w hw => by
        simpa only [Bool.not_eq_eq_eq_not, Bool.not_true, Bool.not_eq_false] using List.filter_eq_nil_iff.mp hl w hw
    exact runStrand_next ha (headerBody_ok k all)
  case waits =>
    have live' : ((e :: w).all fun w => (p.curTask.strand w.1).live) = true := hl ▸ live
    rw [hl]
    exact runStrand_holdOn ha (headerBody_wait k hl live')
  case dead => exact runStrand_raiseWordKeep ha (headerBody_notLive k dead)
  case behind =>
    have hb := headerBody_below k
    rw [if_pos ((sect_any_iff d).mpr atEnd)] at hb
    exact runStrand_raiseWordKeep ha hb
  case below =>
    have hb := headerBody_below k
    rw [if_neg (mt (sect_any_iff d).mp atEnd)] at hb
    exact runStrand_raiseWordKeep ha hb

end Sys2Proof.Machine
end

section
/-! SUPPORT. Loads from and stores to the scratchpads (R122 to R125, R131, R136 to R139, R253, R254). -/

namespace Sys2Proof.Machine

/-! ## The place of an access -/

/-- An admitted access to a member names the member by a register (R71). -/
theorem member_of_admits {s : State} {op : Nat} {x : Mem} (h : s.admits (.mem op x) = true) (ho : op = 0x54 ∨ op = 0x55) :
    x.b ≠ 0x1FF := by
  have k : memOperandsOk op x = true := operandsOk_of_admits h rfl nofun
  intro e
  rcases ho with rfl | rfl <;>
    simp only [memOperandsOk, isG, indexOk, BEq.rfl, Nat.reduceBEq, Bool.or_false, Bool.or_true, if_true, e,
      BitVec.ofNat_eq_ofNat, BitVec.toNat_ofNat, Nat.reducePow, Nat.mod_succ, Nat.reduceLeDiff, decide_false, Bool.and_false,
      Bool.or_self, Bool.false_eq_true, Nat.reduceMod, Bool.false_and] at k

/-- Only the member space looks at the member. -/
theorem padPlace_member (s : State) (sp : Space) (m : Nat) (va : DWord) (size : Nat) (write : Bool) :
    s.padPlace sp (if sp = .n then m else 0) va size write = s.padPlace sp m va size write := by
  cases sp <;> rfl

section access
variable {s : State} {op : Nat} {x : Mem} {sp : Space} {p : PadPlace} (hsp : memSpace op = sp) (hx : sp ≠ .x) (hh : sp ≠ .h)
  (hn : sp = .n → x.b ≠ 0x1FF)
include hsp hx hh hn

/-- A load of a scratchpad that finds its place. -/
theorem loadBody_pad (hr : s.ready (indexedCodes x.a x.b) (some x.d.toNat) = true)
    (hf : s.flushDone (x.ord == 1) (scopeOf x.scope.toNat) = true)
    (hp : s.padPlace sp (s.memberOf x.b) (s.accessAddress sp x.a x.b (x.off.signExtend 64) (2 ^ x.size.toNat)) (2 ^ x.size.toNat)
      false = some p) :
    loadBody op x s = .ok .next (((s.popCodes (indexedCodes x.a x.b)).loadIn x.d.toNat p.loc (2 ^ x.size.toNat)).ordered
      (x.ord == 1) x.scope.toNat) :=
  loadBody_card hsp hx hh hn hr rfl (resolve_pad ((padPlace_member ..).trans hp)) hf nofun

/-- A store to a scratchpad that finds its place. -/
theorem storeBody_pad {q : State} {v : DWord} (hr : s.storeIssue (indexedCodes x.a x.b) x.d.toNat = some (v, q))
    (hf : q.flushDone (x.ord == 2) (scopeOf x.scope.toNat) = true)
    (hp : q.padPlace sp (s.memberOf x.b) (s.accessAddress sp x.a x.b (x.off.signExtend 64) (2 ^ x.size.toNat)) (2 ^ x.size.toNat)
      true = some p) :
    storeBody op x s = .ok .next ((q.ordered (x.ord == 2) x.scope.toNat).storeOut p.loc (2 ^ x.size.toNat)
      (storeData (2 ^ x.size.toNat) v)) :=
  storeBody_card hsp hx hh hn hr rfl (resolve_pad ((padPlace_member ..).trans hp)) hf nofun

end access

/-! ## The bytes that a load reads -/

theorem leNat_byte (l : List Byte) (i : Nat) : BitVec.ofNat 8 (leNat l / 256 ^ i) = l.getD i 0 := by
  induction l generalizing i with
  | nil => rw [leNat, Nat.zero_div]; rfl
  | cons b l ih =>
    cases i with
    | zero => simp only [leNat, Nat.pow_zero, Nat.div_one, BitVec.ofNat_add, BitVec.ofNat_toNat, BitVec.setWidth_eq,
        BitVec.ofNat_mul, BitVec.reduceOfNat, BitVec.zero_mul, BitVec.add_zero, List.getD_cons_zero]
    | succ i =>
      rw [Nat.pow_succ', ← Nat.div_div_eq_div_mul, leNat, List.getD_cons_succ, ← ih]
      congr 2
      have := b.isLt
      omega

/-- A store lays its byte at address `a` over a value of `size` bytes at `l` (R254). -/
def PendStore.lays (p : PendStore) (l : Loc) (size a : Nat) : Bool :=
  p.loc.meets p.size l size && decide (p.loc.start ≤ a) && decide (a < p.loc.start + p.size)

/-- The byte of a store at an address that it covers. -/
def PendStore.byteAt (p : PendStore) (a : Nat) : Byte := BitVec.ofNat 8 (p.value / 256 ^ (a - p.loc.start))

/-- A store over a value changes the bytes that it lays, and no other. -/
theorem PendStore.byte_over (p : PendStore) (l : Loc) {size i : Nat} (v : Nat) (h : i < size) :
    BitVec.ofNat 8 (p.over l size v / 256 ^ i) =
      if p.lays l size (l.start + i) then p.byteAt (l.start + i) else BitVec.ofNat 8 (v / 256 ^ i) := by
  rw [PendStore.over, PendStore.lays]
  by_cases m : p.loc.meets p.size l size = true
  · rw [if_pos m, m, leNat_byte]
    simp only [Bool.and_eq_true, decide_eq_true_eq, List.getD_eq_getElem?_getD, List.length_map, List.length_range, h,
      getElem?_pos, List.getElem_map, List.getElem_range, Option.getD_some, Bool.true_and, PendStore.byteAt]
  · rw [if_neg m, eq_false_of_ne_true m]
    simp only [Bool.false_and, Bool.false_eq_true, if_false]

/-- Stores laid over a value, oldest first: each byte is the youngest one's that lays it, else the value's own (R253, R254). -/
theorem byte_foldl_over (l : Loc) {size i : Nat} (v : Nat) (h : i < size) (ps : List PendStore) :
    BitVec.ofNat 8 (ps.foldl (fun v p => p.over l size v) v / 256 ^ i) =
      match (ps.filter fun p => p.lays l size (l.start + i)).getLast? with
      | some p => p.byteAt (l.start + i)
      | none => BitVec.ofNat 8 (v / 256 ^ i) := by
  induction ps generalizing v with
  | nil => rfl
  | cons p ps ih =>
    rw [List.foldl_cons, ih, p.byte_over l v h, List.filter_cons]
    cases hp : p.lays l size (l.start + i)
    · simp only [Bool.false_eq_true, if_false]
    · simp only [if_true, List.getLast?_cons]
      cases (ps.filter fun p => p.lays l size (l.start + i)).getLast? <;> rfl

/-! ## Loads -/

/-- The state after a load that waits for its value (R96, R138). -/
theorem State.loadIn_waits {s : State} {d : Nat} {l : Loc} {n : Nat} (h : s.defer = true ∧ d ≠ 0 ∧ d ≤ 63) :
    (s.late = false → s.loadIn d l n =
      (s.loadNow l n).2.loadPends s.nextLoad d (BitVec.ofNat 64 (s.loadNow l n).1) none) ∧
    (s.late = true → s.loadIn d l n = s.loadPends s.nextLoad d 0 (some (l, n))) := by
  have hc : (s.defer && d != 0 && decide (d ≤ 63)) = true := by
    simpa only [Bool.and_eq_true, bne_iff_ne, ne_eq, decide_eq_true_eq, and_assoc] using h
  refine ⟨fun k => ?_, fun k => ?_⟩ <;> rw [State.loadIn, if_pos hc, k]
  · rw [State.loadPends, State.updCur, State.cur_loadNow]
    rfl
  · rfl

/-- A load of a scratchpad that has nothing older pending and returns at once. -/
theorem State.loadIn_calm {s : State} {d : Nat} {p : PadPlace} {n : Nat} (codes : List Nat) (h : s.curStrand.calm = true)
    (k : ¬(s.defer = true ∧ d ≠ 0 ∧ d ≤ 63)) :
    (s.popCodes codes).loadIn d p.loc n = (s.popCodes codes).writeDst d (BitVec.ofNat 64 ((s.core p.core).pad.nat p.lo n)) := by
  rw [State.loadIn_now (by rwa [popCodes_defer]), State.loadNow_calm (by rwa [popCodes_curStrand])]
  simp only [PadPlace.loc, State.readAt, popCodes_core]

/-- Settles O18: each load runs its body at its place, and the number it reads is the memory's with the older stores over it. -/
theorem scratchpadLoads : Obligations.ScratchpadLoads := by
  unfold Obligations.ScratchpadLoads
  refine ⟨fun s x p => ?loads, fun s d l size => ⟨State.loadIn_now, fun w => (State.loadIn_waits w).1,
    fun w => (State.loadIn_waits w).2, State.loadNow_calm, ?bytes⟩⟩
  case loads =>
    intro size codes hr hf e he ha hp
    have run : exec e.1 s = .next (s.retire (((s.popCodes codes).loadIn x.d.toNat p.loc size).ordered (x.ord == 1) x.scope.toNat)
        e.1.view .next) := by
      simp only [List.mem_cons, List.not_mem_nil, or_false] at he
      rcases he with rfl | rfl | rfl
      · exact runStrand_next ha (loadBody_pad rfl nofun nofun nofun hr hf hp)
      · exact runStrand_next ha (loadBody_pad rfl nofun nofun nofun hr hf hp)
      · exact runStrand_next ha (loadBody_pad rfl nofun nofun (fun _ => member_of_admits ha (.inl rfl)) hr hf hp)
    refine ⟨run, fun hc hd => ?_⟩
    rw [run, State.loadIn_calm codes hc]
    rintro ⟨h1, h2, h3⟩
    rcases hd with hd | hd | hd
    · exact absurd h1 (by rw [hd]; decide)
    · exact h2 (by rw [hd]; rfl)
    · omega
  case bytes =>
    intro hl i hi lays
    have hs : s.loadNow l size = s.forward s.cur s.nextLoad l size := by rw [State.loadNow, State.settle_nothing _ _ _ hl]
    have hf : s.curStrand.stores.filter lays =
        (s.curStrand.stores.filter fun p => decide (p.id < s.nextLoad)).filter fun p => p.lays l size (l.start + i) := by
      rw [List.filter_filter]
      refine List.filter_congr fun p _ => ?_
      simp only [lays, PendStore.lays, Bool.and_assoc, Bool.and_comm]
    rw [hs, hf]
    exact byte_foldl_over l _ hi _

/-! ## Stores -/

/-- A store to a scratchpad that has nothing older pending and performs at once. -/
theorem State.storeOut_pad {s : State} {p : PadPlace} {n v : Nat} (h : s.curStrand.calm = true) (k : s.late = false) :
    s.storeOut p.loc n v = s.storePad p n v := by
  rw [State.storeOut_now h k]
  rfl

theorem State.storeOut_performs {s : State} {l : Loc} {n v : Nat} (h : s.late = false) :
    s.storeOut l n v = (s.clearFor s.cur l n).writeAt s.cur l n v := by
  rw [State.storeOut, h]
  rfl

theorem State.storeOut_queued {s : State} {l : Loc} {n v : Nat} (h : s.late = true) :
    s.storeOut l n v =
      { s.updCur fun x => { x with stores := x.stores ++ [{ id := s.nextLoad, loc := l, size := n, value := v }] } with
        nextLoad := s.nextLoad + 1 } := by
  rw [State.storeOut, h]
  rfl

/-- Settles O19: each store runs its body at its place; what issues, and whether it performs at once, its operations say. -/
theorem scratchpadStores : Obligations.ScratchpadStores := by
  unfold Obligations.ScratchpadStores
  refine ⟨fun s q x p v => ?stores, fun s codes d => ⟨fun hn hr => ?pops, fun v hv => ?popped⟩,
    fun s l size v => ⟨State.storeOut_performs, State.storeOut_queued, fun h => ?calm⟩⟩
  case stores =>
    intro size hi hf e he ha hp m
    have run : exec e.1 s = .next (s.retire (m.storeOut p.loc size (storeData size v)) e.1.view .next) := by
      simp only [List.mem_cons, List.not_mem_nil, or_false] at he
      rcases he with rfl | rfl | rfl
      · exact runStrand_next ha (storeBody_pad (sp := .p) rfl nofun nofun nofun hi hf hp)
      · exact runStrand_next ha (storeBody_pad (sp := .s) rfl nofun nofun nofun hi hf hp)
      · exact runStrand_next ha (storeBody_pad (sp := .n) rfl nofun nofun (fun _ => member_of_admits ha (.inr rfl)) hi hf hp)
    exact ⟨run, fun hc hl => by rw [run, State.storeOut_pad hc hl]⟩
  case pops => rw [State.storeIssue, hn, hr]; rfl
  case popped => rw [State.storeIssue, hv]
  case calm =>
    obtain ⟨hl, hs⟩ := Strand.calm_iff.mp h
    exact State.clearFor_nothing l size hl hs

end Sys2Proof.Machine
end

section
/-! SUPPORT. The encoding checks (R61, R82, R86, Tables 3-14, 3-15), a step (R54, R55, R82, R84), and words written out from the
encoding tables. -/

namespace Sys2Proof.Machine

/-! ## The checks in order -/

/-- The checks of an instruction that is no header (Table 3-15). -/
theorem encodingTrap_of_not_header {v : View} (d : Strand) (u : UnitId) (h : ∀ x, v ≠ .header x) :
    encodingTrap v d u =
      if !d.inSection v.size then some 1
      else if !v.fieldsOk then some 1
      else
        match v.op? with
        | none => none
        | some op =>
          if !strandOk op u then some 3
          else if v.privileged && !d.lvl then some 4
          else if !v.operandsOk then some 2
          else none := by
  cases v <;> first | rfl | exact absurd rfl (h _)

/-- A header has no opcode. -/
theorem not_header_of_op {v : View} {op : Nat} (h : v.op? = some op) : ∀ x, v ≠ .header x := by
  rintro x rfl
  cases h

section checks
variable {v : View} {d : Strand} {u : UnitId} {op : Nat} (ho : v.op? = some op)
include ho

theorem encodingTrap_illegal (h : d.inSection v.size = false ∨ v.fieldsOk = false) : encodingTrap v d u = some 1 := by
  rw [encodingTrap_of_not_header d u (not_header_of_op ho)]
  rcases h with h | h <;> simp only [Bool.not_eq_eq_eq_not, Bool.not_true, Bool.not_false, h, if_true, ite_self]

variable (hs : d.inSection v.size = true) (hf : v.fieldsOk = true)
include hs hf

theorem encodingTrap_strand (h : strandOk op u = false) : encodingTrap v d u = some 3 := by
  rw [encodingTrap_of_not_header d u (not_header_of_op ho)]
  simp only [hs, hf, ho, h, Bool.not_true, Bool.not_false, Bool.false_eq_true, if_true, if_false]

variable (hu : strandOk op u = true)
include hu

theorem encodingTrap_privilege (h : v.privileged = true ∧ d.lvl = false) : encodingTrap v d u = some 4 := by
  rw [encodingTrap_of_not_header d u (not_header_of_op ho)]
  simp only [hs, hf, ho, hu, h, Bool.not_true, Bool.not_false, Bool.false_eq_true, if_true, if_false, Bool.and_self]

variable (hp : ¬(v.privileged = true ∧ d.lvl = false))
include hp

theorem encodingTrap_operands (h : v.operandsOk = false) : encodingTrap v d u = some 2 := by
  rw [encodingTrap_of_not_header d u (not_header_of_op ho)]
  have hp' : (v.privileged && !d.lvl) = false := by
    simpa only [Bool.and_eq_false_imp, Bool.not_eq_eq_eq_not, Bool.not_false, not_and, Bool.not_eq_false] using hp
  simp only [hs, hf, ho, hu, hp', h, Bool.not_true, Bool.not_false, Bool.false_eq_true, if_true, if_false]

theorem encodingTrap_none (h : v.operandsOk = true) : encodingTrap v d u = none := by
  rw [encodingTrap_of_not_header d u (not_header_of_op ho)]
  have hp' : (v.privileged && !d.lvl) = false := by
    simpa only [Bool.and_eq_false_imp, Bool.not_eq_eq_eq_not, Bool.not_false, not_and, Bool.not_eq_false] using hp
  simp only [hs, hf, ho, hu, hp', h, Bool.not_true, Bool.false_eq_true, if_false]

end checks

/-- Settles O40: every instruction of a strand is one body behind the checks, whose first failure takes its trap. -/
theorem encodingChecks : Obligations.EncodingChecks := by
  unfold Obligations.EncodingChecks
  intro s i hv v d traps
  obtain ⟨body, hb⟩ := exec_strand i hv
  have trap {c : Nat} (h : encodingTrap v d s.cur.unit = some c) : traps c := (hb s).trans (runStrand_encoding body h)
  refine ⟨?header, ?unassigned, fun op ho => ⟨fun h => trap (encodingTrap_illegal ho h), fun hs hf =>
    ⟨fun h => trap (encodingTrap_strand ho hs hf h), fun hu h => trap (encodingTrap_privilege ho hs hf hu h),
    fun hu hp h => trap (encodingTrap_operands ho hs hf hu hp h), fun hu hp h g hg off => ?off⟩⟩⟩
  case header =>
    rintro h rfl ih
    exact trap (if_pos ih)
  case unassigned =>
    rintro w rfl
    refine trap ((encodingTrap_of_not_header (v := .raw w) d _ nofun).trans ?_)
    split
    · rfl
    · rfl
  case off =>
    refine (hb s).trans (runStrand_off body (encodingTrap_none ho hs hf hu hp h) ?_)
    show v.guard?.any _ = true
    rw [hg]
    simpa only [Option.any_some, Bool.not_eq_eq_eq_not, Bool.not_true] using off

/-! ## A step -/

/-- The first word of a section header has length code 3 (Table 3-1). -/
theorem sectionHeader_code (h : Header) : ((Instr.sectionHeader h).encode.headD 0).extractLsb' 0 2 = 3 := by
  show ((h.wait2 ++ h.wait1 ++ h.wait0 ++ h.words ++ h.sect ++ (3 : BitVec 2)).extractLsb' 0 32).extractLsb' 0 2 = 3
  rw [BitVec.extractLsb'_extractLsb'_of_le (by decide)]
  exact BitVec.extractLsb'_append_eq_right

/-- What the words of a complete fetch give: the instruction they decode to, or the illegal-instruction trap. -/
def Fetched.ofDecoded (w0 : Word) : Except DecodeError Instr → Fetched
  | .ok i => .run i
  | .error _ => .stop (.trap { cause := 1, value := some (w0.zeroExtend 64) })

section fetch
variable {s t : State} {r : StrandRef} {w : Word}

/-- A complete fetch of an instruction that lies in the section in force, or is a header. -/
theorem fetchInstr_words {ws : List Word} (hf : s.fetchWords r (s.strand r).pc (lengthWords w) = (.ok (w :: ws), t))
    (hs : (s.strand r).inSection (4 * lengthWords w) = true ∨ w.extractLsb' 0 2 = 3) :
    s.fetchInstr r = (.ofDecoded w (decodeWords w (ws.getD 0 0) (ws.getD 1 0)), t) := by
  have hn : lengthWords w = lengthWords w - 1 + 1 := by rcases lengthWords_cases w with e | e | e <;> omega
  rw [hn] at hf
  obtain ⟨u, h1, h2⟩ := fetchWords_cons hf
  have hc : (w.extractLsb' 0 2 != 3 && !(s.strand r).inSection (4 * lengthWords w)) = false := by
    rcases hs with hs | hs <;>
      simp only [BitVec.ofNat_eq_ofNat, hs, Bool.not_true, Bool.and_false, bne_self_eq_false, Bool.false_and]
  simp only [State.fetchInstr, h1, hc, h2, Bool.false_eq_true, if_false]
  cases decodeWords w (ws.getD 0 0) (ws.getD 1 0) <;> rfl

theorem fetchInstr_undecodable {ws : List Word} {e : DecodeError}
    (hf : s.fetchWords r (s.strand r).pc (lengthWords w) = (.ok (w :: ws), t))
    (hs : (s.strand r).inSection (4 * lengthWords w) = true) (he : decodeWords w (ws.getD 0 0) (ws.getD 1 0) = .error e) :
    s.fetchInstr r = (.stop (.trap { cause := 1, value := some (w.zeroExtend 64) }), t) := by
  rw [fetchInstr_words hf (.inl hs), he]
  rfl

theorem fetchInstr_outside (hf : s.fetchWord r (s.strand r).pc = (.ok w, t)) (hh : w.extractLsb' 0 2 ≠ 3)
    (hs : (s.strand r).inSection (4 * lengthWords w) = false) :
    s.fetchInstr r = (.stop (.trap { cause := 1, value := some (w.zeroExtend 64) }), t) := by
  have hc : (w.extractLsb' 0 2 != 3 && !(s.strand r).inSection (4 * lengthWords w)) = true := by
    simpa only [BitVec.ofNat_eq_ofNat, hs, Bool.not_false, Bool.and_true, bne_iff_ne, ne_eq] using hh
  simp only [State.fetchInstr, hf, hc, if_true]

theorem fetchInstr_error {e : Stop} (hf : s.fetchWord r (s.strand r).pc = (.error e, t)) : s.fetchInstr r = (.stop e, t) := by
  simp only [State.fetchInstr, hf]

/-- The words of a well-formed instruction of a strand, fetched, give the instruction. -/
theorem fetchInstr_encode {i : Instr} (hi : i.wellFormed = true) (hv : i.view ≠ .event)
    (hf : s.fetchWords r (s.strand r).pc i.encode.length = (.ok i.encode, t))
    (hs : (s.strand r).inSection (4 * i.encode.length) = true ∨ ∃ h, i = .sectionHeader h) : s.fetchInstr r = (.run i, t) := by
  simp only [Instr.wellFormed, Bool.and_eq_true] at hi
  obtain ⟨⟨he, -⟩, ho⟩ := hi
  have hw (w : Word) : i ≠ .unassignedOpcode w := by
    rintro rfl
    exact absurd ho Bool.false_ne_true
  obtain ⟨hl, hd⟩ := words_decode i he hv hw
  have hs' : (s.strand r).inSection (4 * i.encode.length) = true ∨ (i.encode.headD 0).extractLsb' 0 2 = 3 :=
    hs.imp_right fun ⟨h, e⟩ => e ▸ sectionHeader_code h
  generalize i.encode = l at hf hs' hl hd
  cases l with
  | nil => exact absurd hl (by decide)
  | cons w ws =>
    rw [← hl] at hf hs'
    rw [fetchInstr_words hf hs']
    exact congrArg (fun d => (Fetched.ofDecoded w d, t)) hd

end fetch

/-- Settles O39: a step runs what the fetch of its turn gives, and the fetch gives an instruction or the reason to stop. -/
theorem stepRunsDecoded : Obligations.StepRunsDecoded := by
  unfold Obligations.StepRunsDecoded
  intro s i s0
  refine ⟨fun r hr => ⟨fun hm => ?idle, fun hm t => ?turn⟩, fun j a hj => ⟨fun hv => ?event, fun hv => ?noEvent⟩⟩
  case idle => exact (step_strand hr).trans (if_neg (Bool.eq_false_iff.mp hm))
  case turn =>
    have runs {j : Instr} (h : s0.fetchInstr r = (.run j, t)) : step s = exec j { t with cur := r } := by
      rw [step_strand hr, if_pos hm, h]
    have stops {e : Stop} (h : s0.fetchInstr r = (.stop e, t)) : step s = t.fetchStop r e := by
      rw [step_strand hr, if_pos hm, h]
    exact ⟨fun hi hf hv hs => runs (fetchInstr_encode hi hv hf hs), fun k hf => stops (fetchInstr_error hf),
      fun y b hf => stops (fetchInstr_error hf), fun w hf hh hs => stops (fetchInstr_outside hf hh hs),
      fun w ws e hf hs he => stops (fetchInstr_undecodable hf hs he)⟩
  case event => rw [step_event hj, if_pos hv]
  case noEvent => rw [step_event hj, if_neg hv]

end Sys2Proof.Machine

namespace Sys2Proof

/-- Settles O45: the decoder evaluates to each instruction, and to the error of the reserved bit. -/
theorem decodeWords_table : Obligations.DecodeWords := by
  unfold Obligations.DecodeWords
  exact ⟨rfl, rfl, rfl, rfl, rfl, rfl, rfl, rfl, rfl, rfl, rfl, rfl, rfl, rfl⟩

end Sys2Proof
end

section
/-! SUPPORT. The events that wake a stalled strand (R79, R111, R115, R116, R200, R214, R219, R220, R247, R322, R349,
R351, R383). -/

namespace Sys2Proof.Machine

/-- The strand that an event names is woken when it may resume and its wait is one that the event accepts. -/
theorem State.wakeIf_wakes {s : State} {f : Task → Why → Bool} {w : Wait} {y : Why} (h : s.canResume s.argStrand = true)
    (hw : (s.strand s.argStrand).wait = some w) (hy : w.why = y) (hf : f (s.task s.argStrand.task) y = true) :
    s.wakeIf f = s.wake s.argStrand := by
  subst hy
  simp only [State.wakeIf, h, hw, Option.any_some, hf, Bool.and_self, if_true]

theorem State.wakeIf_held {s : State} {f : Task → Why → Bool} (h : s.canResume s.argStrand = false) : s.wakeIf f = s := by
  simp only [State.wakeIf, h, Bool.false_and, Bool.false_eq_true, if_false]

theorem State.doomed_of {s : State} (h : ∃ k v, (s.strand s.argStrand).held = some (.doom k v)) : s.doomed = true := by
  obtain ⟨k, v, h⟩ := h
  rw [State.doomed, h]

/-- A wait on a queue is over when the queue is ready, when its pop or push traps, or when the strand is doomed. -/
theorem queueWait_over {s : State} {n : Nat} {trap : Bool}
    (h : 0 < n ∨ trap = true ∨ ∃ k v, (s.strand s.argStrand).held = some (.doom k v)) :
    (s.doomed || decide (0 < n) || trap) = true := by
  rcases h with h | h | h
  · rw [decide_eq_true h, Bool.or_true, Bool.true_or]
  · rw [h, Bool.or_true]
  · rw [State.doomed_of h, Bool.true_or, Bool.true_or]

theorem sectionsOver_iff (x : Task) (left : List (UnitId × BitVec 12)) :
    sectionsOver x left = true ↔
      (∀ e ∈ left, atOrAfter (x.strand e.1).rs e.2 = true) ∨ ∃ e ∈ left, (x.strand e.1).live = false := by
  simp only [sectionsOver, Bool.or_eq_true, List.all_eq_true, List.any_eq_true, Bool.not_eq_true']

theorem State.anyLeft_eq_false {s : State} {t : Nat} {ids : List Nat} (h : ∀ c ∈ s.cmdHeads t, c.id ∉ ids) :
    s.anyLeft t ids = false :=
  List.any_eq_false.mpr fun c hc => by simpa only [List.contains_eq_mem, decide_eq_true_eq] using h c hc

theorem State.carveUsers_eq_false {s : State} {t : Nat} (h : ∀ c ∈ s.cmdHeads t, c.usesCarve = false) :
    s.carveUsers t = false :=
  List.any_eq_false.mpr fun c hc => Bool.eq_false_iff.mp (h c hc)

/-- Settles O50: each event wakes its strand through one operation, whose condition is the one named. -/
theorem resumeEvents : Obligations.ResumeEvents := by
  unfold Obligations.ResumeEvents
  intro s r x woken
  have wakes {i : Instr} {f : Task → Why → Bool} {w : Wait} {y : Why} (hi : exec i s = .next (s.wakeIf f))
      (h : s.canResume r = true) (hw : (s.strand r).wait = some w) (hy : w.why = y) (hf : f x y = true) : woken i :=
    hi.trans (congrArg Host.Outcome.next (State.wakeIf_wakes h hw hy hf))
  refine ⟨fun h w hw => ⟨fun left l hy c => ?sections, fun q hy c => ?pop, fun q hy c => ?push, fun m hy c => ?join,
    fun ch id hy c => ?transfer, fun u ch hy c => ?engineQueue, fun op ids hy c => ?engines, fun hy c => ?exitCarve,
    fun a v e hy hm c => ?timeline, fun k hy c => ?runQueue⟩, fun h => ?held⟩
  case sections => exact wakes rfl h hw hy ((sectionsOver_iff x left).mpr c)
  case pop => exact wakes rfl h hw hy (queueWait_over c)
  case push => exact wakes rfl h hw hy (queueWait_over c)
  case join => exact wakes rfl h hw hy (List.all_eq_true.mpr c)
  case transfer => exact wakes rfl h hw hy (by simpa only [idAtOrAfter, Bool.or_eq_true, decide_eq_true_eq] using c)
  case engineQueue => exact wakes rfl h hw hy c
  case engines => exact wakes rfl h hw hy (congrArg not (State.anyLeft_eq_false c))
  case exitCarve => exact wakes rfl h hw hy (congrArg not (State.carveUsers_eq_false c))
  case timeline =>
    refine wakes rfl h hw hy ?_
    have hm' : s.monitorOf s.arg.task = some e := hm
    simpa only [hm', Bool.or_eq_true] using c
  case runQueue => exact wakes rfl h hw hy (decide_eq_true c)
  case held =>
    intro i hi
    have stays {f : Task → Why → Bool} : (.next (s.wakeIf f) : Result) = .next s := congrArg _ (State.wakeIf_held h)
    simp only [List.mem_cons, List.not_mem_nil, or_false] at hi
    rcases hi with rfl | rfl | rfl | rfl | rfl | rfl | rfl | rfl | rfl | rfl <;> exact stays

end Sys2Proof.Machine
end

section
/-! SUPPORT. The issue of a vector instruction (R155 to R159, R165, R171, R218, R220, R261, R444, Tables 6-3, 9-4): the checks in
the order of their rows, the trap of an earlier command, and the entry of the command into its core's queue. -/

namespace Sys2Proof.Machine

/-! ## The rows of a table of checks -/

/-- The trap of the first row that has one. -/
def trapFirst (rows : List (Option (Nat × Option DWord))) : M Unit :=
  match rows.findSome? id with
  | some r => throw (.trap { cause := r.1, value := r.2 })
  | none => pure ()

theorem trapFirst_none {rows : List (Option (Nat × Option DWord))} (h : ∀ r ∈ rows, r = none) (s : State) :
    trapFirst rows s = .ok () s := by
  have first : rows.findSome? id = none := List.findSome?_eq_none_iff.mpr h
  rw [trapFirst, first]
  rfl

/-- The rows before the first one with a trap have none. -/
theorem findSome?_first {α : Type} {l : List (Option α)} {n : Nat} {a : α} (h : l[n]? = some (some a))
    (before : ∀ m, m < n → l[m]? = some none) : l.findSome? id = some a := by
  induction l generalizing n with
  | nil => cases h
  | cons r l ih =>
    cases n with
    | zero => cases h; rfl
    | succ n =>
      obtain rfl : r = none := Option.some.inj (before 0 n.succ_pos)
      exact ih h fun m hm => before (m + 1) (Nat.succ_lt_succ hm)

theorem trapFirst_some {rows : List (Option (Nat × Option DWord))} {n k : Nat} {v : Option DWord}
    (h : rows[n]? = some (some (k, v))) (before : ∀ m, m < n → rows[m]? = some none) (s : State) :
    trapFirst rows s = .error (.trap { cause := k, value := v }) s := by
  rw [trapFirst, findSome?_first h before]
  rfl

/-! ## The checks of a vector command -/

section checks
variable {s : State} {c : VecCmd} {srcs : List Nat}

/-- The checks of Table 6-3 are its rows in order; two stand before the element count is looked at, and the commands that write
what a later row reads are waited for before it. -/
theorem checkVec_rows (s : State) (c : VecCmd) (srcs : List Nat) :
    checkVec c srcs s = (do
      trapFirst ((s.vecRows c srcs).take 2)
      if c.n = 0 then pure c
      else do
        trapFirst (((s.vecRows c srcs).drop 2).take 3)
        if (s.olderWriters (s.checkedBytes c)).isEmpty then do
          trapFirst ((s.vecRows c srcs).drop 5)
          pure (s.withScales c)
        else stallOn (.older (s.olderWriters (s.checkedBytes c))) : M VecCmd) s := by
  rw [checkVec, bind_ok (get_apply s)]
  simp only [State.vecRows, State.withScales, List.take_succ_cons, List.take_zero, List.drop_succ_cons, List.drop_zero]
  -- A row that fails ends both sides in its trap; one that passes leaves the rows behind it.
  split
  · rfl
  split
  · rfl
  split
  · rfl
  split
  · rfl
  cases baseTrap c.spans with
  | some v => rfl
  | none =>
  cases s.memberTrap c.spans with
  | some v => rfl
  | none =>
  show (if (!(s.olderWriters (s.checkedBytes c)).isEmpty) = true then stallOn _ else _ : M VecCmd) s =
    (if _ then _ else _ : M VecCmd) s
  cases (s.olderWriters (s.checkedBytes c)).isEmpty with
  | false => rfl
  | true =>
  simp only [Bool.not_true, Bool.false_eq_true, if_false, if_true]
  generalize ([(true, c.d), (false, c.a), (c.writesB, c.b), (false, c.m)].findSome? fun e => s.rangeTrap s.cur.task e.1 e.2) = r
  cases r with
  | some v => rfl
  | none =>
  cases s.sourceScales c with
  | error e => rfl
  | ok l =>
  simp only
  split
  · rfl
  split
  · rfl
  · rfl

/-- With an element count of 0 the first two rows alone count (R156). -/
theorem checkVec_empty (h : ∀ r ∈ (s.vecRows c srcs).take 2, r = none) (hn : c.n = 0) : checkVec c srcs s = .ok c s := by
  rw [checkVec_rows, bind_ok (trapFirst_none h s), if_pos hn]
  rfl

/-- The first row that fails gives the trap, where the element count and the older commands let the checks reach it. -/
theorem checkVec_trap {n k : Nat} {v : Option DWord} (h : (s.vecRows c srcs)[n]? = some (some (k, v)))
    (before : ∀ m, m < n → (s.vecRows c srcs)[m]? = some none) (hn : n < 2 ∨ c.n ≠ 0)
    (ho : n < 5 ∨ s.olderWriters (s.checkedBytes c) = []) :
    checkVec c srcs s = .error (.trap { cause := k, value := v }) s := by
  rw [checkVec_rows]
  have pass {lo len : Nat} (hl : lo + len ≤ n) (t : State) : trapFirst (((s.vecRows c srcs).drop lo).take len) t = .ok () t := by
    refine trapFirst_none (fun r hr => ?_) t
    obtain ⟨m, hm⟩ := List.mem_iff_getElem?.mp hr
    rw [List.getElem?_take] at hm
    split at hm
    · rw [List.getElem?_drop, before _ (by omega)] at hm
      exact (Option.some.inj hm).symm
    · cases hm
  by_cases h2 : n < 2
  · refine bind_error (trapFirst_some (n := n) ?_ (fun m hm => ?_) s)
    · rwa [List.getElem?_take_of_lt h2]
    · rw [List.getElem?_take_of_lt (by omega), before m hm]
  have pass0 : trapFirst ((s.vecRows c srcs).take 2) s = .ok () s := pass (lo := 0) (by omega) s
  rw [bind_ok pass0, if_neg (hn.resolve_left h2)]
  by_cases h5 : n < 5
  · refine bind_error (trapFirst_some (n := n - 2) ?_ (fun m hm => ?_) s)
    · rwa [List.getElem?_take_of_lt (by omega), List.getElem?_drop, show 2 + (n - 2) = n by omega]
    · rw [List.getElem?_take_of_lt (by omega), List.getElem?_drop, before _ (by omega)]
  rw [bind_ok (pass (lo := 2) (by omega) s), ho.resolve_left h5, List.isEmpty_nil, if_pos rfl]
  refine bind_error (trapFirst_some (n := n - 5) ?_ (fun m hm => ?_) s)
  · rwa [List.getElem?_drop, show 5 + (n - 5) = n by omega]
  · rw [List.getElem?_drop, before _ (by omega)]

end checks

/-! ## Issue -/

/-- The source codes of a vector instruction that the queue-state row looks at: those of the scalar of `vfill`. -/
def vecSources (op : Nat) (x : Vec) : List Nat := if op = 0xB1 then (queueOf x.a.toNat).toList else []

/-- The entry of a command, and the hold of the vector strand (R159, R165). -/
theorem enterVec_apply (c : VecCmd) (s : State) :
    enterVec c s = if s.cur.unit == .vector && c.opers.any fun o => o.queue?.isSome
      then .error (.stall (.vectorHold c.hd.id) true) (s.enteredVec c) else .ok .next (s.enteredVec c) := by
  rw [enterVec, bind_ok (get_apply s)]
  refine (bind_ok (modify_apply _ _)).trans ((bind_ok (modify_apply _ _)).trans ?_)
  by_cases h : (s.cur.unit == .vector && c.opers.any fun o => o.queue?.isSome) = true
  · rw [if_pos h]
    exact congrFun (if_pos h) _
  · rw [if_neg h]
    exact congrFun (if_neg h) _

/-- An instruction whose effect ends in the entry of a command. -/
theorem runStrand_enterVec {v : View} {body : M Flow} {s t : State} {c : VecCmd} (h : s.admits v = true)
    (hb : body s = enterVec c t) (hc : t.cur = s.cur) :
    runStrand v body s = .next (s.afterVec (t.enteredVec c) c v) := by
  rw [enterVec_apply, hc] at hb
  rw [State.afterVec]
  split at hb
  · rename_i k
    rw [if_pos k, runStrand_holdOn h hb]
  · rename_i k
    rw [if_neg k, runStrand_next h hb]

/-- The entry of `vfill` once its checks have passed: with a literal, or with a scalar that is read now (R171). -/
def enterFill (x : Vec) (c : VecCmd) : M Flow :=
  match x.b with
  | .lit w => enterVec { c with a := .const (literalBits c.f w) }
  | _ => do
    let vs ← operands [x.a.toNat] none
    enterVec { c with a := .const (BitVec.ofNat 64 ((vs.headD 0).toNat % 2 ^ elemBits c.f)) }

theorem enterFill_literal {x : Vec} {w : Word} (h : x.b = .lit w) (c : VecCmd) :
    enterFill x c = enterVec { c with a := .const (literalBits c.f w) } := by
  rw [enterFill, h]

theorem enterFill_read {x : Vec} (h : ∀ w, x.b ≠ .lit w) (c : VecCmd) :
    enterFill x c = (do
      let vs ← operands [x.a.toNat] none
      enterVec { c with a := .const (BitVec.ofNat 64 ((vs.headD 0).toNat % 2 ^ elemBits c.f)) }) := by
  rw [enterFill]
  split
  · rename_i w hb
    exact absurd hb (h w)
  · rfl

theorem enterFill_scalar {x : Vec} {s : State} (h : ∀ w, x.b ≠ .lit w) (hr : s.ready [x.a.toNat] none = true) (c : VecCmd) :
    enterFill x c s = enterVec
      { c with a := .const (BitVec.ofNat 64 ((s.source x.a.toNat).toNat % 2 ^ elemBits c.f)) } (s.popCodes [x.a.toNat]) := by
  rw [enterFill_read h, bind_ok (operands_ok hr), List.map_cons, List.headD_cons]

theorem drainPad_apply (s : State) : drainPad s = .ok () (s.drainIf s.cur Loc.isPad) := rfl

section issue
variable {s q : State} {op : Nat} {x : Vec} {c : VecCmd} (hq : q = s.drainIf s.cur Loc.isPad) (hc : c = q.captureVec op x)
include hq hc

theorem issueVec_trap {e : Stop} (h : checkVec c (vecSources op x) q = .error e q) : issueVec op x s = .error e q := by
  subst hq hc
  rw [issueVec, bind_ok (drainPad_apply s), bind_ok (get_apply _)]
  exact bind_error h

theorem issueVec_empty (h : checkVec c (vecSources op x) q = .ok c q) (hn : c.n = 0) : issueVec op x s = .ok .next q := by
  subst hq hc
  rw [issueVec, bind_ok (drainPad_apply s), bind_ok (get_apply _)]
  refine (bind_ok h).trans ?_
  rw [if_pos hn]
  rfl

variable (rows : ∀ r ∈ q.vecRows c (vecSources op x), r = none) (hn : c.n ≠ 0) (ho : q.olderWriters (q.checkedBytes c) = [])
  (room : q.hasRoom (q.core q.curTask.core).vq.length = true)
include rows hn ho room

/-- A command that passes the checks and has room takes the trap of an earlier one that the checker orders before it, or
enters. -/
theorem issueVec_checked : issueVec op x s = (do
    lateFor (q.vecSets (q.withScales c)).1 (q.vecSets (q.withScales c)).2
    if op = 0xB1 then enterFill x (q.withScales c) else enterVec (q.withScales c) : M Flow) q := by
  have hk := checkVec_ok rows hn ho
  have hn' : ¬(q.withScales c).n = 0 := hn
  subst hq hc
  rw [issueVec, bind_ok (drainPad_apply s), bind_ok (get_apply _)]
  refine (bind_ok hk).trans ?_
  rw [if_neg hn']
  split
  · rw [bind_ok (vecRoom_ok room), bind_ok (get_apply _)]
    rfl
  · rw [bind_ok (vecRoom_ok room), bind_ok (get_apply _)]

theorem issueVec_late {l : LateTrap} {t : State}
    (late : q.lateOf (q.vecSets (q.withScales c)).1 (q.vecSets (q.withScales c)).2 = some (l, t)) :
    issueVec op x s = .error (.trap { cause := l.cause, value := some l.value, keep := true }) (t.tookLate l) :=
  by rw [issueVec_checked hq hc rows hn ho room, bind_error (lateFor_some late)]

variable (calm : q.lateOf (q.vecSets (q.withScales c)).1 (q.vecSets (q.withScales c)).2 = none)
include calm

theorem issueVec_enters (hop : op ≠ 0xB1) : issueVec op x s = enterVec (q.withScales c) q := by
  rw [issueVec_checked hq hc rows hn ho room, bind_ok (lateFor_none calm), if_neg hop]

theorem issueVec_fills (hop : op = 0xB1) : issueVec op x s = enterFill x (q.withScales c) q := by
  rw [issueVec_checked hq hc rows hn ho room, bind_ok (lateFor_none calm), if_pos hop]

end issue

/-! ## A held command -/

section held
variable {s : State} (op : Nat) (x : Vec)

theorem vecBody_issues (h : ∀ w id, s.curStrand.wait = some w → w.why ≠ .vectorHold id) : vecBody op x s = issueVec op x s := by
  rw [vecBody, bind_ok (get_apply s)]
  cases hw : s.curStrand.wait with
  | none => rfl
  | some w =>
    cases hy : w.why with
    | vectorHold id => exact absurd hy (h w id hw)
    | _ => simp only [hy]

variable {w : Wait} {id : Nat} (hw : s.curStrand.wait = some w) (hy : w.why = .vectorHold id)
include hw hy

theorem vecBody_heldTrap {k : Nat} {v : DWord} (hh : s.curStrand.held = some (.trap k v)) :
    vecBody op x s = .error (.trap { cause := k, value := some v, keep := true }) s := by
  rw [vecBody, bind_ok (get_apply s)]
  simp only [hw, hy, hh]
  rfl

theorem vecBody_heldDone {d : Held} (hh : s.curStrand.held = some d) (hd : ∀ k v, d ≠ .trap k v) :
    vecBody op x s = .ok .next s := by
  rw [vecBody, bind_ok (get_apply s)]
  simp only [hw, hy, hh]
  cases d with
  | trap k v => exact absurd rfl (hd k v)
  | _ => rfl

end held

end Sys2Proof.Machine
end

section
/-! SUPPORT. What an element of a vector command becomes (R161, R162, R167, R168, R171, Tables 6-5, 6-7), and the fixed tree of a
reduction (R172). -/

namespace Sys2Proof.Machine

/-! ## Integer formats -/

theorem isFlt_of_int {f k : Nat} {sg : Bool} (h : kindOf f = some (.int sg k)) : isFlt f = false := by
  cases hf : isFlt f with
  | false => rfl
  | true =>
    rw [isFlt, Bool.or_eq_true, decide_eq_true_eq, beq_iff_eq] at hf
    obtain rfl | rfl | rfl | rfl | rfl : f = 0 ∨ f = 1 ∨ f = 2 ∨ f = 3 ∨ f = 0x1C := by omega
    all_goals cases h

theorem elemBits_of_int {f k : Nat} {sg : Bool} (h : kindOf f = some (.int sg k)) : elemBits f = k := by rw [elemBits, h]

/-- An integer format has 4, 8, 16 or 32 bits (Table 2-1). -/
theorem int_bits {f k : Nat} {sg : Bool} (h : kindOf f = some (.int sg k)) : k = 4 ∨ k = 8 ∨ k = 16 ∨ k = 32 := by
  unfold kindOf at h
  split at h <;> cases h <;> decide

/-- A count taken modulo the format and then modulo its width is the count modulo the width. -/
theorem shiftCount {f k : Nat} {sg : Bool} (h : kindOf f = some (.int sg k)) (b : Int) :
    (b % (2 ^ k : Nat)).toNat % k = (b % k).toNat := by
  rcases int_bits h with rfl | rfl | rfl | rfl <;> omega

/-- The result `e` is the integer `v` placed into a format of `k` bits: wrapped, or with SAT clamped to its limits (R161). -/
def VecCmd.Places (c : VecCmd) (sg : Bool) (k : Nat) (v : Int) (e : Nat × Flags) : Prop :=
  let lo : Int := if sg then -(2 ^ (k - 1) : Nat) else 0
  let hi : Int := if sg then (2 ^ (k - 1) : Nat) - 1 else (2 ^ k : Nat) - 1
  e.2 = 0 ∧ e.1 < 2 ^ k ∧ if c.x.sat then intOf c.f e.1 = max lo (min hi v) else ((2 ^ k : Nat) : Int) ∣ intOf c.f e.1 - v

theorem places_putInt {c : VecCmd} {sg : Bool} {k : Nat} (h : kindOf c.f = some (.int sg k)) (v : Int) :
    c.Places sg k v (c.putInt v) := ⟨rfl, placeInt_spec c.x.sat c.f v h⟩

/-! ## Elements by instruction -/

section element
variable {c : VecCmd} {i a b d : Nat} {m : Bool}

theorem element_compare (h : c.op = 0x98) : c.element i a b d m = c.compare a b := by
  simp only [VecCmd.element, h]

theorem element_select (h : c.op = 0x99) :
    c.element i a b d m = (if m then c.widen c.tagA a else c.widen c.tagB b, 0) := by
  simp only [VecCmd.element, h]

theorem element_bitwise (h : c.op = 0x9B ∨ c.op = 0x9C ∨ c.op = 0x9D) : c.element i a b d m = (c.bitwise a b, 0) := by
  rcases h with h | h | h <;> simp only [VecCmd.element, h]

theorem element_shift (h : c.op = 0x9E ∨ c.op = 0x9F) : c.element i a b d m = c.putInt (c.shift a b) := by
  rcases h with h | h <;> simp only [VecCmd.element, h]

theorem element_move (h : c.op = 0xB0) : c.element i a b d m = (a, 0) := by
  simp only [VecCmd.element, h]

theorem element_fill (h : c.op = 0xB1) :
    c.element i a b d m = if c.x.sub = 0 then (a, 0) else c.putInt (intOf c.f a + i) := by
  simp only [VecCmd.element, h]

/-- The arithmetic instructions: from the exact integers, or from the values of the floats. -/
theorem element_arith (h : 0x90 ≤ c.op) (k : c.op ≤ 0x97) : c.element i a b d m =
    if isFlt c.f then
      if c.op = 0x96 ∨ c.op = 0x97 then (c.signed a, 0) else c.fltArith (c.val c.tagA a) (c.val c.tagB b) (c.hd.mode.decode c.f d)
    else c.putInt (c.intArith (c.int c.tagA a) (c.int c.tagB b) (intOf c.f d)) := by
  unfold VecCmd.element
  split
  all_goals try omega
  rw [if_neg (by simp only [Bool.and_eq_true, decide_eq_true_eq]; omega)]

end element

/-! ## Integer arithmetic -/

section int
variable {c : VecCmd} {sg : Bool} {k : Nat} (h : kindOf c.f = some (.int sg k))
include h

/-- The exact result of an arithmetic instruction, placed. -/
theorem places_arith {i a b d : Nat} {m : Bool} {v : Int} (h1 : 0x90 ≤ c.op) (h2 : c.op ≤ 0x97)
    (hv : c.intArith (c.int c.tagA a) (c.int c.tagB b) (intOf c.f d) = v) : c.Places sg k v (c.element i a b d m) := by
  rw [element_arith h1 h2, isFlt_of_int h, hv]
  exact places_putInt h v

/-- A shift is by the count modulo the width: to the left a product, to the right a quotient rounded down (R168). -/
theorem shift_eq (a b : Nat) :
    c.shift a b = if c.op = 0x9E then c.int c.tagA a * 2 ^ (c.int c.tagB b % k).toNat
      else c.int c.tagA a / 2 ^ (c.int c.tagB b % k).toNat := by
  have power (n : Nat) : ((2 ^ n : Nat) : Int) = 2 ^ n := Int.natCast_pow 2 n
  simp only [VecCmd.shift, elemBits_of_int h, shiftCount h]
  rw [Int.fdiv_eq_ediv_of_nonneg _ (Int.natCast_nonneg _), power]

theorem places_shift {i a b d : Nat} {m : Bool} {v : Int} (ho : c.op = 0x9E ∨ c.op = 0x9F) (hv : c.shift a b = v) :
    c.Places sg k v (c.element i a b d m) := by
  rw [element_shift ho, hv]
  exact places_putInt h v

theorem places_clamp (a b hb : Nat) :
    c.Places sg k (min (max (c.int c.tagA a) (c.int c.tagB b)) (c.int c.tagB hb)) (c.clamp a b hb) := by
  rw [VecCmd.clamp, isFlt_of_int h]
  exact places_putInt h _

/-- Table 6-5's integer column: the exact result of each instruction. -/
theorem places_exact (i a b d : Nat) (m : Bool) :
    let ea := c.int c.tagA a
    let eb := c.int c.tagB b
    let od := intOf c.f d
    ∀ e ∈ ([(0x90, ea + eb), (0x91, ea - eb), (0x92, ea * eb),
        (0x93, (if c.x.sub.getLsbD 0 then -(ea * eb) else ea * eb) + (if c.x.sub.getLsbD 1 then -od else od)),
        (0x94, if ea ≤ eb then ea else eb), (0x95, if eb ≤ ea then ea else eb), (0x96, if 0 ≤ ea then ea else -ea), (0x97, -ea),
        (0x9E, ea * 2 ^ (eb % k).toNat), (0x9F, ea / 2 ^ (eb % k).toNat)] : List (Nat × Int)),
      c.op = e.1 → c.Places sg k e.2 (c.element i a b d m) := by
  intro ea eb od
  have arith {n : Nat} {v : Int} (ho : c.op = n) (hn : 0x90 ≤ n ∧ n ≤ 0x97) (hv : c.intArith ea eb od = v) :
      c.Places sg k v (c.element i a b d m) := places_arith h (ho ▸ hn.1) (ho ▸ hn.2) hv
  simp only [List.forall_mem_cons, List.not_mem_nil, false_implies, implies_true, and_true]
  refine ⟨fun ho => ?add, fun ho => ?sub, fun ho => ?mul, fun ho => ?fma, fun ho => ?min, fun ho => ?max, fun ho => ?abs,
    fun ho => ?neg, fun ho => ?shl, fun ho => ?shr⟩
  case shl => exact places_shift h (.inl ho) ((shift_eq h a b).trans (if_pos ho))
  case shr => exact places_shift h (.inr ho) ((shift_eq h a b).trans (if_neg (by rw [ho]; decide)))
  all_goals refine arith ho (by decide) ?_; simp only [VecCmd.intArith, ho]
  case min | max | abs => split <;> omega

end int

/-! ## Bits and conditions -/

/-- The bits of an integer in a format, as a number. -/
theorem toNat_ofInt_emod (w : Nat) (v : Int) : (v % (2 ^ w : Nat)).toNat = (BitVec.ofInt w v).toNat := by
  rw [BitVec.toNat_ofInt]

theorem bitwise_eq (c : VecCmd) (a b : Nat) :
    let w := elemBits c.f
    let p := BitVec.ofInt w (c.int c.tagA a)
    let q := if c.x.sub.getLsbD 0 then ~~~BitVec.ofInt w (c.int c.tagB b) else BitVec.ofInt w (c.int c.tagB b)
    c.bitwise a b = (if c.op = 0x9B then p &&& q else if c.op = 0x9C then p ||| q else p ^^^ q).toNat := by
  intro w p q
  have hq : (if c.x.sub.getLsbD 0 then 2 ^ w - 1 - (BitVec.ofInt w (c.int c.tagB b)).toNat
      else (BitVec.ofInt w (c.int c.tagB b)).toNat) = q.toNat := by
    show _ = (if _ then _ else _ : BitVec w).toNat
    split
    · rw [BitVec.toNat_not]
    · rfl
  simp only [VecCmd.bitwise, toNat_ofInt_emod]
  rw [hq]
  split
  · rename_i ho
    rw [if_pos ho, BitVec.toNat_and]
  · rename_i ho
    rw [if_neg (by rw [ho]; decide), if_pos ho, BitVec.toNat_or]
  · rename_i h1 h2
    rw [if_neg h1, if_neg h2, BitVec.toNat_xor]

/-- Table 6-5, `vand`, `vor`, `vxor`. -/
theorem element_bits {c : VecCmd} {i a b d : Nat} {m : Bool} :
    let w := elemBits c.f
    let ea := c.int c.tagA a
    let eb := c.int c.tagB b
    ∀ e ∈ ([(0x9B, BitVec.and), (0x9C, BitVec.or), (0x9D, BitVec.xor)] : List (Nat × (BitVec w → BitVec w → BitVec w))),
      c.op = e.1 → c.element i a b d m =
        ((e.2 (BitVec.ofInt w ea) (if c.x.sub.getLsbD 0 then ~~~BitVec.ofInt w eb else BitVec.ofInt w eb)).toNat, 0) := by
  intro w ea eb
  simp only [List.forall_mem_cons, List.not_mem_nil, false_implies, implies_true, and_true]
  refine ⟨fun ho => ?and, fun ho => ?or, fun ho => ?xor⟩
  case and =>
    rw [element_bitwise (.inl ho), bitwise_eq, if_pos ho]
    rfl
  case or =>
    rw [element_bitwise (.inr (.inl ho)), bitwise_eq, if_neg (by rw [ho]; decide), if_pos ho]
    rfl
  case xor =>
    rw [element_bitwise (.inr (.inr ho)), bitwise_eq, if_neg (by rw [ho]; decide), if_neg (by rw [ho]; decide)]
    rfl

/-- The conditions of `vcmp` on integers (Table 6-7): the element is the condition's bit, and no flag is set. -/
theorem element_cond {c : VecCmd} {i a b d : Nat} {m : Bool} (h : c.op = 0x98) (hf : isFlt c.f = false) :
    let w := elemBits c.f
    let ea := c.int c.tagA a
    let eb := c.int c.tagB b
    ∀ e ∈ ([(0, ea = eb), (1, ea ≠ eb), (2, ea < eb), (3, eb ≤ ea), (4, ea ≤ eb), (5, eb < ea),
        (6, BitVec.ofInt w ea &&& BitVec.ofInt w eb ≠ 0), (7, BitVec.ofInt w ea &&& BitVec.ofInt w eb = 0)] : List (BitVec 4 × Prop)),
      c.x.sub = e.1 → (c.element i a b d m).2 = 0 ∧ (e.2 → (c.element i a b d m).1 = 1) ∧ (¬e.2 → (c.element i a b d m).1 = 0) := by
  intro w ea eb
  have bit {p : Bool} {q : Prop} {r : Nat × Flags} (hr : r = (if p then 1 else 0, 0)) (hp : p = true ↔ q) :
      r.2 = 0 ∧ (q → r.1 = 1) ∧ (¬q → r.1 = 0) :=
    ⟨by rw [hr], fun k => by rw [hr, if_pos (hp.mpr k)], fun k => by rw [hr, if_neg (mt hp.mp k)]⟩
  have both : (ea % (2 ^ w : Nat)).toNat &&& (eb % (2 ^ w : Nat)).toNat = 0 ↔ BitVec.ofInt w ea &&& BitVec.ofInt w eb = 0 := by
    rw [toNat_ofInt_emod, toNat_ofInt_emod, ← BitVec.toNat_and, ← BitVec.toNat_inj]
    rfl
  rw [element_compare h]
  simp only [List.forall_mem_cons, List.not_mem_nil, false_implies, implies_true, and_true]
  refine ⟨fun hs => ?_, fun hs => ?_, fun hs => ?_, fun hs => ?_, fun hs => ?_, fun hs => ?_, fun hs => ?_, fun hs => ?_⟩
  all_goals refine bit (by simp only [VecCmd.compare, hf, hs]; rfl) ?_
  · exact beq_iff_eq
  · exact bne_iff_ne
  · exact decide_eq_true_iff
  · exact decide_eq_true_iff
  · exact decide_eq_true_iff
  · exact decide_eq_true_iff
  · exact bne_iff_ne.trans (not_congr both)
  · exact beq_iff_eq.trans both

/-- The conditions of `vcmp` on floats are those of `fcmp`, under the numbers of Table 6-7. -/
theorem element_fcond {c : VecCmd} {i a b d : Nat} {m : Bool} (h : c.op = 0x98) (hf : isFlt c.f = true) :
    ∀ e ∈ ([(0, 0), (1, 1), (2, 2), (3, 5), (4, 3), (5, 4), (8, 6), (9, 7)] : List (BitVec 4 × Nat)),
      c.x.sub = e.1 → c.element i a b d m =
        (if (fcmpHolds e.2 (c.val c.tagA a) (c.val c.tagB b)).1 then 1 else 0, (fcmpHolds e.2 (c.val c.tagA a) (c.val c.tagB b)).2) := by
  rw [element_compare h]
  simp only [List.forall_mem_cons, List.not_mem_nil, false_implies, implies_true, and_true]
  refine ⟨fun hs => ?_, fun hs => ?_, fun hs => ?_, fun hs => ?_, fun hs => ?_, fun hs => ?_, fun hs => ?_, fun hs => ?_⟩
  all_goals simp only [VecCmd.compare, hf, hs]; rfl

/-! ## Floats -/

/-- Table 6-5's float column. -/
theorem element_float {c : VecCmd} {i a b d : Nat} {m : Bool} (hf : isFlt c.f = true) :
    let md := c.mode c.f
    let va := c.val c.tagA a
    let vb := c.val c.tagB b
    (∀ e ∈ ([(0x90, fadd), (0x91, fsub), (0x92, fmul), (0x94, fmin), (0x95, fmax)] :
      List (Nat × (FpMode → Nat → Val → Val → Nat × Flags))), c.op = e.1 → c.element i a b d m = e.2 md c.f va vb) ∧
    (c.op = 0x93 → let z := c.hd.mode.decode c.f d
      c.element i a b d m = ffma md c.f (if c.x.sub.getLsbD 0 then va.negate else va) vb (if c.x.sub.getLsbD 1 then z.negate else z)) := by
  intro md va vb
  have arith {n : Nat} (ho : c.op = n) (hn : 0x90 ≤ n ∧ n ≤ 0x95) :
      c.element i a b d m = c.fltArith va vb (c.hd.mode.decode c.f d) := by
    rw [element_arith (by omega) (by omega), if_pos hf, if_neg (by omega)]
  simp only [List.forall_mem_cons, List.not_mem_nil, false_implies, implies_true, and_true]
  refine ⟨⟨fun ho => ?_, fun ho => ?_, fun ho => ?_, fun ho => ?_, fun ho => ?_⟩, fun ho => ?_⟩
  all_goals rw [arith ho (by decide)]; simp only [VecCmd.fltArith, ho]; rfl

/-! ## Bits kept -/

theorem element_vsel {c : VecCmd} {i a b d : Nat} {m : Bool} (h : c.op = 0x99) (ha : c.readTag c.tagA = c.f)
    (hb : c.readTag c.tagB = c.f) : c.element i a b d m = (if m then a else b, 0) := by
  rw [element_select h, VecCmd.widen, VecCmd.widen, if_pos ha, if_pos hb]

theorem element_keeps {c : VecCmd} {i a b d : Nat} {m : Bool} (h : c.op = 0xB0 ∨ (c.op = 0xB1 ∧ c.x.sub = 0)) :
    c.element i a b d m = (a, 0) := by
  rcases h with h | ⟨h, hs⟩
  · exact element_move h
  · rw [element_fill h, if_pos hs]

/-! ## The tree of a reduction -/

/-- A list of more than 2^e and at most 2^(e + 1) elements is parted after 2^e (R172). -/
theorem reduceTree_parted (f : Nat → Nat → Nat × Flags) {xs : List Nat} {e : Nat} (hx : xs.length < 2 ^ 17)
    (h1 : 2 ^ e < xs.length) (h2 : xs.length ≤ 2 ^ (e + 1)) :
    let l := reduceTree f 20 (xs.take (2 ^ e))
    let r := reduceTree f 20 (xs.drop (2 ^ e))
    reduceTree f 20 xs = ((f l.1 r.1).1, l.2 ||| r.2 ||| (f l.1 r.1).2) := by
  have he : e < 17 := (Nat.pow_lt_pow_iff_right (by decide)).mp (Nat.lt_trans h1 hx)
  have fuel {ys : List Nat} (hy : ys.length ≤ 2 ^ e) : reduceTree f 19 ys = reduceTree f 20 ys :=
    reduceTree_fuel f e 19 20 ys hy (by omega) (by omega)
  have hl : (xs.take (2 ^ e)).length ≤ 2 ^ e := List.length_take_le _ _
  have hr : (xs.drop (2 ^ e)).length ≤ 2 ^ e := by rw [List.length_drop, Nat.pow_succ] at *; omega
  have hp := Nat.two_pow_pos e
  rw [← fuel hl, ← fuel hr, ← log2_between h1 h2]
  match xs, h1 with
  | [], h1 => exact absurd h1 (Nat.not_lt_zero _)
  | [x], h1 => exact absurd h1 (by rw [List.length_singleton]; omega)
  | x :: y :: l, _ => exact reduceTree_step f 19 x y l

end Sys2Proof.Machine
end

section
/-! SUPPORT. Vector instructions: each one issues its command, and what its elements become. -/

namespace Sys2Proof.Machine

/-- Every instruction of the Vec layout runs the vector body of its opcode. -/
theorem exec_ofVec {op : Nat} {x : Vec} {i : Instr} (h : ofVec op x = some i) (s : State) :
    exec i s = runStrand i.view (vecBody op x) s := by
  unfold ofVec at h
  split at h <;> cases h <;> rfl

section issue
variable {s q : State} {op : Nat} {x : Vec} {i : Instr} {c : VecCmd} (hi : ofVec op x = some i) (ha : s.admits i.view = true)
  (hq : q = s.drainIf s.cur Loc.isPad) (hc : c = q.captureVec op x)
  (hw : ∀ w id, s.curStrand.wait = some w → w.why ≠ .vectorHold id)
include hi ha hq hc hw

theorem exec_vec_trap {n k : Nat} {v : Option DWord} (h : (q.vecRows c (vecSources op x))[n]? = some (some (k, v)))
    (before : ∀ m, m < n → (q.vecRows c (vecSources op x))[m]? = some none) (hn : n < 2 ∨ c.n ≠ 0)
    (ho : n < 5 ∨ q.olderWriters (q.checkedBytes c) = []) :
    exec i s = .next (s.trapped s k (v.getD (i.view.firstWord.zeroExtend 64)) s.curStrand.pc 0) := by
  have body := issueVec_trap hq hc (checkVec_trap h before hn ho)
  rw [exec_ofVec hi, runStrand_trap ha ((vecBody_issues op x hw).trans body)]
  rfl

theorem exec_vec_empty (h : ∀ r ∈ (q.vecRows c (vecSources op x)).take 2, r = none) (hn : c.n = 0) :
    exec i s = .next (s.retire q i.view .next) := by
  rw [exec_ofVec hi, runStrand_next ha ((vecBody_issues op x hw).trans (issueVec_empty hq hc (checkVec_empty h hn) hn))]

variable (rows : ∀ r ∈ q.vecRows c (vecSources op x), r = none) (hn : c.n ≠ 0) (ho : q.olderWriters (q.checkedBytes c) = [])
  (room : q.hasRoom (q.core q.curTask.core).vq.length = true)
include rows hn ho room

theorem exec_vec_late {l : LateTrap} {t : State}
    (late : q.lateOf (q.vecSets (q.withScales c)).1 (q.vecSets (q.withScales c)).2 = some (l, t)) :
    exec i s = .next (s.trapped (t.tookLate l) l.cause l.value s.curStrand.pc 0) := by
  rw [exec_ofVec hi, runStrand_raiseKeep ha ((vecBody_issues op x hw).trans (issueVec_late hq hc rows hn ho room late))]

variable (calm : q.lateOf (q.vecSets (q.withScales c)).1 (q.vecSets (q.withScales c)).2 = none)
include calm

theorem exec_vec_enters (hop : op ≠ 0xB1) :
    exec i s = .next (s.afterVec (q.enteredVec (q.withScales c)) c i.view) := by
  have body := (vecBody_issues op x hw).trans (issueVec_enters hq hc rows hn ho room calm hop)
  rw [exec_ofVec hi, runStrand_enterVec ha body (by rw [hq, State.cur_drainIf])]
  rfl

theorem exec_vfill_literal (hop : op = 0xB1) {w : Word} (hb : x.b = .lit w) :
    let f := { q.withScales c with a := .const (literalBits c.f w) }
    exec i s = .next (s.afterVec (q.enteredVec f) f i.view) := by
  have body := (vecBody_issues op x hw).trans (issueVec_fills hq hc rows hn ho room calm hop)
  rw [enterFill_literal hb] at body
  rw [exec_ofVec hi, runStrand_enterVec ha body (by rw [hq, State.cur_drainIf])]
  rfl

theorem exec_vfill_scalar (hop : op = 0xB1) (hb : ∀ w, x.b ≠ .lit w) (hr : q.ready [x.a.toNat] none = true) :
    let f := { q.withScales c with a := .const (BitVec.ofNat 64 ((q.source x.a.toNat).toNat % 2 ^ elemBits c.f)) }
    exec i s = .next (s.afterVec ((q.popCodes [x.a.toNat]).enteredVec f) f i.view) := by
  have body := (vecBody_issues op x hw).trans (issueVec_fills hq hc rows hn ho room calm hop)
  rw [enterFill_scalar hb hr] at body
  rw [exec_ofVec hi, runStrand_enterVec ha body (by rw [popCodes_cur, hq, State.cur_drainIf])]
  rfl

end issue

/-- Settles O34: an instruction issues through the rows of its checks; an element is its instruction's result, and a list is parted
by one level of the tree. -/
theorem vectorIssue : Obligations.VectorIssue := by
  unfold Obligations.VectorIssue
  refine ⟨?issue, ?fill, ?element, fun f xs hx => ⟨fun x => rfl, fun e h1 h2 => reduceTree_parted f hx h1 h2⟩⟩
  case issue =>
    intro s x e he ha q c sets
    have hi : ofVec e.2 x = some e.1 := by
      clear ha
      revert e
      simp only [List.forall_mem_cons, List.not_mem_nil, false_implies, implies_true, and_true]
      and_intros <;> rfl
    have hop : e.2 ≠ 0xB1 := by
      clear ha hi
      revert e
      simp only [List.forall_mem_cons, List.not_mem_nil, false_implies, implies_true, and_true]
      and_intros <;> decide
    have hs : q.vecRows c (vecSources e.2 x) = q.vecRows c [] := congrArg _ (if_neg hop)
    refine ⟨?unheld, ?held⟩
    case unheld =>
      intro hw
      rw [← hs]
      exact ⟨fun rows hn ho room => ⟨(exec_vec_enters hi ha rfl rfl hw rows hn ho room · hop),
        fun l t => exec_vec_late hi ha rfl rfl hw rows hn ho room⟩, exec_vec_empty hi ha rfl rfl hw,
        fun n k v => exec_vec_trap hi ha rfl rfl hw⟩
    case held =>
      intro w id h hw hy hh
      refine ⟨fun k v hk => ?_, fun hd => ?_⟩
      · subst hk
        rw [exec_ofVec hi, runStrand_raiseKeep ha (vecBody_heldTrap _ x hw hy hh)]
      · rw [exec_ofVec hi, runStrand_next ha (vecBody_heldDone _ x hw hy hh hd)]
  case fill =>
    intro s x ha q c sets hw rows hn ho room
    have hi : ofVec 0xB1 x = some (.vfill x) := rfl
    exact ⟨fun l t => exec_vec_late hi ha rfl rfl hw rows hn ho room,
      fun w calm hb => exec_vfill_literal hi ha rfl rfl hw rows hn ho room calm rfl hb,
      fun calm hb hr => exec_vfill_scalar hi ha rfl rfl hw rows hn ho room calm rfl hb hr⟩
  case element =>
    intro c i a b d m ea eb va vb w r
    refine ⟨?int, element_bits, element_cond, element_fcond, element_float, element_vsel, element_keeps⟩
    intro sg k h lo hi put od
    refine ⟨places_exact h i a b d m, fun ho hs => ?vfill, places_clamp h a b⟩
    have hr : r = c.putInt (intOf c.f a + i) := (element_fill ho).trans (if_neg hs)
    exact hr ▸ places_putInt h _

end Sys2Proof.Machine
end

section
/-! SUPPORT. The copy engine at work (R165, R214, R216, R218, R228, R236, R238, R249 to R251, R322, R344): how a channel starts the
command at its head, its beats, its stream, and the posts of the bytes landed. -/

namespace Sys2Proof.Machine

/-! ## The start of a command -/

/-- The command as it starts, and the state with its start record. -/
def CpyCmd.asStarted (c : CpyCmd) : CpyCmd := { c with hd := { c.hd with started := true } }
def State.recorded (s : State) (c : CpyCmd) : State := if c.hd.started then s else s.startCmd c.hd

section start
variable {s : State} {t ch : Nat}

theorem startCpy_none (h : s.cpyHead t ch = none) : s.startCpy t ch = s := by
  simp only [State.startCpy, h]

/-- The head of a channel may start: its task's engines work, nothing older conflicts, and nothing it touches is to be zeroed. -/
def State.cpyClear (s : State) (t : Nat) (c : CpyCmd) : Prop :=
  s.engineFree t = true ∧ s.blocked c.hd = false ∧ s.meetsZeroing c.hd = false ∧ s.cpyZeroing c = false

theorem cpyClear_iff (c : CpyCmd) :
    (c.run.isSome || !s.engineFree t || s.blocked c.hd || s.meetsZeroing c.hd || s.cpyZeroing c) = false ↔
      c.run = none ∧ s.cpyClear t c := by
  simp only [State.cpyClear, Bool.or_eq_false_iff, Bool.not_eq_false', Option.isSome_eq_false_iff, Option.isNone_iff_eq_none,
    and_assoc]

variable {c : CpyCmd} (h : s.cpyHead t ch = some c)
include h

theorem startCpy_stays (k : ¬(c.run = none ∧ s.cpyClear t c)) : s.startCpy t ch = s := by
  simp only [State.startCpy, h]
  exact if_pos (eq_true_of_ne_false (mt (cpyClear_iff c).mp k))

variable (hr : c.run = none) (clear : s.cpyClear t c)
include hr clear

theorem startCpy_runs {r : CpyRun} {v : State} (e : startRun c.asStarted (s.recorded c) = .ok r v) :
    s.startCpy t ch = (v.endCmdWait c.asStarted.hd).putCpy
      { c.asStarted with hd := { c.asStarted.hd with wait := none }, run := some r } := by
  simp only [CpyCmd.asStarted, State.recorded] at e
  simp only [State.startCpy, h, (cpyClear_iff c).mpr ⟨hr, clear⟩, Bool.false_eq_true, if_false, e]
  rfl

theorem startCpy_waits {y : Why} {p : Party} {v : State} (e : startRun c.asStarted (s.recorded c) = .error (.wait y p) v) :
    s.startCpy t ch = (v.changeCmdWait c.asStarted.hd y).putCpy
      { c.asStarted with hd := c.asStarted.hd.hold y p v.cycle } := by
  simp only [CpyCmd.asStarted, State.recorded] at e
  simp only [State.startCpy, h, (cpyClear_iff c).mpr ⟨hr, clear⟩, Bool.false_eq_true, if_false, e]
  rfl

theorem startCpy_faults {code : Nat} {a : DWord} {v : State}
    (e : startRun c.asStarted (s.recorded c) = .error (.fault code a) v) :
    s.startCpy t ch = ((v.endCmdWait c.asStarted.hd).putCpy c.asStarted).faultChannel t ch code a c.id := by
  simp only [CpyCmd.asStarted, State.recorded] at e
  simp only [State.startCpy, h, (cpyClear_iff c).mpr ⟨hr, clear⟩, Bool.false_eq_true, if_false, e]
  rfl

end start

/-! ## Beats -/

section beats
variable {s : State} {t ch : Nat} (n : Nat)

theorem cpyMoves_none (h : s.cpyHead t ch = none) : s.cpyMoves t ch n = s := by
  cases n with
  | zero => rfl
  | succ n => simp only [State.cpyMoves, h]

variable {c : CpyCmd} (h : s.cpyHead t ch = some c)
include h

theorem cpyMoves_unstarted (hr : c.run = none) : s.cpyMoves t ch n = s := by
  cases n with
  | zero => rfl
  | succ n => simp only [State.cpyMoves, h, hr]

variable {r q : CpyRun} {v : State} (hr : c.run = some r)
include hr

theorem cpyMoves_done (e : c.beat r s = .ok (q, true) v) :
    s.cpyMoves t ch (n + 1) = (v.endCmdWait c.hd).completeCpy { c with hd := { c.hd with wait := none } } q.flags := by
  simp only [State.cpyMoves, h, hr, e, if_true]

theorem cpyMoves_beat (e : c.beat r s = .ok (q, false) v) :
    s.cpyMoves t ch (n + 1) = ((v.endCmdWait c.hd).putCpyRun c q).cpyMoves t ch n := by
  simp only [State.cpyMoves, h, hr, e, Bool.false_eq_true, if_false]

theorem cpyMoves_wait {y : Why} {p : Party} (e : c.beat r s = .error (.wait y p) v) :
    s.cpyMoves t ch (n + 1) = (v.changeCmdWait c.hd y).putCpy { c with hd := c.hd.hold y p s.cycle } := by
  simp only [State.cpyMoves, h, hr, e]

theorem cpyMoves_fault {code : Nat} {a : DWord} (e : c.beat r s = .error (.fault code a) v) :
    s.cpyMoves t ch (n + 1) = (v.endCmdWait c.hd).faultChannel t ch code a c.id := by
  simp only [State.cpyMoves, h, hr, e]

end beats

/-- The expansion at the head of a channel waits for a table that has come, and its task's engines work (R236). -/
theorem tableWaits_iff {s : State} {t ch : Nat} {c : CpyCmd} :
    ((c.hd.wait.any fun w => w.why == .table ch) && !((s.task t).chan ch).tables.isEmpty && s.engineFree t) = true ↔
      (∃ w, c.hd.wait = some w ∧ w.why = .table ch) ∧ ((s.task t).chan ch).tables ≠ [] ∧ s.engineFree t = true := by
  simp only [Bool.and_eq_true, Option.any_eq_true, beq_iff_eq, Bool.not_eq_true', List.isEmpty_eq_false_iff, ne_eq, and_assoc]

/-- What the end of a table wait leaves: one beat of the head of the channel when it may pop its table. -/
def State.tableWait (s : State) (t ch : Nat) : State :=
  match s.cpyHead t ch with
  | some c =>
    if (c.hd.wait.any fun w => w.why == .table ch) && !((s.task t).chan ch).tables.isEmpty && s.engineFree t then s.cpyMoves t ch 1
    else s
  | none => s

theorem tableWait_over {s : State} {t ch : Nat} {c : CpyCmd} (h : s.cpyHead t ch = some c)
    (k : (∃ w, c.hd.wait = some w ∧ w.why = .table ch) ∧ ((s.task t).chan ch).tables ≠ [] ∧ s.engineFree t = true) :
    s.tableWait t ch = s.cpyMoves t ch 1 := by
  simp only [State.tableWait, h, if_pos (tableWaits_iff.mpr k)]

theorem tableWait_goesOn {s : State} {t ch : Nat} {c : CpyCmd} (h : s.cpyHead t ch = some c)
    (k : ¬((∃ w, c.hd.wait = some w ∧ w.why = .table ch) ∧ ((s.task t).chan ch).tables ≠ [] ∧ s.engineFree t = true)) :
    s.tableWait t ch = s := by
  simp only [State.tableWait, h, if_neg (mt tableWaits_iff.mp k)]

/-! ## Streams -/

section stream
variable {s : State} {t ch : Nat}

theorem startStream_none (h : ((s.task t).chan ch).stream = none) : s.startStream t ch = s := by
  simp only [State.startStream, h]

theorem streamMoves_none (h : ((s.task t).chan ch).stream = none) (n : Nat) : s.streamMoves t ch n = s := by
  cases n with
  | zero => rfl
  | succ n => simp only [State.streamMoves, h]

variable {r : StreamRun} (h : ((s.task t).chan ch).stream = some r)
include h

theorem startStream_starts (k : r.started = false ∧ ((s.task t).chan ch).cmds = [] ∧ s.engineFree t = true) :
    s.startStream t ch = s.putStreamRun t ch (some { r with started := true }) := by
  obtain ⟨k1, k2, k3⟩ := k
  simp only [State.startStream, h, k1, k2, k3, Bool.not_false, List.isEmpty_nil, Bool.and_self, if_true]

theorem startStream_stays (k : ¬(r.started = false ∧ ((s.task t).chan ch).cmds = [] ∧ s.engineFree t = true)) :
    s.startStream t ch = s := by
  simp only [State.startStream, h]
  refine if_neg fun e => k ?_
  simpa only [Bool.and_eq_true, Bool.not_eq_true', List.isEmpty_iff, and_assoc] using e

theorem streamMoves_held (k : r.started = false ∨ s.engineFree t = false) (n : Nat) : s.streamMoves t ch n = s := by
  cases n with
  | zero => rfl
  | succ n =>
    simp only [State.streamMoves, h]
    exact if_pos (by simpa only [Bool.or_eq_true, Bool.not_eq_true'] using k)

variable (hs : r.started = true) (hf : s.engineFree t = true) (n : Nat) {v : State}
include hs hf

theorem streamMoves_next {q : StreamRun} (e : streamMove t ch r s = .ok (some q) v) :
    s.streamMoves t ch (n + 1) =
      ((v.endCmdWait (streamHead t r)).putStreamRun t ch (some { q with wait := none })).streamMoves t ch n := by
  simp only [State.streamMoves, h, hs, hf, Bool.not_true, Bool.or_self, Bool.false_eq_true, if_false, e]

theorem streamMoves_end (e : streamMove t ch r s = .ok none v) :
    s.streamMoves t ch (n + 1) =
      let w := v.putStreamRun t ch none
      (w.setTask t ((w.task t).setQueueReg r.q { (w.task t).queueReg r.q with bind := .stopped })).dropEnds t (streamEndOf r.q) := by
  simp only [State.streamMoves, h, hs, hf, Bool.not_true, Bool.or_self, Bool.false_eq_true, if_false, e]

theorem streamMoves_wait {y : Why} {p : Party} (e : streamMove t ch r s = .error (.wait y p) v) :
    s.streamMoves t ch (n + 1) = (v.changeCmdWait (streamHead t r) y).putStreamRun t ch
      (some { r with wait := ((streamHead t r).hold y p s.cycle).wait }) := by
  simp only [State.streamMoves, h, hs, hf, Bool.not_true, Bool.or_self, Bool.false_eq_true, if_false, e]

theorem streamMoves_fault {code : Nat} {a : DWord} (e : streamMove t ch r s = .error (.fault code a) v) :
    s.streamMoves t ch (n + 1) = (v.endCmdWait (streamHead t r)).faultChannel t ch code a 0 := by
  simp only [State.streamMoves, h, hs, hf, Bool.not_true, Bool.or_self, Bool.false_eq_true, if_false, e]

end stream

/-! ## Barrier posts -/

section posts
variable {s : State} {t ch : Nat}

theorem flushPosts_none (h : ((s.task t).chan ch).posts = 0) : s.flushPosts t ch = s := by
  simp only [State.flushPosts, h, if_true]

/-- The state with the bytes landed by a channel taken, to be posted. -/
def State.postsTaken (s : State) (t ch : Nat) : State :=
  s.setTask t ((s.task t).setChan ch { (s.task t).chan ch with posts := 0 })

variable (h : ((s.task t).chan ch).posts ≠ 0)
include h

theorem flushPosts_alone (hg : (s.task t).group = none) :
    s.flushPosts t ch = if (s.task t).life = .ended then s.postsTaken t ch else
      (s.postsTaken t ch).postBarrier t (12 + ch) ((s.task t).chan ch).posts ((s.postsTaken t ch).taskParty t 2) := by
  simp only [State.flushPosts, if_neg h, hg, bne_iff_ne, ne_eq, ite_not]
  rfl

theorem flushPosts_member {g : Nat} (hg : (s.task t).group = some g) :
    s.flushPosts t ch = if (Assoc.get? s.groups g).isSome then
      (s.postsTaken t ch).postBarrier t (12 + ch) ((s.task t).chan ch).posts ((s.postsTaken t ch).taskParty t 2)
      else s.postsTaken t ch := by
  simp only [State.flushPosts, if_neg h, hg]
  rfl

end posts

end Sys2Proof.Machine
end

section
/-! SUPPORT. The lease of a hoop and the matrix queue at work (R194, R196, R199, R200, R203, R204, R207). -/

namespace Sys2Proof.Machine

/-! ## The lease -/

section lease
variable {s : State} {k : Nat}

theorem grantLease_free (h : (s.hoop k).holder = none) {u : Nat} (hu : nextCandidate (s.hoop k).last (s.candidates k) = some u) :
    s.grantLease k = s.giveLease k u := by
  simp only [State.grantLease, h, hu]

theorem grantLease_alone (h : (s.hoop k).holder = none) (hu : nextCandidate (s.hoop k).last (s.candidates k) = none) :
    s.grantLease k = s := by
  simp only [State.grantLease, h, hu]

theorem grantLease_taken (h : (s.hoop k).holder ≠ none) : s.grantLease k = s := by
  obtain ⟨u, hu⟩ := Option.ne_none_iff_exists'.mp h
  simp only [State.grantLease, hu]

theorem idleLease_free (h : (s.hoop k).holder = none) : s.idleLease k = s := by
  simp only [State.idleLease, h]

/-- The holder has nothing queued, or its head could not start for 256 cycles (R196 event 3). -/
def State.stuckHolder (s : State) (k u : Nat) : Prop :=
  s.matHead u = none ∨ ∃ c since, s.matHead u = some c ∧ (s.hoop k).blocked = some since ∧ c.hd.started = false ∧
    s.matReady c = false ∧ since + 256 ≤ s.cycle

/-- A holder that is stuck outside a chain passes the lease to a rival, and keeps it else. -/
theorem idleLease_held {u : Nat} (h : (s.hoop k).holder = some u) :
    ((s.task u).mat.qopen = false ∧ s.stuckHolder k u ∧ s.rivals k u = true → s.idleLease k = s.passLease k u .waiting) ∧
    (¬((s.task u).mat.qopen = false ∧ s.stuckHolder k u ∧ s.rivals k u = true) → s.idleLease k = s) := by
  simp only [State.idleLease, h, State.stuckHolder, Bool.and_eq_true, Bool.not_eq_true', and_assoc]
  cases hm : s.matHead u with
  | none =>
    simp only [true_or, true_and]
    exact ⟨fun p => if_pos p, fun p => if_neg p⟩
  | some c =>
    cases hb : (s.hoop k).blocked with
    | none =>
      simp only [Bool.false_eq_true, reduceCtorEq, false_and, and_false, exists_false, or_self, false_implies, if_false,
        implies_true, and_self]
    | some since =>
      simp only [reduceCtorEq, false_or, Option.some.injEq, exists_and_left, exists_eq_left', Bool.and_eq_true,
        Bool.not_eq_true', decide_eq_true_eq, and_assoc]
      exact ⟨fun p => if_pos p, fun p => if_neg p⟩

end lease

/-! ## Matrix commands -/

section commands
variable {s : State} {t : Nat}

theorem startMat_none (h : s.matHead t = none) : s.startMat t = s := by simp only [State.startMat, h]
theorem endMat_none (h : s.matHead t = none) : s.endMat t = s := by simp only [State.endMat, h]
theorem freeAtHead_none (h : s.matHead t = none) : s.freeAtHead t = s := by simp only [State.freeAtHead, h]

variable {c : MatCmd} (h : s.matHead t = some c)
include h

theorem startMat_waits (k : s.matReady c = false) : s.startMat t = s := by
  simp only [State.startMat, h, k, Bool.not_false, if_true]

theorem startMat_starts (k : s.matReady c = true) :
    s.startMat t =
      let u := s.matStartEdge c
      let v := u.setTask t { u.task t with mat := { (u.task t).mat with
        qmul := if c.hd.op = 0xC7 then (u.task t).mat.qmul + 1 else (u.task t).mat.qmul } }
      let k := hoopOf (u.task t).core
      let w := if isLeased c.hd.op then v.setHoop k { v.hoop k with blocked := none } else v
      w.putMat { c with hd := { c.hd with started := true } } := by
  simp only [State.startMat, h, k, Bool.not_true, Bool.false_eq_true, if_false]

theorem endMat_waits (k : c.hd.started = false ∨ s.mayFinish t = false) : s.endMat t = s := by
  simp only [State.endMat, h]
  exact if_pos (by simpa only [Bool.or_eq_true, Bool.not_eq_true'] using k)

/-- A command completes with its effect; a leased one outside chains counts under the grant, and the array stops for a task that is
being stopped. -/
theorem endMat_completes (k : c.hd.started = true) (hf : s.mayFinish t = true) :
    s.endMat t =
      let h := hoopOf (s.task t).core
      let y := (s.runMatrix c).1.dropMat c (s.runMatrix c).2
      let z := if (y.hoop h).holder = some t then
          y.setHoop h { y.hoop h with blocked := some y.cycle, grant := (y.hoop h).grant +
            (if isLeased c.hd.op = true ∧ (s.task t).mat.qopen = false ∧ (s.hoop h).holder = some t then 1 else 0) } else y
      if (z.task t).life = .stopping then z.stopArray t else (z.settleMarkers t 16).settleLease h := by
  simp only [State.endMat, h, k, hf, Bool.not_true, Bool.or_self, Bool.false_eq_true, if_false, beq_iff_eq, Bool.and_eq_true,
    Bool.not_eq_true', and_assoc]

theorem freeAtHead_other (k : c.hd.op ≠ 0xC1 ∨ s.engineFree t = false) : s.freeAtHead t = s := by
  simp only [State.freeAtHead, h]
  exact if_pos (by simpa only [Bool.or_eq_true, bne_iff_ne, Bool.not_eq_true'] using k)

variable (ho : c.hd.op = 0xC1) (hf : s.engineFree t = true)
include ho hf

/-- An `mfree` at the head gives up what its task has of the lease, leaves the queue, and lets the markers behind it act. -/
theorem freeAtHead_frees :
    s.freeAtHead t =
      let h := hoopOf (s.task t).core
      let y :=
        if (s.task t).mat.rpend then
          (s.setTask t { s.task t with mat := { (s.task t).mat with rpend := false } }).passLease h t .none
        else if (s.hoop h).holder = some t ∧ s.rivals h t = true then s.passLease h t .waiting
        else s
      ((y.dropMat c 0).settleMarkers t 16).settleLease h := by
  simp only [State.freeAtHead, h, ho, hf, bne_self_eq_false, Bool.not_true, Bool.or_self, Bool.false_eq_true, if_false,
    Bool.and_eq_true, beq_iff_eq]

theorem freeAtHead_keeps (p : (s.task t).mat.rpend = false)
    (k : (s.hoop (hoopOf (s.task t).core)).holder ≠ some t ∨ s.rivals (hoopOf (s.task t).core) t = false) :
    s.freeAtHead t = ((s.dropMat c 0).settleMarkers t 16).settleLease (hoopOf (s.task t).core) := by
  have stays : ¬((s.hoop (hoopOf (s.task t).core)).holder = some t ∧ s.rivals (hoopOf (s.task t).core) t = true) :=
    fun a => k.elim (fun n => n a.1) fun n => Bool.false_ne_true (n.symm.trans a.2)
  simp only [freeAtHead_frees h ho hf, p, Bool.false_eq_true, if_false, if_neg stays]

theorem freeAtHead_passes (p : (s.task t).mat.rpend = false) (k : (s.hoop (hoopOf (s.task t).core)).holder = some t)
    (l : s.rivals (hoopOf (s.task t).core) t = true) :
    s.freeAtHead t = (((s.passLease (hoopOf (s.task t).core) t .waiting).dropMat c 0).settleMarkers t 16).settleLease
      (hoopOf (s.task t).core) := by
  simp only [freeAtHead_frees h ho hf, p, k, l, Bool.false_eq_true, if_false, and_self, if_true]

theorem freeAtHead_gives (p : (s.task t).mat.rpend = true) :
    s.freeAtHead t = ((((s.setTask t { s.task t with mat := { (s.task t).mat with rpend := false } }).passLease
      (hoopOf (s.task t).core) t .none).dropMat c 0).settleMarkers t 16).settleLease (hoopOf (s.task t).core) := by
  simp only [freeAtHead_frees h ho hf, p, if_true]

end commands

/-- The claims of an ended task are free when its matrix and copy commands have left, and stay until then (R199). -/
theorem releaseClaims_of {s : State} {t : Nat} (h : (Assoc.get? s.tasks t).isSome = true) :
    s.releaseClaims t = if (s.task t).life = .ended ∧ s.matCmds t = [] ∧ (s.task t).cpyHeads = [] then
      s.setTask t { s.task t with mat := { (s.task t).mat with smap := [], amap := [], slots := [], accs := [] } } else s := by
  obtain ⟨x, hx⟩ := Option.isSome_iff_exists.mp h
  have ht : s.task t = x := by rw [State.task, Assoc.getD, hx, Option.getD_some]
  simp only [State.releaseClaims, hx, ht, Bool.and_eq_true, beq_iff_eq, List.isEmpty_iff, and_assoc]

end Sys2Proof.Machine
end

section
/-! SUPPORT. The vector engine of a core at work (R165, R218, R288, R322). -/

namespace Sys2Proof.Machine

theorem vecFree_iff (s : State) (c : VecCmd) :
    s.vecFree c = true ↔ s.engineFree c.hd.task = true ∨
      ((s.task c.hd.task).life = .stopping ∧ (s.task c.hd.task).frozenBy = none ∧ c.atBeat = false) := by
  simp only [State.vecFree, Bool.or_eq_true, Bool.and_eq_true, beq_iff_eq, Option.isNone_iff_eq_none, Bool.not_eq_true', and_assoc]

theorem leaveCarve_unfinished {c : VecCmd} (h : c.run.any VecRun.fin = false) (s : State) : s.leaveCarve c = s ∧ c.leave = c := by
  simp only [State.leaveCarve, VecCmd.leave, h, Bool.and_false, Bool.false_eq_true, if_false, and_self]

theorem leaveCarve_finished {c : VecCmd} (h : c.run.any VecRun.fin = true) (s : State) :
    c.leave = { c with hd := { c.hd with off := true } } ∧
    (c.hd.usesCarve = true →
      s.leaveCarve c = s.setTask c.hd.task { s.task c.hd.task with carveEnd := s.taskParty c.hd.task 1 }) ∧
    (c.hd.usesCarve = false → s.leaveCarve c = s) := by
  refine ⟨?_, fun k => ?_, fun k => ?_⟩
  · simp only [VecCmd.leave, h, if_true]
  · simp only [State.leaveCarve, h, k, Bool.and_self, if_true]
  · simp only [State.leaveCarve, k, Bool.false_and, Bool.false_eq_true, if_false]

section run
variable {s : State} {core beats : Nat}

theorem runVector_none (h : ∀ c ∈ (s.core core).vq, s.vecFree c = false) : s.runVector core beats = s := by
  have idle : (s.core core).vq.find? s.vecFree = none := List.find?_eq_none.mpr fun c hc => Bool.eq_false_iff.mp (h c hc)
  simp only [State.runVector, idle]

/-- A command that has not started may not: a conflicting one is ahead of it, or storage it touches is to be zeroed. -/
def State.vecShut (s : State) (c : VecCmd) : Prop :=
  c.run = none ∧ (s.blocked c.hd = true ∨ s.meetsZeroing c.hd = true ∨ s.spanZeroing c = true)

theorem vecShut_iff (s : State) (c : VecCmd) :
    (c.run.isNone && (s.blocked c.hd || s.meetsZeroing c.hd || s.spanZeroing c)) = true ↔ s.vecShut c := by
  simp only [State.vecShut, Bool.and_eq_true, Bool.or_eq_true, Option.isNone_iff_eq_none, or_assoc]

/-- The moves of the engine on a command, `beats` of them or as many as end it, with its start record when it starts. -/
def State.vecWork (s : State) (c : VecCmd) (beats : Nat) : State × VecCmd × Option VecOut :=
  (if c.run.isNone then s.startCmd c.hd else s).vecMoves { c with hd := { c.hd with started := true } } (c.run.getD (s.startVec c))
    (if beats = 0 then c.fuel else beats)

/-- What the engine leaves of a command after its moves: ended, in a trap or not, or still in its queue. -/
def vecLeft (core : Nat) (e : State × VecCmd × Option VecOut) : State :=
  match e.2.2 with
  | some .done => e.1.endVec core e.2.1 none
  | some (.trap cause v) => e.1.endVec core e.2.1 (some (cause, v))
  | _ => (e.1.leaveCarve e.2.1).putVec core e.2.1.leave

section left
variable {e : State × VecCmd × Option VecOut}

theorem vecLeft_done (h : e.2.2 = some .done) : vecLeft core e = e.1.endVec core e.2.1 none := by rw [vecLeft, h]

theorem vecLeft_trap {cause : Nat} {v : DWord} (h : e.2.2 = some (.trap cause v)) :
    vecLeft core e = e.1.endVec core e.2.1 (some (cause, v)) := by rw [vecLeft, h]

theorem vecLeft_queued (h : e.2.2 = none ∨ ∃ y p, e.2.2 = some (.wait y p)) :
    vecLeft core e = (e.1.leaveCarve e.2.1).putVec core e.2.1.leave := by
  rcases h with h | ⟨y, p, h⟩
  · rw [vecLeft, h]
  · rw [vecLeft, h]

end left

variable {c : VecCmd} (h : (s.core core).vq.find? s.vecFree = some c)
include h

theorem runVector_shut (k : s.vecShut c) : s.runVector core beats = s := by
  simp only [State.runVector, h, (vecShut_iff s c).mpr k, if_true]

theorem runVector_works (k : ¬s.vecShut c) : s.runVector core beats = vecLeft core (s.vecWork c beats) := by
  rw [State.runVector, h, State.vecWork]
  refine (if_neg (mt (vecShut_iff s c).mp k)).trans ?_
  cases hr : c.run with
  | none => rfl
  | some r => rfl

end run

end Sys2Proof.Machine
end

section
/-! SUPPORT. The front-end units at work (R381, R384, R387): how a unit takes a run, moves it on, releases it from the host's hands,
and ends it. -/

namespace Sys2Proof.Machine

/-! ## Moves -/

section moves
variable {s : State} {die kind e : Nat}

theorem runUnit_beyond (h : engines kind ≤ e) (beats : Nat) : s.runUnit die kind e beats = s := by
  simp only [State.runUnit, h, if_true]

theorem runUnit_works {r : Run} (h : e < engines kind) (ha : s.activeRun die kind e = some r) (beats : Nat) :
    s.runUnit die kind e beats = s.runMoves die kind e (if beats = 0 then 2 ^ 24 else beats) := by
  simp only [State.runUnit, if_neg (Nat.not_le.mpr h), ha]

theorem runUnit_takes {r : Run} (h : e < engines kind) (ha : s.activeRun die kind e = none) (hn : s.nextRunOf die kind = some r)
    (beats : Nat) :
    s.runUnit die kind e beats = (s.takeRun die kind e r).runMoves die kind e (if beats = 0 then 2 ^ 24 else beats) := by
  simp only [State.runUnit, if_neg (Nat.not_le.mpr h), ha, hn]

theorem runUnit_idle (h : e < engines kind) (ha : s.activeRun die kind e = none) (hn : s.nextRunOf die kind = none) (beats : Nat) :
    s.runUnit die kind e beats = s := by
  simp only [State.runUnit, if_neg (Nat.not_le.mpr h), ha, hn]

/-- The run of a unit has nothing to move: it is done, in the host's hands, or at a frame of a context being destroyed. -/
def State.runRests (s : State) (r : Run) : Prop :=
  r.isDone = true ∨ (r.hostMode = true ∧ r.desc ≠ []) ∨ ((s.ctx r.ctx).state = .destroying ∧ r.atFrame = true)

theorem runRests_iff (s : State) (r : Run) :
    (r.isDone || (r.hostMode && !r.desc.isEmpty) || ((s.ctx r.ctx).state == .destroying && r.atFrame)) = true ↔ s.runRests r := by
  simp only [State.runRests, Bool.or_eq_true, Bool.and_eq_true, Bool.not_eq_true', List.isEmpty_eq_false_iff, beq_iff_eq, or_assoc]

variable {r : Run} (h : s.activeRun die kind e = some r) (n : Nat)
include h

theorem runMoves_rests (k : s.runRests r) : s.runMoves die kind e n = s := by
  cases n with
  | zero => rfl
  | succ n => simp only [State.runMoves, h, (runRests_iff s r).mpr k, if_true]

variable (k : ¬s.runRests r) {v : State}
include k

theorem runMoves_next {q : Run} (m : runMove die e r s = .ok q v) :
    s.runMoves die kind e (n + 1) =
      ((v.endRunWait die e r).putRun die kind e { q with wait := none }).runMoves die kind e n := by
  simp only [State.runMoves, h, if_neg (mt (runRests_iff s r).mp k), m]

theorem runMoves_wait {y : Why} {p : Party} (m : runMove die e r s = .error (.wait y p) v) :
    s.runMoves die kind e (n + 1) = v.putRun die kind e { r with wait := (r.head.hold y p s.cycle).wait } := by
  simp only [State.runMoves, h, if_neg (mt (runRests_iff s r).mp k), m]

theorem runMoves_fault {code : Nat} {a : DWord} (m : runMove die e r s = .error (.fault code a) v) :
    s.runMoves die kind e (n + 1) = (v.endRunWait die e r).putRun die kind e
      { r with wait := none, pend := [], res := [], st := some (runCode code) } := by
  simp only [State.runMoves, h, if_neg (mt (runRests_iff s r).mp k), m]

end moves

/-! ## The host's hands -/

section host
variable {s : State} {die kind e : Nat}

theorem releaseHostRun_none (h : s.activeRun die kind e = none) : s.releaseHostRun die kind e = s := by
  simp only [State.releaseHostRun, h]

/-- A run in the host's hands: its descriptor has been read, it has no status yet, and its context is not being destroyed. -/
def State.hostHolds (s : State) (r : Run) : Prop :=
  r.hostMode = true ∧ r.desc ≠ [] ∧ r.st = none ∧ ¬(s.ctx r.ctx).state = .destroying

theorem hostHolds_iff (s : State) (r : Run) :
    (!r.hostMode || r.desc.isEmpty || r.st.isSome || (s.ctx r.ctx).state == .destroying) = false ↔ s.hostHolds r := by
  simp only [State.hostHolds, Bool.or_eq_false_iff, Bool.not_eq_false', List.isEmpty_eq_false_iff, Option.isSome_eq_false_iff,
    Option.isNone_iff_eq_none, beq_eq_false_iff_ne, ne_eq, and_assoc]

variable {r : Run} (h : s.activeRun die kind e = some r)
include h

theorem releaseHostRun_other (k : ¬s.hostHolds r) : s.releaseHostRun die kind e = s := by
  simp only [State.releaseHostRun, h]
  exact if_pos (eq_true_of_ne_false (mt (hostHolds_iff s r).mp k))

variable (k : s.hostHolds r) {v : State}
include k

/-- The timeline word decides: an uncorrectable error ends the run with status 7, the threshold with status 8 (R387). -/
theorem releaseHostRun_word {pa : Nat}
    (m : copyPage (s.runAccess die kind e r.ctx false) (r.desc.getD (hostWord kind) 0) s = .ok (.home pa) v) :
    s.releaseHostRun die kind e =
      if v.isBad pa 8 then (v.endRunWait die e r).putRun die kind e { r with wait := none, st := some 7 }
      else if (r.desc.getD (hostWord kind + 1) 0).toNat ≤ v.mem.nat pa 8 then
        (v.endRunWait die e r).putRun die kind e { r with wait := none, st := some 8 }
      else v := by
  simp only [State.releaseHostRun, h, (hostHolds_iff s r).mpr k, Bool.false_eq_true, if_false, m]

theorem releaseHostRun_wait {y : Why} {p : Party}
    (m : copyPage (s.runAccess die kind e r.ctx false) (r.desc.getD (hostWord kind) 0) s = .error (.wait y p) v) :
    s.releaseHostRun die kind e = v.putRun die kind e { r with wait := (r.head.hold y p s.cycle).wait } := by
  simp only [State.releaseHostRun, h, (hostHolds_iff s r).mpr k, Bool.false_eq_true, if_false, m]

theorem releaseHostRun_fault {code : Nat} {a : DWord}
    (m : copyPage (s.runAccess die kind e r.ctx false) (r.desc.getD (hostWord kind) 0) s = .error (.fault code a) v) :
    s.releaseHostRun die kind e = v.putRun die kind e { r with wait := none, st := some (runCode code) } := by
  simp only [State.releaseHostRun, h, (hostHolds_iff s r).mpr k, Bool.false_eq_true, if_false, m]

end host

/-! ## The end of a run -/

section ends
variable {s : State} {die kind e : Nat}

theorem endRun_none (h : s.activeRun die kind e = none) : s.endRun die kind e = s := by
  simp only [State.endRun, h]

variable {r : Run} (h : s.activeRun die kind e = some r)
include h

/-- A run of a context being destroyed ends at its frame with neither status nor increment (R274). -/
theorem endRun_dying (k : (s.ctx r.ctx).state = .destroying) :
    s.endRun die kind e = if r.atFrame then (s.endRunWait die e r).freeUnit die kind e else s := by
  simp only [State.endRun, h, k, beq_self_eq_true, if_true]

variable (k : ¬(s.ctx r.ctx).state = .destroying)
include k

theorem endRun_undone (hd : r.isDone = false) : s.endRun die kind e = s := by
  simp only [State.endRun, h, beq_iff_eq, k, if_false, hd, Bool.not_false, if_true]

variable (hd : r.isDone = true) {v : State}
include hd

theorem endRun_ends (m : finishRun (s.runAccess die kind e r.ctx true) r s = .ok () v) :
    s.endRun die kind e = (v.endRunWait die e r).freeUnit die kind e := by
  simp only [State.endRun, h, beq_iff_eq, k, if_false, hd, Bool.not_true, Bool.false_eq_true, m]

theorem endRun_wait {y : Why} {p : Party} (m : finishRun (s.runAccess die kind e r.ctx true) r s = .error (.wait y p) v) :
    s.endRun die kind e = v.putRun die kind e { r with wait := (r.head.hold y p s.cycle).wait } := by
  simp only [State.endRun, h, beq_iff_eq, k, if_false, hd, Bool.not_true, Bool.false_eq_true, m]

/-- A fault of the descriptor's own page mutes the run; any other gives it a status, and no increment more. -/
theorem endRun_fault {code : Nat} {va : DWord}
    (m : finishRun (s.runAccess die kind e r.ctx true) r s = .error (.fault code va) v) :
    s.endRun die kind e =
      if r.mute = false ∧ va &&& 0xFFFFFFFFFFFF0000 = r.addr &&& 0xFFFFFFFFFFFF0000 then
        (v.endRunWait die e r).putRun die kind e { r with wait := none, mute := true }
      else (v.endRunWait die e r).putRun die kind e
        { r with wait := none, st := some (runCode code), desc := r.desc.set (doneWord kind) 0 } := by
  simp only [State.endRun, h, beq_iff_eq, k, if_false, hd, Bool.not_true, Bool.false_eq_true, m, Bool.and_eq_true, Bool.not_eq_true']

end ends

end Sys2Proof.Machine
end

section
/-! SUPPORT. The engines at work: the events of the copy, matrix, vector and front-end engines. -/

namespace Sys2Proof.Machine

/-- An event of an engine leaves what its operation leaves. -/
theorem engine_next {i : Instr} {s u v : State} (hi : exec i s = .next u) (h : u = v) : exec i s = .next v :=
  hi.trans (congrArg _ h)

/-- Settles O60: each event is one operation, whose lemma gives each of its cases. -/
theorem engineEvents : Obligations.EngineEvents := by
  unfold Obligations.EngineEvents
  intro s t x ch h
  refine ⟨rfl, fun hc => ⟨engine_next rfl (startCpy_none hc), fun n => cpyMoves_none n hc⟩, fun c r hc hr => ?running,
    fun c n hc hr => cpyMoves_unstarted n hc hr, fun c hc hr => ?start, ⟨rfl, fun c r n hc hr => ?beats⟩, fun c hc => ?table,
    fun r hs => ?stream, fun hs => ⟨engine_next rfl (startStream_none hs), streamMoves_none hs⟩, ⟨rfl, rfl⟩, ?posts, ?lease,
    fun c hc => ?matrix, fun hc => ?noMatrix, fun ht => ?claims, ?vector, fun c => ?free, fun hv => engine_next rfl (runVector_none hv),
    ?runs, ?front⟩
  case running => exact engine_next rfl (startCpy_stays hc fun k => by rw [hr] at k; cases k.1)
  case start =>
    exact ⟨fun k => engine_next rfl (startCpy_stays hc fun a => k a.2), fun k r v e => engine_next rfl (startCpy_runs hc hr k e),
      fun k y p v e => engine_next rfl (startCpy_waits hc hr k e), fun k code a v e => engine_next rfl (startCpy_faults hc hr k e)⟩
  case beats =>
    exact ⟨fun q v => cpyMoves_done n hc hr, fun q v => cpyMoves_beat n hc hr, fun y p v => cpyMoves_wait n hc hr,
      fun code a v => cpyMoves_fault n hc hr⟩
  case table =>
    exact ⟨fun k => engine_next rfl (tableWait_over hc k), fun k => engine_next rfl (tableWait_goesOn hc k)⟩
  case stream =>
    exact ⟨fun k => engine_next rfl (startStream_starts hs k), fun k => engine_next rfl (startStream_stays hs k),
      streamMoves_held hs, fun k f n => ⟨fun q v => streamMoves_next hs k f n, fun v => streamMoves_end hs k f n,
      fun y p v => streamMoves_wait hs k f n, fun code a v => streamMoves_fault hs k f n⟩⟩
  case posts =>
    exact ⟨fun k => engine_next rfl (flushPosts_none k),
      fun k g l => engine_next rfl ((flushPosts_alone k g).trans (if_neg l)),
      fun g k hg there => engine_next rfl ((flushPosts_member k hg).trans (if_pos there)),
      fun k g l => engine_next rfl ((flushPosts_alone k g).trans (if_pos l)),
      fun g k hg gone => engine_next rfl ((flushPosts_member k hg).trans (if_neg (by rw [gone]; exact Bool.false_ne_true)))⟩
  case lease =>
    exact ⟨fun k => engine_next rfl (grantLease_taken k), fun k u hu => engine_next rfl (grantLease_free k hu),
      fun k hu => engine_next rfl (grantLease_alone k hu), fun k => engine_next rfl (idleLease_free k),
      fun u hu => ⟨fun k => engine_next rfl ((idleLease_held hu).1 k), fun k => engine_next rfl ((idleLease_held hu).2 k)⟩⟩
  case matrix =>
    exact ⟨fun k => engine_next rfl (startMat_starts hc k), fun k => engine_next rfl (startMat_waits hc k),
      fun k => engine_next rfl (endMat_waits hc k), fun k f => engine_next rfl (endMat_completes hc k f),
      fun k => engine_next rfl (freeAtHead_other hc k), fun ho f p k => engine_next rfl (freeAtHead_keeps hc ho f p k),
      fun ho f p k l => engine_next rfl (freeAtHead_passes hc ho f p k l),
      fun ho f p => engine_next rfl (freeAtHead_gives hc ho f p)⟩
  case noMatrix =>
    simp only [List.forall_mem_cons, List.not_mem_nil, false_implies, implies_true, and_true]
    exact ⟨engine_next rfl (startMat_none hc), engine_next rfl (endMat_none hc), engine_next rfl (freeAtHead_none hc)⟩
  case claims =>
    exact ⟨fun k => engine_next rfl ((releaseClaims_of ht).trans (if_pos k)),
      fun k => engine_next rfl ((releaseClaims_of ht).trans (if_neg k))⟩
  case vector =>
    intro core c hc shut u e
    exact ⟨fun k => engine_next rfl (runVector_shut hc k),
      fun k d => engine_next rfl ((runVector_works hc k).trans (vecLeft_done d)),
      fun cause v k d => engine_next rfl ((runVector_works hc k).trans (vecLeft_trap d)),
      fun k d => engine_next rfl ((runVector_works hc k).trans (vecLeft_queued d))⟩
  case free => exact ⟨vecFree_iff s c, fun k => leaveCarve_unfinished k s, fun k => leaveCarve_finished k s⟩
  case runs =>
    intro d n e he
    have event : exec e.2.2 s = .next (s.runUnit d e.1 e.2.1 s.arg.beats) := by
      revert e
      simp only [List.forall_mem_cons, List.not_mem_nil, false_implies, implies_true, and_true]
      exact ⟨rfl, rfl, rfl, rfl⟩
    exact ⟨fun k => engine_next event (runUnit_beyond k _), fun k => ⟨fun ha hn => engine_next event (runUnit_idle k ha hn _),
      fun r ha hn => engine_next event (runUnit_takes k ha hn _), fun r ha => ⟨engine_next event (runUnit_works k ha _), rfl,
      fun rests m => runMoves_rests ha m rests, fun works m => ⟨fun q v => runMoves_next ha m works,
      fun y p v => runMoves_wait ha m works, fun code a v => runMoves_fault ha m works⟩⟩⟩⟩
  case front =>
    intro d k e free
    refine ⟨fun ha => ⟨engine_next rfl (releaseHostRun_none ha), engine_next rfl (endRun_none ha)⟩, fun r ha => ?_⟩
    intro dying held
    refine ⟨fun n => engine_next rfl (releaseHostRun_other ha n), fun hh => ?released,
      fun dy f => engine_next rfl ((endRun_dying ha dy).trans (if_pos f)),
      fun dy f => engine_next rfl ((endRun_dying ha dy).trans (if_neg (Bool.eq_false_iff.mp f))),
      fun dy f => engine_next rfl (endRun_undone ha dy f), fun dy f => ?ended⟩
    case released =>
      refine ⟨fun pa v m => ?word, fun y p v m => engine_next rfl (releaseHostRun_wait ha hh m),
        fun code a v m => engine_next rfl (releaseHostRun_fault ha hh m)⟩
      have word := releaseHostRun_word ha hh m
      refine ⟨fun b => ?_, fun b l => ?_, fun b l => ?_⟩
      · exact engine_next rfl (word.trans (if_pos b))
      · exact engine_next rfl (word.trans ((if_neg (Bool.eq_false_iff.mp b)).trans (if_pos l)))
      · exact engine_next rfl (word.trans ((if_neg (Bool.eq_false_iff.mp b)).trans (if_neg (Nat.not_le.mpr l))))
    case ended =>
      exact ⟨fun v m => engine_next rfl (endRun_ends ha dy f m), fun y p v m => engine_next rfl (endRun_wait ha dy f m),
        fun code va v m => ⟨fun here => engine_next rfl ((endRun_fault ha dy f m).trans (if_pos here)),
          fun away => engine_next rfl ((endRun_fault ha dy f m).trans (if_neg away))⟩⟩

end Sys2Proof.Machine
end

section
/-! SUPPORT. The issue of a matrix instruction (R200, R202, R207, R210, R218, R220, Tables 7-3, 7-4, 9-4): the checks in the order
of their rows, the trap of an earlier command, and the entry of the command into its core's queue. -/

namespace Sys2Proof.Machine

theorem trapFirst_of_findSome {rows : List (Option (Nat × Option DWord))} {k : Nat} {v : Option DWord}
    (h : rows.findSome? id = some (k, v)) (s : State) : trapFirst rows s = .error (.trap { cause := k, value := v }) s := by
  rw [trapFirst, h]
  rfl

/-- Two effects that answer the same in a state make the same instruction there. -/
theorem runStrand_congr {v : View} {s : State} {b c : M Flow} (h : b s = c s) : runStrand v b s = runStrand v c s := by
  simp only [runStrand, h]

/-- The rows on which a matrix instruction that enters the queue finds a trap, in order: its tags, the first cause of Table 7-4, and
the alignment and range of its rows (Table 7-3). -/
def State.matRows (s : State) (op : Nat) (x : Mat) (vs : List DWord) : List (Option (Nat × Option DWord)) :=
  [if matFormatOk op x then none else some (25, none),
   (s.curTask.matrixState op x 0).map fun k => (27, some (BitVec.ofNat 64 k)),
   (matRangeTrap op x s.curTask.hdr.cs vs).map fun r => (r.1, some r.2)]

section rows
variable {s : State} {op : Nat} {x : Mat} {vs : List DWord}

theorem matRows_format (f : matFormatOk op x = false) : (s.matRows op x vs).findSome? id = some (25, none) := by
  simp only [State.matRows, f, Bool.false_eq_true, if_false, List.findSome?_cons, id]

variable (f : matFormatOk op x = true)
include f

theorem matRows_state {k : Nat} (h : s.curTask.matrixState op x 0 = some k) :
    (s.matRows op x vs).findSome? id = some (27, some (BitVec.ofNat 64 k)) := by
  simp only [State.matRows, f, h, if_true, List.findSome?_cons, Option.map_some, id]

variable (h : s.curTask.matrixState op x 0 = none)
include h

theorem matRows_range {k : Nat} {v : DWord} (r : matRangeTrap op x s.curTask.hdr.cs vs = some (k, v)) :
    (s.matRows op x vs).findSome? id = some (k, some v) := by
  simp only [State.matRows, f, h, r, if_true, List.findSome?_cons, Option.map_some, Option.map_none, id]

theorem matRows_pass (r : matRangeTrap op x s.curTask.hdr.cs vs = none) : ∀ e ∈ s.matRows op x vs, e = none := by
  simp only [State.matRows, f, h, r, if_true, Option.map_none, List.forall_mem_cons, List.not_mem_nil, false_implies, implies_true,
    and_self]

end rows

/-- What follows the checks: room, the trap of an earlier command, and the entry of the command. -/
def enterMatrix (op : Nat) (x : Mat) (c : MatCmd) : M Flow := do
  matRoom
  lateFor c.hd.reads c.hd.writes
  popNow (matSources op x)
  modifyTask fun t => { t with mat := t.mat.issued op x }
  enterMat c
  pure .next

theorem enterMat_apply (c : MatCmd) (s : State) : enterMat c s = .ok () (s.enteredMat c) := rfl

section entry
variable {q : State} (op : Nat) (x : Mat) {c : MatCmd} (room : q.hasRoom (q.core q.curTask.core).mq.length = true)
include room

theorem enterMatrix_late {l : LateTrap} {t : State} (late : q.lateOf c.hd.reads c.hd.writes = some (l, t)) :
    enterMatrix op x c q = .error (.trap { cause := l.cause, value := some l.value, keep := true }) (t.tookLate l) := by
  rw [enterMatrix, bind_ok (matRoom_ok room), bind_error (lateFor_some late)]

theorem enterMatrix_enters (calm : q.lateOf c.hd.reads c.hd.writes = none) :
    enterMatrix op x c q =
      .ok .next (((q.popCodes (matSources op x)).updTask fun t => { t with mat := t.mat.issued op x }).enteredMat c) := by
  rw [enterMatrix, bind_ok (matRoom_ok room), bind_ok (lateFor_none calm), bind_ok (popNow_apply _ _),
    bind_ok (modifyTask_apply _ _), bind_ok (enterMat_apply _ _), pure_apply]

end entry

section issue
variable {s q : State} {op : Nat} {x : Mat} {vs : List DWord} {c : MatCmd} (hq : q = s.drainIf s.cur Loc.isPad)
  (hr : q.ready (matSources op x) none = true) (hv : vs = (matSources op x).map q.source) (hc : c = q.matCommand op x vs)
include hq hr hv hc

/-- With its registers ready, a matrix instruction takes the trap of its first row that has one, and goes on to the entry else. -/
theorem matBody_rows : matBody op x s = (do trapFirst (q.matRows op x vs); enterMatrix op x c : M Flow) q := by
  subst hq hv hc
  rw [matBody, bind_ok (drainPad_apply s), bind_ok (peekOperands_ok hr), bind_ok (get_apply _), State.matRows]
  cases matFormatOk op x with
  | false => rfl
  | true =>
  cases (State.curTask _).matrixState op x 0 with
  | some k => rfl
  | none =>
  cases matRangeTrap op x _ _ with
  | some r => rfl
  | none => rfl

variable {i : Instr} (hi : exec i s = runStrand i.view (matBody op x) s) (ha : s.admits i.view = true)
include hi ha

theorem exec_mat_trap {k : Nat} {v : Option DWord} (h : (q.matRows op x vs).findSome? id = some (k, v)) :
    exec i s = .next (s.trapped s k (v.getD (i.view.firstWord.zeroExtend 64)) s.curStrand.pc 0) := by
  have body := (matBody_rows hq hr hv hc).trans (bind_error (trapFirst_of_findSome h q))
  rw [hi, runStrand_trap ha body]
  rfl

/-- An instruction whose rows pass enters its command, or takes the trap of an earlier one. -/
theorem exec_mat_checked (rows : ∀ r ∈ q.matRows op x vs, r = none)
    (room : q.hasRoom (q.core q.curTask.core).mq.length = true) :
    (q.lateOf c.hd.reads c.hd.writes = none → exec i s = .next (s.retire
      (((q.popCodes (matSources op x)).updTask fun t => { t with mat := t.mat.issued op x }).enteredMat c) i.view .next)) ∧
    (∀ l t, q.lateOf c.hd.reads c.hd.writes = some (l, t) →
      exec i s = .next (s.trapped (t.tookLate l) l.cause l.value s.curStrand.pc 0)) := by
  have body := (matBody_rows hq hr hv hc).trans (bind_ok (trapFirst_none rows q))
  rw [hi]
  exact ⟨fun calm => runStrand_next ha (body.trans (enterMatrix_enters op x room calm)),
    fun l t late => runStrand_raiseKeep ha (body.trans (enterMatrix_late op x room late))⟩

end issue

/-- `mfree` enters the queue like any other marker when there is a lease, a request for one, or an open chain (R207). -/
theorem mfreeBody_enters {s : State} (x : Mat) (h : ¬(s.curTask.mat.lease = .none ∧ s.curTask.mat.open_ = false)) :
    mfreeBody x s = matBody 0xC1 x s := by
  rw [mfreeBody, bind_ok (get_apply s), if_neg fun k => h (by
    simpa only [Bool.and_eq_true, beq_iff_eq, Bool.not_eq_true'] using k)]

/-- The instructions that enter the matrix queue of a task, with their opcodes. -/
def Task.matEntries (t : Task) (x : Mat) : List (Instr × Nat) :=
  [(.mload x, 0xC4), (.mbeg x, 0xC5), (.mend x, 0xC6), (.mmul x, 0xC7), (.mzero x, 0xC8), (.mstore x, 0xC9), (.mbmap x, 0xCA)] ++
    if t.mat.lease = .none ∧ t.mat.open_ = false then [] else [(.mfree x, 0xC1)]

theorem exec_matEntry {s : State} {x : Mat} (e : Instr × Nat) (h : e ∈ s.curTask.matEntries x) :
    exec e.1 s = runStrand e.1.view (matBody e.2 x) s := by
  rcases List.mem_append.mp h with k | k
  case inl =>
    clear h
    revert e
    simp only [List.forall_mem_cons, List.not_mem_nil, false_implies, implies_true, and_true]
    exact ⟨rfl, rfl, rfl, rfl, rfl, rfl, rfl⟩
  case inr =>
    split at k
    · cases k
    · rename_i asks
      obtain rfl := List.mem_singleton.mp k
      exact runStrand_congr (mfreeBody_enters x asks)

/-- Settles O35: a matrix instruction takes the trap of its first row that has one, and its command enters the queue else. -/
theorem matrixIssue : Obligations.MatrixIssue := by
  unfold Obligations.MatrixIssue
  intro s x e he q ha hr vs c
  have hi := exec_matEntry e he
  refine ⟨fun f => ?format, fun k f h => ?state, fun k v f h r => ?range, fun f h r room => ?enters⟩
  case format => exact exec_mat_trap (v := none) rfl hr rfl rfl hi ha (matRows_format f)
  case state => exact exec_mat_trap (v := some _) rfl hr rfl rfl hi ha (matRows_state f h)
  case range => exact exec_mat_trap (v := some _) rfl hr rfl rfl hi ha (matRows_range f h r)
  case enters => exact exec_mat_checked rfl hr rfl rfl hi ha (matRows_pass f h r) room

end Sys2Proof.Machine
end

section
/-! SUPPORT. The lease, the claims and the status of the matrix array as their instructions see them (R194 to R199, R202, R204,
R207, Tables 7-4, 7-6). -/

namespace Sys2Proof.Machine

section lease
variable {s : State}

/-- `mfree` of a task that has no lease, asks for none and has no open chain leaves everything as it is (R207). -/
theorem mfreeBody_idle (x : Mat) (h : s.curTask.mat.lease = .none) (o : s.curTask.mat.open_ = false) :
    mfreeBody x s = .ok .next s := by
  rw [mfreeBody, bind_ok (get_apply s), h, o]
  rfl

theorem mleaseBody_takes (h : s.curTask.mat.lease = .none) (free : (s.hoop (hoopOf s.curTask.core)).holder = none)
    (alone : s.candidates (hoopOf s.curTask.core) = []) :
    mleaseBody s = .ok .next (s.giveLease (hoopOf s.curTask.core) s.cur.task) := by
  rw [mleaseBody, bind_ok (modify_apply _ s), pure_apply]
  simp only [h, free, alone, Option.isNone_none, List.isEmpty_nil, Bool.and_self, if_true]

theorem mleaseBody_waits (h : s.curTask.mat.lease = .none)
    (busy : (s.hoop (hoopOf s.curTask.core)).holder ≠ none ∨ s.candidates (hoopOf s.curTask.core) ≠ []) :
    mleaseBody s = .ok .next ((s.setLease s.cur.task .waiting).settleLease (hoopOf s.curTask.core)) := by
  have taken : ¬((s.hoop (hoopOf s.curTask.core)).holder.isNone && (s.candidates (hoopOf s.curTask.core)).isEmpty) = true := by
    rwa [Bool.and_eq_true, Option.isNone_iff_eq_none, List.isEmpty_iff, Classical.not_and_iff_not_or_not]
  rw [mleaseBody, bind_ok (modify_apply _ s), pure_apply]
  simp only [h, if_neg taken]

theorem mleaseBody_keeps (h : s.curTask.mat.lease ≠ .none) :
    mleaseBody s = .ok .next (s.updTask fun t => { t with mat := { t.mat with rpend := false } }) := by
  rw [mleaseBody, bind_ok (modify_apply _ s), pure_apply]
  cases k : s.curTask.mat.lease with
  | none => exact absurd k h
  | waiting | held => simp only [k, State.updTask]

end lease

section claims
variable {s : State} {x : Mat} (hr : s.ready [x.a.toNat] none = true)
include hr

theorem claimBody_trap {op k : Nat} (h : s.curTask.matrixState op x (s.source x.a.toNat) = some k) :
    claimBody op x s = .error (.trap { cause := 27, value := some (BitVec.ofNat 64 k) }) s := by
  rw [claimBody, bind_ok (peekOperands_ok hr), bind_ok (get_apply s)]
  simp only [List.map_cons, List.headD_cons, h]
  rfl

theorem claimBody_claims (h : s.curTask.matrixState 0xC2 x (s.source x.a.toNat) = none) :
    claimBody 0xC2 x s = .ok .next ((maskBits (if x.ta = 1 then 8 else 32) (s.source x.a.toNat)).foldl
      (fun (t : State) k => t.claimOne (x.ta == 1) k) (s.popCodes [x.a.toNat])) := by
  rw [claimBody, bind_ok (peekOperands_ok hr), bind_ok (get_apply s)]
  simp only [List.map_cons, List.headD_cons, h, bind_ok (popNow_apply _ _), if_true, bind_ok (modify_apply _ _), pure_apply,
    beq_iff_eq]

theorem claimBody_releases (h : s.curTask.matrixState 0xC3 x (s.source x.a.toNat) = none) :
    let bits := maskBits (if x.ta = 1 then 8 else 32) (s.source x.a.toNat)
    claimBody 0xC3 x s = .ok .next ((s.popCodes [x.a.toNat]).updTask fun t => { t with mat :=
      if x.ta = 1 then { t.mat with amap := t.mat.amap.filter fun e => !bits.contains e.1 }
      else { t.mat with smap := t.mat.smap.filter fun e => !bits.contains e.1 } }) := by
  rw [claimBody, bind_ok (peekOperands_ok hr), bind_ok (get_apply s)]
  simp only [List.map_cons, List.headD_cons, h, bind_ok (popNow_apply _ _), if_neg (show ¬0xC3 = 0xC2 by decide),
    bind_ok (modifyTask_apply _ _), pure_apply, beq_iff_eq]

end claims

section status
variable {s : State}

theorem lateTrap_matrix_none {f : Channel → Bool} (h : s.curTask.mat.late = []) : lateTrap .matrix f s = .ok () s := by
  rw [lateTrap, bind_ok (get_apply s)]
  simp only [h]
  rfl

theorem LateTrap.take_apply (l : LateTrap) (s : State) :
    l.take s = .error (.trap { cause := l.cause, value := some l.value, keep := true }) (s.tookLate l) := rfl

/-- The first trap that a matrix command left is taken and dropped (R204). -/
theorem lateTrap_matrix_first {f : Channel → Bool} {l : LateTrap} {rest : List LateTrap} (h : s.curTask.mat.late = l :: rest) :
    lateTrap .matrix f s = .error (.trap { cause := l.cause, value := some l.value, keep := true })
      ((s.updTask fun t => { t with mat := { t.mat with late := rest } }).tookLate l) := by
  rw [lateTrap, bind_ok (get_apply s)]
  simp only [h]
  rw [bind_ok (modifyTask_apply _ s), LateTrap.take_apply]

/-- With commands in the queue, or no trap left by one, `mstat` reads the status word. -/
theorem mstatBody_reads {x : Mat} (hr : s.ready [] (some x.d.toNat) = true)
    (h : (s.matCmds s.cur.task).length ≠ 0 ∨ s.curTask.mat.late = []) :
    mstatBody x s = .ok .next (s.writeDst x.d.toNat (s.curTask.mat.word (s.matCmds s.cur.task).length)) := by
  have read : (do
      let _ ← operands [] (some x.d.toNat)
      let t ← get
      writeDst x.d.toNat (t.curTask.mat.word (s.matCmds s.cur.task).length)
      pure .next : M Flow) s = .ok .next (s.writeDst x.d.toNat (s.curTask.mat.word (s.matCmds s.cur.task).length)) := by
    rw [bind_ok (operands_ok hr), popCodes_nil, bind_ok (get_apply s), bind_ok (writeDst_apply _ _ _), pure_apply]
  rw [mstatBody, bind_ok (get_apply s)]
  by_cases k : (s.matCmds s.cur.task).length = 0
  · simp only [if_pos k]
    exact (bind_ok (lateTrap_matrix_none (h.resolve_left (absurd k)))).trans read
  · simp only [if_neg k]
    exact read

theorem mstatBody_trap {x : Mat} {l : LateTrap} {rest : List LateTrap} (k : (s.matCmds s.cur.task).length = 0)
    (h : s.curTask.mat.late = l :: rest) :
    mstatBody x s = .error (.trap { cause := l.cause, value := some l.value, keep := true })
      ((s.updTask fun t => { t with mat := { t.mat with late := rest } }).tookLate l) := by
  rw [mstatBody, bind_ok (get_apply s)]
  simp only [if_pos k]
  exact bind_error (lateTrap_matrix_first h)

end status

/-- Settles O36: each instruction's effect by the case of the lease, of Table 7-4, or of the trap left by a command. -/
theorem matrixState : Obligations.MatrixState := by
  unfold Obligations.MatrixState
  intro s x h v p bits
  refine ⟨fun ha l o => runStrand_next ha (mfreeBody_idle x l o), fun ha => ?lease, fun hr => ?claims, fun ha hr => ?status⟩
  case lease =>
    exact ⟨fun l f a => runStrand_next ha (mleaseBody_takes l f a), fun l b => runStrand_next ha (mleaseBody_waits l b),
      fun l => runStrand_next ha (mleaseBody_keeps l)⟩
  case claims =>
    refine ⟨fun ha bound => runStrand_next ha (claimBody_claims hr bound),
      fun ha bound => runStrand_next ha (claimBody_releases hr bound), ?trap⟩
    simp only [List.forall_mem_cons, List.not_mem_nil, false_implies, implies_true, and_true]
    exact ⟨fun k ha bad => runStrand_raise ha (claimBody_trap hr bad),
      fun k ha bad => runStrand_raise ha (claimBody_trap hr bad)⟩
  case status =>
    exact ⟨fun k => runStrand_next ha (mstatBody_reads hr k),
      fun l rest k late => runStrand_raiseKeep ha (mstatBody_trap k late)⟩

end Sys2Proof.Machine
end

section
/-! SUPPORT. The issue of a copy instruction (R214, R218, R220, R237, R239, R261, R374, R444, Tables 8-3, 8-5, 9-4): the checks in
the order of their rows, the trap of an earlier command, and the entry of the command at the end of its channel. -/

namespace Sys2Proof.Machine

/-! ## The rows before and behind a wait -/

section split
variable {rows : List (Option (Nat × Option DWord))} {n k : Nat} {v : Option DWord} (before : ∀ m, m < n → rows[m]? = some none)
  (m : Nat) (s : State)
include before

/-- The rows that stand before the first one with a trap pass. -/
theorem trapFirst_take_none (hm : m ≤ n) : trapFirst (rows.take m) s = .ok () s := by
  refine trapFirst_none (fun r hr => ?_) s
  obtain ⟨j, hj⟩ := List.mem_iff_getElem?.mp hr
  have lt : j < m := Nat.lt_of_not_le fun far => by
    rw [List.getElem?_take_eq_none far] at hj
    cases hj
  rw [List.getElem?_take_of_lt lt, before j (by omega)] at hj
  exact (Option.some.inj hj).symm

variable (h : rows[n]? = some (some (k, v)))
include h

theorem trapFirst_take_some (hm : n < m) : trapFirst (rows.take m) s = .error (.trap { cause := k, value := v }) s := by
  refine trapFirst_some (n := n) ?_ (fun j hj => ?_) s
  · rwa [List.getElem?_take_of_lt hm]
  · rw [List.getElem?_take_of_lt (by omega), before j hj]

theorem trapFirst_drop_some (hm : m ≤ n) : trapFirst (rows.drop m) s = .error (.trap { cause := k, value := v }) s := by
  refine trapFirst_some (n := n - m) ?_ (fun j hj => ?_) s
  · rwa [List.getElem?_drop, Nat.add_sub_cancel' hm]
  · rw [List.getElem?_drop, before _ (by omega)]

end split

/-! ## The checks of a copy command -/

/-- The checks of Table 8-3 and of R374 are the rows in order; the commands that write what a later row reads are waited for before
it. -/
theorem checkCpy_rows (s : State) (op : Nat) (c : CpyCmd) :
    checkCpy op c s = (do
      trapFirst ((s.cpyRows op c).take 4)
      if (s.olderWriters (s.cpyStream op c)).isEmpty then trapFirst ((s.cpyRows op c).drop 4)
      else stallOn (.older (s.olderWriters (s.cpyStream op c))) : M Unit) s := by
  rw [checkCpy, bind_ok (get_apply s)]
  simp only [State.cpyRows, List.take_succ_cons, List.take_zero, List.drop_succ_cons, List.drop_zero]
  -- A row that fails ends both sides in its trap; one that passes leaves the rows behind it.
  split
  · rfl
  split
  · rfl
  cases cpyMisaligned op c with
  | some v => rfl
  | none =>
  cases s.cpyMember c with
  | some v => rfl
  | none =>
  show (if (!(s.olderWriters (s.cpyStream op c)).isEmpty) = true then stallOn _ else _ : M Unit) s =
    (if _ then _ else _ : M Unit) s
  cases (s.olderWriters (s.cpyStream op c)).isEmpty with
  | false => rfl
  | true =>
  simp only [Bool.not_true, Bool.false_eq_true, if_false, if_true]
  cases s.rangeTrap s.cur.task (!cpyIsStore op c.x) c.d with
  | some v => rfl
  | none =>
  dsimp only
  split
  · rfl
  split
  · rfl
  cases s.cpyAperture op c with
  | some k => rfl
  | none => rfl

/-- The first row that fails gives the trap, where the older commands let the checks reach it. -/
theorem checkCpy_trap {s : State} {op n k : Nat} {c : CpyCmd} {v : Option DWord} (h : (s.cpyRows op c)[n]? = some (some (k, v)))
    (before : ∀ m, m < n → (s.cpyRows op c)[m]? = some none) (ho : n < 4 ∨ s.olderWriters (s.cpyStream op c) = []) :
    checkCpy op c s = .error (.trap { cause := k, value := v }) s := by
  rw [checkCpy_rows]
  by_cases h4 : n < 4
  · exact bind_error (trapFirst_take_some before 4 s h h4)
  · have behind : 4 ≤ n := Nat.le_of_not_lt h4
    rw [bind_ok (trapFirst_take_none before 4 s behind), ho.resolve_left h4, List.isEmpty_nil, if_pos rfl]
    exact trapFirst_drop_some before 4 s h behind

/-! ## Issue -/

/-- A copy command with its checker set: the bytes a store reads, or those a load writes (R218). -/
def CpyCmd.withSet (c : CpyCmd) (op : Nat) (x : Cpy) (set : List Resource) : CpyCmd :=
  { c with hd := if cpyIsStore op x then { c.hd with reads := set } else { c.hd with writes := set } }

/-- The entry of a copy command that has passed its checks and has room: the trap of an earlier command comes first. -/
def enterCpy (op : Nat) (x : Cpy) (c : CpyCmd) (set : List Resource) : M Flow := do
  lateFor (if cpyIsStore op x then set else []) (if cpyIsStore op x then [] else set)
  popNow (cpyCodes op x)
  modify fun s => s.enteredCpy x.ch.toNat (c.withSet op x set)
  pure .next

section entry
variable {s : State} {op : Nat} {x : Cpy} (c : CpyCmd) {set : List Resource}

theorem enterCpy_enters (calm : s.lateOf (if cpyIsStore op x then set else []) (if cpyIsStore op x then [] else set) = none) :
    enterCpy op x c set s = .ok .next ((s.popCodes (cpyCodes op x)).enteredCpy x.ch.toNat (c.withSet op x set)) := by
  rw [enterCpy, bind_ok (lateFor_none calm), bind_ok (popNow_apply _ _), bind_ok (modify_apply _ _), pure_apply]

theorem enterCpy_late {l : LateTrap} {t : State}
    (late : s.lateOf (if cpyIsStore op x then set else []) (if cpyIsStore op x then [] else set) = some (l, t)) :
    enterCpy op x c set s = .error (.trap { cause := l.cause, value := some l.value, keep := true }) (t.tookLate l) := by
  rw [enterCpy, bind_error (lateFor_some late)]

end entry

section issue
variable {s q : State} {op : Nat} {x : Cpy} {c : CpyCmd} (hq : q = s.drainIf s.cur Loc.isPad)
  (hr : q.ready (cpyCodes op x) none = true) (hc : c = q.captureCpy op x ((cpyCodes op x).map q.source))
include hq hr hc

theorem cpyBody_trap {e : Stop} (h : checkCpy op c q = .error e q) : cpyBody op x s = .error e q := by
  subst hq hc
  rw [cpyBody, bind_ok (drainPad_apply s), bind_ok (peekOperands_ok hr), bind_ok (get_apply _)]
  exact bind_error h

theorem cpyBody_enters (h : checkCpy op c q = .ok () q) (room : (q.curTask.chan x.ch.toNat).cmds.length < 8)
    (tracked : q.tracked q.curTask.core < 64) : cpyBody op x s = enterCpy op x c (q.cpySet op c) q := by
  subst hq hc
  rw [cpyBody, bind_ok (drainPad_apply s), bind_ok (peekOperands_ok hr), bind_ok (get_apply _)]
  refine (bind_ok h).trans ?_
  rw [if_neg (Nat.not_le_of_lt room), bind_ok (checkerRoom_ok tracked)]
  rfl

end issue

/-- The copy instructions, with their opcodes (Table 8-5). -/
def cpyInstrs (x : Cpy) : List (Instr × Nat) :=
  [(.cpy x, 0xD0), (.cpt x, 0xD1), (.cpg x, 0xD2), (.cps x, 0xD3), (.cpm x, 0xD4), (.cpc x, 0xD5), (.cpz x, 0xD6), (.cpk x, 0xD7)]

theorem exec_cpyInstr (s : State) (x : Cpy) : ∀ e ∈ cpyInstrs x, exec e.1 s = runStrand e.1.view (cpyBody e.2 x) s := by
  simp only [cpyInstrs, List.forall_mem_cons, List.not_mem_nil, false_implies, implies_true, and_true]
  exact ⟨rfl, rfl, rfl, rfl, rfl, rfl, rfl, rfl⟩

/-- Settles O37: a copy instruction takes the trap of its first row that fails; one whose rows pass takes the trap of an earlier
command, or enters its channel. -/
theorem copyIssue : Obligations.CopyIssue := by
  unfold Obligations.CopyIssue
  intro s x e he q ha hr c set reads writes ch
  rw [exec_cpyInstr s x e he]
  refine ⟨fun rows older room tracked => ?passes, fun n k v h before older => ?fails⟩
  case passes =>
    have body := cpyBody_enters rfl hr rfl (checkCpy_ok rows older) room tracked
    exact ⟨fun calm => runStrand_next ha (body.trans (enterCpy_enters c calm)),
      fun l t late => runStrand_raiseKeep ha (body.trans (enterCpy_late c late))⟩
  case fails =>
    rw [runStrand_trap ha (cpyBody_trap rfl hr rfl (checkCpy_trap h before older))]
    rfl

end Sys2Proof.Machine
end

section
/-! SUPPORT. Waits for transfers and the status of a channel (R214, R247, R248, Table 8-7). -/

namespace Sys2Proof.Machine

/-- Identifiers are compared modulo 2^32 (R214). -/
theorem idAtOrAfter_iff (a b : Word) : idAtOrAfter a b = true ↔ (a - b).toNat < 2 ^ 31 := decide_eq_true_iff

/-- What `cwait` does once its operand is ready, by the identifier it waits for and its channel (R247). -/
def waitTransfer (codes : List Nat) (ch : Nat) (id : Word) (c : Channel) : M Flow :=
  if idAtOrAfter c.done id then do
    popNow codes
    pure .next
  else if !idAtOrAfter c.issued id then raiseWord 29
  else if c.faulted && idAtOrAfter id c.fid then raise 30 (copyFaultValue ch c)
  else stallOn (.transfer ch id)

theorem cwaitBody_waits {s : State} {x : Gen} (hr : s.ready (Src.codes x.b) none = true) :
    cwaitBody x s = waitTransfer (Src.codes x.b) (x.fn.toNat % 4) ((s.valueB x.b).extractLsb' 0 32)
      (s.curTask.chan (x.fn.toNat % 4)) s := by
  rw [cwaitBody]
  refine (bind_ok (peekOperands_ok hr)).trans ?_
  rw [bind_ok (get_apply s), State.srcVal_source, waitTransfer]

section wait
variable {s : State} (codes : List Nat) (ch : Nat) {id : Word} {c : Channel}

theorem waitTransfer_done (done : (c.done - id).toNat < 2 ^ 31) :
    waitTransfer codes ch id c s = .ok .next (s.popCodes codes) := by
  rw [waitTransfer, if_pos ((idAtOrAfter_iff _ _).mpr done), bind_ok (popNow_apply _ _), pure_apply]

variable (undone : ¬(c.done - id).toNat < 2 ^ 31)
include undone

theorem waitTransfer_notIssued (unissued : ¬(c.issued - id).toNat < 2 ^ 31) :
    waitTransfer codes ch id c s = .error (.trap { cause := 29 }) s := by
  rw [← idAtOrAfter_iff] at undone unissued
  rw [waitTransfer, if_neg undone, if_pos (by simpa using unissued), raiseWord_apply]

variable (issued : (c.issued - id).toNat < 2 ^ 31)
include issued

theorem waitTransfer_issued : waitTransfer codes ch id c s =
    (if c.faulted && idAtOrAfter id c.fid then raise 30 (copyFaultValue ch c) else stallOn (.transfer ch id) : M Flow) s := by
  rw [← idAtOrAfter_iff] at undone issued
  rw [waitTransfer, if_neg undone, if_neg (by simpa using issued)]

/-- A Faulted channel completes no transfer from the faulted one on. -/
theorem waitTransfer_lost (faulted : c.faulted = true) (lost : (id - c.fid).toNat < 2 ^ 31) :
    waitTransfer codes ch id c s = .error (.trap { cause := 30, value := some (copyFaultValue ch c) }) s := by
  rw [← idAtOrAfter_iff] at lost
  rw [waitTransfer_issued codes ch undone issued, faulted, lost, Bool.and_self, if_pos rfl, raise_apply]

theorem waitTransfer_stalls (coming : c.faulted = false ∨ ¬(id - c.fid).toNat < 2 ^ 31) :
    waitTransfer codes ch id c s = .error (.stall (.transfer ch id) false) s := by
  rw [← idAtOrAfter_iff] at coming
  have whole : ¬(c.faulted && idAtOrAfter id c.fid) = true := by
    rcases coming with k | k <;> simp [k]
  rw [waitTransfer_issued codes ch undone issued, if_neg whole]
  rfl

end wait

theorem cpstatBody_reads {s : State} {x : Gen} (hr : s.ready [] (some x.d.toNat) = true) :
    let c := s.curTask.chan (x.fn.toNat % 4)
    cpstatBody x s = .ok .next (s.writeDst x.d.toNat
      (match x.fn.toNat / 4 % 4 with
        | 0 => c.done.zeroExtend 64
        | 1 => c.issued.zeroExtend 64
        | 2 => c.status
        | _ => c.faddr)) := by
  intro c
  rw [cpstatBody, bind_ok (operands_ok hr), popCodes_nil, bind_ok (get_apply s)]
  rfl

/-- Settles O30: `cwait` by where its identifier stands to the last done, the last issued and the faulted transfer, and what
`cpstat` reads. -/
theorem transferWaits : Obligations.TransferWaits := by
  unfold Obligations.TransferWaits
  intro s x ch c id reached
  refine ⟨fun ha hr => ?cwait, fun ha hr => runStrand_next ha (cpstatBody_reads hr)⟩
  have body := cwaitBody_waits hr
  exact ⟨fun done => runStrand_next ha (body.trans (waitTransfer_done _ _ done)),
    fun undone unissued => runStrand_raiseWord ha (body.trans (waitTransfer_notIssued _ _ undone unissued)),
    fun undone issued faulted lost => runStrand_raise ha (body.trans (waitTransfer_lost _ _ undone issued faulted lost)),
    fun undone issued coming => runStrand_stallOn ha (body.trans (waitTransfer_stalls _ _ undone issued coming))⟩

end Sys2Proof.Machine
end

section
/-! SUPPORT. The timeline instructions (R253, R349, R351, R353). What a `tlinc` with a sum of 2^64 or more leaves of its word: a
store of its own strand that is pending behind the check of the address can still perform there at the marker, unless every
pending store has a number below that of the next access. -/

namespace Sys2Proof.Machine

/-! ## A store that has the number of the next access -/

/-- The reset program's main strand with g1 at a timeline and a pending store, number 0, of 2^64 - 1 to that timeline's word; its
next access gets the number `next`. -/
def storePending (next : Nat) : State :=
  let s := State.reset.withFetchWord 64 0
  { s.setStrand s.cur { s.curStrand with
      g := [(1, 64), (2, 3)]
      stores := [{ id := 0, loc := .home 0x40040 0, size := 8, value := 2 ^ 64 - 1 }] } with
    nextLoad := next }

/-- `tlinc` of the timeline at g1 by the 3 in g2. -/
def incByG2 : Gen := ⟨.always, 5, 1, .code 2, 0⟩

/-- The check of the address lets older accesses perform only: the store performs at the marker, where it changes the word and
makes the sum too large. -/
theorem storePending_performs_at_marker :
    (storePending 0).admits (Instr.tlinc incByG2).view = true ∧ (storePending 0).ready [1, 2] (some 5) = true ∧
    (((storePending 0).timelineAt 64 true).any fun e => e.2.flushDone true .core &&
      decide (2 ^ 64 ≤ ((e.2.ordered true 0).mem.word e.1).toNat + 3) &&
      (e.2.ordered true 0).mem.word e.1 != e.2.mem.word e.1) = true := by
  decide +kernel

/-- Refutes O28: in `storePending 0` the word is 0 when `tlinc` finds its timeline, and its marker lets the pending store of
2^64 - 1 perform; the sum overflows, and the word is not what it was. The clause holds where every pending store has a number
below the next access's (`tlinc_overflow_leaves`). -/
theorem not_timelines : ¬ Obligations.Timelines := by
  unfold Obligations.Timelines
  intro holds
  obtain ⟨admitted, ready, overflows⟩ := storePending_performs_at_marker
  obtain ⟨⟨pa, t⟩, found, overflows⟩ := (Option.any_eq_true _ _).mp overflows
  simp only [Bool.and_eq_true, decide_eq_true_eq, bne_iff_ne] at overflows
  obtain ⟨⟨flushed, large⟩, changed⟩ := overflows
  obtain ⟨-, -, -, inc⟩ := holds (storePending 0) incByG2
  obtain ⟨-, leaves⟩ := inc admitted ready pa t found flushed
  exact changed (leaves large).2

/-! ## What one pending access leaves -/

/-- The memory is canonical and no pending store of a strand meets the word at `pa`, which is `w`. -/
structure State.Untouched (s : State) (r : StrandRef) (pa : Nat) (w : DWord) : Prop where
  wf : s.mem.wf = true
  word : s.mem.word pa = w
  apart : ∀ p ∈ (s.strand r).stores, (Loc.home pa 0).meets 8 p.loc p.size = false

/-- A load that reads late changes neither the memory nor the stores. -/
theorem State.readLate_frame (s : State) (r : StrandRef) (id : Nat) :
    (s.readLate r id).mem = s.mem ∧ ((s.readLate r id).strand r).stores = (s.strand r).stores := by
  simp only [State.readLate]
  split
  · split
    · next l n _ =>
      obtain ⟨tasks, -, mem⟩ := s.readAt_frame r l n
      refine ⟨mem, ?_⟩
      rw [State.strand_setStrand]
      simp only [State.forward, State.strand, State.task, tasks]
    · exact ⟨rfl, rfl⟩
  · exact ⟨rfl, rfl⟩

theorem State.settle_frame (s : State) (r : StrandRef) (id : Nat) (l : Loc) (n : Nat) :
    (s.settle r id l n).mem = s.mem ∧ ((s.settle r id l n).strand r).stores = (s.strand r).stores := by
  refine List.foldlRecOn (motive := fun t : State => t.mem = s.mem ∧ (t.strand r).stores = (s.strand r).stores) _ _
    ⟨rfl, rfl⟩ ?_
  intro t ⟨mem, stores⟩ e _
  obtain ⟨mem', stores'⟩ := t.readLate_frame r e.1
  exact ⟨mem'.trans mem, stores'.trans stores⟩

theorem State.stores_landOne (s : State) (r : StrandRef) (id : Nat) :
    ((s.landOne r id).strand r).stores = (s.strand r).stores.filter fun q => q.id != id := by
  simp only [State.landOne]
  split
  · next p _ =>
    rw [State.strand, State.task, State.tasks_writeAt]
    exact (congrArg Strand.stores (State.strand_setStrand ..)).trans (by rw [(s.settle_frame r id p.loc p.size).2])
  · next none =>
    refine (List.filter_eq_self.mpr fun q hq => ?_).symm
    simpa using List.find?_eq_none.mp none q hq

/-- A write that shares no byte with a word leaves it, and the memory canonical. -/
theorem State.mem_writeAt (s : State) (r : StrandRef) (l : Loc) (n v : Nat) (wf : s.mem.wf = true) :
    (s.writeAt r l n v).mem.wf = true ∧
    ∀ pa, (Loc.home pa 0).meets 8 l n = false → (s.writeAt r l n v).mem.word pa = s.mem.word pa := by
  cases l with
  | pad core lo shared =>
    have same : (s.writeAt r (.pad core lo shared) n v).mem = s.mem := by
      cases shared
      · rfl
      · simp only [State.writeAt, if_true, State.dropResidency]
        split <;> rfl
    rw [same]
    exact ⟨wf, fun _ _ => rfl⟩
  | home a pte =>
    refine ⟨Memory.wf_setNat a n v wf, fun pa apart => ?_⟩
    simp only [Loc.meets, Bool.and_eq_false_iff, decide_eq_false_iff_not] at apart
    exact congrArg (BitVec.ofNat 64) (Memory.nat_setNat_outside a n v pa 8 wf (by omega))
  | link port addr pasid => exact ⟨wf, fun _ _ => rfl⟩

theorem State.wf_landOne {s : State} (r : StrandRef) (id : Nat) (wf : s.mem.wf = true) : (s.landOne r id).mem.wf = true := by
  simp only [State.landOne]
  split
  · next p _ => exact (State.mem_writeAt _ r p.loc p.size p.value (by rwa [State.setStrand_mem, (s.settle_frame ..).1])).1
  · exact wf

/-- A store that performs elsewhere leaves the word, and one store fewer to perform. -/
theorem State.Untouched.landOne {s : State} {r : StrandRef} {pa : Nat} {w : DWord} (h : s.Untouched r pa w) (id : Nat) :
    (s.landOne r id).Untouched r pa w where
  wf := State.wf_landOne r id h.wf
  word := by
    simp only [State.landOne]
    split
    · next p found =>
      have mem := (s.settle_frame r id p.loc p.size).1
      rw [(State.mem_writeAt _ r p.loc p.size p.value (by rw [State.setStrand_mem, mem]; exact h.wf)).2 pa
        (h.apart p (List.mem_of_find?_eq_some found)), State.setStrand_mem, mem, h.word]
    · exact h.word
  apart p hp := h.apart p (List.mem_filter.mp (by rwa [State.stores_landOne] at hp)).1

theorem State.Untouched.readLate {s : State} {r : StrandRef} {pa : Nat} {w : DWord} (h : s.Untouched r pa w) (id : Nat) :
    (s.readLate r id).Untouched r pa w := by
  obtain ⟨mem, stores⟩ := s.readLate_frame r id
  exact ⟨by rw [mem]; exact h.wf, by rw [mem]; exact h.word, by rw [stores]; exact h.apart⟩

/-! ## A marker behind the check of an address -/

theorem State.Untouched.drain {s : State} {r : StrandRef} {pa : Nat} {w : DWord} (h : s.Untouched r pa w) :
    (s.drain r).Untouched r pa w := by
  have reads := List.foldlRecOn (motive := fun t : State => t.Untouched r pa w) ((s.strand r).lateLoads.filter fun _ => true)
    (fun t e => t.readLate r e.1) h fun _ ht e _ => ht.readLate e.1
  exact List.foldlRecOn (motive := fun t : State => t.Untouched r pa w) _ _ reads fun _ ht p _ => ht.landOne p.id

/-- A marker leaves a word that no pending store of the strand meets. -/
theorem State.Untouched.word_mark {s : State} {pa : Nat} {w : DWord} (h : s.Untouched s.cur pa w) (k : Scope) :
    (s.mark k).mem.word pa = w := by
  cases k <;> exact h.drain.word

theorem Loc.meets_home (pa m n : Nat) (pte : DWord) (l : Loc) :
    (Loc.home pa pte).meets m l n = (Loc.home pa 0).meets m l n := by
  cases l <;> rfl

/-- Every older access that meets the place is among those that perform before it. -/
theorem mem_before {l : Loc} {n : Nat} {es : List (Nat × Loc × Nat)} {e : Nat × Loc × Nat} (he : e ∈ es)
    (meets : l.meets n e.2.1 e.2.2 = true) : e ∈ before l n es := by
  induction es with
  | nil => exact absurd he List.not_mem_nil
  | cons x xs ih =>
    rw [before]
    rcases List.mem_cons.mp he with rfl | he
    · rw [if_pos (by rw [List.any_cons, meets, Bool.true_or])]
      exact List.mem_cons_self
    · split
      · exact List.mem_cons_of_mem _ (ih he)
      · exact ih he

/-- The stores left by a list of stores that perform. -/
theorem State.stores_foldl_landOne (r : StrandRef) (es : List (Nat × Loc × Nat)) (s : State) (p : PendStore)
    (hp : p ∈ ((es.foldl (fun s e => s.landOne r e.1) s).strand r).stores) :
    p ∈ (s.strand r).stores ∧ ∀ e ∈ es, p.id ≠ e.1 := by
  induction es generalizing s with
  | nil => exact ⟨hp, fun _ he => absurd he List.not_mem_nil⟩
  | cons e es ih =>
    obtain ⟨left, others⟩ := ih _ hp
    rw [State.stores_landOne, List.mem_filter, bne_iff_ne] at left
    exact ⟨left.1, List.forall_mem_cons.mpr ⟨left.2, others⟩⟩

/-- When every pending store of the strand has a number below that of the next access, none that is left once a word is cleared
meets it. -/
theorem State.untouched_clearFor {s : State} {r : StrandRef} (pa : Nat) (pte : DWord) (wf : s.mem.wf = true)
    (numbered : ∀ p ∈ (s.strand r).stores, p.id < s.nextLoad) :
    (s.clearFor r (.home pa pte) 8).Untouched r pa ((s.clearFor r (.home pa pte) 8).mem.word pa) := by
  obtain ⟨mem, stores⟩ := (s.landBefore r s.nextLoad (.home pa pte) 8).settle_frame r s.nextLoad (.home pa pte) 8
  refine ⟨?_, rfl, fun p hp => ?_⟩
  · rw [State.clearFor, mem]
    exact List.foldlRecOn (motive := fun t : State => t.mem.wf = true) _ _ wf fun t ht e _ => State.wf_landOne r e.1 ht
  · rw [State.clearFor, stores] at hp
    obtain ⟨pending, left⟩ := State.stores_foldl_landOne _ _ _ _ hp
    have kept : (p.id, p.loc, p.size) ∈
        ((s.strand r).stores.filter fun p => p.id < s.nextLoad).map fun p => (p.id, p.loc, p.size) :=
      List.mem_map_of_mem (List.mem_filter.mpr ⟨pending, decide_eq_true (numbered p pending)⟩)
    exact Bool.eq_false_iff.mpr fun meets => left _ (mem_before kept ((Loc.meets_home ..).trans meets)) rfl

/-- A marker behind the check of a word's address leaves the word. -/
theorem State.word_mark_clearFor {s : State} (pa : Nat) (pte : DWord) (k : Scope) (wf : s.mem.wf = true)
    (numbered : ∀ p ∈ s.curStrand.stores, p.id < s.nextLoad) :
    ((s.clearFor s.cur (.home pa pte) 8).mark k).mem.word pa = (s.clearFor s.cur (.home pa pte) 8).mem.word pa := by
  have untouched := State.untouched_clearFor pa pte wf numbered
  refine State.Untouched.word_mark ?_ k
  rwa [(s.sameButPending_clearFor s.cur (.home pa pte) 8).1]

/-- The state that finds a timeline has nothing pending at its word. -/
theorem State.timelineAt_clears {s t : State} {a : DWord} {write : Bool} {pa : Nat} (h : s.timelineAt a write = some (pa, t)) :
    ∃ pte, t = (s.translate (s.strandAccess write false) a).2.clearFor
      (s.translate (s.strandAccess write false) a).2.cur (.home pa pte) 8 := by
  simp only [State.timelineAt] at h
  split at h
  · exact absurd h nofun
  · split at h
    · next found =>
      split at h
      · exact absurd h nofun
      · obtain ⟨rfl, rfl⟩ := Prod.mk.inj (Option.some.inj h)
        exact ⟨_, by rw [found]⟩
    · exact absurd h nofun

/-- R353: a `tlinc` with a sum of 2^64 or more traps and leaves its word, where the memory is canonical and every pending store
of the strand has a number below that of the next access. -/
theorem tlinc_overflow_leaves {s t : State} {x : Gen} {pa : Nat}
    (admitted : s.admits (Instr.tlinc x).view = true) (ready : s.ready (x.a.toNat :: Src.codes x.b) (some x.d.toNat) = true)
    (found : s.timelineAt (s.source x.a.toNat) true = some (pa, t))
    (flushed : t.flushDone true (scopeOf (x.fn.toNat % 8)) = true)
    (wf : (s.translate (s.strandAccess true false) (s.source x.a.toNat)).2.mem.wf = true)
    (numbered : ∀ p ∈ (s.translate (s.strandAccess true false) (s.source x.a.toNat)).2.curStrand.stores,
      p.id < (s.translate (s.strandAccess true false) (s.source x.a.toNat)).2.nextLoad)
    (large : 2 ^ 64 ≤ ((t.ordered true (x.fn.toNat % 8)).mem.word pa).toNat + (s.valueB x.b).toNat) :
    exec (.tlinc x) s = .next (s.trapped (t.ordered true (x.fn.toNat % 8)) 32 (s.source x.a.toNat) s.curStrand.pc 0) ∧
    (t.ordered true (x.fn.toNat % 8)).mem.word pa = t.mem.word pa := by
  refine ⟨runStrand_raiseKeep admitted (tlincBody_overflow ready found flushed rfl large), ?_⟩
  obtain ⟨pte, rfl⟩ := State.timelineAt_clears found
  exact State.word_mark_clearFor pa pte _ wf numbered

/-- `storePending 1` meets the hypotheses of `tlinc_overflow_leaves`: the same store performs before the marker. -/
theorem tlinc_overflow_leaves_witness :
    let s := storePending 1
    let u := (s.translate (s.strandAccess true false) 64).2
    s.admits (Instr.tlinc incByG2).view = true ∧ s.ready [1, 2] (some 5) = true ∧ u.mem.wf = true ∧
    (∀ p ∈ u.curStrand.stores, p.id < u.nextLoad) ∧
    ((s.timelineAt 64 true).any fun e => e.2.flushDone true .core &&
      decide (2 ^ 64 ≤ ((e.2.ordered true 0).mem.word e.1).toNat + 3)) = true := by
  decide +kernel

end Sys2Proof.Machine
end

section
/-! SUPPORT. No step of the card ends in a fault or a refusal (R277 to R280). -/

namespace Sys2Proof.Machine

/-- Every instruction and every event answers a next state. -/
theorem exec_next_exists (i : Instr) (s : State) : ∃ t, exec i s = .next t := by
  by_cases h : i.view = .event
  · exact exec_event i h s
  · obtain ⟨body, run⟩ := exec_strand i h
    rw [run]
    exact runStrand_next_exists i.view body s

/-- A fetch that gives no instruction traps or stalls the strand. -/
theorem State.fetchStop_next_exists (s : State) (r : StrandRef) (e : Stop) : ∃ t, s.fetchStop r e = .next t := by
  cases e <;> exact ⟨_, rfl⟩

theorem step_next_exists (s : State) : ∃ t, step s = .next t := by
  cases who : s.nextTurn.who with
  | strand r =>
    rw [step_strand who]
    split
    · split
      · exact exec_next_exists ..
      · exact State.fetchStop_next_exists ..
    · exact ⟨_, rfl⟩
  | event j a =>
    rw [step_event who]
    split
    · exact exec_next_exists ..
    · exact ⟨_, rfl⟩

theorem goesOn_of_next {o : Host.Outcome State Fault Refusal} (h : ∃ t, o = .next t) : goesOn o = true := by
  obtain ⟨t, rfl⟩ := h
  rfl

/-- Settles O42: an instruction of a strand runs one body that always answers, an event answers, and a step is one of the two, or
its turn's cycles alone. -/
theorem everyStepGoesOn : Obligations.EveryStepGoesOn := by
  unfold Obligations.EveryStepGoesOn
  exact fun s i => ⟨goesOn_of_next (exec_next_exists i s), goesOn_of_next (step_next_exists s)⟩

end Sys2Proof.Machine
end

section
/-! SUPPORT. The system instructions that trap or end a trap (R282, R283, R411, R417). -/

namespace Sys2Proof.Machine

/-- Settles O13: each instruction runs its body, whose lemma gives its trap, its target or its debug stop. -/
theorem systemTraps : Obligations.SystemTraps := by
  unfold Obligations.SystemTraps
  intro s x ready p
  refine ⟨fun admitted => ?sys, fun admitted => ?trap, fun admitted => ⟨fun aligned => ?eret, fun misaligned => ?misaligned⟩,
    fun admitted => ⟨fun attached => ?halts, fun alone => ?breakpoint⟩⟩
  case sys => exact runStrand_trapData (t := some _) admitted (sysBody_ok ready)
  case trap => exact runStrand_trapData (t := none) admitted (trapBody_ok ready)
  case eret => exact runStrand_jump admitted (eretBody_ok aligned)
  case misaligned => exact runStrand_raise admitted (eretBody_misaligned misaligned)
  case halts => exact runStrand_gone admitted (brkBody_attached ready attached)
  case breakpoint => exact runStrand_raiseWord admitted (brkBody_alone ready alone)

end Sys2Proof.Machine
end

section
/-! SUPPORT. The CSRs (R39, R284, R285, Tables 10-4, 10-5): what one reads, and what is read after a write. -/

namespace Sys2Proof.Machine

/-! ## Low bits -/

/-- The low bits of a word, by a mask. -/
theorem toNat_and_mask (v : DWord) {n : Nat} (h : n ≤ 64) : (v &&& BitVec.ofNat 64 (2 ^ n - 1)).toNat = v.toNat % 2 ^ n := by
  have fits : 2 ^ n - 1 < 2 ^ 64 := by
    have := Nat.pow_le_pow_right (n := 2) (by omega) h
    omega
  rw [BitVec.toNat_and, BitVec.toNat_ofNat, Nat.mod_eq_of_lt fits, Nat.and_two_pow_sub_one_eq_mod]

theorem zeroExtend_low (v : DWord) {n : Nat} (h : n ≤ 64) :
    (v.extractLsb' 0 n).zeroExtend 64 = v &&& BitVec.ofNat 64 (2 ^ n - 1) := by
  have below : v.toNat % 2 ^ n < 2 ^ 64 := Nat.lt_of_le_of_lt (Nat.mod_le ..) v.isLt
  exact BitVec.eq_of_toNat_eq (by
    rw [toNat_and_mask v h, BitVec.toNat_setWidth, BitVec.extractLsb'_toNat, Nat.shiftRight_zero, Nat.mod_eq_of_lt below])

/-! ## Reading after writing -/

/-- The CSRs of a strand that hold a whole word. -/
theorem State.csr_setCsr_word (s : State) (r : StrandRef) (v : DWord) {n : Nat} (h : n ∈ [0x021, 0x022, 0x024, 0x025]) :
    (s.setCsr r n v).csr r n = v := by
  simp only [List.mem_cons, List.not_mem_nil, or_false] at h
  rcases h with rfl | rfl | rfl | rfl <;> simp only [State.csr, State.setCsr, State.strand_setStrand]

/-- A reserved rounding mode, 5 or more, leaves the mode (R39). -/
theorem fcsrWrite_eq (old v : DWord) :
    fcsrWrite old v = if bitsOf v 0 3 < 5 then v &&& 0x1F1F else (v &&& 0x1F18) ||| (old &&& 7) := by
  simp only [fcsrWrite]
  by_cases valid : bitsOf v 0 3 < 5
  · rw [if_neg (by omega), if_pos valid]
  · rw [if_pos (by omega), if_neg valid, BitVec.and_assoc]
    rfl

/-- PP and IH are written, the level is the strand's (Table 10-5). -/
theorem Strand.tstat_write (d : Strand) (v : DWord) :
    ({ d with pp := v.getLsbD 0, ih := v.getLsbD 1 } : Strand).tstat = (v &&& 3) ||| (if d.lvl then 4 else 0) := by
  have low : v &&& 3 = BitVec.ofNat 64 ((if v.getLsbD 0 then 1 else 0) + (if v.getLsbD 1 then 2 else 0)) := by
    apply BitVec.eq_of_toNat_eq
    have masked : (v &&& 3).toNat = v.toNat % 4 := toNat_and_mask v (n := 2) (by omega)
    simp only [masked, BitVec.toNat_ofNat, BitVec.getLsbD, Nat.testBit_zero, Nat.testBit_succ, decide_eq_true_eq]
    split <;> split <;> omega
  have disjoint : ∀ pp ih lvl : Bool, BitVec.ofNat 64 ((if pp then 1 else 0) + (if ih then 2 else 0) + (if lvl then 4 else 0)) =
      BitVec.ofNat 64 ((if pp then 1 else 0) + (if ih then 2 else 0)) ||| (if lvl then 4 else 0) := by decide
  rw [low]
  exact disjoint _ _ _

/-- The CSRs that no write changes. -/
theorem State.setCsr_readOnly (s : State) (r : StrandRef) (v : DWord) {n : Nat}
    (h : n ∈ [0x004, 0x005, 0x030, 0x031, 0x032, 0x033, 0x040, 0x041]) : s.setCsr r n v = s := by
  simp only [List.mem_cons, List.not_mem_nil, or_false] at h
  rcases h with rfl | rfl | rfl | rfl | rfl | rfl | rfl | rfl <;> rfl

/-! ## Fields -/

/-- The fields of a trap status word (Table 10-5). -/
theorem Strand.tstat_fields (d : Strand) :
    d.tstat.getLsbD 0 = d.pp ∧ d.tstat.getLsbD 1 = d.ih ∧ d.tstat.getLsbD 2 = d.lvl ∧ bitsOf d.tstat 3 61 = 0 := by
  rw [Strand.tstat]
  generalize d.pp = pp
  generalize d.ih = ih
  generalize d.lvl = lvl
  revert pp ih lvl
  decide

/-- A number of few bits leaves the bits above it 0. -/
theorem bitsOf_ofNat_above {n k : Nat} (h : n < 2 ^ k) (hk : k ≤ 64) (m : Nat) : bitsOf (BitVec.ofNat 64 n) k m = 0 := by
  have fits := Nat.pow_le_pow_right (n := 2) (by omega) hk
  rw [bitsOf, BitVec.extractLsb'_toNat, BitVec.toNat_ofNat, Nat.shiftRight_eq_div_pow, Nat.mod_eq_of_lt (a := n) (by omega),
    Nat.div_eq_of_lt h, Nat.zero_mod]

/-- The sections of a strand: RS and XS, 12 bits each. -/
theorem sections_bits (rs xs : BitVec 12) :
    let v : DWord := BitVec.ofNat 64 (rs.toNat + xs.toNat * 2 ^ 16)
    bitsOf v 0 12 = rs.toNat ∧ bitsOf v 12 4 = 0 ∧ bitsOf v 16 12 = xs.toNat ∧ bitsOf v 28 36 = 0 := by
  have hr := rs.isLt
  have hx := xs.isLt
  simp only [bitsOf, BitVec.extractLsb'_toNat, Nat.shiftRight_eq_div_pow, BitVec.toNat_ofNat]
  omega

/-- The word of the group and its fields (Table 10-4): a task alone counts as a group of its own index. -/
theorem State.csr_grpid (s : State) (r : StrandRef) :
    let x := s.task r.task
    let v := s.csr r 0x032
    (x.group = none → bitsOf v 0 32 = x.index % 2 ^ 32) ∧ (∀ g, x.group = some g → bitsOf v 0 32 = (s.group g).index % 2 ^ 32) ∧
    bitsOf v 32 4 = x.member % 16 ∧ bitsOf v 36 4 = (x.gsize - 1) % 16 ∧ bitsOf v 40 24 = 0 := by
  intro x v
  have fields := fun i hv => grpid_bits v i x.member (x.gsize - 1) hv
  cases group : x.group with
  | none =>
    obtain ⟨index, rest⟩ := fields x.index (by simp only [v, State.csr]; rw [group])
    exact ⟨fun _ => index, nofun, rest⟩
  | some g =>
    obtain ⟨index, rest⟩ := fields (s.group g).index (by simp only [v, State.csr]; rw [group])
    exact ⟨nofun, fun g' h => by rw [← Option.some.inj h]; exact index, rest⟩

theorem State.csr_sensor (s : State) (r : StrandRef) (n : Nat) :
    s.csr r (0x100 + n) = Assoc.getD (s.die (dieOf (s.task r.task).core)).sensors n 0 := by
  simp only [State.csr]
  split
  case h_20 => rw [if_pos (Nat.le_add_right ..), Nat.add_sub_cancel_left]
  all_goals omega

/-! ## The overflow table -/

/-- `ovtld` of a table whose first reserved policy is at an index. -/
theorem ovtldBody_reserved {x : Gen} {s : State} {j : Nat} (h : s.ready [x.a.toNat, x.a.toNat + 1] none = true) (inside : j < 64)
    (reserved : ovfEntry (s.source (x.a.toNat + 1) ++ s.source x.a.toNat) j = 3)
    (first : ∀ k, k < j → ovfEntry (s.source (x.a.toNat + 1) ++ s.source x.a.toNat) k ≠ 3) :
    ovtldBody x s = .error (.trap { cause := 25, value := some (BitVec.ofNat 64 j) })
      (s.popCodes [x.a.toNat, x.a.toNat + 1]) := by
  have found : (List.range 64).find? (fun k => ovfEntry (s.source (x.a.toNat + 1) ++ s.source x.a.toNat) k == 3) = some j :=
    List.find?_range_eq_some.mpr ⟨by rw [reserved]; rfl, List.mem_range.mpr inside, fun k hk => by simpa using first k hk⟩
  rw [ovtldBody, bind_ok (operands_ok h)]
  simp only [List.map_cons, List.map_nil, second, List.getD_cons_succ, List.getD_cons_zero, List.headD_cons, found]
  rfl

/-- Settles O14: each instruction runs its body; a CSR read after a write is the field that the write sets, masked; the fields of
the words with several are their bits. -/
theorem specialRegisters : Obligations.SpecialRegisters := by
  unfold Obligations.SpecialRegisters
  intro s x r v
  refine ⟨fun admitted ready => runStrand_next admitted (csrrBody_ok ready),
    fun admitted ready => runStrand_next admitted (csrwBody_ok ready), fun admitted ready => ⟨fun valid => ?loads,
      fun j inside reserved first => ?policy⟩,
    fun n => s.csr_setCsr_word r v, ?fcsr, ?bg, ?bp, ?bs, ?povf, ?tcause, ?tstat, fun n => s.setCsr_readOnly r v, ?table⟩
  case loads => exact runStrand_next admitted (ovtldBody_ok ready valid)
  case policy => exact runStrand_raise admitted (ovtldBody_reserved ready inside reserved first)
  case fcsr => simp only [State.csr, State.setCsr, State.strand_setStrand, fcsrWrite_eq]
  case bg => simp only [State.csr, State.setCsr, State.strand_setStrand, zeroExtend_low v (n := 5) (by omega)]; rfl
  case bp => simp only [State.csr, State.setCsr, State.strand_setStrand, zeroExtend_low v (n := 5) (by omega)]; rfl
  case bs => simp only [State.csr, State.setCsr, State.strand_setStrand, zeroExtend_low v (n := 7) (by omega)]; rfl
  case povf => simp only [State.csr, State.setCsr, State.task_setTask]
  case tcause => simp only [State.csr, State.setCsr, State.strand_setStrand]
  case tstat => simp only [State.csr, State.setCsr, State.strand_setStrand, Strand.tstat_write]
  case table =>
    refine ⟨rfl, rfl, rfl, rfl, rfl, sections_bits _ _, rfl, rfl, rfl, rfl, Strand.tstat_fields _, rfl, rfl, ⟨?context, ?above⟩,
      ?index, s.csr_grpid r, rfl, rfl, rfl, fun n _ => s.csr_sensor r n⟩
    case context =>
      simp only [State.csr, bitsOf, BitVec.extractLsb'_toNat, BitVec.toNat_ofNat, Nat.shiftRight_zero]
      omega
    case above => exact bitsOf_ofNat_above (k := 6) (Nat.mod_lt _ (by decide)) (by omega) _
    case index =>
      simp only [State.csr, BitVec.toNat_ofNat]
      omega

end Sys2Proof.Machine
end

section
/-! SUPPORT. `tlbinv` (R286): the pages it covers, what it drops of the cached translations, and what it waits for. -/

namespace Sys2Proof.Machine

/-! ## Pages -/

/-- One piece of a range: the pages from `p` to `l` that lie between `a` and `b`, counted from `off`. -/
theorem any_piece {p l a b off : Nat} (v : Nat) (h : off ≤ a) :
    ((if max p a ≤ min l b then [(max p a - off, min l b - off)] else []).any fun k : Nat × Nat => k.1 ≤ v && v ≤ k.2) = true ↔
      (p ≤ v + off ∧ v + off ≤ l) ∧ a ≤ v + off ∧ v + off ≤ b := by
  have first : max p a ≤ v + off ↔ p ≤ v + off ∧ a ≤ v + off := Nat.max_le
  have last : v + off ≤ min l b ↔ v + off ≤ l ∧ v + off ≤ b := Nat.le_min
  have from_off : off ≤ max p a := Nat.le_trans h (Nat.le_max_right p a)
  generalize max p a = m at *
  generalize min l b = n at *
  split <;> simp only [List.any_cons, List.any_nil, Bool.or_false, Bool.and_eq_true, decide_eq_true_eq, Bool.false_eq_true,
    false_iff] <;> omega

/-- The page of a canonical address lies in the low or the high 2^38 pages of the 2^48, and its 39 low bits say which (R126). -/
theorem canonical_page {v : DWord} (h : canonical v = true) :
    vpnOf v < 2 ^ 38 ∧ v.toNat / 65536 = vpnOf v ∨
    2 ^ 38 ≤ vpnOf v ∧ vpnOf v < 2 ^ 39 ∧ v.toNat / 65536 = vpnOf v + (2 ^ 48 - 2 ^ 39) := by
  have bound := v.isLt
  simp only [canonical, vpnOf, bitsOf, BitVec.extractLsb'_toNat, Nat.shiftRight_eq_div_pow, Bool.or_eq_true, beq_iff_eq] at h ⊢
  omega

/-- The ranges hold the page of a canonical address exactly when the bytes meet it, be it after a turn of the address space. -/
theorem any_pageRanges (va v : DWord) (n : Nat) (h : canonical v = true) :
    ((pageRanges va n).any fun k => k.1 ≤ vpnOf v && vpnOf v ≤ k.2) = true ↔
      n ≠ 0 ∧ ∃ turn ∈ [0, 2 ^ 48], va.toNat / 65536 ≤ v.toNat / 65536 + turn ∧
        v.toNat / 65536 + turn ≤ (va.toNat + n - 1) / 65536 := by
  simp only [pageRanges]
  split
  · next empty => simp only [List.any_nil, Bool.false_eq_true, false_iff, not_and]; exact fun some => absurd empty some
  · next some =>
    simp only [List.any_append, Bool.or_eq_true, any_piece _ (Nat.zero_le _),
      any_piece (vpnOf v) (show 2 ^ 48 - 2 ^ 39 ≤ 2 ^ 48 - 2 ^ 38 by decide), any_piece (vpnOf v) (Nat.le_refl (2 ^ 48)),
      any_piece (vpnOf v) (show 2 ^ 49 - 2 ^ 39 ≤ 2 ^ 49 - 2 ^ 38 by decide), List.mem_cons, List.not_mem_nil, or_false,
      exists_eq_or_imp, exists_eq_left]
    have page := canonical_page h
    generalize vpnOf v = k at page ⊢
    generalize v.toNat / 65536 = m at page ⊢
    generalize va.toNat / 65536 = first
    generalize (va.toNat + n - 1) / 65536 = last
    omega

/-- A cached translation of `2 ^ (size - 16)` pages meets the pages `lo` to `hi`. -/
theorem TlbEntry.inPages_iff (e : TlbEntry) (ctx : Nat) {lo hi : Nat} (h : lo ≤ hi) :
    let first := e.vpn - e.vpn % 2 ^ (e.size - 16)
    e.inPages ctx lo hi = true ↔ e.ctx = ctx ∧ ∃ k, lo ≤ k ∧ k ≤ hi ∧ first ≤ k ∧ k < first + 2 ^ (e.size - 16) := by
  intro first
  have start : e.vpn / 2 ^ (e.size - 16) * 2 ^ (e.size - 16) = first := by
    have := Nat.div_add_mod' e.vpn (2 ^ (e.size - 16))
    omega
  have size : 0 < 2 ^ (e.size - 16) := Nat.two_pow_pos _
  simp only [TlbEntry.inPages, start, Bool.and_eq_true, beq_iff_eq, decide_eq_true_eq, and_assoc]
  refine and_congr_right fun _ => ⟨fun ⟨below, above⟩ => ⟨max lo first, ?_⟩, fun ⟨k, bounds⟩ => ?_⟩ <;> omega

/-! ## What an invalidation drops -/

theorem Assoc.getD_map {α : Type} (m : Assoc α) (f : α → α) (k : Nat) {d : α} (h : f d = d) :
    Assoc.getD (m.map fun e => (e.1, f e.2)) k d = f (Assoc.getD m k d) := by
  induction m with
  | nil => exact h.symm
  | cons e m ih =>
    obtain ⟨j, w⟩ := e
    simp only [Assoc.getD, List.map_cons, Assoc.get?] at ih ⊢
    split
    · rfl
    · exact ih

/-- An invalidation drops the translations that meet the pages, of every core and die, and no other. -/
theorem State.tlb_invalidate (s : State) (ctx lo hi k : Nat) :
    ((s.invalidate ctx lo hi).core k).tlb = (s.core k).tlb.filter (fun e => !e.inPages ctx lo hi) ∧
    ((s.invalidate ctx lo hi).die k).tlb = (s.die k).tlb.filter fun e => !e.inPages ctx lo hi :=
  ⟨congrArg Core.tlb (Assoc.getD_map s.cores (fun c => { c with tlb := c.tlb.filter fun e => !e.inPages ctx lo hi }) k rfl),
   congrArg Die.tlb (Assoc.getD_map s.dies (fun d => { d with tlb := d.tlb.filter fun e => !e.inPages ctx lo hi }) k rfl)⟩

/-! ## The instruction -/

/-- The codes that `tlbinv` reads: the address, unless it covers the whole context, and the length of a range. -/
def tlbinvCodes (x : Gen) : List Nat :=
  (if x.fn.toNat % 4 = 2 then [] else [x.a.toNat]) ++ (if x.fn.toNat % 4 = 1 then Src.codes x.b else [])

/-- The pages that `tlbinv` covers in a state. -/
def State.invalidPages (s : State) (x : Gen) : List (Nat × Nat) :=
  tlbinvPages (x.fn.toNat % 4) (s.source x.a.toNat) (s.valueB x.b).toNat

/-- A request whose translation `tlbinv` of these pages drops. -/
def LinkReq.usesPages (q : LinkReq) (ctx : Nat) (pages : List (Nat × Nat)) : Bool :=
  q.xlat.any fun e => pages.any fun k => e.inPages ctx k.1 k.2

/-- The fields of an admitted instruction hold (row 2 of Table 3-15). -/
theorem fieldsOk_of_admits {s : State} {v : View} (h : s.admits v = true) (hv : ∀ x, v ≠ .header x) : v.fieldsOk = true := by
  have passes := ((s.admits_iff v).mp h).1
  rw [encodingTrap_of_not_header _ _ hv] at passes
  cases fields : v.fieldsOk with
  | true => rfl
  | false =>
    simp only [fields, Bool.not_false, if_true, ite_self, reduceCtorEq] at passes

/-- An admitted `tlbinv` has one of the three functions of Table 10-7. -/
theorem tlbinv_kind {s : State} {x : Gen} (h : s.admits (Instr.tlbinv x).view = true) : x.fn.toNat % 4 ≤ 2 := by
  have fields : genFieldsOk 0x81 x = true := fieldsOk_of_admits h nofun
  simp only [genFieldsOk, Bool.and_eq_true] at fields
  obtain ⟨⟨-, fn⟩, -⟩ := fields
  have fn : x.fn.toNat ≤ 2 := of_decide_eq_true fn
  omega

/-- What `tlbinv` makes of the values of its operands: those that it does not read it does not use. -/
theorem tlbinv_values (s : State) {x : Gen} (kind : x.fn.toNat % 4 ≤ 2) :
    (x.fn.toNat % 4 ≠ 2 → ((tlbinvCodes x).map s.source).headD 0 = s.source x.a.toNat) ∧
    tlbinvPages (x.fn.toNat % 4) (((tlbinvCodes x).map s.source).headD 0)
      (srcVal x.b (second ((tlbinvCodes x).map s.source))).toNat = s.invalidPages x := by
  have cases : x.fn.toNat % 4 = 0 ∨ x.fn.toNat % 4 = 1 ∨ x.fn.toNat % 4 = 2 := by omega
  rcases cases with page | range | all
  · simp [tlbinvCodes, State.invalidPages, tlbinvPages, page]
  · refine ⟨fun _ => by simp [tlbinvCodes, range], ?_⟩
    simp only [tlbinvCodes, State.invalidPages, range]
    cases x.b <;> rfl
  · simp [tlbinvCodes, State.invalidPages, tlbinvPages, all]

theorem tlbinv_addressRight {s : State} {x : Gen} (kind : x.fn.toNat % 4 ≤ 2)
    (right : x.fn.toNat % 4 = 2 ∨ canonical (s.source x.a.toNat) = true) :
    (x.fn.toNat % 4 != 2 && !canonical (((tlbinvCodes x).map s.source).headD 0)) = false := by
  by_cases all : x.fn.toNat % 4 = 2
  · rw [all]; rfl
  · rw [(tlbinv_values s kind).1 all, right.resolve_left all, Bool.not_true, Bool.and_false]

section instruction
variable {s : State} {x : Gen} (kind : x.fn.toNat % 4 ≤ 2) (ready : s.ready (tlbinvCodes x) none = true)
include kind ready

/-- An address that is not canonical is the address trap. -/
theorem tlbinvBody_traps (address : x.fn.toNat % 4 ≠ 2) (wrong : canonical (s.source x.a.toNat) = false) :
    tlbinvBody x s = .error (.trap { cause := 17, value := some (s.source x.a.toNat) }) (s.popCodes (tlbinvCodes x)) := by
  rw [tlbinvBody, ← tlbinvCodes.eq_1, bind_ok (operands_ok ready), bind_ok (get_apply _)]
  simp only [(tlbinv_values s kind).1 address, wrong]
  rw [if_pos (by simpa using address)]
  rfl

variable (right : x.fn.toNat % 4 = 2 ∨ canonical (s.source x.a.toNat) = true)
include right

/-- It waits for a request that a covered entry translated. -/
theorem tlbinvBody_waits {q : Nat × LinkReq} (found : ((s.popCodes (tlbinvCodes x)).reqs.find? fun q =>
      q.2.usesPages s.curTask.ctx (s.invalidPages x)) = some q) :
    tlbinvBody x s = .error (.stall (.link q.1) false) (s.popCodes (tlbinvCodes x)) := by
  have ctx : (s.popCodes (tlbinvCodes x)).curTask.ctx = s.curTask.ctx := by
    rw [State.curTask, popCodes_task, popCodes_cur]; rfl
  rw [tlbinvBody, ← tlbinvCodes.eq_1, bind_ok (operands_ok ready), bind_ok (get_apply _)]
  simp only [(tlbinv_values s kind).2, ctx, tlbinv_addressRight kind right, Bool.false_eq_true, if_false]
  simp only [LinkReq.usesPages] at found
  rw [found]
  rfl

/-- What is pending of the context performs, and the pages' translations are dropped. -/
theorem tlbinvBody_ok (free : ∀ q ∈ (s.popCodes (tlbinvCodes x)).reqs, q.2.usesPages s.curTask.ctx (s.invalidPages x) = false) :
    tlbinvBody x s = .ok .next (let p := s.popCodes (tlbinvCodes x)
      (s.invalidPages x).foldl (fun u k => u.invalidate s.curTask.ctx k.1 k.2)
        (if s.invalidPages x = [] then p else p.drainCtx s.curTask.ctx)) := by
  have ctx : (s.popCodes (tlbinvCodes x)).curTask.ctx = s.curTask.ctx := by
    rw [State.curTask, popCodes_task, popCodes_cur]; rfl
  have none : ((s.popCodes (tlbinvCodes x)).reqs.find? fun q => q.2.usesPages s.curTask.ctx (s.invalidPages x)) = none :=
    List.find?_eq_none.mpr fun q hq => Bool.eq_false_iff.mp (free q hq)
  rw [tlbinvBody, ← tlbinvCodes.eq_1, bind_ok (operands_ok ready), bind_ok (get_apply _)]
  simp only [(tlbinv_values s kind).2, ctx, tlbinv_addressRight kind right, Bool.false_eq_true, if_false]
  simp only [LinkReq.usesPages] at none
  rw [none]
  cases s.invalidPages x <;> rfl

end instruction

/-- Settles O16: `tlbinv` runs its body; an invalidation filters the translations; the ranges are the pages that the bytes meet in
the two canonical halves. -/
theorem translationInvalidation : Obligations.TranslationInvalidation := by
  unfold Obligations.TranslationInvalidation
  refine ⟨fun s x admitted => ?instruction, State.tlb_invalidate, fun e ctx lo hi => e.inPages_iff ctx,
    fun va v n canon _ => any_pageRanges va v n canon⟩
  intro kind codes va ctx p pages covers ready
  have bound := tlbinv_kind admitted
  exact ⟨fun right free => runStrand_next admitted (tlbinvBody_ok bound ready right free),
    fun right q found => runStrand_stallOn admitted (tlbinvBody_waits bound ready right found),
    fun address wrong => runStrand_raise admitted (tlbinvBody_traps bound ready address wrong)⟩

end Sys2Proof.Machine
end

section
/-! SUPPORT. Traps (R275, R278 to R280, R341): what a delivered one leaves, and what a task fault does to the task, its group and
its queue. -/

namespace Sys2Proof.Machine

theorem Assoc.get?_erase {α : Type} (m : Assoc α) (k : Nat) : Assoc.get? (Assoc.erase m k) k = none := by
  induction m with
  | nil => rfl
  | cons e m ih =>
    obtain ⟨j, w⟩ := e
    simp only [Assoc.erase, List.filter_cons] at ih ⊢
    split
    · next other =>
      rw [Assoc.get?, if_neg (by simpa using other)]
      exact ih
    · exact ih

/-! ## Delivery -/

theorem State.delivers_iff (s : State) (r : StrandRef) (cause : Nat) :
    let c := s.ctx (s.task r.task).ctx
    s.delivers r cause = true ↔
      c.trapmask.getLsbD cause = true ∧ c.tvec ≠ 0 ∧ (s.strand r).ih = false ∧ cause ≠ 36 ∧ cause ≠ 37 := by
  simp only [State.delivers, Bool.and_eq_true, bne_iff_ne, ne_eq, Bool.not_eq_eq_eq_not, Bool.not_true, and_assoc]

theorem State.sameButStrand_setStrand (s : State) (r : StrandRef) (d : Strand) : s.sameButStrand (s.setStrand r d) r :=
  ⟨s.sameOutside_setStrand r d, fun _ other => s.task_setStrand_ne r d other, by
    rw [State.strand_setStrand, State.task_setStrand]⟩

/-! ## A task fault -/

theorem State.updLaunch_frame (s : State) (l : Nat) (f : Launch → Launch) :
    (s.updLaunch l f).tasks = s.tasks ∧ (s.updLaunch l f).queues = s.queues ∧ (s.updLaunch l f).groups = s.groups := by
  simp only [State.updLaunch]
  split <;> exact ⟨rfl, rfl, rfl⟩

theorem State.faultQueue_frame (s : State) (q l : Nat) :
    (s.faultQueue q l).tasks = s.tasks ∧ (s.faultQueue q l).groups = s.groups := by
  simp only [State.faultQueue]
  split <;> exact ⟨rfl, rfl⟩

/-- A queue that could launch is Faulted (R296). -/
theorem State.faultQueue_state {s : State} {q : Nat} (l : Nat) (h : (s.queue q).state ∈ [QState.idle, .ready, .drain, .stopped]) :
    ((s.faultQueue q l).queue q).state = .faulted := by
  simp only [List.mem_cons, List.not_mem_nil, or_false] at h
  simp only [State.faultQueue]
  rcases h with h | h | h | h <;> rw [h] <;> simp only [State.queue_setQueue]

/-- The state in which the fault of a task is noted to its launch and its queue. -/
def State.faultNoted (s : State) (t : Nat) : State :=
  (s.updLaunch (s.task t).launch fun l => { l with faulted := true }).faultQueue (s.task t).queue (s.task t).launch

theorem State.faultNoted_frame (s : State) (t : Nat) : (s.faultNoted t).tasks = s.tasks ∧ (s.faultNoted t).groups = s.groups := by
  obtain ⟨tasks, groups⟩ := State.faultQueue_frame (s.updLaunch (s.task t).launch fun l => { l with faulted := true })
    (s.task t).queue (s.task t).launch
  obtain ⟨tasks', -, groups'⟩ := s.updLaunch_frame (s.task t).launch fun l => { l with faulted := true }
  exact ⟨tasks.trans tasks', groups.trans groups'⟩

theorem State.endTask_faulted (s : State) (t : Nat) :
    s.endTask t true = ((((s.drainTask t).chargeTask t).standEntries t).endMember t).retireTask t true := by
  rw [State.endTask]
  rfl

/-- A task alone ends, and leaves its slot. -/
theorem State.taskFault_alone {s : State} {t : Nat} (f : FaultCause) (alone : (s.task t).group = none) :
    ∃ u : State, s.taskFault t f = u.retireTask t true := by
  simp only [State.taskFault, alone]
  exact ⟨_, State.endTask_faulted _ t⟩

/-- The fault of a member of a group: its strands end, and the fault is noted in the group. -/
theorem State.taskFault_member {s : State} {t g : Nat} (f : FaultCause) (member : (s.task t).group = some g) :
    s.taskFault t f =
      let u := (s.faultNoted t).setTask t (s.task t).strandsEnd
      if (s.group g).faults.any (fun e => e.1 == (s.task t).member) then u
      else u.setGroup g { s.group g with faults := (s.group g).faults ++ [((s.task t).member, f)] } := by
  have group : (s.faultNoted t).group g = s.group g := by rw [State.group, (s.faultNoted_frame t).2]; rfl
  simp only [State.taskFault, member]
  rw [← group]
  rfl

theorem Task.strandsEnd_live (x : Task) (u : UnitId) : (x.strandsEnd.strand u).live = false := by cases u <;> rfl

section member
variable {s : State} {t g : Nat} (f : FaultCause) (member : (s.task t).group = some g)
include member

theorem State.taskFault_strands (u : UnitId) : (((s.taskFault t f).task t).strand u).live = false := by
  rw [State.taskFault_member f member]
  dsimp only
  split <;> simp only [State.task_setGroup, State.task_setTask, Task.strandsEnd_live]

theorem State.taskFault_faults : ∃ f', ((s.task t).member, f') ∈ ((s.taskFault t f).group g).faults := by
  rw [State.taskFault_member f member]
  dsimp only
  split
  · next noted =>
    obtain ⟨⟨m, f'⟩, listed, same⟩ := List.any_eq_true.mp noted
    obtain rfl : m = (s.task t).member := eq_of_beq same
    refine ⟨f', ?_⟩
    rw [State.group_setTask, State.group, (s.faultNoted_frame t).2]
    exact listed
  · exact ⟨f, by rw [State.group_setGroup]; exact List.mem_append_right _ List.mem_cons_self⟩

theorem State.taskFault_queue (h : (s.queue (s.task t).queue).state ∈ [QState.idle, .ready, .drain, .stopped]) :
    ((s.taskFault t f).queue (s.task t).queue).state = .faulted := by
  have same : ∀ q, (s.updLaunch (s.task t).launch fun l => { l with faulted := true }).queue q = s.queue q := fun q => by
    rw [State.queue, (State.updLaunch_frame ..).2.1]; rfl
  rw [State.taskFault_member f member]
  dsimp only
  split <;> simp only [State.queue_setGroup, State.queue_setTask] <;> exact State.faultQueue_state _ (by rwa [same])

end member

/-! ## The number of an ended task -/

theorem State.get?_eraseTask (s : State) (t : Nat) : Assoc.get? (s.eraseTask t).tasks t = none := Assoc.get?_erase s.tasks t

/-- The number under which commands of an ended task are carried is no number of a task that runs. -/
theorem State.zombieKey_ge {s : State} (h : 1 ≤ s.nextZombie) (t : Nat) : 16384 ≤ s.zombieKey t := by
  rw [State.zombieKey]
  omega

theorem State.get?_renameTask (s : State) {a b : Nat} (h : a ≠ b) : Assoc.get? (s.renameTask a b).tasks a = none := by
  simp only [State.renameTask]
  rw [Assoc.get?_set_ne _ _ h]
  exact Assoc.get?_erase s.tasks a

/-- A task that leaves is erased, or renamed to the number under which its commands are carried. -/
theorem State.retireTask_cases (s : State) (t : Nat) (faulted : Bool) :
    (∃ u : State, s.retireTask t faulted = u.eraseTask t) ∨
    ∃ u : State, u.nextZombie = s.nextZombie ∧
      s.retireTask t faulted = { u.renameTask t (u.zombieKey t) with nextZombie := u.nextZombie + 1 } := by
  unfold State.retireTask
  extract_lets x y off released ended u
  by_cases done : (u.cmdHeads t).isEmpty
  · exact .inl ⟨_, if_pos done⟩
  · exact .inr ⟨u, rfl, if_neg done⟩

/-- The number of a task that leaves is free again. -/
theorem State.get?_retireTask {s : State} {t : Nat} (faulted : Bool) (ht : t < 16384) (h : 1 ≤ s.nextZombie) :
    Assoc.get? (s.retireTask t faulted).tasks t = none := by
  rcases s.retireTask_cases t faulted with ⟨u, erased⟩ | ⟨u, zombies, renamed⟩
  · rw [erased]
    exact u.get?_eraseTask t
  · rw [renamed]
    exact u.get?_renameTask (Nat.ne_of_lt (Nat.lt_of_lt_of_le ht (State.zombieKey_ge (zombies ▸ h) t)))

/-- Settles O41: a trap is delivered or is a task fault; each leaves what its lemmas say. -/
theorem trapDelivery : Obligations.TrapDelivery := by
  unfold Obligations.TrapDelivery
  refine ⟨fun s r cause value tpc data => ⟨fun delivered => ?delivered, fun faults => ?fault⟩,
    fun u k faulted hk hu => State.get?_retireTask faulted hk hu⟩
  case delivered =>
    rw [State.takeTrap_delivered value tpc data ((s.delivers_iff r cause).mpr delivered)]
    exact ⟨s.sameButStrand_setStrand r _, s.strand_setStrand r _⟩
  case fault =>
    rw [State.takeTrap_fault value tpc data (Bool.eq_false_iff.mpr (mt (s.delivers_iff r cause).mp faults))]
    refine ⟨rfl, State.taskFault_alone _, fun g member => ⟨State.taskFault_strands _ member, State.taskFault_faults _ member,
      fun y hy state => State.taskFault_queue _ member (by rwa [state])⟩⟩

end Sys2Proof.Machine
end

section
/-! SUPPORT. The events that stop a task (R272, R287 to R290, R339, R350): the run limit, a stop request sent, asked for again and
arriving, the end of its window, and the parking of a wait. -/

namespace Sys2Proof.Machine

theorem State.task_of_get? {s : State} {t : Nat} {x : Task} (h : Assoc.get? s.tasks t = some x) : s.task t = x := by
  rw [State.task, Assoc.getD, h, Option.getD_some]

/-! ## The run limit -/

theorem State.overLimit_iff (s : State) (t : Nat) :
    s.overLimit t = true ↔ (s.ctx (s.task t).ctx).runlim ≠ 0 ∧ (s.task t).placedNow = true ∧
      (s.ctx (s.task t).ctx).runlim * 4096 < (s.task t).runTime s.cycle := by
  simp only [State.overLimit, Bool.and_eq_true, bne_iff_ne, decide_eq_true_eq, and_assoc]

/-- A task past its run limit faults with cause 36; within it nothing happens. -/
theorem execRunLimitExpiry_of {s : State} (known : (Assoc.get? s.tasks s.arg.task).isSome = true) :
    execRunLimitExpiry s = .next (if s.overLimit s.arg.task then
      let x := s.task s.arg.task
      s.taskFault s.arg.task ⟨36, BitVec.ofNat 64 (x.runTime s.cycle / 4096), x.main.pc, s.taskParty s.arg.task 0, x.main.lvl⟩
      else s) := by
  simp only [execRunLimitExpiry, known, Bool.true_and]

/-! ## Arrival -/

theorem Strand.arriveStop_eq (d : Strand) :
    d.arriveStop = if d.live = true ∧ d.stop = .none ∧ (d.state = .rendezvous ∨ d.loops = []) then { d with stop := .boundary }
      else d := by
  simp only [Strand.arriveStop, Bool.and_eq_true, Bool.or_eq_true, beq_iff_eq, List.isEmpty_iff, and_assoc]

section arrival
variable {s : State} {t : Nat} {r : StopReq} (sent : (s.task t).sent = some r)
include sent

/-- A request reaches a task that runs on its core: its strands halt at a boundary (R288 step 1). -/
theorem State.arriveAt_placed (thawed : (s.task t).frozenBy = none) (placed : (s.task t).placedNow = true) :
    s.arriveAt t = (s.setTask t { (s.task t).mapStrands Strand.arriveStop with
      sent := none, stopReq := some { r with arrived := s.cycle }, life := .stopping }).stopArray t := by
  simp only [State.arriveAt, sent, thawed, placed, Option.isSome_none, Bool.not_true, Bool.or_self, Bool.false_eq_true, if_false]

theorem State.arriveAt_held (held : (s.task t).frozenBy ≠ none ∨ (s.task t).placedNow = false) : s.arriveAt t = s := by
  simp only [State.arriveAt, sent]
  exact if_pos (by simpa only [Bool.or_eq_true, Option.isSome_iff_ne_none, Bool.not_eq_true'] using held)

end arrival

theorem execStopRequest_sent {s : State} (h : (s.task s.arg.task).sent ≠ none) :
    execStopRequest s = .next (s.arriveAt s.arg.task) := by
  rw [execStopRequest, if_pos (Option.isSome_iff_ne_none.mpr h)]

theorem execStopRequest_unsent {s : State} (h : (s.task s.arg.task).sent = none) :
    execStopRequest s = .next (s.askAgain s.arg.task) := by
  rw [execStopRequest, h]
  rfl

/-! ## Asking again -/

section again
variable {s : State} {t : Nat} (known : (Assoc.get? s.tasks t).isSome = true) (unsent : (s.task t).sent = none)
  (unasked : (s.task t).stopReq = none) (placed : (s.task t).placedNow = true)
include known unsent unasked placed

/-- The controller asks for the stop that a Suspend of the context, or else a drain of the hoop, still needs. -/
theorem State.askAgain_eq : s.askAgain t =
    if (s.ctx (s.task t).ctx).state = .suspending then (s.sendStop t 8 false).getD s
    else if (s.hoop (hoopOf (s.task t).core)).draining then (s.sendStop t 16 false).getD s else s := by
  obtain ⟨x, found⟩ := Option.isSome_iff_exists.mp known
  obtain rfl := State.task_of_get? found
  simp only [State.askAgain, found, Task.asked, unsent, unasked, placed, Option.isSome_none, Bool.not_true, Bool.or_self,
    Bool.false_eq_true, if_false, beq_iff_eq]
  rfl

end again

/-! ## Sending -/

theorem Task.asked_iff (x : Task) : x.asked = true ↔ x.sent ≠ none ∨ x.stopReq ≠ none := by
  simp only [Task.asked, Bool.or_eq_true, Option.isSome_iff_ne_none]

theorem Task.asked_ask (x : Task) (k : BitVec 6) (discard : Bool) (now : Nat) : (x.ask k discard now).asked = true := by
  rw [Task.asked_iff]
  simp only [Task.ask]
  generalize (if discard then x.unhalt now else x) = y
  cases sent : y.sent with
  | some r => exact .inl nofun
  | none =>
    cases y.stopReq with
    | some r => exact .inr nofun
    | none => exact .inl nofun

/-- The state after every task of a list is asked to stop. -/
def State.askAll (s : State) (k : BitVec 6) (discard : Bool) (ms : List Nat) : State :=
  ms.foldl (fun s m => s.setTask m ((s.task m).ask k discard s.cycle)) s

theorem State.asked_askAll (k : BitVec 6) (discard : Bool) (ms : List Nat) (s : State) (m : Nat)
    (h : m ∈ ms ∨ (s.task m).asked = true) : ((s.askAll k discard ms).task m).asked = true := by
  induction ms generalizing s with
  | nil => exact h.resolve_left List.not_mem_nil
  | cons n ms ih =>
    refine ih (s.setTask n ((s.task n).ask k discard s.cycle)) ?_
    by_cases same : m = n
    · rw [same, State.task_setTask]
      exact .inr (Task.asked_ask ..)
    · rw [State.task_setTask_ne _ _ same]
      exact h.imp_left fun mem => (List.mem_cons.mp mem).resolve_left same

/-- A request that is not refused goes to every live member. -/
theorem State.sendStop_asks {s u : State} {t : Nat} {k : BitVec 6} {discard : Bool} (h : s.sendStop t k discard = some u) :
    ∀ m ∈ s.members t, (u.task m).asked = true := by
  intro m mem
  obtain ⟨v, -, asks⟩ := Option.map_eq_some_iff.mp h
  rw [← asks]
  exact State.asked_askAll k discard (s.members t) v m (.inl mem)

/-- Pre-emption and migration are refused for a debug-halted member (R339, R418). -/
theorem State.refusesStop_iff (s : State) (t : Nat) (k : BitVec 6) :
    s.refusesStop t k = true ↔ (k = 1 ∨ k = 4) ∧ ∃ m ∈ s.members t, (s.task m).frozenBy ≠ none := by
  simp only [State.refusesStop, forPreemption, forMigration, Bool.and_eq_true, Bool.or_eq_true, beq_iff_eq, List.any_eq_true,
    Option.isSome_iff_ne_none]

/-- Image slots are missing when the context has fewer free than the group has members, live and ended (R290, R339). -/
theorem State.allotImages_none_iff (s : State) (t : Nat) :
    s.allotImages t = none ↔
      ((s.ctx (s.task t).ctx).freeImages ((s.members t).length + (s.endedMembers t).length)).length <
        (s.members t).length + (s.endedMembers t).length := by
  simp only [State.allotImages]
  split
  · next few => exact iff_of_true rfl few
  · next enough => exact iff_of_false (by split <;> exact nofun) enough

theorem State.sendStop_none_iff (s : State) (t : Nat) (k : BitVec 6) :
    s.sendStop t k false = none ↔ s.refusesStop t k = true ∨
      ((∀ m ∈ s.members t, (s.task m).asked = false) ∧
        ((s.ctx (s.task t).ctx).freeImages ((s.members t).length + (s.endedMembers t).length)).length <
          (s.members t).length + (s.endedMembers t).length) := by
  rw [← s.allotImages_none_iff t]
  simp only [State.sendStop, Option.map_eq_none_iff, Bool.false_or]
  by_cases refused : s.refusesStop t k
  · simp only [refused, if_true, true_or]
  · by_cases asked : (s.members t).any fun m => (s.task m).asked
    · have one : ¬∀ m ∈ s.members t, (s.task m).asked = false := by simpa using asked
      simp only [refused, asked, one, if_true, if_false, false_and, or_false, Bool.false_eq_true, reduceCtorEq]
    · have all : ∀ m ∈ s.members t, (s.task m).asked = false := by simpa using asked
      simp only [refused, asked, if_false, false_or, Bool.false_eq_true, and_iff_right all]

/-! ## The end of the window -/

/-- 600 cycles after the arrival the strands that have not halted are frozen (R288 step 2). -/
theorem execFreezeWindowExpiry_of {s : State} {r : StopReq} (arrived : (s.task s.arg.task).stopReq = some r) :
    execFreezeWindowExpiry s = .next (if r.arrived + 600 ≤ s.cycle ∧ (s.task s.arg.task).frozenBy = none ∧
        (s.task s.arg.task).life = .stopping then s.setTask s.arg.task ((s.task s.arg.task).mapStrands Strand.freeze) else s) := by
  simp only [execFreezeWindowExpiry, arrived, Bool.and_eq_true, decide_eq_true_eq, Option.isNone_iff_eq_none, beq_iff_eq, and_assoc]

/-! ## Parking -/

/-- A task whose wait on a timeline is due to park it (R350). -/
def State.parkDue (s : State) (t : Nat) : Prop :=
  (s.task t).placedNow = true ∧ (s.task t).frozenBy = none ∧ (s.task t).parked = false ∧
    ∃ n, s.timelineWait t = some n ∧ 4096 * ((s.task t).refused + 1) ≤ n

theorem State.parkDue_iff (s : State) (t : Nat) :
    ((s.task t).placedNow && (s.task t).frozenBy.isNone && !(s.task t).parked &&
      (s.timelineWait t).any fun n => 4096 * ((s.task t).refused + 1) ≤ n) = true ↔ s.parkDue t := by
  simp only [State.parkDue, Bool.and_eq_true, Option.isNone_iff_eq_none, Bool.not_eq_true', Option.any_eq_true, decide_eq_true_eq,
    and_assoc]

theorem State.park_early {s : State} {t : Nat} (h : ¬s.parkDue t) : s.park t = s :=
  if_neg (mt (s.parkDue_iff t).mp h)

section due
variable {s : State} {t : Nat} (due : s.parkDue t)
include due

/-- A task whose wait is due is asked to stop, and is parked. -/
theorem State.park_stops {u : State} (h : s.sendStop t forParking false = some u) :
    s.park t = u.setTask t { u.task t with parked := true } := by
  rw [State.park, if_pos ((s.parkDue_iff t).mpr due), h]

/-- A refused request is counted, and repeated after 4,096 cycles more. -/
theorem State.park_refused (h : s.sendStop t forParking false = none) :
    s.park t = s.setTask t { s.task t with refused := (s.task t).refused + 1 } := by
  rw [State.park, if_pos ((s.parkDue_iff t).mpr due), h]

end due

theorem execParkTimeout_early {s : State} (h : ¬s.parkDue s.arg.task) : execParkTimeout s = .next s := by
  rw [execParkTimeout, State.park_early h, ite_self]

theorem execParkTimeout_known {s : State} (known : (Assoc.get? s.tasks s.arg.task).isSome = true) :
    execParkTimeout s = .next (s.park s.arg.task) := by
  rw [execParkTimeout, if_pos known]

/-- The dispatcher's read of a word releases the waits of the task's image that it satisfies, and that no poison marks. -/
theorem State.rereadWait_eq (s : State) (t : Nat) :
    s.rereadWait t = ({ s with dies := s.dies.map fun (d : Nat × Die) => (d.1, { d.2 with monitor := d.2.monitor.map fun e =>
      if e.task = t ∧ e.inImage = true ∧ e.released = none ∧ e.poisoned = false ∧ e.threshold ≤ s.mem.nat e.addr 8 then
        { e with released := some (s.mem.word e.addr, dispatcherParty s (Config.homeDie e.addr)) }
      else e }) } : State).settleQueue (s.task t).queue := by
  simp only [State.rereadWait, Bool.and_eq_true, beq_iff_eq, Option.isNone_iff_eq_none, Bool.not_eq_true', decide_eq_true_eq, and_assoc]
  rfl

end Sys2Proof.Machine
end

section
/-! SUPPORT. The images of stopped tasks (R288, R290, R292, R293, R338, R380): when a stop completes and what it leaves, and a
result that returns into an image. -/

namespace Sys2Proof.Machine

/-! ## The end of a stop -/

/-- Every member of a task's group has stopped, and none has faulted in this cycle. -/
def State.allStopped (s : State) (t : Nat) : Prop :=
  (Assoc.get? s.tasks t).isSome = true ∧ (∀ m ∈ s.members t, s.stopped m = true) ∧
    ∀ g, (s.task t).group = some g → (s.group g).faults = []

theorem State.allStopped_iff (s : State) (t : Nat) :
    ((Assoc.get? s.tasks t).isNone || !((s.members t).all fun m => s.stopped m) ||
      (s.task t).group.any fun g => !(s.group g).faults.isEmpty) = false ↔ s.allStopped t := by
  simp only [State.allStopped, Bool.or_eq_false_iff, Bool.not_eq_false', List.all_eq_true, Option.isNone_eq_false_iff,
    Option.any_eq_false, List.isEmpty_iff, and_assoc]

/-- The state in which every access of the members' strands has performed. -/
def State.drained (s : State) (t : Nat) : State := (s.members t).foldl State.drainTask s

/-- One of the members is to be discarded. -/
def State.discards (s : State) (t : Nat) : Prop :=
  ∃ m ∈ s.members t, ∃ r, ((s.drained t).task m).stopReq = some r ∧ r.discard = true

theorem State.discards_iff (s : State) (t : Nat) :
    ((s.members t).any fun m => ((s.drained t).task m).stopReq.any StopReq.discard) = true ↔ s.discards t := by
  simp only [State.discards, List.any_eq_true, Option.any_eq_true]

theorem State.completeStop_early {s : State} {t : Nat} (h : ¬s.allStopped t) : s.completeStop t = s :=
  if_pos (eq_true_of_ne_false (mt (s.allStopped_iff t).mp h))

section complete
variable {s : State} {t : Nat} (all : s.allStopped t)
include all

/-- A stop of which one member is a discard discards the group (R290). -/
theorem State.completeStop_discards (h : s.discards t) :
    s.completeStop t = (s.members t).foldl State.discardTask (s.drained t) := by
  have discards := (s.discards_iff t).mpr h
  rw [State.drained] at discards
  rw [State.completeStop, if_neg (Bool.eq_false_iff.mp ((s.allStopped_iff t).mpr all))]
  simp only [discards, if_true]
  rfl

variable (kept : ¬s.discards t)
include kept

/-- A stop that is no discard writes the images of the live members, then those of the ended ones, and saves the group. -/
theorem State.completeStop_writes : s.completeStop t =
    match (s.drained t).writeImages (s.members t) with
    | (some (m, va, .trap k), u) => imageFault u m va k
    | (some _, u) => u
    | (none, u) =>
      match u.writeEnded (s.task t).ctx t (u.endedMembers t) with
      | (some (m, va, .trap k), v) => imageFault v m va k
      | (some _, v) => v
      | (none, v) =>
        if (v.queue (s.task t).queue).state == .poisoned || (v.queue (s.task t).queue).state == .free then
          (s.members t).foldl State.discardTask v
        else (v.saveGroup t).settleQueue (s.task t).queue := by
  have keeps := Bool.eq_false_iff.mpr (mt (s.discards_iff t).mp kept)
  rw [State.drained] at keeps
  rw [State.completeStop, if_neg (Bool.eq_false_iff.mp ((s.allStopped_iff t).mpr all))]
  simp only [keeps, Bool.false_eq_true, if_false] <;> rfl

section live
variable {m : Nat} {va : DWord} {u : State}

theorem State.completeStop_imageFault {k : Nat} (h : (s.drained t).writeImages (s.members t) = (some (m, va, .trap k), u)) :
    s.completeStop t = imageFault u m va k := by
  rw [State.completeStop_writes all kept, h]

theorem State.completeStop_imageWaits {y : Why} (h : (s.drained t).writeImages (s.members t) = (some (m, va, .stall y), u)) :
    s.completeStop t = u := by
  rw [State.completeStop_writes all kept, h]

end live

variable {u : State} (written : (s.drained t).writeImages (s.members t) = (none, u))
include written

theorem State.completeStop_endedFault {m : Nat} {va : DWord} {k : Nat} {v : State}
    (h : u.writeEnded (s.task t).ctx t (u.endedMembers t) = (some (m, va, .trap k), v)) :
    s.completeStop t = imageFault v m va k := by
  rw [State.completeStop_writes all kept, written]
  dsimp only
  rw [h]

theorem State.completeStop_endedWaits {m : Nat} {va : DWord} {y : Why} {v : State}
    (h : u.writeEnded (s.task t).ctx t (u.endedMembers t) = (some (m, va, .stall y), v)) : s.completeStop t = v := by
  rw [State.completeStop_writes all kept, written]
  dsimp only
  rw [h]

variable {v : State} (ended : u.writeEnded (s.task t).ctx t (u.endedMembers t) = (none, v))
include ended

theorem State.completeStop_saves (live : (v.queue (s.task t).queue).state ≠ .poisoned)
    (used : (v.queue (s.task t).queue).state ≠ .free) :
    s.completeStop t = (v.saveGroup t).settleQueue (s.task t).queue := by
  rw [State.completeStop_writes all kept, written]
  dsimp only
  rw [ended]
  exact if_neg (by simp only [Bool.or_eq_true, beq_iff_eq, live, used, or_self, not_false_eq_true])

/-- The tasks of a queue that is Poisoned or Free by now are discarded all the same. -/
theorem State.completeStop_drops
    (gone : (v.queue (s.task t).queue).state = .poisoned ∨ (v.queue (s.task t).queue).state = .free) :
    s.completeStop t = (s.members t).foldl State.discardTask v := by
  rw [State.completeStop_writes all kept, written]
  dsimp only
  rw [ended]
  exact if_pos (by simpa only [Bool.or_eq_true, beq_iff_eq] using gone)

end complete

/-! ## A result that returns into an image -/

theorem State.tasks_pokeImage (s : State) (t off n v : Nat) : (s.pokeImage t off n v).tasks = s.tasks := by
  simp only [State.pokeImage]
  split
  · split <;> rfl
  · rfl

theorem State.tasks_pokePart (s : State) (t part : Nat) : (s.pokePart t part).tasks = s.tasks := by
  simp only [State.pokePart]
  split
  · split <;> rfl
  · rfl

theorem State.tasks_pokeResult (s : State) (r : StrandRef) (d : LoadDest) (v : DWord) : (s.pokeResult r d v).tasks = s.tasks := by
  cases d
  · exact State.tasks_pokeImage ..
  · exact State.tasks_pokePart ..

theorem State.tasks_settleQueue (s : State) (q : Nat) : (s.settleQueue q).tasks = s.tasks := by
  simp only [State.settleQueue]
  split
  · split <;> rfl
  · split <;> rfl
  · rfl

theorem State.task_of_tasks {s u : State} (h : u.tasks = s.tasks) (t : Nat) : u.task t = s.task t := by
  rw [State.task, h, State.task]

theorem State.task_countResult (s : State) (t : Nat) :
    (s.countResult t).task t = { s.task t with pending := (s.task t).pending - 1 } := by
  rw [State.countResult, State.task_of_tasks ((State.tasks_settleQueue ..).trans (State.tasks_pokeImage ..)), State.task_setTask]

/-- A load that returns leaves its task but for the strand or the queue that it goes to, and one result fewer to come. -/
theorem State.task_imageLoad (s : State) (r : StrandRef) (l : PendLoad) :
    (s.imageLoad r l).task r.task =
      { (s.task r.task).returnLoad r.unit l with pending := ((s.task r.task).returnLoad r.unit l).pending - 1 } := by
  rw [State.imageLoad, State.task_countResult, State.task_of_tasks (State.tasks_pokeResult ..), State.task_setTask]

theorem Task.pending_returnLoad (x : Task) (u : UnitId) (l : PendLoad) : (x.returnLoad u l).pending = x.pending := by
  simp only [Task.returnLoad]
  split
  · exact Task.setStrand_pending ..
  · exact Task.setStrand_pending ..

theorem Task.strand_returnLoad (x : Task) (u : UnitId) {l : PendLoad} {n : Nat} (h : l.dest = .reg n) :
    ((x.returnLoad u l).strand u).g = Assoc.set (x.strand u).g n l.value := by
  simp only [Task.returnLoad, h, Task.strand_setStrand]

theorem State.pending_imageLoad (s : State) (r : StrandRef) (l : PendLoad) :
    ((s.imageLoad r l).task r.task).pending = (s.task r.task).pending - 1 := by
  rw [State.task_imageLoad, Task.pending_returnLoad]

theorem State.strand_imageLoad (s : State) (r : StrandRef) {l : PendLoad} {n : Nat} (h : l.dest = .reg n) :
    ((s.imageLoad r l).strand r).g = Assoc.set (s.strand r).g n l.value := by
  rw [State.strand, State.task_imageLoad]
  refine Eq.trans ?_ (Task.strand_returnLoad (s.task r.task) r.unit h)
  cases r.unit <;> rfl

section result
variable {s : State} (saved : (s.task s.arg.task).life = .saved)
include saved

theorem execImageResultReturn_load {l : PendLoad} (h : ((s.strand s.argStrand).loads.find? fun l => l.id == s.arg.k) = some l) :
    execImageResultReturn s = .next (s.imageLoad s.argStrand l) := by
  simp only [execImageResultReturn, saved, bne_self_eq_false, Bool.false_eq_true, if_false, h]

/-- The answer of a link goes into the image when its port is open, and waits while the port trains (R380). -/
theorem execImageResultReturn_link {q : LinkReq} (none : ((s.strand s.argStrand).loads.find? fun l => l.id == s.arg.k) = none)
    (found : Assoc.get? s.reqs s.arg.k = some q) (mine : q.strand.task = s.arg.task) (answers : q.answers s.arg.answer = true) :
    execImageResultReturn s = .next (if s.portOpen q.port then s.imageLink s.arg.k q s.arg.answer else s) := by
  simp only [execImageResultReturn, saved, bne_self_eq_false, Bool.false_eq_true, if_false, none, found, mine, beq_self_eq_true,
    Bool.true_and, answers, Bool.and_true]

end result

end Sys2Proof.Machine
end

section
/-! SUPPORT. The dispatcher (R300 to R305, R438): the choice by level, what a queue gives, the cycles that a candidate has not
fitted, and pre-emption. -/

namespace Sys2Proof.Machine

/-! ## The choice -/

/-- A level of which a queue gives a task has served it. -/
theorem State.chooseFrom_served {s u : State} {k q : Nat} (ks : List Nat)
    (h : (s.round (s.levelQueues k)).firstServed (s.levelOrder k) = (some q, u)) :
    s.chooseFrom (k :: ks) = { u with served := Assoc.set u.served k q } := by
  rw [State.chooseFrom, h]

/-- A level of which no queue gives a task leaves the choice to the next. -/
theorem State.chooseFrom_next {s u : State} {k : Nat} (ks : List Nat)
    (h : (s.round (s.levelQueues k)).firstServed (s.levelOrder k) = (none, u)) : s.chooseFrom (k :: ks) = u.chooseFrom ks := by
  rw [State.chooseFrom, h]

/-- A queue without deficit, or whose context is not Active, is passed over. -/
theorem State.firstServed_passes {s : State} {q : Nat} (qs : List Nat)
    (h : (s.queue q).deficit ≤ 0 ∨ (s.ctx (s.queue q).ctx).state ≠ .active) : s.firstServed (q :: qs) = s.firstServed qs := by
  rw [State.firstServed]
  exact if_pos (by simpa only [Bool.or_eq_true, decide_eq_true_eq, bne_iff_ne] using h)

theorem State.firstServed_gives {s u : State} {q : Nat} (qs : List Nat) (credit : 0 < (s.queue q).deficit)
    (active : (s.ctx (s.queue q).ctx).state = .active) (h : s.serveQueue q = (.given, u)) :
    s.firstServed (q :: qs) = (some q, u) := by
  rw [State.firstServed]
  simp only [active, h, bne_self_eq_false, Bool.or_false, decide_eq_true_eq, if_neg (Int.not_le.mpr credit)]

/-- A queue gives a resumable saved task before a new one. -/
theorem State.serveQueue_saved {s : State} {q v : Nat} {as : Assigned}
    (h : ((s.savedOrder q).findSome? fun t => (s.placeSaved t).map fun as => (t, as)) = some (v, as)) :
    s.serveQueue q = (.given, s.resumeGroup v as) := by
  rw [State.serveQueue, h]

theorem State.serveQueue_new {s u : State} {q l : Nat}
    (none : ((s.savedOrder q).findSome? fun t => (s.placeSaved t).map fun as => (t, as)) = none)
    (head : s.headLaunch q = some l) (h : s.tryAll q l (s.offered q l) = (.given, u)) : s.serveQueue q = (.given, u) := by
  rw [State.serveQueue, none]
  simp only [head, h]

/-! ## A candidate that does not fit -/

section unfit
variable {s : State} {q : Nat}

theorem State.settleUnfit_none (h : (s.queue q).unfit = none) : s.settleUnfit q = s := by
  rw [State.settleUnfit, h]

variable {k : Waiting} {n : Nat} (counted : (s.queue q).unfit = some (k, n))
include counted

theorem State.settleUnfit_gone (h : s.candidate q = none) :
    s.settleUnfit q = s.setQueue q { s.queue q with unfit := none } := by
  rw [State.settleUnfit, counted, h]

/-- The count goes on while the candidate is the same and does not fit. -/
theorem State.settleUnfit_of {y : Candidate} (h : s.candidate q = some y) :
    s.settleUnfit q = if k = y.key ∧ s.placeNow y = none then s else s.setQueue q { s.queue q with unfit := none } := by
  rw [State.settleUnfit, counted, h]
  simp only [Bool.and_eq_true, beq_iff_eq, Option.isNone_iff_eq_none]

end unfit

/-! ## Pre-emption -/

/-- The candidate of a queue is due to pre-empt a task (R304). -/
def State.preemptDue (s : State) (q : Nat) : Prop :=
  ((s.queue q).state = .ready ∨ (s.queue q).state = .drain) ∧ 0 < (s.queue q).deficit ∧
    (s.ctx (s.queue q).ctx).state = .active ∧ s.preempting q = false ∧
    ∃ k n, (s.queue q).unfit = some (k, n) ∧ n + 4096 ≤ s.cycle

theorem State.preemptDue_iff (s : State) (q : Nat) :
    (((s.queue q).state == .ready || (s.queue q).state == .drain) && 0 < (s.queue q).deficit &&
      (s.ctx (s.queue q).ctx).state == .active && !s.preempting q && (s.queue q).unfit.any fun c => c.2 + 4096 ≤ s.cycle) = true ↔
      s.preemptDue q := by
  simp only [State.preemptDue, Bool.and_eq_true, Bool.or_eq_true, beq_iff_eq, decide_eq_true_eq, Bool.not_eq_true', Option.any_eq_true,
    Prod.exists, and_assoc]

theorem State.preempt_early {s : State} {q : Nat} (h : ¬(s.settleUnfit q).preemptDue q) : s.preempt q = s.settleUnfit q := by
  have early := Bool.eq_false_iff.mpr (mt ((s.settleUnfit q).preemptDue_iff q).mp h)
  simp only [State.preempt, early, Bool.false_eq_true, if_false]

section due
variable {s : State} {q : Nat} (due : (s.settleUnfit q).preemptDue q)
include due

theorem State.preempt_none (h : (s.settleUnfit q).candidate q = none) : s.preempt q = s.settleUnfit q := by
  simp only [State.preempt, ((s.settleUnfit q).preemptDue_iff q).mpr due, if_true, h]

theorem State.preempt_stops {k : Candidate} (h : (s.settleUnfit q).candidate q = some k) :
    s.preempt q = (s.settleUnfit q).stopFirst q k ((s.settleUnfit q).victims q) := by
  simp only [State.preempt, ((s.settleUnfit q).preemptDue_iff q).mpr due, if_true, h]

end due

/-- A task whose stop does not help, or is refused, is passed over. -/
theorem State.stopFirst_passes {s : State} {v : Nat} {k : Candidate} (q : Nat) (vs : List Nat)
    (h : s.stopHelps v k = false ∨ s.sendStop v forPreemption false = none) :
    s.stopFirst q k (v :: vs) = s.stopFirst q k vs := by
  rw [State.stopFirst]
  rcases h with useless | refused
  · rw [useless]
    rfl
  · rw [refused, ite_self]

theorem State.stopFirst_stops {s u : State} {v : Nat} {k : Candidate} (q : Nat) (vs : List Nat) (helps : s.stopHelps v k = true)
    (h : s.sendStop v forPreemption false = some u) :
    s.stopFirst q k (v :: vs) = u.setTask v { u.task v with stopFor := some q } := by
  rw [State.stopFirst, helps, h]
  rfl

end Sys2Proof.Machine
end

section
/-! SUPPORT. Launches of the host and their completion (R298, R299, R315, R437). -/

namespace Sys2Proof.Machine

/-! ## Acceptance -/

section accept
variable {s s1 : State} {q : Nat} {ws : List DWord} (live : (s.queue q).state ≠ .free)
  (read : s.devRead (s.dispatcherAccess (s.queue q).ctx false jobHost q) (s.queue q).subtl 1 = (.ok ws, s1))
include live read

theorem State.acceptHost_nothing (h : (ws.headD 0).toNat ≤ (s.queue q).hostCount) : s.acceptHost q = s := by
  simp only [State.acceptHost, beq_iff_eq, live, if_false, read, h, if_true]

/-- A submit timeline above the host's count makes the dispatcher accept the next launch and increment the accept timeline. -/
theorem State.acceptHost_accepts (more : (s.queue q).hostCount < (ws.headD 0).toNat) {rec : List DWord} {s2 s3 s4 : State} {pa n : Nat}
    {pte : DWord}
    (record : s1.devRead (s.dispatcherAccess (s.queue q).ctx false jobHost q)
      ((s.queue q).lwbase + BitVec.ofNat 64 (64 * ((s.queue q).hostCount % max 1 (s.queue q).lwlen))) 8 = (.ok rec, s2))
    (reaches : s2.translate (s2.dispatcherAccess (s.queue q).ctx true jobHost q) (s.queue q).acctl = (.ok pa pte, s3))
    (accepted : s3.acceptLaunch q (some rec) (hostParty s3) none = (.ok n, s4)) :
    s.acceptHost q =
      let s5 := s4.setQueue q { s4.queue q with hostCount := (s.queue q).hostCount + 1 }
      (s5.incAt (s5.dispatcherAccess (s.queue q).ctx true jobHost q) (s.queue q).acctl
        fun pa => dispatcherParty s5 (Config.homeDie pa)).2 := by
  simp only [State.acceptHost, beq_iff_eq, live, if_false, read, if_neg (Nat.not_le.mpr more), record, reaches, accepted]

end accept

/-! ## Completion -/

/-- A launch with no fault, all of whose tasks are dispatched and complete. -/
def Launch.finished (y : Launch) : Prop := y.faulted = false ∧ y.undispatched = false ∧ y.count ≤ y.complete

theorem Launch.finished_iff (y : Launch) : (y.faulted || y.undispatched || decide (y.complete < y.count)) = false ↔ y.finished := by
  simp only [Launch.finished, Bool.or_eq_false_iff, decide_eq_false_iff_not, Nat.not_lt, and_assoc]

/-- The state without a launch. -/
def State.withoutLaunch (s : State) (l q : Nat) : State :=
  { s.setQueue q { s.queue q with launches := (s.queue q).launches.filter fun k => k != l } with
    launches := Assoc.erase s.launches l }

section completion
variable {s : State} {l : Nat} {y : Launch} (kept : Assoc.get? s.launches l = some y)
include kept

theorem State.completeLaunch_early (h : ¬y.finished) : s.completeLaunch l = s := by
  rw [State.completeLaunch, kept]
  exact if_pos (eq_true_of_ne_false (mt y.finished_iff.mp h))

variable (done : y.finished)
include done

theorem State.completeLaunch_silent (h : y.donetl = 0) : s.completeLaunch l = s.withoutLaunch l y.queue := by
  rw [State.completeLaunch, kept]
  refine (if_neg (Bool.eq_false_iff.mp (y.finished_iff.mpr done))).trans ?_
  exact if_pos (beq_iff_eq.mpr h)

variable (signals : y.donetl ≠ 0)
include signals

/-- A launch with a completion timeline increments it, and is gone when the increment has been made or cannot be. -/
theorem State.completeLaunch_signals {b : Bool} {u : State}
    (h : s.incAt (s.dispatcherAccess (s.queueCtx y.queue) true jobDone l) y.donetl (fun pa =>
      if y.count = 0 then dispatcherParty s (Config.homeDie pa) else y.lastParty) = (b, u)) :
    s.completeLaunch l = if b then u.withoutLaunch l y.queue else u := by
  rw [State.completeLaunch, kept]
  refine (if_neg (Bool.eq_false_iff.mp (y.finished_iff.mpr done))).trans ((if_neg (mt beq_iff_eq.mp signals)).trans ?_)
  dsimp only
  rw [h]
  cases b <;> rfl

end completion

/-- An increment by the device where the address translates: of a word that is aligned. -/
theorem State.incAt_ok {s u : State} {x : Access} {va : DWord} {pa : Nat} {pte : DWord} (who : Nat → Party)
    (h : s.translate x va = (.ok pa pte, u)) :
    s.incAt x va who = (true, if va.toNat % 8 = 0 then u.deviceInc pa (who pa) else u) := by
  have aligned : (va &&& 7 == 0) = true ↔ va.toNat % 8 = 0 := by
    have masked : (va &&& 7).toNat = va.toNat % 8 := toNat_and_mask va (n := 3) (by omega)
    rw [beq_iff_eq, ← BitVec.toNat_inj, masked]
    exact Iff.rfl
  rw [State.incAt, h]
  simp only [aligned]

theorem State.incAt_stall {s u : State} {x : Access} {va : DWord} {p : Why} (who : Nat → Party)
    (h : s.translate x va = (.stall p, u)) : s.incAt x va who = (false, u) := by
  rw [State.incAt, h]

theorem State.incAt_trap {s u : State} {x : Access} {va : DWord} {k : Nat} (who : Nat → Party)
    (h : s.translate x va = (.trap k, u)) : s.incAt x va who = (true, u) := by
  rw [State.incAt, h]

end Sys2Proof.Machine
end

section
/-! SUPPORT. The events of tasks, queues and launches together. -/

namespace Sys2Proof.Machine

/-- Settles O58: each event runs the operation of its name on the state, and that operation's lemmas say what it does under each
condition. -/
theorem taskEvents : Obligations.TaskEvents := by
  unfold Obligations.TaskEvents
  intro s t x c ms exceeds allStopped z discards
  refine ⟨fun known => ?runLimit, fun r sent thawed placed => ?arrives, fun sent held => ?held, fun d => ?halts,
    fun unsent unasked placed known => ?again, fun k d u => State.sendStop_asks, s.refusesStop_iff t, s.sendStop_none_iff t,
    fun r arrived past thawed stopping => ?freezes, fun r arrived early => ?window, fun d live running => ?frozen,
    fun going => ?going, fun all drop => ?discards, fun all kept => ?saves, fun saved => ?returns, rfl,
    fun k ks => ⟨fun q u => State.chooseFrom_served ks, fun u => State.chooseFrom_next ks⟩, fun q qs => ?serves, fun q => ?unfit,
    ?preempts, fun q k v vs => ?victims, ?parks, congrArg Host.Outcome.next (s.rereadWait_eq t), ?accepts, ?completes⟩
  case runLimit =>
    have run := execRunLimitExpiry_of known
    exact ⟨fun past => run.trans (congrArg Host.Outcome.next (if_pos ((s.overLimit_iff t).mpr past))),
      fun within => run.trans (congrArg Host.Outcome.next (if_neg (mt (s.overLimit_iff t).mp within)))⟩
  case arrives =>
    exact (execStopRequest_sent (by rw [sent]; exact nofun)).trans
      (congrArg Host.Outcome.next (State.arriveAt_placed sent thawed placed))
  case held =>
    obtain ⟨r, request⟩ := Option.ne_none_iff_exists'.mp sent
    exact (execStopRequest_sent sent).trans (congrArg Host.Outcome.next (State.arriveAt_held request held))
  case halts =>
    exact ⟨fun live running boundary => d.arriveStop_eq.trans (if_pos ⟨live, running, boundary⟩),
      fun stays => d.arriveStop_eq.trans (if_neg stays)⟩
  case again =>
    have run : exec .stopRequest s = .next (s.askAgain t) := execStopRequest_unsent unsent
    rw [State.askAgain_eq known unsent unasked placed] at run
    refine ⟨fun suspending => ?suspending, fun active draining => ?draining, fun active stays => ?neither⟩
    case suspending =>
      rw [if_pos suspending] at run
      exact ⟨fun u sends => by rw [run, sends]; rfl, fun refused => by rw [run, refused]; rfl⟩
    case draining =>
      rw [if_neg active, if_pos draining] at run
      exact ⟨fun u sends => by rw [run, sends]; rfl, fun refused => by rw [run, refused]; rfl⟩
    case neither => rw [run, if_neg active, if_neg (Bool.eq_false_iff.mp stays)]
  case freezes =>
    exact (execFreezeWindowExpiry_of arrived).trans (congrArg Host.Outcome.next (if_pos ⟨past, thawed, stopping⟩))
  case window =>
    exact (execFreezeWindowExpiry_of arrived).trans
      (congrArg Host.Outcome.next (if_neg fun ⟨past, _⟩ => Nat.not_le.mpr early past))
  case frozen => rw [Strand.freeze, live, running]; rfl
  case going => exact congrArg Host.Outcome.next (State.completeStop_early going)
  case discards => exact congrArg Host.Outcome.next (State.completeStop_discards all drop)
  case saves =>
    refine ⟨fun m va k u faults => ?imageFault, fun m va y u waits => ?imageWaits, fun u written =>
      ⟨fun m va k v faults => ?endedFault, fun m va y v waits => ?endedWaits, fun v ended => ⟨fun live used => ?kept, fun gone => ?gone⟩⟩⟩
    case imageFault => exact congrArg Host.Outcome.next (State.completeStop_imageFault all kept faults)
    case imageWaits => exact congrArg Host.Outcome.next (State.completeStop_imageWaits all kept waits)
    case endedFault => exact congrArg Host.Outcome.next (State.completeStop_endedFault all kept written faults)
    case endedWaits => exact congrArg Host.Outcome.next (State.completeStop_endedWaits all kept written waits)
    case kept => exact congrArg Host.Outcome.next (State.completeStop_saves all kept written ended live used)
    case gone => exact congrArg Host.Outcome.next (State.completeStop_drops all kept written ended gone)
  case returns =>
    refine ⟨fun l found => ⟨execImageResultReturn_load saved found, s.pending_imageLoad s.argStrand l, fun n dest =>
      s.strand_imageLoad s.argStrand dest⟩, fun none q found mine answers => ⟨fun isOpen => ?isOpen, fun trains => ?trains⟩⟩
    case isOpen =>
      exact (execImageResultReturn_link saved none found mine answers).trans (congrArg Host.Outcome.next (if_pos isOpen))
    case trains =>
      exact (execImageResultReturn_link saved none found mine answers).trans
        (congrArg Host.Outcome.next (if_neg (Bool.eq_false_iff.mp trains)))
  case serves =>
    exact ⟨State.firstServed_passes qs, fun credit active u => State.firstServed_gives qs credit active,
      fun u v as found resumes => resumes ▸ State.serveQueue_saved found, fun none l u => State.serveQueue_new none⟩
  case unfit =>
    refine ⟨State.settleUnfit_none, fun k n counted => ⟨State.settleUnfit_gone counted, fun y found =>
      ⟨fun same misfits => ?counts, fun other => ?clears⟩⟩⟩
    case counts => exact (State.settleUnfit_of counted found).trans (if_pos ⟨same, misfits⟩)
    case clears =>
      refine (State.settleUnfit_of counted found).trans (if_neg fun ⟨same, misfits⟩ => ?_)
      rcases other with other | fits
      · exact other same
      · rw [misfits] at fits
        exact absurd fits Bool.false_ne_true
  case preempts =>
    exact ⟨fun early => congrArg Host.Outcome.next (State.preempt_early early),
      fun due none => congrArg Host.Outcome.next (State.preempt_none due none),
      fun due k found => congrArg Host.Outcome.next (State.preempt_stops due found)⟩
  case victims => exact ⟨rfl, State.stopFirst_passes q vs, fun helps u => State.stopFirst_stops q vs helps⟩
  case parks =>
    refine ⟨execParkTimeout_early, fun due known => ?_⟩
    exact ⟨fun u sends => (execParkTimeout_known known).trans (congrArg Host.Outcome.next (State.park_stops due sends)),
      fun refused => (execParkTimeout_known known).trans (congrArg Host.Outcome.next (State.park_refused due refused))⟩
  case accepts =>
    exact fun live ws s1 read => ⟨fun none => congrArg Host.Outcome.next (State.acceptHost_nothing live read none),
      fun more rec s2 pa pte s3 n s4 record reaches accepted =>
        congrArg Host.Outcome.next (State.acceptHost_accepts live read more record reaches accepted)⟩
  case completes =>
    intro l y kept
    refine ⟨fun early => ?early, fun done silent => ?silent, fun done signals => ⟨fun pa pte u found => ?signals, fun p u found => ?waits,
      fun k u found => ?unreachable⟩⟩
    case early => exact congrArg Host.Outcome.next (State.completeLaunch_early kept early)
    case silent => exact congrArg Host.Outcome.next (State.completeLaunch_silent kept done silent)
    case signals =>
      have run := State.completeLaunch_signals kept done signals (State.incAt_ok _ found)
      exact ⟨fun aligned => congrArg Host.Outcome.next (run.trans (by rw [if_pos aligned]; rfl)),
        fun misaligned => congrArg Host.Outcome.next (run.trans (by rw [if_neg misaligned]; rfl))⟩
    case waits =>
      exact congrArg Host.Outcome.next (State.completeLaunch_signals kept done signals (State.incAt_stall _ found))
    case unreachable =>
      exact congrArg Host.Outcome.next (State.completeLaunch_signals kept done signals (State.incAt_trap _ found))

end Sys2Proof.Machine
end

section
/-! SUPPORT. The queue commands (R294 to R296, R305 to R307, Tables 11-1 to 11-3): what each answers for a queue in each state, and
the end of a command with its STATUS when the controller comes to its entry. -/

namespace Sys2Proof.Machine

@[simp] theorem State.setQueue_setQueue (s : State) (q : Nat) (x y : Queue) :
    (s.setQueue q x).setQueue q y = s.setQueue q y := by
  simp only [State.setQueue, Assoc.set_set]

/-! ## Create -/

/-- The descriptor's context may have one more queue (QMAX, 0 for all 1,024). -/
abbrev State.hasQueueRoom (s : State) (c : Nat) : Prop :=
  (s.queuesOf c).length < if (s.ctx c).qmax = 0 then 1024 else (s.ctx c).qmax

section create
variable {s : State} {q : Nat}

theorem State.createQueue_used (used : (s.queue q).state ≠ .free) : s.createQueue q = (1, s) :=
  if_pos (bne_iff_ne.mpr used)

variable (free : (s.queue q).state = .free)
include free

theorem State.createQueue_free : s.createQueue q =
    if !queueReservedOk (s.queueDesc q) then (2, s)
    else if !queueAligned (s.queueDesc q) then (3, s)
    else if (s.ctx (newQueue (s.queueDesc q)).ctx).state ≠ .active ∨ ¬s.hasQueueRoom (newQueue (s.queueDesc q)).ctx then (4, s)
    else (0, s.setQueue q (newQueue (s.queueDesc q))) := by
  simp only [State.createQueue, free, State.hasQueueRoom, bne_self_eq_false, Bool.false_eq_true, if_false, Bool.or_eq_true, bne_iff_ne,
    decide_eq_true_eq, Nat.not_lt]

theorem State.createQueue_reserved (reserved : queueReservedOk (s.queueDesc q) = false) : s.createQueue q = (2, s) := by
  rw [State.createQueue_free free, reserved]
  rfl

variable (valid : queueReservedOk (s.queueDesc q) = true)
include valid

theorem State.createQueue_misaligned (misaligned : queueAligned (s.queueDesc q) = false) : s.createQueue q = (3, s) := by
  rw [State.createQueue_free free, valid, misaligned]
  rfl

variable (aligned : queueAligned (s.queueDesc q) = true)
include aligned

/-- With a good descriptor only the context decides: it is Active and has room for the queue, or the command is refused. -/
theorem State.createQueue_aligned : s.createQueue q =
    if (s.ctx (newQueue (s.queueDesc q)).ctx).state ≠ .active ∨ ¬s.hasQueueRoom (newQueue (s.queueDesc q)).ctx then (4, s)
    else (0, s.setQueue q (newQueue (s.queueDesc q))) := by
  rw [State.createQueue_free free, valid, aligned]
  rfl

theorem State.createQueue_refused
    (refused : (s.ctx (newQueue (s.queueDesc q)).ctx).state ≠ .active ∨ ¬s.hasQueueRoom (newQueue (s.queueDesc q)).ctx) :
    s.createQueue q = (4, s) :=
  (State.createQueue_aligned free valid aligned).trans (if_pos refused)

theorem State.createQueue_loads (active : (s.ctx (newQueue (s.queueDesc q)).ctx).state = .active)
    (room : s.hasQueueRoom (newQueue (s.queueDesc q)).ctx) :
    s.createQueue q = (0, s.setQueue q (newQueue (s.queueDesc q))) :=
  (State.createQueue_aligned free valid aligned).trans (if_neg (not_or.mpr ⟨fun inactive => inactive active, fun full => full room⟩))

end create

/-! ## Update, Stop -/

section update
variable {s : State} {q : Nat}

theorem State.updateQueue_free (free : (s.queue q).state = .free) : s.updateQueue q = (1, s) :=
  if_pos (beq_iff_eq.mpr free)

variable (used : (s.queue q).state ≠ .free)
include used

/-- Of a queue that is not Free, Update looks at WEIGHT alone of its descriptor. -/
theorem State.updateQueue_used : s.updateQueue q =
    let n := newQueue (s.queueDesc q)
    if n.weight = 0 then (2, s) else (0, s.setQueue q { s.queue q with prio := n.prio, weight := n.weight, agelim := n.agelim }) :=
  if_neg (mt beq_iff_eq.mp used)

theorem State.updateQueue_weightless (weightless : (newQueue (s.queueDesc q)).weight = 0) : s.updateQueue q = (2, s) :=
  (State.updateQueue_used used).trans (if_pos weightless)

theorem State.updateQueue_loads (weighs : (newQueue (s.queueDesc q)).weight ≠ 0) : s.updateQueue q =
    let n := newQueue (s.queueDesc q)
    (0, s.setQueue q { s.queue q with prio := n.prio, weight := n.weight, agelim := n.agelim }) :=
  (State.updateQueue_used used).trans (if_neg weighs)

end update

/-- The states in which Stop acts (Table 11-3). -/
def QState.running (x : QState) : Prop := x = .idle ∨ x = .ready ∨ x = .drain

theorem State.stopQueue_running {s : State} {q : Nat} (running : (s.queue q).state.running) :
    s.stopQueue q = (0, s.setQueue q { s.queue q with state := .stopped }) := by
  rw [State.stopQueue]
  rcases running with idle | ready | drain
  · rw [idle]
  · rw [ready]
  · rw [drain]

theorem State.stopQueue_refused {s : State} {q : Nat} (stays : ¬(s.queue q).state.running) : s.stopQueue q = (1, s) := by
  rw [State.stopQueue]
  split
  next idle => exact absurd (.inl idle) stays
  next ready => exact absurd (.inr (.inl ready)) stays
  next drain => exact absurd (.inr (.inr drain)) stays
  next => rfl

/-! ## Restart -/

/-- The launches of a queue of which a task has faulted. -/
def State.badLaunches (s : State) (q : Nat) : List Nat := (s.queue q).launches.filter fun l => (s.launch l).faulted

/-- The state in which a queue's faulted launches are dropped and their saved tasks discarded (R296). -/
def State.dropBad (s : State) (q : Nat) : State :=
  let t := (s.badLaunches q).foldl State.dropLaunch s
  t.discardSaved (t.savedWhere fun k => k.queue == q && (t.launch k.launch).faulted)

section restart
variable {s : State} {q : Nat}

theorem State.restartQueue_refused (running : (s.queue q).state ≠ .stopped) (sound : (s.queue q).state ≠ .faulted) :
    s.restartQueue q = (1, s) := by
  rw [State.restartQueue]
  split
  next stopped => exact absurd stopped running
  next faulted => exact absurd faulted sound
  next => rfl

theorem State.restartQueue_stopped (stopped : (s.queue q).state = .stopped) : s.restartQueue q =
    (0, (s.setQueue q { s.queue q with state := .idle, unfit := none, frlost := false }).settleQueue q) := by
  simp only [State.restartQueue, stopped]

/-- A Restart of a Faulted queue drops its faulted launches and keeps their completion timelines for a later Poison. -/
theorem State.restartQueue_faulted (faulted : (s.queue q).state = .faulted) : s.restartQueue q =
    (0, ((s.dropBad q).setQueue q { (s.dropBad q).queue q with
      badLaunch := none, launches := (s.queue q).launches.filter fun l => !(s.badLaunches q).contains l
      lost := (s.queue q).lost ++ ((s.badLaunches q).map fun l => ((s.dropBad q).launch l).donetl).filter fun a => a != 0
      state := .idle, unfit := none, frlost := false }).settleQueue q) := by
  simp only [State.restartQueue, faulted, State.queue_setQueue, State.setQueue_setQueue, State.dropBad, State.badLaunches]

end restart

/-! ## Poison, Destroy -/

/-- The state in which launches are dropped and the saved tasks of a queue discarded (R306, R307). -/
def State.dropWork (s : State) (q : Nat) (ls : List Nat) : State :=
  let t := ls.foldl State.dropLaunch s
  t.discardSaved (t.savedWhere fun k => k.queue == q)

section poison
variable {s : State} {q : Nat} (c : Nat)

theorem State.poisonQueue_free (free : (s.queue q).state = .free) : s.poisonQueue q c = s.doneQueue q c 1 :=
  if_pos (beq_iff_eq.mpr free)

variable (used : (s.queue q).state ≠ .free) {t : State}
include used

/-- Poison ends once each completion timeline is poisoned or cannot be reached. -/
theorem State.poisonQueue_ends (done : s.poisonDone q (s.unsignalled q) = (true, t)) : s.poisonQueue q c =
    let u := t.dropWork q (t.queue q).launches
    (u.setQueue q { u.queue q with state := .poisoned, launches := [], lost := [] }).doneQueue q c 0 := by
  refine (if_neg (mt beq_iff_eq.mp used)).trans ?_
  rw [done]
  rfl

/-- Poison waits while a completion timeline's page is not present. -/
theorem State.poisonQueue_waits (waits : s.poisonDone q (s.unsignalled q) = (false, t)) : s.poisonQueue q c = t := by
  refine (if_neg (mt beq_iff_eq.mp used)).trans ?_
  rw [waits]

end poison

theorem State.destroyQueue_eq (s : State) (q : Nat) : s.destroyQueue q =
    let u := (s.setQueue q { s.queue q with destroying := true }).dropWork q (s.queue q).launches
    u.discardPlaced (u.queueTasks q) := by
  simp only [State.destroyQueue, State.queue_setQueue, State.dropWork]

/-! ## The events -/

/-- The controller comes to the entry of queue `arg.queue` with command `k`, and no Destroy is at work on it. -/
def State.comesTo (s : State) (k : Nat) : Prop :=
  s.serves (.queue s.arg.queue.toNat) = true ∧ s.queueCmd s.arg.queue.toNat = k ∧ (s.queue s.arg.queue.toNat).destroying = false

theorem State.serveQueueCmd_of {s : State} {k : Nat} (h : s.comesTo k) {code : Nat → Bool} (picks : code k = true)
    (act : State → Nat → Nat → State) :
    s.serveQueueCmd code act = act s s.arg.queue.toNat (s.ownerOf s.arg.queue.toNat) := by
  obtain ⟨serves, command, stays⟩ := h
  refine if_pos ?_
  rw [serves, command, picks, stays]
  rfl

section events
variable {s : State}

section ends
variable {t : State} {status : Nat}

theorem exec_queueCreate (h : s.comesTo 1) (r : s.createQueue s.arg.queue.toNat = (status, t)) :
    exec .queueCreate s = .next (t.doneQueue s.arg.queue.toNat (s.ownerOf s.arg.queue.toNat) status) := by
  refine congrArg Host.Outcome.next ((State.serveQueueCmd_of h rfl _).trans ?_)
  rw [r]

theorem exec_queueUpdate (h : s.comesTo 2) (r : s.updateQueue s.arg.queue.toNat = (status, t)) :
    exec .queueUpdate s = .next (t.doneQueue s.arg.queue.toNat (s.ownerOf s.arg.queue.toNat) status) := by
  refine congrArg Host.Outcome.next ((State.serveQueueCmd_of h rfl _).trans ?_)
  obtain ⟨-, command, -⟩ := h
  simp only [command, beq_self_eq_true, if_true, r]

theorem exec_queueStop (h : s.comesTo 3) (r : s.stopQueue s.arg.queue.toNat = (status, t)) :
    exec .queueStop s = .next (t.doneQueue s.arg.queue.toNat (s.ownerOf s.arg.queue.toNat) status) := by
  refine congrArg Host.Outcome.next ((State.serveQueueCmd_of h rfl _).trans ?_)
  rw [r]

theorem exec_queueRestart (h : s.comesTo 4) (r : s.restartQueue s.arg.queue.toNat = (status, t)) :
    exec .queueRestart s = .next (t.doneQueue s.arg.queue.toNat (s.ownerOf s.arg.queue.toNat) status) := by
  refine congrArg Host.Outcome.next ((State.serveQueueCmd_of h rfl _).trans ?_)
  rw [r]

end ends

/-- Codes above 6 are reserved: they end with STATUS 2 on any queue. -/
theorem exec_queueUpdate_reserved {k : Nat} (h : s.comesTo k) (reserved : 6 < k) :
    exec .queueUpdate s = .next (s.doneQueue s.arg.queue.toNat (s.ownerOf s.arg.queue.toNat) 2) := by
  have picks : (k == 2 || decide (6 < k)) = true := by rw [decide_eq_true reserved, Bool.or_true]
  have other : (k == 2) = false := beq_eq_false_iff_ne.mpr (by omega)
  refine congrArg Host.Outcome.next ((State.serveQueueCmd_of h picks _).trans ?_)
  obtain ⟨-, command, -⟩ := h
  simp only [command, other, Bool.false_eq_true, if_false]

theorem exec_queuePoison (h : s.comesTo 5) :
    exec .queuePoison s = .next (s.poisonQueue s.arg.queue.toNat (s.ownerOf s.arg.queue.toNat)) :=
  congrArg Host.Outcome.next (State.serveQueueCmd_of h rfl _)

theorem exec_queueDestroy (h : s.comesTo 6) : exec .queueDestroy s =
    .next (if (s.queue s.arg.queue.toNat).state = .free then
      s.doneQueue s.arg.queue.toNat (s.ownerOf s.arg.queue.toNat) 1 else s.destroyQueue s.arg.queue.toNat) := by
  refine congrArg Host.Outcome.next ((State.serveQueueCmd_of h rfl _).trans ?_)
  simp only [beq_iff_eq]

theorem exec_queueDestroyFinish (destroying : (s.queue s.arg.queue.toNat).destroying = true)
    (gone : s.queueTasks s.arg.queue.toNat = []) : exec .queueDestroyFinish s =
      .next ((s.eraseQueue s.arg.queue.toNat).doneQueue s.arg.queue.toNat (s.queue s.arg.queue.toNat).ctx 0) :=
  congrArg Host.Outcome.next (if_pos (by rw [destroying, gone]; rfl))

end events

/-- Settles O55: each event ends its command with the STATUS and the state that the operation of its name answers, and that
operation's lemmas say which for a queue in each state. -/
theorem queueCommands : Obligations.QueueCommands := by
  unfold Obligations.QueueCommands
  intro s q x c ws n cmd does unsignalled room
  refine ⟨fun h => ?create, fun h => ?update, fun h => ?stop, fun h => ?restart, fun h => ?poison, fun h => ?destroy,
    fun k => exec_queueUpdate_reserved, exec_queueDestroyFinish⟩
  case create =>
    refine ⟨fun used => exec_queueCreate h (State.createQueue_used used),
      fun free reserved => exec_queueCreate h (State.createQueue_reserved free reserved),
      fun free valid misaligned => exec_queueCreate h (State.createQueue_misaligned free valid misaligned),
      fun free valid aligned refused => exec_queueCreate h (State.createQueue_refused free valid aligned refused),
      fun free valid aligned active fits =>
        ⟨exec_queueCreate h (State.createQueue_loads free valid aligned active fits), ?fields⟩⟩
    exact ⟨rfl, rfl, rfl, rfl, rfl, rfl, rfl, rfl, rfl, rfl, rfl, rfl, rfl⟩
  case update =>
    exact ⟨fun free => exec_queueUpdate h (State.updateQueue_free free),
      fun used weightless => exec_queueUpdate h (State.updateQueue_weightless used weightless),
      fun used weighs => exec_queueUpdate h (State.updateQueue_loads used weighs)⟩
  case stop =>
    exact ⟨fun running => exec_queueStop h (State.stopQueue_running running),
      fun stays => exec_queueStop h (State.stopQueue_refused stays)⟩
  case restart =>
    exact ⟨fun running sound => exec_queueRestart h (State.restartQueue_refused running sound),
      fun stopped => exec_queueRestart h (State.restartQueue_stopped stopped),
      fun faulted => exec_queueRestart h (State.restartQueue_faulted faulted)⟩
  case poison =>
    have run := exec_queuePoison h
    exact ⟨fun free => run.trans (congrArg Host.Outcome.next (State.poisonQueue_free c free)),
      fun used t done => run.trans (congrArg Host.Outcome.next (State.poisonQueue_ends c used done)),
      fun used t waits => run.trans (congrArg Host.Outcome.next (State.poisonQueue_waits c used waits))⟩
  case destroy =>
    have run := exec_queueDestroy h
    exact ⟨fun free => run.trans (congrArg Host.Outcome.next (if_pos free)),
      fun used => run.trans (congrArg Host.Outcome.next ((if_neg used).trans (s.destroyQueue_eq q)))⟩

end Sys2Proof.Machine
end

section
/-! SUPPORT. Group barriers (R344 to R347, R352): what an arrival does to its strand, how `bar` and `barx` go on after it, and the
counts and phases of a barrier. -/

namespace Sys2Proof.Machine

/-! ## An arrival -/

section arrival
variable {s : State} {x : Gen} {ex : Bool}

/-- The strand waits for no barrier phase: it has not arrived. -/
def State.notArrived (s : State) : Prop := ∀ k ph y w, s.curStrand.wait = some w → w.why ≠ .barrier k ph y

/-- The operand codes of `bar`, or of `barx`, which names bytes in its first. -/
def barCodes (x : Gen) (ex : Bool) : List Nat := (if ex then [x.a.toNat] else []) ++ Src.codes x.b

/-- The number of the barrier that an instruction names. -/
def State.arrivalNo (s : State) (x : Gen) : Nat := (s.valueB x.b).toNat % 16

/-- The bytes that an arrival expects: only `barx` names any. -/
def State.arrivalBytes (s : State) (x : Gen) (ex : Bool) : Nat := if ex then bitsOf (s.source x.a.toNat) 0 32 else 0

/-- The phase of a barrier of the current task's group before an arrival. -/
def State.arrivalPhase (s : State) (n : Nat) : Nat :=
  (((s.withGroup s.cur.task).group (s.withGroup s.cur.task).curTask.groupNo).barrier n).phase

/-- The count is above the group's size, or `barx` names a barrier below 12 (R345). -/
def State.arrivalIllegal (s : State) (x : Gen) (ex : Bool) : Prop :=
  s.curTask.gsize < x.fn.toNat / 16 ∨ (ex = true ∧ s.arrivalNo x < 12)

theorem State.arrivalIllegal_iff (s : State) (x : Gen) (ex : Bool) : s.arrivalIllegal x ex ↔
    (decide (s.curTask.gsize < x.fn.toNat / 16) || (ex && decide (s.arrivalNo x < 12))) = true := by
  simp only [State.arrivalIllegal, Bool.or_eq_true, Bool.and_eq_true, decide_eq_true_eq]

/-- The state after an arrival: the operands popped, the release action made, and the barrier and its group told (R345, R352). -/
def State.afterArrival (s : State) (x : Gen) (ex : Bool) : State :=
  let p := ((s.popCodes (barCodes x ex)).updCur fun d => { d with held := none }).barrierFence x
  p.arrive p.cur.task (s.arrivalNo x) (x.fn.toNat / 16) (s.arrivalBytes x ex)

/-- The phase of a barrier of the current task's group. -/
def State.phaseNow (s : State) (n : Nat) : Nat := ((s.group s.curTask.groupNo).barrier n).phase

variable (outside : s.notArrived) (ready : s.ready (barCodes x ex) none = true)
include outside ready

theorem barBody_illegal (illegal : s.arrivalIllegal x ex) : barBody x ex s = .error (.trap { cause := 2 }) s := by
  rw [barBody_enters x ex s outside ready]
  exact (congrFun (if_pos ((s.arrivalIllegal_iff x ex).mp illegal)) s).trans (raiseWord_apply 2 s)

variable (legal : ¬s.arrivalIllegal x ex) (flushed : s.flushDone true (barrierScope x.fn) = true)
include legal flushed

/-- A legal arrival is made, and what its strand does next turns on whether the phase has changed (R345, R346). -/
theorem barBody_arrives : barBody x ex s =
    (let n := s.arrivalNo x
     if (s.afterArrival x ex).phaseNow n != s.arrivalPhase n then do
       qMark (barrierScope x.fn)
       pure .next
     else holdOn (.barrier n (s.arrivalPhase n) (s.arrivalBytes x ex != 0)) : M Flow) (s.afterArrival x ex) := by
  rw [barBody_enters x ex s outside ready]
  refine (congrFun (if_neg (mt (s.arrivalIllegal_iff x ex).mpr legal)) s).trans ?_
  rw [bind_ok (flushFor_ok flushed), bind_ok (popNow_apply _ _), bind_ok (modifyCur_apply _ _)]
  rfl

theorem barBody_completes (changed : (s.afterArrival x ex).phaseNow (s.arrivalNo x) ≠ s.arrivalPhase (s.arrivalNo x)) :
    barBody x ex s = .ok .next ((s.afterArrival x ex).barrierFence x) :=
  (barBody_arrives outside ready legal flushed).trans (congrFun (if_pos (bne_iff_ne.mpr changed)) _)

theorem barBody_waits (same : (s.afterArrival x ex).phaseNow (s.arrivalNo x) = s.arrivalPhase (s.arrivalNo x)) :
    barBody x ex s = .error (.stall (.barrier (s.arrivalNo x) (s.arrivalPhase (s.arrivalNo x)) (s.arrivalBytes x ex != 0)) true)
      (s.afterArrival x ex) :=
  (barBody_arrives outside ready legal flushed).trans (congrFun (if_neg (by simpa only [bne_iff_ne, not_not] using same)) _)

end arrival

/-! ## After the arrival -/

section arrived
variable {s : State} {x : Gen} (ex : Bool) {k ph : Nat} {y : Bool} {w : Wait}
  (waits : s.curStrand.wait = some w) (why : w.why = .barrier k ph y)
include waits why

/-- A strand that has arrived makes no second arrival (R346). -/
theorem barBody_arrived : barBody x ex s =
    (let c := s.curTask.chan (k - 12)
     if s.curStrand.held.isSome then do
       qMark (barrierScope x.fn)
       pure .next
     else if y && c.faulted then do
       setProducer (s.taskParty s.cur.task 2)
       throw (.trap (trapOf 30 (copyFaultValue (k - 12) c)))
     else stallOn (.barrier k ph y) : M Flow) s := by
  rw [barBody, bind_ok (get_apply s)]
  simp only [waits, Option.map_some, why]

theorem barBody_goesOn (complete : s.curStrand.held.isSome = true) : barBody x ex s = .ok .next (s.barrierFence x) :=
  (barBody_arrived ex waits why).trans (congrFun (if_pos complete) s)

variable (pending : s.curStrand.held = none)
include pending

theorem barBody_pending : barBody x ex s =
    (let c := s.curTask.chan (k - 12)
     if y && c.faulted then do
       setProducer (s.taskParty s.cur.task 2)
       throw (.trap (trapOf 30 (copyFaultValue (k - 12) c)))
     else stallOn (.barrier k ph y) : M Flow) s :=
  (barBody_arrived ex waits why).trans (congrFun (if_neg (by rw [pending]; exact Bool.false_ne_true)) s)

/-- Bytes that a Faulted channel will not post: the copy-fault trap. -/
theorem barBody_copyFault (faulted : (y && (s.curTask.chan (k - 12)).faulted) = true) : barBody x ex s =
    .error (.trap { cause := 30, value := some (copyFaultValue (k - 12) (s.curTask.chan (k - 12))), keep := true })
      (s.producedBy (s.taskParty s.cur.task 2)) :=
  (barBody_pending ex waits why pending).trans (congrFun (if_pos faulted) s)

theorem barBody_stays (sound : (y && (s.curTask.chan (k - 12)).faulted) = false) :
    barBody x ex s = .error (.stall (.barrier k ph y) false) s :=
  (barBody_pending ex waits why pending).trans (congrFun (if_neg (by rw [sound]; exact Bool.false_ne_true)) s)

end arrived

/-! ## Counts and phases -/

/-- A phase is complete when somebody has arrived, as many as the count says or all live members for a count of 0, and the bytes
posted cover those expected (R345). -/
theorem Barrier.isDone_iff (b : Barrier) (live : Nat) : b.isDone live = true ↔
    0 < b.arr ∧ (b.cnt = 0 → live ≤ b.arr) ∧ (b.cnt ≠ 0 → b.cnt ≤ b.arr) ∧ b.exp ≤ b.posted := by
  rw [Barrier.isDone]
  by_cases all : b.cnt = 0
  · simp [all, and_assoc]
  · simp [all, and_assoc]

/-- A completion turns the phase bit. -/
theorem Barrier.complete_phase {b : Barrier} (bit : b.phase ≤ 1) : b.complete.phase ≤ 1 ∧ b.complete.phase ≠ b.phase := by
  change 1 - b.phase ≤ 1 ∧ 1 - b.phase ≠ b.phase
  omega

/-- A phase without an arrival is not complete. -/
theorem Barrier.isDone_complete (b : Barrier) (live : Nat) : b.complete.isDone live = false :=
  Bool.eq_false_iff.mpr fun done => absurd ((Barrier.isDone_iff _ _).mp done).1 (Nat.lt_irrefl 0)

/-! ## The instructions -/

/-- `bar` and `barx` run one body. -/
theorem exec_barrier (x : Gen) (s : State) : ∀ e ∈ ([(.bar x, false), (.barx x, true)] : List (Instr × Bool)),
    exec e.1 s = runStrand e.1.view (barBody x e.2) s := by
  intro e he
  simp only [List.mem_cons, List.not_mem_nil, or_false] at he
  rcases he with rfl | rfl <;> rfl

/-- Settles O29: an arrival by whether it is legal and completes the phase, the strand that has arrived by what it waits for, and
the counts of a barrier. -/
theorem groupBarriers : Obligations.GroupBarriers := by
  unfold Obligations.GroupBarriers
  refine ⟨fun s x e he admitted => ?runs, fun b cnt bytes live => ?counts⟩
  case runs =>
    rw [exec_barrier x s e he]
    intro codes n cnt bytes
    refine ⟨fun outside ready => ⟨fun legal flushed => ⟨fun changed => ?completes, fun same => ?waits⟩, fun illegal => ?illegal⟩,
      fun k ph y w waits why => ⟨fun complete => ?goesOn, fun pending faulted => ?copyFault, fun pending sound => ?stays⟩⟩
    case completes => exact runStrand_next admitted (barBody_completes outside ready legal flushed changed)
    case waits => exact runStrand_holdOn admitted (barBody_waits outside ready legal flushed same)
    case illegal => exact runStrand_raiseWord admitted (barBody_illegal outside ready illegal)
    case goesOn => exact runStrand_next admitted (barBody_goesOn e.2 waits why complete)
    case copyFault => exact runStrand_raiseKeep admitted (barBody_copyFault e.2 waits why pending faulted)
    case stays => exact runStrand_stallOn admitted (barBody_stays e.2 waits why pending sound)
  case counts =>
    exact ⟨rfl, rfl, rfl, rfl, b.isDone_iff live, rfl, rfl, rfl, rfl, Barrier.complete_phase, b.isDone_complete live⟩

end Sys2Proof.Machine
end

section
/-! SUPPORT. The shared end of the commands of the management block (R426, R431): when one is served, what its end leaves in MSTAT,
and which parts of the state the controller's words in the block leave alone. -/

namespace Sys2Proof.Machine

/-! ## Cleared memory -/

/-- The bytes kept by address: the others read 0. -/
theorem Memory.byte_filter_address {m : Memory} {lo : Nat} (p : Nat → Bool) (b : Nat) (wf : Memory.wfFrom lo m = true) :
    Memory.byte (m.filter fun e => p e.1) b = if p b then m.byte b else 0 := by
  induction m generalizing lo with
  | nil => exact (ite_self _).symm
  | cons e t ih =>
    obtain ⟨c, v⟩ := e
    simp only [Memory.wfFrom, Bool.and_eq_true] at wf
    obtain ⟨-, rest⟩ := wf
    have kept := Memory.wfFrom_filter (fun e => p e.1) rest
    rw [List.filter_cons]
    rcases Nat.lt_trichotomy b c with below | rfl | above
    · rw [Memory.byte_cons_lt _ _ below, ite_self]
      split
      · exact Memory.byte_cons_lt _ _ below
      · exact Memory.byte_below kept (by omega)
    · rw [Memory.byte_cons_eq]
      split
      · exact Memory.byte_cons_eq _ _ _
      · exact Memory.byte_below kept (by omega)
    · rw [Memory.byte_cons_gt _ _ above, ← ih rest]
      split
      · exact Memory.byte_cons_gt _ _ above
      · rfl

/-- A cleared range reads 0, every other byte what it was. -/
theorem Memory.byte_clear {m : Memory} (a n b : Nat) (wf : m.wf = true) :
    (m.clear a n).byte b = if a ≤ b ∧ b < a + n then 0 else m.byte b := by
  rw [Memory.clear, Memory.byte_filter_address (fun x => decide (x < a) || decide (a + n ≤ x)) b wf]
  by_cases inside : a ≤ b ∧ b < a + n
  · rw [if_pos inside, if_neg (by simp only [Bool.or_eq_true, decide_eq_true_eq]; omega)]
  · rw [if_neg inside, if_pos (by simp only [Bool.or_eq_true, decide_eq_true_eq]; omega)]

/-! ## Words of the controller -/

theorem State.setHome_hoops (s : State) (a n v : Nat) (who : Party) : (s.setHome a n v who).hoops = s.hoops := rfl

theorem State.setHome_cores (s : State) (a n v : Nat) (who : Party) : (s.setHome a n v who).cores = s.cores := rfl

/-- An increment by the device writes its word or nothing. -/
theorem State.deviceInc_eq (s : State) (pa : Nat) (who : Party) :
    s.deviceInc pa who = s ∨ s.deviceInc pa who = s.setHome pa 8 (s.mem.nat pa 8 + 1) who :=
  ite_eq_or_eq _ _ _

theorem State.incEvtl_hoops (s : State) : s.incEvtl.hoops = s.hoops := by
  rw [State.incEvtl]
  rcases s.deviceInc_eq (s.mgmttl + 8) (controllerParty s) with same | counts
  · rw [same]
  · rw [counts, State.setHome_hoops]

theorem State.incEvtl_cores (s : State) : s.incEvtl.cores = s.cores := by
  rw [State.incEvtl]
  rcases s.deviceInc_eq (s.mgmttl + 8) (controllerParty s) with same | counts
  · rw [same]
  · rw [counts, State.setHome_cores]

theorem State.settleCalls_mem (s : State) : s.settleCalls.mem = s.mem := by
  rw [State.settleCalls]
  split <;> rfl

/-- EVTL stands before MCMD and MSTAT, so its increment leaves them. -/
theorem State.incEvtl_command {s : State} (wf : s.mem.wf = true) :
    s.incEvtl.mem.nat (s.mgmttl + 16) 2 = s.mem.nat (s.mgmttl + 16) 2 := by
  rcases s.deviceInc_eq (s.mgmttl + 8) (controllerParty s) with same | counts
  · rw [State.incEvtl, same]
  · rw [State.incEvtl, counts]
    exact Memory.nat_setNat_outside _ _ _ _ _ wf (.inr (by omega))

/-- The end of a command writes MSTAT and clears MCMD (R426). -/
theorem State.doneBlock_command {s : State} {status : Nat} (wf : s.mem.wf = true) (code : status < 256) :
    (s.doneBlock status).mem.nat (s.mgmttl + 16) 2 = status * 256 := by
  rw [State.doneBlock, State.settleCalls_mem]
  refine (State.incEvtl_command (Memory.wf_setNat _ _ _ wf)).trans ((Memory.nat_setNat _ _ _ wf).trans ?_)
  exact Nat.mod_eq_of_lt (by omega)

/-! ## When a command is served -/

/-- The controller comes to the block with command `k`, and both firmware images are good. -/
def State.atBlock (s : State) (k : Nat) : Prop := s.serves .block = true ∧ s.recovery = false ∧ s.mcmd = k

theorem State.atBlock.command {s : State} {k : Nat} (h : s.atBlock k) : (s.mcmd == k) = true := by
  obtain ⟨-, -, command⟩ := h
  exact beq_iff_eq.mpr command

section serve
variable {s : State} {sel : State → Bool} {act : State → Option (Nat × State)}

theorem State.serveBlock_elsewhere (elsewhere : s.serves .block = false) : s.serveBlock sel act = s :=
  if_neg (by rw [elsewhere]; exact Bool.false_ne_true)

variable (serves : s.serves .block = true) (picks : sel s = true)
include serves picks

/-- With no good image every command but Stage is refused. -/
theorem State.serveBlock_recovery (recovery : s.recovery = true) (other : s.mcmd ≠ 8) : s.serveBlock sel act = s.doneBlock 1 :=
  (if_pos (by rw [serves, picks]; rfl)).trans (if_pos (by rw [recovery]; exact bne_iff_ne.mpr other))

variable (able : s.recovery = false ∨ s.mcmd = 8)
include able

theorem State.serveBlock_able : s.serveBlock sel act = match act s with
    | some r => r.2.doneBlock r.1
    | none => s := by
  refine (if_pos (by rw [serves, picks]; rfl)).trans (if_neg ?_)
  rcases able with good | stage
  · rw [good]
    exact Bool.false_ne_true
  · rw [stage, bne_self_eq_false, Bool.and_false]
    exact Bool.false_ne_true

theorem State.serveBlock_ends {status : Nat} {t : State} (answer : act s = some (status, t)) :
    s.serveBlock sel act = t.doneBlock status := by
  rw [State.serveBlock_able serves picks able, answer]

theorem State.serveBlock_waits (answer : act s = none) : s.serveBlock sel act = s := by
  rw [State.serveBlock_able serves picks able, answer]

end serve

/-- A command at the block ends with the status and the state that it answers. -/
theorem State.atBlock.ends {s t : State} {k status : Nat} {sel : State → Bool} {act : State → Option (Nat × State)}
    (h : s.atBlock k) (picks : sel s = true) (answer : act s = some (status, t)) :
    (.next (s.serveBlock sel act) : Result) = .next (t.doneBlock status) := by
  obtain ⟨serves, good, -⟩ := h
  exact congrArg Host.Outcome.next (State.serveBlock_ends serves picks (.inl good) answer)

end Sys2Proof.Machine
end

section
/-! SUPPORT. The commands of the management block (R351, R362, R363, R422, R427, R432, R433, Table 19-2): what each answers by its
arguments and the state. -/

namespace Sys2Proof.Machine

section commands
variable {s : State}

/-! ## Thresholds, modes, poison -/

/-- The migration threshold is below the clamp threshold, and that is at most 110 °C. -/
def State.thresholdsFit (s : State) : Prop :=
  degrees (s.marg 0) 0 < degrees (s.marg 0) 16 ∧ degrees (s.marg 0) 16 ≤ 110 * 16

theorem exec_thresholds_sets (h : s.atBlock 1) (fit : s.thresholdsFit) : exec .thresholds s =
    .next (State.doneBlock { s with tmig := degrees (s.marg 0) 0, tclamp := degrees (s.marg 0) 16 } 0) := by
  obtain ⟨below, most⟩ := fit
  refine h.ends (Bool.or_eq_true_iff.mpr (.inl h.command)) (congrArg some (if_pos ?_))
  rw [h.command, Bool.true_and, Bool.and_eq_true, decide_eq_true_eq, decide_eq_true_eq]
  exact ⟨below, most⟩

theorem exec_thresholds_refuses (h : s.atBlock 1) (unfit : ¬s.thresholdsFit) : exec .thresholds s = .next (s.doneBlock 2) := by
  refine h.ends (Bool.or_eq_true_iff.mpr (.inl h.command)) (congrArg some (if_neg ?_))
  rw [h.command, Bool.true_and, Bool.and_eq_true, decide_eq_true_eq, decide_eq_true_eq]
  exact unfit

/-- A code above 10 is no command (R427). -/
theorem exec_thresholds_unknown {k : Nat} (h : s.atBlock k) (unknown : 10 < k) : exec .thresholds s = .next (s.doneBlock 2) := by
  have command := beq_iff_eq.mp h.command
  refine h.ends (Bool.or_eq_true_iff.mpr (.inr (decide_eq_true (command ▸ unknown)))) (congrArg some (if_neg ?_))
  rw [command, beq_eq_false_iff_ne.mpr (by omega : k ≠ 1)]
  exact Bool.false_ne_true

theorem exec_deviceModes (h : s.atBlock 2) : exec .deviceModes s =
    .next (State.doneBlock { s with thermalHost := (s.marg 0).getLsbD 0, stagingNext := (s.marg 0).getLsbD 1 } 0) :=
  h.ends h.command rfl

theorem exec_timelinePoisonCommand (h : s.atBlock 3) {status : Nat} {t : State} (answer : s.poisonCommand = (status, t)) :
    exec .timelinePoisonCommand s = .next (t.doneBlock status) :=
  h.ends h.command (congrArg some answer)

/-- The arguments of Poison: an aligned canonical address and a context. -/
def State.poisonFits (s : State) : Prop := (s.marg 0).toNat % 8 = 0 ∧ canonical (s.marg 0) = true ∧ (s.marg 1).toNat < 64

theorem State.poisonFits_iff (s : State) : s.poisonFits ↔
    ¬(s.marg 0 &&& 7 != 0 || !canonical (s.marg 0) || decide (64 ≤ (s.marg 1).toNat)) = true := by
  have masked : (s.marg 0 &&& 7).toNat = (s.marg 0).toNat % 8 := toNat_and_mask (s.marg 0) (n := 3) (by omega)
  have aligned : s.marg 0 &&& 7 = 0 ↔ (s.marg 0).toNat % 8 = 0 := by
    rw [← BitVec.toNat_inj, masked]
    exact Iff.rfl
  simp only [State.poisonFits, ← aligned, Bool.or_eq_true, bne_iff_ne, Bool.not_eq_true', decide_eq_true_eq, not_or, not_not,
    Bool.not_eq_false, Nat.not_le, and_assoc]

theorem State.poisonCommand_unfit (unfit : ¬s.poisonFits) : s.poisonCommand = (2, s) :=
  if_pos (by rwa [State.poisonFits_iff, not_not] at unfit)

section poison
variable (fits : s.poisonFits)
include fits

theorem State.poisonCommand_inactive (inactive : (s.ctx (s.marg 1).toNat).state ≠ .active) : s.poisonCommand = (1, s) :=
  (if_neg (s.poisonFits_iff.mp fits)).trans (if_pos (bne_iff_ne.mpr inactive))

variable (active : (s.ctx (s.marg 1).toNat).state = .active)
include active

theorem State.poisonCommand_active : s.poisonCommand = match s.peekMap (s.marg 1).toNat (s.marg 0) with
    | some (pa, pte) => if pteSpace pte == 0 then (0, s.poison pa) else (2, s)
    | none => (2, s) :=
  (if_neg (s.poisonFits_iff.mp fits)).trans (if_neg (by rw [active]; exact Bool.false_ne_true))

theorem State.poisonCommand_poisons {pa : Nat} {pte : DWord} (maps : s.peekMap (s.marg 1).toNat (s.marg 0) = some (pa, pte))
    (device : pteSpace pte = 0) : s.poisonCommand = (0, s.poison pa) := by
  rw [State.poisonCommand_active fits active, maps]
  exact if_pos (beq_iff_eq.mpr device)

theorem State.poisonCommand_unmapped
    (elsewhere : ∀ pa pte, s.peekMap (s.marg 1).toNat (s.marg 0) = some (pa, pte) → pteSpace pte ≠ 0) :
    s.poisonCommand = (2, s) := by
  rw [State.poisonCommand_active fits active]
  split
  next pa pte maps => exact if_neg (mt beq_iff_eq.mp (elsewhere pa pte maps))
  next => rfl

end poison

/-! ## Frame owners -/

/-- The arguments of the frame-owner command: a frame of the memory, and one of three actions. -/
def State.frameFits (s : State) : Prop :=
  (s.marg 0).toNat % 65536 = 0 ∧ (s.marg 0).toNat < 2 ^ 39 ∧ (s.marg 1).toNat ≤ 2

theorem State.frameFits_iff (s : State) : s.frameFits ↔ s.frameArgsOk = true := by
  simp only [State.frameFits, State.frameArgsOk, Bool.and_eq_true, beq_iff_eq, decide_eq_true_eq, and_assoc]

/-- An event serves the frame-owner command whose action has its code. -/
theorem State.frameCommand_of (h : s.atBlock 4) (fits : s.frameFits) {action : Nat} (named : (s.marg 1).toNat = action) :
    s.frameCommand action = true := by
  rw [State.frameCommand, h.command, s.frameFits_iff.mp fits, named]
  exact beq_self_eq_true _

theorem exec_frameOwnerNone_unfit (h : s.atBlock 4) (unfit : ¬s.frameFits) :
    exec .frameOwnerNone s = .next (s.doneBlock 2) := by
  rw [State.frameFits_iff, Bool.not_eq_true] at unfit
  refine h.ends (Bool.or_eq_true_iff.mpr (.inr ?_)) (congrArg some (if_neg ?_))
  · rw [h.command, unfit]
    rfl
  · rw [unfit]
    exact Bool.false_ne_true

theorem exec_frameOwnerNone (h : s.atBlock 4) (fits : s.frameFits) (free : s.marg 1 = 0) :
    exec .frameOwnerNone s = .next ((s.freeFrame s.argFrame (s.ownerZf s.argFrame)).doneBlock 0) :=
  h.ends (Bool.or_eq_true_iff.mpr (.inl (State.frameCommand_of h fits (congrArg BitVec.toNat free))))
    (congrArg some (if_pos (s.frameFits_iff.mp fits)))

theorem exec_frameOwnerShared (h : s.atBlock 4) (fits : s.frameFits) (shared : s.marg 1 = 1) :
    exec .frameOwnerShared s = .next ((s.setOwner s.argFrame .shared).doneBlock 0) :=
  h.ends (State.frameCommand_of h fits (congrArg BitVec.toNat shared)) rfl

theorem exec_frameOwnerContext (h : s.atBlock 4) (fits : s.frameFits) (context : s.marg 1 = 2) :
    exec .frameOwnerContext s = .next ((s.assignFrame s.argFrame (bitsOf (s.marg 2) 0 6)).doneBlock 0) :=
  h.ends (State.frameCommand_of h fits (congrArg BitVec.toNat context)) rfl

/-- A frame that changes hands is zeroed before its new context owns it (R362). -/
theorem State.assignFrame_spec (f c : Nat) (wf : s.mem.wf = true) :
    (s.assignFrame f c).owner f = .ctx c ∧ (s.owned c f = true → (s.assignFrame f c).mem = s.mem) ∧
    (s.owned c f = false → ∀ b, (s.assignFrame f c).mem.byte b = if b / 65536 = f then 0 else s.mem.byte b) := by
  refine ⟨Assoc.getD_set _ _ _ _, fun own => ?kept, fun other b => ?zeroed⟩
  case kept =>
    rw [State.assignFrame, own]
    rfl
  case zeroed =>
    rw [State.assignFrame, other]
    refine (Memory.byte_clear (f * 65536) 65536 b wf).trans (if_congr ?_ rfl rfl)
    omega

/-! ## The trace ring -/

/-- The arguments of the trace-ring command: an aligned ring of 2^24 to 2^32 bytes inside the memory. -/
def State.ringFits (s : State) : Prop :=
  let p := (s.marg 0).toNat
  let n := (s.marg 1).toNat
  24 ≤ n ∧ n ≤ 32 ∧ p % 2 ^ n = 0 ∧ p + 2 ^ n ≤ 2 ^ 39

theorem State.ringFits_iff (s : State) : s.ringFits ↔
    ¬(decide ((s.marg 1).toNat < 24) || decide (32 < (s.marg 1).toNat) || (s.marg 0).toNat % 2 ^ (s.marg 1).toNat != 0 ||
      decide (2 ^ 39 < (s.marg 0).toNat + 2 ^ (s.marg 1).toNat)) = true := by
  simp only [State.ringFits, Bool.or_eq_true, bne_iff_ne, decide_eq_true_eq, not_or, not_not, Nat.not_lt, and_assoc]

/-- The state with the ring that the trace-ring command names. -/
def State.withRing (s : State) : State :=
  { s with traceBase := (s.marg 0).toNat, traceSize := 2 ^ (s.marg 1).toNat, traceMask := s.marg 2 }

theorem State.setTrace_unfit (unfit : ¬s.ringFits) : s.setTrace = (2, s) := by
  rw [State.ringFits_iff, not_not] at unfit
  simp only [State.setTrace, if_pos unfit]

section trace
variable (fits : s.ringFits)
include fits

theorem State.setTrace_fits : s.setTrace =
    (0, if s.traceBase == (s.marg 0).toNat && s.traceSize == 2 ^ (s.marg 1).toNat then s.withRing
      else { s.withRing with wptr := 0, mem := s.mem.clear (s.marg 0).toNat 24 }) := by
  simp only [State.setTrace, if_neg (s.ringFits_iff.mp fits), State.withRing]

theorem State.setTrace_same (base : s.traceBase = (s.marg 0).toNat) (size : s.traceSize = 2 ^ (s.marg 1).toNat) :
    s.setTrace = (0, s.withRing) :=
  (State.setTrace_fits fits).trans (congrArg _ (if_pos (Bool.and_eq_true_iff.mpr ⟨beq_iff_eq.mpr base, beq_iff_eq.mpr size⟩)))

/-- A ring at another place or of another size starts empty. -/
theorem State.setTrace_moved (moved : s.traceBase ≠ (s.marg 0).toNat ∨ s.traceSize ≠ 2 ^ (s.marg 1).toNat) :
    s.setTrace = (0, { s.withRing with wptr := 0, mem := s.mem.clear (s.marg 0).toNat 24 }) := by
  refine (State.setTrace_fits fits).trans (congrArg _ (if_neg fun same => ?_))
  obtain ⟨base, size⟩ := Bool.and_eq_true_iff.mp same
  rcases moved with other | other
  · exact other (beq_iff_eq.mp base)
  · exact other (beq_iff_eq.mp size)

end trace

theorem exec_traceRing (h : s.atBlock 5) {status : Nat} {t : State} (answer : s.setTrace = (status, t)) :
    exec .traceRing s = .next (t.doneBlock status) :=
  h.ends h.command (congrArg some answer)

end commands
end Sys2Proof.Machine
end

section
/-! SUPPORT. The hoop commands of the management block (R426, R433): a hoop on its way offline, and one that comes back. -/

namespace Sys2Proof.Machine

/-- A property of the thing with a number holds after a change of every thing that keeps the numbers, when the change gives it to
what has that number and the default has it. -/
theorem Assoc.getD_map_of {α : Type} {P : α → Prop} (m : Assoc α) (f : Nat × α → Nat × α) (k : Nat) {d : α}
    (keeps : ∀ e, (f e).1 = e.1) (given : ∀ v, P (f (k, v)).2) (default : P d) : P (Assoc.getD (m.map f) k d) := by
  induction m with
  | nil => exact default
  | cons e m ih =>
    obtain ⟨j, v⟩ := e
    simp only [Assoc.getD, List.map_cons, Assoc.get?, keeps] at ih ⊢
    split
    next same =>
      subst same
      exact given v
    next => exact ih

section hoops
variable {s : State} {h : Nat}

/-! ## Draining -/

theorem State.drainHoop_draining (draining : (s.hoop h).draining = true) : s.drainHoop h = s := if_pos draining

/-- Placement stops on a hoop that begins to drain, and its tasks are asked to stop (R433). -/
theorem State.drainHoop_begins (online : (s.hoop h).draining = false) :
    s.drainHoop h = (s.setHoop h { s.hoop h with draining := true }).stopAll forDrain (s.hoopTasks h) :=
  if_neg (by rw [online]; exact Bool.false_ne_true)

/-- A draining hoop that is not yet offline and has no task left. -/
def State.hoopDrained (s : State) (h : Nat) : Prop :=
  (s.hoop h).draining = true ∧ (s.hoop h).offline = false ∧ s.hoopTasks h = []

theorem State.hoopDrained_iff (s : State) (h : Nat) : s.hoopDrained h ↔
    ((s.hoop h).draining && !(s.hoop h).offline && (s.hoopTasks h).isEmpty) = true := by
  simp only [State.hoopDrained, Bool.and_eq_true, Bool.not_eq_true', List.isEmpty_iff, and_assoc]

theorem State.finishDrain_drained (done : s.hoopDrained h) : s.finishDrain h = s.hoopOff h :=
  if_pos ((s.hoopDrained_iff h).mp done)

theorem State.finishDrain_waits (early : ¬s.hoopDrained h) : s.finishDrain h = s :=
  if_neg (mt (s.hoopDrained_iff h).mpr early)

/-! ## Offline -/

/-- The state in which a hoop is offline and its residency entries are Free, HOFF and EVTL not yet written. -/
def State.hoopClosed (s : State) (h : Nat) : State :=
  let t := s.setHoop h { s.hoop h with offline := true, draining := true }
  { t with cores := t.cores.map fun (c : Nat × Core) => if hoopOf c.1 == h then (c.1, { c.2 with residency := [] }) else c }

theorem State.hoopOff_eq (s : State) (h : Nat) : s.hoopOff h =
    if (s.hoop h).offline then (s.hoopClosed h).putHoff else (s.hoopClosed h).putHoff.incEvtl := rfl

theorem State.hoopOff_hoops (s : State) (h : Nat) : (s.hoopOff h).hoops = (s.hoopClosed h).hoops := by
  rw [State.hoopOff_eq]
  split
  · rfl
  · rw [State.incEvtl_hoops]
    rfl

theorem State.hoopOff_cores (s : State) (h : Nat) : (s.hoopOff h).cores = (s.hoopClosed h).cores := by
  rw [State.hoopOff_eq]
  split
  · rfl
  · rw [State.incEvtl_cores]
    rfl

theorem State.offline_hoopOff (s : State) (h : Nat) : ((s.hoopOff h).hoop h).offline = true := by
  rw [State.hoop, State.hoopOff_hoops]
  exact congrArg Hoop.offline (State.hoop_setHoop s h _)

/-- The residency entries of the cores of a hoop that is offline are Free (R433). -/
theorem State.residency_hoopOff (s : State) {h c : Nat} (on : hoopOf c = h) : ((s.hoopOff h).core c).residency = [] := by
  rw [State.core, State.hoopOff_cores]
  refine Assoc.getD_map_of (P := fun x : Core => x.residency = []) _ _ c (fun e => ?_) (fun x => ?_) rfl
  · split <;> rfl
  · rw [if_pos (beq_iff_eq.mpr on)]

/-! ## The commands -/

/-- What HOOP_OFFLINE for hoop `h` answers: a bad action, a hoop that has drained, or nothing yet. -/
def hoopAnswer (h : Nat) (m : State) : Option (Nat × State) :=
  if m.marg 1 != 0 then some (2, m)
  else if (m.hoop h).offline || (m.hoopTasks h).isEmpty then some (0, m.hoopOff h)
  else none

/-- The hoop command with an action other than to go online. -/
def State.offlineCommand (m : State) : Bool := m.mcmd == 6 && (m.marg 1).toNat != 1

/-- HOOP_OFFLINE serves the hoop command in `m`, the state after the drains have been looked at. -/
def State.serveOffline (m : State) (h : Nat) : State := m.serveBlock State.offlineCommand (hoopAnswer h)

/-- HOOP_OFFLINE begins the drain of the hoop when the command says so, then looks at a hoop that drains. -/
theorem exec_hoopOffline (s : State) : exec .hoopOffline s =
    .next (((if s.serves .block && s.mcmd == 6 && s.marg 1 == 0 && !s.recovery then s.drainHoop s.argHoop else s).finishDrain
      s.arg.core).serveOffline s.argHoop) := rfl

theorem exec_hoopOffline_drains (at6 : s.atBlock 6) (offline : s.marg 1 = 0) :
    exec .hoopOffline s = .next (((s.drainHoop s.argHoop).finishDrain s.arg.core).serveOffline s.argHoop) := by
  obtain ⟨serves, good, command⟩ := at6
  rw [exec_hoopOffline, if_pos (by rw [serves, good, command, offline]; rfl)]

theorem exec_hoopOffline_looks (no : s.serves .block = false ∨ s.marg 1 ≠ 0) :
    exec .hoopOffline s = .next ((s.finishDrain s.arg.core).serveOffline s.argHoop) := by
  rw [exec_hoopOffline, if_neg]
  rcases no with elsewhere | other
  · rw [elsewhere]
    exact Bool.false_ne_true
  · rw [beq_eq_false_iff_ne.mpr other, Bool.and_false, Bool.false_and]
    exact Bool.false_ne_true

theorem hoopAnswer_unfit {m : State} (other : m.marg 1 ≠ 0) : hoopAnswer h m = some (2, m) := if_pos (bne_iff_ne.mpr other)

section offline
variable {m : State} (offline : m.marg 1 = 0)
include offline

theorem hoopAnswer_offline : hoopAnswer h m =
    if (m.hoop h).offline || (m.hoopTasks h).isEmpty then some (0, m.hoopOff h) else none :=
  if_neg (by rw [offline]; exact Bool.false_ne_true)

theorem hoopAnswer_gone (gone : (m.hoop h).offline = true ∨ m.hoopTasks h = []) : hoopAnswer h m = some (0, m.hoopOff h) :=
  (hoopAnswer_offline offline).trans (if_pos (by rwa [Bool.or_eq_true, List.isEmpty_iff]))

theorem hoopAnswer_busy (busy : ¬((m.hoop h).offline = true ∨ m.hoopTasks h = [])) : hoopAnswer h m = none :=
  (hoopAnswer_offline offline).trans (if_neg (by rwa [Bool.or_eq_true, List.isEmpty_iff]))

end offline

section still
variable {m : State} (still : m.atBlock 6) (other : m.marg 1 ≠ 1)
include still other

theorem State.atBlock.offlineCommand : m.offlineCommand = true := by
  have named : (m.marg 1).toNat ≠ 1 := fun one => other (BitVec.eq_of_toNat_eq one)
  exact Bool.and_eq_true_iff.mpr ⟨still.command, bne_iff_ne.mpr named⟩

theorem State.serveOffline_ends {status : Nat} {t : State} (answer : hoopAnswer h m = some (status, t)) :
    m.serveOffline h = t.doneBlock status := by
  have picks := still.offlineCommand other
  obtain ⟨serves, good, -⟩ := still
  exact State.serveBlock_ends (sel := State.offlineCommand) serves picks (.inl good) answer

theorem State.serveOffline_waits (answer : hoopAnswer h m = none) : m.serveOffline h = m := by
  have picks := still.offlineCommand other
  obtain ⟨serves, good, -⟩ := still
  exact State.serveBlock_waits (sel := State.offlineCommand) serves picks (.inl good) answer

end still

section online
variable (at6 : s.atBlock 6) (online : s.marg 1 = 1)
include at6 online

/-- HOOP_ONLINE serves the hoop command for action 1 by the verdict of the self-test (R433). -/
theorem exec_hoopOnline {status : Nat} {t : State} (answer : (if s.arg.pass then
      (0, (s.setHoop s.argHoop { s.hoop s.argHoop with offline := false, draining := false, errors := [] }).putHoff)
    else (1, s)) = (status, t)) : exec .hoopOnline s = .next (t.doneBlock status) := by
  refine at6.ends (Bool.and_eq_true_iff.mpr ⟨at6.command, ?_⟩) (congrArg some answer)
  rw [online]
  rfl

theorem exec_hoopOnline_passes (pass : s.arg.pass = true) : exec .hoopOnline s = .next
    ((s.setHoop s.argHoop { s.hoop s.argHoop with offline := false, draining := false, errors := [] }).putHoff.doneBlock 0) :=
  exec_hoopOnline at6 online (if_pos pass)

theorem exec_hoopOnline_fails (fail : s.arg.pass = false) : exec .hoopOnline s = .next (s.doneBlock 1) :=
  exec_hoopOnline at6 online (if_neg (by rw [fail]; exact Bool.false_ne_true))

end online

end hoops
end Sys2Proof.Machine
end

section
/-! SUPPORT. The link commands (R371, R380), the firmware commands (R431, R432) and the debug unlock (R416) of the management block,
and its commands together. -/

namespace Sys2Proof.Machine

/-! ## Ports -/

theorem State.portOpen_iff (s : State) (p : Nat) :
    s.portOpen p = true ↔ (s.port p).state = .up ∨ (s.port p).state = .degraded := by
  rw [State.portOpen]
  cases (s.port p).state <;> decide

theorem State.portTraining_iff (s : State) (p : Nat) :
    s.portTraining p = true ↔ (s.port p).state = .training ∨ (s.port p).state = .retrain := by
  rw [State.portTraining]
  cases (s.port p).state <;> decide

section links
variable {s : State} (h : s.atBlock 7)
include h

/-- The arguments of the link command: one of three ports, one of three actions. -/
def State.linkFits (s : State) : Prop := (s.marg 0).toNat ≤ 2 ∧ (s.marg 1).toNat ≤ 2

omit h in
theorem State.linkFits_iff (s : State) : s.linkFits ↔ s.linkArgsOk = true := by
  rw [State.linkFits, State.linkArgsOk, Bool.and_eq_true, decide_eq_true_eq, decide_eq_true_eq]

theorem exec_linkDisable_unfit (unfit : ¬s.linkFits) : exec .linkDisable s = .next (s.doneBlock 2) := by
  rw [State.linkFits_iff, Bool.not_eq_true] at unfit
  refine h.ends (Bool.or_eq_true_iff.mpr (.inr ?_)) (congrArg some (if_neg (Bool.eq_false_iff.mp unfit)))
  rw [h.command, unfit]
  rfl

variable (fits : s.linkFits)
include fits

/-- An event serves the link command whose action has its code. -/
theorem State.linkCommand_of {action : Nat} (named : (s.marg 1).toNat = action) : s.linkCommand action = true := by
  rw [State.linkCommand, h.command, s.linkFits_iff.mp fits, named]
  exact beq_self_eq_true _

theorem exec_linkDisable (disable : s.marg 1 = 0) :
    exec .linkDisable s = .next ((s.portDown (s.marg 0).toNat).doneBlock 0) :=
  h.ends (Bool.or_eq_true_iff.mpr (.inl (State.linkCommand_of h fits (congrArg BitVec.toNat disable))))
    (congrArg some (if_pos (s.linkFits_iff.mp fits)))

section enable
variable (enable : s.marg 1 = 1)
include enable

theorem exec_linkEnable_down (down : (s.port (s.marg 0).toNat).state = .down) :
    exec .linkEnable s = .next ((s.startTraining (s.marg 0).toNat).doneBlock 0) :=
  h.ends (State.linkCommand_of h fits (congrArg BitVec.toNat enable)) (congrArg some (if_pos (beq_iff_eq.mpr down)))

theorem exec_linkEnable_refuses (used : (s.port (s.marg 0).toNat).state ≠ .down) :
    exec .linkEnable s = .next (s.doneBlock 1) :=
  h.ends (State.linkCommand_of h fits (congrArg BitVec.toNat enable)) (congrArg some (if_neg (mt beq_iff_eq.mp used)))

end enable

variable (retrain : s.marg 1 = 2)
include retrain

theorem exec_linkRetrain_open (isOpen : s.portOpen (s.marg 0).toNat = true) :
    exec .linkRetrain s = .next ((s.retrain (s.marg 0).toNat).doneBlock 0) :=
  h.ends (State.linkCommand_of h fits (congrArg BitVec.toNat retrain)) (congrArg some (if_pos isOpen))

theorem exec_linkRetrain_refuses (closed : ¬s.portOpen (s.marg 0).toNat = true) :
    exec .linkRetrain s = .next (s.doneBlock 1) :=
  h.ends (State.linkCommand_of h fits (congrArg BitVec.toNat retrain)) (congrArg some (if_neg closed))

end links

/-! ## Stage -/

/-- The arguments of Stage: one of two firmwares, and an image inside the memory when it comes from there. -/
def State.stageFits (s : State) : Prop :=
  (s.marg 2).toNat ≤ 1 ∧ (s.stagingHost = true → (s.marg 0).toNat + (s.marg 1).toNat ≤ 2 ^ 39)

theorem State.stageFits_iff (s : State) : s.stageFits ↔
    ¬(decide (1 < (s.marg 2).toNat) || (s.stagingHost && decide (2 ^ 39 < (s.marg 0).toNat + (s.marg 1).toNat))) = true := by
  simp only [State.stageFits, Bool.or_eq_true, Bool.and_eq_true, decide_eq_true_eq, not_or, not_and, Nat.not_lt]

/-- The image that Stage reads goes to the slot that is not active. -/
def State.staged (s : State) : State :=
  let x := s.firmware (s.marg 2).toNat
  let image := (if s.stagingHost then s.mem else s.host).bytes (s.marg 0).toNat (s.marg 1).toNat
  let y : Firmware := if x.slotB then { x with a := image, staged := true } else { x with b := image, staged := true }
  { s with fw := Assoc.set s.fw (s.marg 2).toNat y }

section stage
variable {s : State}

theorem State.stageImage_unfit (unfit : ¬s.stageFits) : s.stageImage = some (2, s) := by
  rw [State.stageFits_iff, not_not] at unfit
  simp only [State.stageImage, if_pos unfit]

variable (fits : s.stageFits)
include fits

theorem State.stageImage_fits : s.stageImage =
    if !s.stagingHost && s.portTraining 0 then none
    else if !s.stagingHost && !s.portOpen 0 then some (1, s)
    else if !s.arg.pass then some (3, s)
    else some (0, s.staged) := by
  simp only [State.stageImage, if_neg (s.stageFits_iff.mp fits), State.staged]

section fromHost
variable (fromHost : s.stagingHost = false)
include fromHost

theorem State.stageImage_down (down : (s.port 0).state = .down) : s.stageImage = some (1, s) := by
  rw [State.stageImage_fits fits, fromHost, State.portTraining, State.portOpen, down]
  rfl

/-- Stage waits while the port to the host trains. -/
theorem State.stageImage_waits (trains : s.portTraining 0 = true) : s.stageImage = none := by
  rw [State.stageImage_fits fits, fromHost, trains]
  rfl

end fromHost

variable (reads : s.stagingHost = true ∨ s.portOpen 0 = true)
include reads

/-- Where the image can be read, its verification decides. -/
theorem State.stageImage_reads : s.stageImage = if !s.arg.pass then some (3, s) else some (0, s.staged) := by
  rw [State.stageImage_fits fits]
  rcases reads with memory | isOpen
  · rw [memory]
    rfl
  · have still : s.portTraining 0 = false := by
      rw [State.portOpen_iff] at isOpen
      rw [← Bool.not_eq_true, State.portTraining_iff]
      rcases isOpen with up | degraded
      · simp [up]
      · simp [degraded]
    rw [still, isOpen]
    simp

theorem State.stageImage_unverified (fail : s.arg.pass = false) : s.stageImage = some (3, s) := by
  rw [State.stageImage_reads fits reads, fail]
  rfl

theorem State.stageImage_stages (pass : s.arg.pass = true) : s.stageImage = some (0, s.staged) := by
  rw [State.stageImage_reads fits reads, pass]
  rfl

end stage

section execStage
variable {s : State} (serves : s.serves .block = true) (command : s.mcmd = 8)
include serves command

/-- Stage is served with good images and without. -/
theorem exec_stage_ends {status : Nat} {t : State} (answer : s.stageImage = some (status, t)) :
    exec .stage s = .next (t.doneBlock status) :=
  congrArg Host.Outcome.next (State.serveBlock_ends (sel := (·.mcmd == 8)) serves (beq_iff_eq.mpr command) (.inr command) answer)

theorem exec_stage_waits (answer : s.stageImage = none) : exec .stage s = .next s :=
  congrArg Host.Outcome.next (State.serveBlock_waits (sel := (·.mcmd == 8)) serves (beq_iff_eq.mpr command) (.inr command) answer)

end execStage

/-! ## Switch, debug unlock -/

section switch
variable {s : State}

theorem exec_switch (h : s.atBlock 9) {status : Nat} {t : State} (answer : s.switchImage = (status, t)) :
    exec .switch s = .next (t.doneBlock status) :=
  h.ends h.command (congrArg some answer)

theorem State.switchImage_unfit (unfit : 1 < (s.marg 0).toNat) : s.switchImage = (2, s) := by
  rw [State.switchImage]
  exact if_pos unfit

variable (fits : (s.marg 0).toNat ≤ 1)
include fits

theorem State.switchImage_unstaged (unstaged : (s.firmware (s.marg 0).toNat).staged = false) : s.switchImage = (1, s) := by
  simp only [State.switchImage, if_neg (Nat.not_lt.mpr fits), unstaged, Bool.not_false, if_true]

theorem State.switchImage_switches (staged : (s.firmware (s.marg 0).toNat).staged = true) : s.switchImage =
    (0, { s with
      fw := Assoc.set s.fw (s.marg 0).toNat
        { s.firmware (s.marg 0).toNat with slotB := !(s.firmware (s.marg 0).toNat).slotB, staged := false }
      stagingHost := s.stagingNext }) := by
  simp only [State.switchImage, if_neg (Nat.not_lt.mpr fits), staged, Bool.not_true, Bool.false_eq_true, if_false]

end switch

section unlock
variable {s : State}

/-- The token is signed and carries the nonce that the card gave. -/
def State.tokenFits (s : State) : Prop := s.arg.token.valid = true ∧ s.nonce = some s.arg.token.nonce

theorem State.tokenFits_iff (s : State) : s.tokenFits ↔ (s.arg.token.valid && s.nonce == some s.arg.token.nonce) = true := by
  rw [State.tokenFits, Bool.and_eq_true, beq_iff_eq]

theorem exec_debugUnlock (h : s.atBlock 10) (fits : s.tokenFits) :
    exec .debugUnlock s = .next ((s.unlock s.arg.token.dies).doneBlock 0) :=
  h.ends h.command (congrArg some (if_pos (s.tokenFits_iff.mp fits)))

theorem exec_debugUnlock_refuses (h : s.atBlock 10) (unfit : ¬s.tokenFits) :
    exec .debugUnlock s = .next (s.doneBlock 3) :=
  h.ends h.command (congrArg some (if_neg (mt s.tokenFits_iff.mpr unfit)))

/-- The state with the debug core of a die unlocked. -/
def State.unlockDie (s : State) (d : Nat) : State := s.setDie d { s.die d with dbg := { (s.die d).dbg with att := true } }

/-- Unlocking the dies of a list unlocks those and no other. -/
theorem State.att_unlockDies (ds : List Nat) (s : State) (d : Nat) :
    ((ds.foldl State.unlockDie s).die d).dbg.att = ((s.die d).dbg.att || ds.contains d) := by
  induction ds generalizing s with
  | nil => exact (Bool.or_false _).symm
  | cons e ds ih =>
    rw [List.foldl_cons, ih, List.contains_cons, ← Bool.or_assoc]
    by_cases same : d = e
    · rw [same, State.unlockDie, State.die_setDie, beq_self_eq_true, Bool.or_true]
    · rw [State.unlockDie, State.die_setDie_ne _ _ same, beq_eq_false_iff_ne.mpr same, Bool.or_false]

theorem State.att_unlock (s : State) (ds : BitVec 4) {d : Nat} (die : d < 4) :
    ((s.unlock ds).die d).dbg.att = ((s.die d).dbg.att || ds.getLsbD d) := by
  refine (State.att_unlockDies ((List.range 4).filter fun d => ds.getLsbD d) s d).trans (congrArg _ ?_)
  rw [Bool.eq_iff_iff, List.contains_iff_mem, List.mem_filter, List.mem_range]
  exact and_iff_right die

end unlock

/-! ## Recovery -/

theorem State.recovery_refuses {s : State} {k : Nat} {sel : State → Bool} (act : State → Option (Nat × State))
    (serves : s.serves .block = true) (recovery : s.recovery = true) (command : s.mcmd = k) (other : k ≠ 8)
    (picks : sel s = true) : (.next (s.serveBlock sel act) : Result) = .next (s.doneBlock 1) :=
  congrArg Host.Outcome.next (State.serveBlock_recovery serves picks recovery (command ▸ other))

/-- With no good image the commands that are no Stage are refused (R431). -/
theorem exec_recovery {s : State} (serves : s.serves .block = true) (recovery : s.recovery = true) :
    ∀ e ∈ ([(1, .thresholds), (2, .deviceModes), (3, .timelinePoisonCommand), (5, .traceRing), (9, .switch), (10, .debugUnlock)] :
      List (Nat × Instr)), s.mcmd = e.1 → exec e.2 s = .next (s.doneBlock 1) := by
  simp only [List.forall_mem_cons, List.not_mem_nil, false_implies, implies_true, and_true]
  refine ⟨fun c => ?thresholds, fun c => ?_, fun c => ?_, fun c => ?_, fun c => ?_, fun c => ?_⟩
  case thresholds =>
    exact State.recovery_refuses _ serves recovery c (by decide) (Bool.or_eq_true_iff.mpr (.inl (beq_iff_eq.mpr c)))
  all_goals exact State.recovery_refuses _ serves recovery c (by decide) (beq_iff_eq.mpr c)

/-- Settles O56: each event ends its command with the status and the state that its lemmas give for the arguments, the drain of a
hoop and the frames and dies changed being characterised on their own. -/
theorem managementCommands : Obligations.ManagementCommands := by
  unfold Obligations.ManagementCommands
  intro s a cmd still ends p open_
  refine ⟨fun h => ⟨fun below most => exec_thresholds_sets h ⟨below, most⟩, exec_thresholds_refuses h⟩,
    fun k => exec_thresholds_unknown, exec_deviceModes, fun h => ?poison, fun h => ?frames, State.assignFrame_spec,
    fun h => ?ring, fun h => ?hoop, fun elsewhere same => ?looks, fun h => ?drains, fun h => ?link, fun serves command => ?stage,
    fun h => ?switch, fun h => ⟨fun valid nonce => exec_debugUnlock h ⟨valid, nonce⟩, exec_debugUnlock_refuses h⟩,
    fun ds d => s.att_unlock ds, exec_recovery, fun t status => State.doneBlock_command⟩
  case poison =>
    intro c limits
    exact ⟨fun unfit => exec_timelinePoisonCommand h (State.poisonCommand_unfit unfit),
      fun fits inactive => exec_timelinePoisonCommand h (State.poisonCommand_inactive fits inactive),
      fun fits active pa pte maps device => exec_timelinePoisonCommand h (State.poisonCommand_poisons fits active maps device),
      fun fits active elsewhere => exec_timelinePoisonCommand h (State.poisonCommand_unmapped fits active elsewhere)⟩
  case frames =>
    exact ⟨exec_frameOwnerNone_unfit h, exec_frameOwnerNone h, exec_frameOwnerShared h, exec_frameOwnerContext h⟩
  case ring =>
    intro n limits t
    exact ⟨fun unfit => exec_traceRing h (State.setTrace_unfit unfit),
      fun fits base size => exec_traceRing h (State.setTrace_same fits base size),
      fun fits moved => exec_traceRing h (State.setTrace_moved fits moved)⟩
  case hoop =>
    intro hoop
    refine ⟨fun offline idle named => ?offline, fun other another idle named unlike => ?unfit, exec_hoopOnline_passes h,
      exec_hoopOnline_fails h⟩
    case offline =>
      have run := exec_hoopOffline_drains h offline
      have stays : (s.drainHoop hoop |>.finishDrain s.arg.core).marg 1 ≠ 1 := by
        rw [named]
        decide
      exact ⟨fun gone => run.trans (congrArg Host.Outcome.next (State.serveOffline_ends idle stays (hoopAnswer_gone named gone))),
        fun busy => run.trans (congrArg Host.Outcome.next (State.serveOffline_waits idle stays (hoopAnswer_busy named busy)))⟩
    case unfit =>
      exact (exec_hoopOffline_looks (.inr other)).trans
        (congrArg Host.Outcome.next (State.serveOffline_ends idle unlike (hoopAnswer_unfit named)))
  case looks =>
    exact (exec_hoopOffline_looks (.inl elsewhere)).trans (congrArg Host.Outcome.next (State.serveBlock_elsewhere same))
  case drains =>
    exact ⟨State.drainHoop_draining, State.drainHoop_begins,
      fun draining online gone => State.finishDrain_drained ⟨draining, online, gone⟩, State.finishDrain_waits,
      s.offline_hoopOff h, fun c => s.residency_hoopOff⟩
  case link =>
    intro x limits
    exact ⟨exec_linkDisable_unfit h, exec_linkDisable h, exec_linkEnable_down h, exec_linkEnable_refuses h,
      fun fits retrain isOpen => exec_linkRetrain_open h fits retrain ((s.portOpen_iff p).mpr isOpen),
      fun fits retrain closed => exec_linkRetrain_refuses h fits retrain (mt (s.portOpen_iff p).mp closed)⟩
  case stage =>
    intro k n x image y limits
    have reads (r : s.stagingHost = true ∨ open_ 0) : s.stagingHost = true ∨ s.portOpen 0 = true :=
      r.imp_right (s.portOpen_iff 0).mpr
    exact ⟨fun unfit => exec_stage_ends serves command (State.stageImage_unfit unfit),
      fun fits host down => exec_stage_ends serves command (State.stageImage_down fits host down),
      fun fits r fail => exec_stage_ends serves command (State.stageImage_unverified fits (reads r) fail),
      fun fits r pass => exec_stage_ends serves command (State.stageImage_stages fits (reads r) pass),
      fun fits host trains => exec_stage_waits serves command (State.stageImage_waits fits host ((s.portTraining_iff 0).mpr trains))⟩
  case switch =>
    exact ⟨fun unfit => exec_switch h (State.switchImage_unfit unfit),
      fun fits unstaged => exec_switch h (State.switchImage_unstaged fits unstaged),
      fun fits staged => exec_switch h (State.switchImage_switches fits staged)⟩

end Sys2Proof.Machine
end

section
/-! SUPPORT. Step marks, trace marks and the cycle count (R410 to R412, Table 13-3): the cases in which a step mark does not
complete. -/

namespace Sys2Proof.Machine

theorem cpmarkBegBody_held {x : Gen} {s : State} (ready : s.ready [] (some x.d.toNat) = true) (within : s.curTask.step ≠ none) :
    cpmarkBegBody x s = .error (.trap { cause := 9 }) s := by
  rw [cpmarkBegBody, bind_ok (operands_ok ready), popCodes_nil, bind_ok (get_apply _)]
  simp only [Option.isSome_iff_ne_none.mpr within, if_true]
  rfl

section finish
variable {x : Gen} {s : State} (ready : s.ready [x.a.toNat] none = true)
include ready

theorem cpmarkEndBody_outside (outside : (s.popCodes [x.a.toNat]).curTask.step = none) :
    cpmarkEndBody x s = .error (.trap { cause := 9 }) (s.popCodes [x.a.toNat]) := by
  rw [cpmarkEndBody, bind_ok (operands_ok ready), bind_ok (get_apply _), outside]
  rfl

variable {k : Step} (within : (s.popCodes [x.a.toNat]).curTask.step = some k)
include within

theorem cpmarkEndBody_misaligned (misaligned : s.source x.a.toNat &&& 7 ≠ 0) :
    cpmarkEndBody x s = .error (.trap { cause := 13, value := some (s.source x.a.toNat) }) (s.popCodes [x.a.toNat]) := by
  have fails : (s.source x.a.toNat != 0 && s.source x.a.toNat &&& 7 != 0) = true := by
    have present : s.source x.a.toNat ≠ 0 := fun zero => misaligned (by rw [zero]; rfl)
    rw [bne_iff_ne.mpr present, bne_iff_ne.mpr misaligned]
    rfl
  rw [cpmarkEndBody, bind_ok (operands_ok ready), bind_ok (get_apply _)]
  simp only [List.map_cons, List.map_nil, List.headD_cons, within, fails, if_true]
  rfl

theorem cpmarkEndBody_noncanonical (aligned : s.source x.a.toNat &&& 7 = 0) (present : s.source x.a.toNat ≠ 0)
    (outside : canonical (s.source x.a.toNat) = false) :
    cpmarkEndBody x s = .error (.trap { cause := 17, value := some (s.source x.a.toNat) }) (s.popCodes [x.a.toNat]) := by
  have passes : (s.source x.a.toNat != 0 && s.source x.a.toNat &&& 7 != 0) = false := by
    rw [aligned, bne_self_eq_false, Bool.and_false]
  have fails : (s.source x.a.toNat != 0 && !canonical (s.source x.a.toNat)) = true := by
    rw [bne_iff_ne.mpr present, outside]
    rfl
  rw [cpmarkEndBody, bind_ok (operands_ok ready), bind_ok (get_apply _)]
  simp only [List.map_cons, List.map_nil, List.headD_cons, within, passes, fails, Bool.false_eq_true, if_false, if_true]
  rfl

/-- With 16 walks waiting the mark is written, and the strand holds at its instruction until one has left (R410). -/
theorem cpmarkEndBody_full (aligned : s.source x.a.toNat &&& 7 = 0)
    (fits : s.source x.a.toNat = 0 ∨ canonical (s.source x.a.toNat) = true)
    (full : 16 ≤ ((s.popCodes [x.a.toNat]).die (dieOf (s.popCodes [x.a.toNat]).curTask.core)).walks.length) :
    cpmarkEndBody x s = .error (.stall .walkQueue true)
      (let p := s.popCodes [x.a.toNat]
       let m := if p.curStrand.held.isNone then (p.issue p.cur).stepMark (p.issue p.cur).cur true else p
       m.updCur fun d => { d with held := some .done }) := by
  have address : (s.source x.a.toNat != 0 && s.source x.a.toNat &&& 7 != 0) = false := by
    rw [aligned, bne_self_eq_false, Bool.and_false]
  have half : (s.source x.a.toNat != 0 && !canonical (s.source x.a.toNat)) = false := by
    rcases fits with zero | inside
    · rw [zero]
      rfl
    · rw [inside, Bool.not_true, Bool.and_false]
  rw [cpmarkEndBody, bind_ok (operands_ok ready), bind_ok (get_apply _)]
  simp only [List.map_cons, List.map_nil, List.headD_cons, within, address, half, Bool.false_eq_true, if_false, if_pos full]
  cases (s.popCodes [x.a.toNat]).curStrand.held <;> rfl

end finish

/-- Settles O15: each instruction runs its body, whose lemmas give its mark, its wait for the walk queue and its traps. -/
theorem stepMarks : Obligations.StepMarks := by
  unfold Obligations.StepMarks
  intro s x h y
  refine ⟨fun admitted ready => ⟨fun outside => ?begins, fun within => ?nested⟩, fun admitted ready =>
    ⟨fun k within aligned fits room => ?ends, fun k within aligned fits full => ?waits, fun outside => ?none,
      fun k within misaligned => ?misaligned, fun k within aligned present outside => ?noncanonical⟩,
    fun admitted ready => ?packet, fun e form admitted ready => ?count⟩
  case begins => exact runStrand_next admitted (cpmarkBegBody_ok ready outside)
  case nested => exact runStrand_raiseWord admitted (cpmarkBegBody_held ready within)
  case ends => exact runStrand_next admitted (cpmarkEndBody_ok ready rfl within aligned fits room)
  case waits => exact runStrand_holdOn admitted (cpmarkEndBody_full ready within aligned fits full)
  case none => exact runStrand_raiseWord admitted (cpmarkEndBody_outside ready outside)
  case misaligned => exact runStrand_raise admitted (cpmarkEndBody_misaligned ready within misaligned)
  case noncanonical => exact runStrand_raise admitted (cpmarkEndBody_noncanonical ready within aligned present outside)
  case packet => exact runStrand_next admitted (tmarkBody_ok ready)
  case count =>
    simp only [List.mem_cons, List.not_mem_nil, or_false] at form
    rcases form with rfl | rfl
    · exact runStrand_next admitted (ccntBody_ok ready)
    · exact runStrand_next admitted (ccntBody_ok ready)

end Sys2Proof.Machine
end

section
/-! SUPPORT. The events of a port (R370, R371, R378, R380, Table 16-5) and the time that comes over one (R379): what each leaves,
by the state of the port, the partner's number and the time that has passed. -/

namespace Sys2Proof.Machine

section ports
variable {s : State}

/-! ## Training -/

theorem exec_linkTrained (isPort : s.arg.port.toNat ≤ 2) (legal : s.arg.width.toNat ∈ [1, 2, 4, 8, 16]) :
    exec .linkTrained s = .next (s.trained s.arg.port.toNat s.arg.width s.arg.partner s.arg.pass) := by
  refine congrArg Host.Outcome.next (if_pos ?_)
  rw [decide_eq_true isPort, legalWidth, List.contains_iff_mem.mpr legal]
  rfl

theorem trainedState_eq (w : BitVec 5) : trainedState w = if w = 16 then .up else .degraded := by
  simp only [trainedState, beq_iff_eq]

/-- R371 lets a peer port train. -/
theorem State.mayTrain_iff (s : State) (partner : BitVec 4) (valid : Bool) :
    s.mayTrain partner valid = true ↔ s.cnv = true ∧ valid = true ∧ partner ≠ s.cardno := by
  rw [State.mayTrain, Bool.and_eq_true, Bool.and_eq_true, bne_iff_ne, and_assoc]

section trained
variable {p : Nat} (w : BitVec 5) (partner : BitVec 4) (valid : Bool)

theorem State.trained_retrain (retrain : (s.port p).state = .retrain) :
    s.trained p w partner valid = s.setPort p { s.port p with state := trainedState w, width := w } := by
  simp only [State.trained, retrain]

variable (training : (s.port p).state = .training)
include training

theorem State.trained_host (host : p = 0) :
    s.trained p w partner valid = s.setPort p { s.port p with state := trainedState w, width := w } := by
  simp only [State.trained, training, if_pos (beq_iff_eq.mpr host)]

variable (peer : p ≠ 0)
include peer

/-- A peer port takes its role from the card numbers, and CARDNO takes effect (R370, R371). -/
theorem State.trained_peer (may : s.mayTrain partner valid = true) : s.trained p w partner valid =
    ({ s with cardUsed := s.cardno }.setPort p { s.port p with
      state := trainedState w, width := w, role := s.cardno < partner, card := s.cardno, pcard := partner }).checkTiming := by
  simp only [State.trained, training, if_neg (mt beq_iff_eq.mp peer), if_pos may]

theorem State.trained_forbidden (forbidden : ¬s.mayTrain partner valid = true) :
    s.trained p w partner valid = s.portDown p := by
  simp only [State.trained, training, if_neg (mt beq_iff_eq.mp peer), if_neg forbidden]

end trained

theorem exec_linkTrainingTimeout_late (isPort : s.arg.port.toNat ≤ 2) (trains : s.portTraining s.arg.port.toNat = true)
    (late : (s.port s.arg.port.toNat).since + 120000000 ≤ s.cycle) :
    exec .linkTrainingTimeout s = .next (s.portDown s.arg.port.toNat) := by
  refine congrArg Host.Outcome.next (if_pos ?_)
  rw [decide_eq_true isPort, trains, decide_eq_true late]
  rfl

theorem exec_surpriseRemoval (isPort : s.arg.port.toNat ≤ 2) :
    exec .surpriseRemoval s = .next (s.portDown s.arg.port.toNat) :=
  congrArg Host.Outcome.next (if_pos isPort)

/-! ## Errors -/

theorem State.setPort_setPort (s : State) (p : Nat) (x y : Port) : (s.setPort p x).setPort p y = s.setPort p y := by
  simp only [State.setPort, Assoc.set_set]

theorem exec_linkUncorrectableError (isOpen : s.portOpen s.arg.port.toNat = true) : exec .linkUncorrectableError s =
    .next ((s.setPort s.arg.port.toNat { s.port s.arg.port.toNat with
      state := .retrain, width := 0, since := s.cycle
      uncorr := satErrors (s.port s.arg.port.toNat).uncorr }).failPort s.arg.port.toNat) := by
  refine congrArg Host.Outcome.next ((if_pos isOpen).trans ?_)
  rw [State.retrain, State.setPort_setPort, State.port_setPort]

theorem exec_linkCorrectableError (isPort : s.arg.port.toNat ≤ 2) (used : (s.port s.arg.port.toNat).state ≠ .down) :
    exec .linkCorrectableError s = .next (s.setPort s.arg.port.toNat
      { s.port s.arg.port.toNat with corr := satErrors (s.port s.arg.port.toNat).corr }) := by
  refine congrArg Host.Outcome.next (if_pos ?_)
  rw [decide_eq_true isPort, bne_iff_ne.mpr used]
  rfl

end ports

/-! ## Time -/

theorem State.timingPort_eq (s : State) : s.timingPort = if s.cardUsed = 0 then 0 else 1 := by
  simp only [State.timingPort, beq_iff_eq]

section time
variable {s : State} {t : Nat}

section slew

theorem State.slew_early (early : ¬s.slewAt + 1024 ≤ s.cycle) : s.slew t = s := if_pos (Nat.not_le.mp early)

theorem State.slew_same (same : s.cycle = t) : s.slew t = s := by
  rw [State.slew, if_neg (c := s.cycle < t) (by omega), if_neg (c := t < s.cycle) (by omega), ite_self]

variable (due : s.slewAt + 1024 ≤ s.cycle)
include due

theorem State.slew_behind (behind : s.cycle < t) : s.slew t = { s with cycle := s.cycle + 1, slewAt := s.cycle } :=
  (if_neg (Nat.not_lt.mpr due)).trans (if_pos behind)

theorem State.slew_ahead (ahead : t < s.cycle) : s.slew t = { s with lag := 1, slewAt := s.cycle } :=
  (if_neg (Nat.not_lt.mpr due)).trans ((if_neg (Nat.not_lt.mpr (Nat.le_of_lt ahead))).trans (if_pos ahead))

end slew

/-- The counter is loaded by the first time that comes while every context is Free. -/
def State.loadsTime (s : State) : Prop := s.timed = false ∧ ∀ c ∈ s.contexts, c.2.state = .free

theorem State.loadsTime_iff (s : State) :
    s.loadsTime ↔ (!s.timed && s.contexts.all fun c => c.2.state == .free) = true := by
  rw [State.loadsTime, Bool.and_eq_true, Bool.not_eq_true', List.all_eq_true]
  simp only [beq_iff_eq]

variable (isOpen : s.portOpen s.timingPort = true)
include isOpen

theorem State.receiveTime_loads (loads : s.loadsTime) :
    s.receiveTime t = { s with cycle := t, timed := true, sync := true } := by
  rw [State.loadsTime_iff] at loads
  rw [State.receiveTime, isOpen, if_pos loads]
  rfl

theorem State.receiveTime_slews (later : ¬s.loadsTime) :
    s.receiveTime t = { s.slew t with sync := (s.slew t).sync || nearTime (s.slew t).cycle t } := by
  rw [State.loadsTime_iff] at later
  rw [State.receiveTime, isOpen, if_neg later]
  rfl

end time

/-- Settles O52: a trained port by its state and by what R371 allows, a port that goes Down by one operation, and the counter by
whether it is loaded or slewed. -/
theorem portEvents : Obligations.PortEvents := by
  unfold Obligations.PortEvents
  intro s p x open_ down state may
  have named : trainedState s.arg.width = state := trainedState_eq _
  refine ⟨fun isPort legal => ?trained, fun isPort trains late => ?timeout, exec_surpriseRemoval, fun isOpen => ?uncorrectable,
    fun isPort used => exec_linkCorrectableError isPort used, fun isOpen => ?time⟩
  case trained =>
    rw [exec_linkTrained isPort legal, ← named]
    refine ⟨fun retrain => congrArg _ (State.trained_retrain _ _ _ retrain),
      fun training host => congrArg _ (State.trained_host _ _ _ training host),
      fun training peer may => congrArg _ (State.trained_peer _ _ _ training peer ((s.mayTrain_iff _ _).mpr may)),
      fun training peer forbidden =>
        congrArg _ (State.trained_forbidden _ _ _ training peer (mt (s.mayTrain_iff _ _).mp forbidden))⟩
  case timeout => exact exec_linkTrainingTimeout_late isPort ((s.portTraining_iff p).mpr trains) late
  case uncorrectable => exact exec_linkUncorrectableError ((s.portOpen_iff p).mpr isOpen)
  case time =>
    rw [← s.timingPort_eq, ← State.portOpen_iff] at isOpen
    refine ⟨fun loads => congrArg _ (State.receiveTime_loads isOpen loads), fun later due behind => ?behind,
      fun later due ahead => ?ahead, fun later still => ?still⟩
    all_goals refine congrArg Host.Outcome.next ((State.receiveTime_slews isOpen later).trans ?_)
    case behind => rw [State.slew_behind due behind]; rfl
    case ahead => rw [State.slew_ahead due ahead]; rfl
    case still =>
      have stays : s.slew s.arg.time.toNat = s := still.elim State.slew_early State.slew_same
      rw [stays]
      rfl

end Sys2Proof.Machine
end

section
/-! SUPPORT. Monitoring (R19, R428, R429, R431, Tables 19-3, 19-4): the samples of the sensors and the throttle states, the patrol
scrub, the boot and the attestation. -/

namespace Sys2Proof.Machine

/-! ## Temperatures -/

/-- The 16 sensors of a logic layer. -/
def State.layerSensors (s : State) (k : Nat) : List DWord := (List.range 16).map fun i => s.sensor (k / 2) (16 * (k % 2) + i)

theorem State.mem_layerSensors {s : State} {k : Nat} {v : DWord} :
    v ∈ s.layerSensors k ↔ ∃ i, i < 16 ∧ s.sensor (k / 2) (16 * (k % 2) + i) = v := by
  simp only [State.layerSensors, List.mem_map, List.mem_range]

/-- The temperature of a layer is the largest of its valid sensors' (R428). -/
theorem State.layerTemp_eq (s : State) (k : Nat) :
    s.layerTemp k = (((s.layerSensors k).filter fun v => v.getLsbD 16).map fun v => degrees v 0).max? := by
  rw [State.layerTemp, State.layerSensors]
  generalize List.filter _ _ = valid
  cases valid with
  | nil => rfl
  | cons v vs =>
    rw [List.map_cons, List.max?_cons', List.foldl_map]
    exact List.foldl_hom (f := some) (g₁ := fun m v => max m (degrees v 0)) (fun _ _ => rfl)

section temperature
variable {s : State} {k : Nat}

theorem State.layerTemp_some {t : Int} (valid : s.layerTemp k = some t) :
    (∃ i, i < 16 ∧ (s.sensor (k / 2) (16 * (k % 2) + i)).getLsbD 16 = true ∧
      degrees (s.sensor (k / 2) (16 * (k % 2) + i)) 0 = t) ∧
    (∀ i, i < 16 → (s.sensor (k / 2) (16 * (k % 2) + i)).getLsbD 16 = true →
      degrees (s.sensor (k / 2) (16 * (k % 2) + i)) 0 ≤ t) := by
  rw [State.layerTemp_eq, List.max?_eq_some_iff] at valid
  obtain ⟨among, largest⟩ := valid
  refine ⟨?_, fun i inside on => largest _ ?_⟩
  · obtain ⟨v, listed, rfl⟩ := List.mem_map.mp among
    obtain ⟨sensed, on⟩ := List.mem_filter.mp listed
    obtain ⟨i, inside, rfl⟩ := State.mem_layerSensors.mp sensed
    exact ⟨i, inside, on, rfl⟩
  · exact List.mem_map.mpr ⟨_, List.mem_filter.mpr ⟨State.mem_layerSensors.mpr ⟨i, inside, rfl⟩, on⟩, rfl⟩

theorem State.layerTemp_none (invalid : s.layerTemp k = none) {i : Nat} (inside : i < 16) :
    (s.sensor (k / 2) (16 * (k % 2) + i)).getLsbD 16 = false := by
  rw [State.layerTemp_eq, List.max?_eq_none_iff, List.map_eq_nil_iff, List.filter_eq_nil_iff] at invalid
  exact Bool.not_eq_true _ ▸ invalid _ (State.mem_layerSensors.mpr ⟨i, inside, rfl⟩)

end temperature

/-! ## Throttle states (Table 19-4) -/

section throttle
variable (x : Layer) (tmig tclamp : Int) (now : Nat)

/-- A layer without a valid sensor is held in Clamp. -/
theorem Layer.sample_none : (x.sample tmig tclamp now none).state = .clamp := by
  simp only [Layer.sample]
  cases named : x.state
  case clamp => exact named
  all_goals rfl

variable {x tmig tclamp now} {t : Int}

theorem Layer.sample_normal (normal : x.state = .normal) :
    (x.sample tmig tclamp now (some t)).state = if tmig ≤ t then .migrate else .normal := by
  simp only [Layer.sample, normal]
  split
  · rfl
  · exact normal

theorem Layer.sample_clamps (migrate : x.state = .migrate) (hot : tclamp ≤ t) :
    x.sample tmig tclamp now (some t) = { state := .clamp, point := 1, since := now } := by
  simp only [Layer.sample, migrate, if_pos hot]

theorem Layer.sample_migrate (migrate : x.state = .migrate) (below : t < tclamp) :
    (x.sample tmig tclamp now (some t)).state = if t < tmig - 5 * 16 then .normal else .migrate := by
  simp only [Layer.sample, migrate, if_neg (Int.not_le.mpr below)]
  by_cases cool : t < tmig - 5 * 16
  · rw [if_pos cool]
    exact congrArg Layer.state (if_pos cool)
  · rw [if_neg cool]
    exact (congrArg Layer.state (if_neg cool)).trans migrate

theorem Layer.sample_cools (clamp : x.state = .clamp) (cool : t < tclamp - 5 * 16) :
    (x.sample tmig tclamp now (some t)).state = .migrate := by
  simp only [Layer.sample, clamp]
  exact congrArg Layer.state (if_pos cool)

theorem Layer.sample_stays (clamp : x.state = .clamp) (hot : tclamp - 5 * 16 ≤ t) :
    x.sample tmig tclamp now (some t) = x := by
  simp only [Layer.sample, clamp]
  exact if_neg (Int.not_lt.mpr hot)

end throttle

/-! ## A layer's sample -/

/-- Layer `k` after its sample. -/
def State.nextLayer (s : State) (k : Nat) : Layer := (s.layer k).sample s.tmig s.tclamp s.cycle (s.layerTemp k)

/-- The state in which the new throttle state of layer `k` is shown and counted. -/
def State.showLayer (s : State) (k : Nat) : State := ((s.setLayer k (s.nextLayer k)).putLstate).incEvtl

theorem State.thermalHost_incEvtl (s : State) : s.incEvtl.thermalHost = s.thermalHost := by
  rw [State.incEvtl]
  rcases s.deviceInc_eq (s.mgmttl + 8) (controllerParty s) with same | counts
  · rw [same]
  · rw [counts]
    rfl

theorem State.thermalHost_showLayer (s : State) (k : Nat) : (s.showLayer k).thermalHost = s.thermalHost :=
  State.thermalHost_incEvtl _

section layer
variable {s : State} {k : Nat}

theorem State.sampleLayer_same (same : (s.nextLayer k).state = (s.layer k).state) : s.sampleLayer k = s :=
  if_pos (beq_iff_eq.mpr same)

/-- A change is shown and counted; one to a hotter state in the hardware mode stops the layer's tasks (R429). -/
theorem State.sampleLayer_changes (changes : (s.nextLayer k).state ≠ (s.layer k).state) : s.sampleLayer k =
    if (s.layer k).state.code < (s.nextLayer k).state.code && !s.thermalHost then
      (s.showLayer k).stopAll forMigration ((s.showLayer k).layerTasks k) else s.showLayer k := by
  rw [← s.thermalHost_showLayer k]
  exact if_neg (mt beq_iff_eq.mp changes)

theorem State.sampleLayer_shows (changes : (s.nextLayer k).state ≠ (s.layer k).state)
    (stays : s.thermalHost = true ∨ (s.nextLayer k).state.code < (s.layer k).state.code) :
    s.sampleLayer k = s.showLayer k := by
  rw [State.sampleLayer_changes changes, if_neg]
  rw [Bool.and_eq_true, decide_eq_true_eq, Bool.not_eq_true']
  rintro ⟨hotter, hardware⟩
  rcases stays with host | cooler
  · rw [host] at hardware
    exact Bool.noConfusion hardware
  · omega

theorem State.sampleLayer_stops (hotter : (s.layer k).state.code < (s.nextLayer k).state.code)
    (hardware : s.thermalHost = false) :
    s.sampleLayer k = (s.showLayer k).stopAll forMigration ((s.showLayer k).layerTasks k) := by
  have changes : (s.nextLayer k).state ≠ (s.layer k).state := fun same => by
    rw [same] at hotter
    exact Nat.lt_irrefl _ hotter
  rw [State.sampleLayer_changes changes, if_pos]
  rw [decide_eq_true hotter, hardware]
  rfl

end layer

/-! ## The events of the sensors -/

/-- A card in operation samples its sensors every 1,200 cycles. -/
def State.sampleDue (s : State) : Prop := s.booted = true ∧ s.powered = true ∧ s.sampled + 1200 ≤ s.cycle

theorem State.sampleDue_iff (s : State) :
    s.sampleDue ↔ (s.booted && s.powered && decide (s.sampled + 1200 ≤ s.cycle)) = true := by
  simp only [State.sampleDue, Bool.and_eq_true, decide_eq_true_eq, and_assoc]

/-- A layer is at 120 °C. -/
def State.tooHot (s : State) : Prop := ∃ k, k < 8 ∧ ∃ v, s.layerTemp k = some v ∧ 120 * 16 ≤ v

theorem State.tooHot_iff (s : State) :
    s.tooHot ↔ ((List.range 8).any fun k => (s.layerTemp k).any fun t => decide (1920 ≤ t)) = true := by
  simp only [State.tooHot, List.any_eq_true, List.mem_range, Option.any_eq_true, decide_eq_true_eq]
  rfl

section sample
variable {s : State}

/-- Sample `i` of die `d` of the event, and the state with the samples in the sensors. -/
def State.sampleAt (s : State) (d i : Nat) : Nat := (s.arg.samples.getD (40 * d + i) 0).toNat
def State.withSamples (s : State) : State := { s.putSensors s.sampleAt with sampled := s.cycle }

theorem exec_sensorSample_early (early : ¬s.sampleDue) : exec .sensorSample s = .next s :=
  congrArg Host.Outcome.next (if_neg (mt s.sampleDue_iff.mpr early))

theorem exec_sensorSample_hot (due : s.sampleDue) (hot : s.withSamples.tooHot) :
    exec .sensorSample s = .next s.withSamples.powerOff :=
  congrArg Host.Outcome.next ((if_pos (s.sampleDue_iff.mp due)).trans (if_pos (s.withSamples.tooHot_iff.mp hot)))

theorem exec_sensorSample_cool (due : s.sampleDue) (cool : ¬s.withSamples.tooHot) :
    exec .sensorSample s = .next (((List.range 8).foldl State.sampleLayer s.withSamples).putSensors s.sampleAt) :=
  congrArg Host.Outcome.next ((if_pos (s.sampleDue_iff.mp due)).trans (if_neg (mt s.withSamples.tooHot_iff.mpr cool)))

/-- A layer of the event has been at the clamp temperature since its point 1 began, for 1,200,000 cycles. -/
def State.clampLate (s : State) : Prop :=
  let k := s.arg.layer.toNat
  (s.layer k).state = .clamp ∧ (s.layer k).point = 1 ∧ (s.layer k).since + 1200000 ≤ s.cycle ∧
    ∃ v, s.layerTemp k = some v ∧ s.tclamp ≤ v

theorem State.clampLate_iff (s : State) : s.clampLate ↔
    ((s.layer s.arg.layer.toNat).state == .clamp && (s.layer s.arg.layer.toNat).point == 1 &&
      decide ((s.layer s.arg.layer.toNat).since + 1200000 ≤ s.cycle) &&
      (s.layerTemp s.arg.layer.toNat).any fun t => decide (s.tclamp ≤ t)) = true := by
  simp only [State.clampLate, Bool.and_eq_true, beq_iff_eq, decide_eq_true_eq, Option.any_eq_true, and_assoc]

theorem exec_clampPoint2Timeout_late (late : s.clampLate) : exec .clampPoint2Timeout s =
    .next (s.setLayer s.arg.layer.toNat { s.layer s.arg.layer.toNat with point := 2 }) :=
  congrArg Host.Outcome.next (if_pos (s.clampLate_iff.mp late))

theorem exec_clampPoint2Timeout_early (early : ¬s.clampLate) : exec .clampPoint2Timeout s = .next s :=
  congrArg Host.Outcome.next (if_neg (mt s.clampLate_iff.mpr early))

end sample

/-! ## Power off -/

theorem State.ports_holdAnswer (s : State) (r : StrandRef) (h : Held) : (s.holdAnswer r h).ports = s.ports := by
  rw [State.holdAnswer]
  split <;> rfl

theorem State.ports_answerLink (s : State) (k : Nat) (q : LinkReq) (a : LinkAnswer) : (s.answerLink k q a).ports = s.ports :=
  State.ports_holdAnswer ..

theorem State.ports_pokeImage (s : State) (t off n v : Nat) : (s.pokeImage t off n v).ports = s.ports := by
  simp only [State.pokeImage]
  split
  · split <;> rfl
  · rfl

theorem State.ports_pokePart (s : State) (t part : Nat) : (s.pokePart t part).ports = s.ports := by
  simp only [State.pokePart]
  split
  · split <;> rfl
  · rfl

theorem State.ports_settleQueue (s : State) (q : Nat) : (s.settleQueue q).ports = s.ports := by
  simp only [State.settleQueue]
  split
  · split <;> rfl
  · split <;> rfl
  · rfl

theorem State.ports_countResult (s : State) (t : Nat) : (s.countResult t).ports = s.ports :=
  (State.ports_settleQueue ..).trans (State.ports_pokeImage ..)

theorem State.ports_imageLink (s : State) (k : Nat) (q : LinkReq) (a : LinkAnswer) : (s.imageLink k q a).ports = s.ports := by
  simp only [State.imageLink]
  rw [State.ports_countResult]
  split
  · exact (State.ports_pokeImage ..).trans (State.ports_answerLink ..)
  · exact (State.ports_pokePart ..).trans (State.ports_answerLink ..)
  · exact State.ports_answerLink ..

theorem State.ports_failReq (s : State) (k : Nat) (q : LinkReq) : (s.failReq k q).ports = s.ports := by
  simp only [State.failReq]
  split
  · exact State.ports_imageLink ..
  · split
    · exact State.ports_answerLink ..
    · exact State.ports_answerLink ..

theorem State.ports_failPort (s : State) (p : Nat) : (s.failPort p).ports = s.ports :=
  List.foldlRecOn _ _ (motive := fun t : State => t.ports = s.ports) rfl
    fun _ kept _ _ => (State.ports_failReq ..).trans kept

theorem State.ports_checkTiming (s : State) : s.checkTiming.ports = s.ports := by
  rw [State.checkTiming]
  split <;> rfl

theorem State.portDown_down (s : State) (p : Nat) : ((s.portDown p).port p).state = .down := by
  rw [State.port, State.portDown, State.ports_checkTiming, State.ports_failPort]
  exact congrArg Port.state (State.port_setPort ..)

/-! ## Soft errors -/

/-- The state after a patrol scrub has counted the corrected errors by die, and its sectors with an uncorrectable one are bad. -/
def State.scrubCounted (s : State) : State :=
  ((s.arg.scrub.corrected.take 4).zipIdx.filter fun e => e.1 != 0).foldl (fun (s : State) e => s.addCorr e.2 e.1) s
def State.scrubbed (s : State) : State :=
  let u := s.scrubCounted
  { u with bad := u.bad ++ (s.arg.scrub.bad.filter fun k => k < 2 ^ 34 && !u.bad.contains k).eraseDups }

theorem exec_patrolScrub {s : State} (booted : s.booted = true) (powered : s.powered = true) : exec .patrolScrub s =
    .next ((s.arg.scrub.hoops.filter fun h => h < 256 && (s.scrubbed.hoop h).failing s.scrubbed.cycle).foldl
      (fun v h => (v.drainHoop h).finishDrain h) s.scrubbed) :=
  congrArg Host.Outcome.next (if_pos (by rw [booted, powered]; rfl))

theorem Hoop.failing_iff (x : Hoop) (now : Nat) :
    x.failing now = true ↔ 16 ≤ x.errors.length ∧ ∀ c ∈ x.errors, now ≤ c + 1200000000 := by
  simp only [Hoop.failing, Bool.and_eq_true, decide_eq_true_eq, List.all_eq_true]

theorem State.corr_addCorr (s : State) (d n : Nat) :
    Assoc.getD (s.addCorr d n).corr d 0 = min (Assoc.getD s.corr d 0 + n) (2 ^ 64 - 1) :=
  Assoc.getD_set _ _ _ _

/-! ## Boot -/

/-- The active image of a pair is taken, or the other one when it is bad (R431). -/
def Firmware.pick (x : Firmware) (okA okB : Bool) : Firmware :=
  if (if x.slotB then okB else okA) then x else { x with slotB := !x.slotB }

theorem Firmware.verify_good (x : Firmware) {okA okB : Bool} (good : okA = true ∨ okB = true) :
    x.verify okA okB = some (x.pick okA okB) := by
  have other : (okA || okB) = true := Bool.or_eq_true_iff.mpr good
  rw [Firmware.verify, Firmware.pick, other]
  generalize (if x.slotB then okB else okA) = active
  cases active <;> rfl

theorem Firmware.verify_bad (x : Firmware) {okA okB : Bool} (bad : ¬(okA = true ∨ okB = true)) : x.verify okA okB = none := by
  rw [not_or, Bool.not_eq_true, Bool.not_eq_true] at bad
  obtain ⟨rfl, rfl⟩ := bad
  rw [Firmware.verify, ite_self]
  rfl

section boot
variable {s : State}

/-- A pair of images holds a good one. -/
def State.managementGood (s : State) : Prop := s.arg.boot.mgmtA = true ∨ s.arg.boot.mgmtB = true
def State.frontGood (s : State) : Prop := s.arg.boot.frontA = true ∨ s.arg.boot.frontB = true

/-- The state with the images that the boot takes. -/
def State.withImages (s : State) : State :=
  let m := (s.firmware 0).pick s.arg.boot.mgmtA s.arg.boot.mgmtB
  let f := (s.firmware 1).pick s.arg.boot.frontA s.arg.boot.frontB
  { s with fw := Assoc.set (Assoc.set s.fw 0 m) 1 f }

theorem exec_boot_again (booted : s.booted = true) : exec .boot s = .next s :=
  congrArg Host.Outcome.next (if_pos booted)

variable (off : s.booted = false)
include off

theorem exec_boot_starts (management : s.managementGood) (front : s.frontGood) :
    exec .boot s = .next s.withImages.startUp := by
  refine congrArg Host.Outcome.next ((if_neg (by rw [off]; exact Bool.false_ne_true)).trans ?_)
  rw [Firmware.verify_good _ management, Firmware.verify_good _ front]
  rfl

theorem exec_boot_recovers (bad : ¬(s.managementGood ∧ s.frontGood)) : exec .boot s = .next
    { s.startTraining 0 with booted := true, recovery := true, sampled := s.cycle } := by
  refine congrArg Host.Outcome.next ((if_neg (by rw [off]; exact Bool.false_ne_true)).trans ?_)
  rcases Classical.not_and_iff_not_or_not.mp bad with management | front
  · rw [Firmware.verify_bad _ management]
  · rw [Firmware.verify_bad _ front]
    cases (s.firmware 0).verify s.arg.boot.mgmtA s.arg.boot.mgmtB <;> rfl

end boot

theorem State.port_startTraining (s : State) (p : Nat) : ((s.startTraining p).port p).state = .training :=
  congrArg Port.state (State.port_setPort ..)

theorem State.port_startTraining_ne (s : State) {p q : Nat} (other : q ≠ p) : (s.startTraining p).port q = s.port q :=
  State.port_setPort_ne _ _ other

theorem State.startTraining_all (s : State) {p : Nat} (isPort : p < 3) :
    ((((s.startTraining 0).startTraining 1).startTraining 2).port p).state = .training := by
  obtain rfl | rfl | rfl : p = 0 ∨ p = 1 ∨ p = 2 := by omega
  · rw [State.port_startTraining_ne _ (by decide), State.port_startTraining_ne _ (by decide)]
    exact State.port_startTraining ..
  · rw [State.port_startTraining_ne _ (by decide)]
    exact State.port_startTraining ..
  · exact State.port_startTraining ..

/-- The state with a hoop that failed its self-test offline. -/
def State.failHoop (s : State) (h : Nat) : State := s.setHoop h { s.hoop h with offline := true }

theorem State.offline_failHoop {s : State} {h k : Nat} (offline : (s.hoop k).offline = true) :
    ((s.failHoop h).hoop k).offline = true := by
  by_cases same : k = h
  · rw [State.failHoop, same, State.hoop_setHoop]
  · rwa [State.failHoop, State.hoop_setHoop_ne _ _ same]

theorem State.offline_failHoops {h : Nat} (hs : List Nat) {s : State} (failed : h ∈ hs ∨ (s.hoop h).offline = true) :
    ((hs.foldl State.failHoop s).hoop h).offline = true := by
  induction hs generalizing s with
  | nil => exact failed.resolve_left List.not_mem_nil
  | cons k ks ih =>
    refine ih ?_
    rcases failed with listed | offline
    · rcases List.mem_cons.mp listed with rfl | later
      · exact .inr (congrArg Hoop.offline (State.hoop_setHoop ..))
      · exact .inl later
    · exact .inr (State.offline_failHoop offline)

theorem State.startUp_hoops (s : State) :
    s.startUp.hoops = ((s.arg.boot.failed.filter fun h => h < 256).foldl State.failHoop s).hoops := by
  simp only [State.startUp]
  split <;> rfl

theorem State.startUp_offline (s : State) {h : Nat} (failed : h ∈ s.arg.boot.failed) (isHoop : h < 256) :
    (s.startUp.hoop h).offline = true := by
  rw [State.hoop, State.startUp_hoops]
  exact State.offline_failHoops _ (.inl (List.mem_filter.mpr ⟨failed, decide_eq_true isHoop⟩))

/-! ## Attestation -/

/-- The bytes of the active image of a firmware. -/
def State.activeImage (s : State) (k : Nat) : List Byte :=
  if (s.firmware k).slotB then (s.firmware k).b else (s.firmware k).a

section spdm
variable {s : State}

theorem exec_spdmRequest_certificates (asks : s.arg.spdm = .certificates) :
    exec .spdmRequest s = .next { s with answer := .bytes Config.certificates } := by
  refine congrArg Host.Outcome.next ?_
  rw [asks]

theorem exec_spdmRequest_nonce {f : DWord} (asks : s.arg.spdm = .nonce f) :
    exec .spdmRequest s = .next { s with nonce := some f, answer := .words [f] } := by
  refine congrArg Host.Outcome.next ?_
  rw [asks]

section measurement
variable {n : BitVec 8} (asks : s.arg.spdm = .measurement n)
include asks

theorem exec_spdmRequest_measurement : exec .spdmRequest s = .next (if n == 0 || decide (4 < n.toNat) then
    { s with answer := .unsupported } else
    { s with answer := .bytes (Config.measurement n.toNat (s.activeImage 0) (s.activeImage 1) (s.mem.nat (s.mgmttl + 64) 32)
      (s.thermalHost, s.stagingHost)) }) := by
  refine congrArg Host.Outcome.next ?_
  rw [asks]
  rfl

theorem exec_spdmRequest_unsupported (unknown : n = 0 ∨ 4 < n.toNat) :
    exec .spdmRequest s = .next { s with answer := .unsupported } := by
  rw [exec_spdmRequest_measurement asks, if_pos]
  rwa [Bool.or_eq_true, beq_iff_eq, decide_eq_true_eq]

theorem exec_spdmRequest_measures (present : n ≠ 0) (known : n.toNat ≤ 4) : exec .spdmRequest s = .next { s with
    answer := .bytes (Config.measurement n.toNat (s.activeImage 0) (s.activeImage 1) (s.mem.nat (s.mgmttl + 64) 32)
      (s.thermalHost, s.stagingHost)) } := by
  rw [exec_spdmRequest_measurement asks, if_neg]
  rw [Bool.or_eq_true, beq_iff_eq, decide_eq_true_eq, not_or]
  exact ⟨present, Nat.not_lt.mpr known⟩

end measurement

end spdm

/-- Settles O57: each event by whether its condition holds, each throttle state by the temperature, and a boot by its images. -/
theorem monitoringEvents : Obligations.MonitoringEvents := by
  unfold Obligations.MonitoringEvents
  intro s got t hot due r b
  exact ⟨exec_sensorSample_hot, exec_sensorSample_cool, exec_sensorSample_early,
    ⟨rfl, rfl, rfl, t.portDown_down 0⟩, fun k v => State.layerTemp_some, fun k invalid i => State.layerTemp_none invalid,
    fun x m c now => ⟨Layer.sample_none .., fun v => ⟨Layer.sample_normal, Layer.sample_clamps, Layer.sample_migrate,
      Layer.sample_cools, Layer.sample_stays⟩⟩,
    fun k => ⟨State.sampleLayer_same, fun changes host => State.sampleLayer_shows changes (.inl host),
      fun changes cooler => State.sampleLayer_shows changes (.inr cooler), State.sampleLayer_stops⟩,
    ⟨exec_clampPoint2Timeout_late, exec_clampPoint2Timeout_early⟩, exec_patrolScrub, Hoop.failing_iff, s.corr_addCorr, rfl,
    exec_boot_again, fun off => ⟨fun ⟨management, front⟩ => exec_boot_starts off management front, exec_boot_recovers off⟩,
    ⟨rfl, fun p => State.startTraining_all _, fun h => s.startUp_offline⟩, exec_spdmRequest_certificates, fun n asks =>
      ⟨exec_spdmRequest_unsupported asks, exec_spdmRequest_measures asks⟩,
    fun f => exec_spdmRequest_nonce⟩

end Sys2Proof.Machine
end

section
/-! SUPPORT. The debug cores (R416 to R421, Table 18-6): the checks of a command and its effect on the task that SEL names, and the
registers and memory that an access reaches. -/

namespace Sys2Proof.Machine

/-! ## The block -/

theorem State.debugBlock_putBlock (s : State) (b : DebugCore) : (s.putBlock b).debugBlock = b :=
  congrArg Die.dbg (State.die_setDie ..)

/-- The state with the fields of the event's write in the block. -/
def State.loaded (s : State) : State := s.putBlock (s.debugBlock.load s.arg.dbg)

theorem State.debugBlock_loaded (s : State) : s.loaded.debugBlock = s.debugBlock.load s.arg.dbg := s.debugBlock_putBlock _

/-- A new write comes to a block that is not BUSY. -/
def State.debugIdle (s : State) : Prop := s.arg.dbg.again = false ∧ s.debugBlock.busy = false

/-- Its command acts: the core is unlocked and no reserved field is set. -/
def State.debugAdmits (s : State) : Prop := s.debugIdle ∧ s.debugBlock.att = true ∧ s.arg.dbg.reserved = false

section command
variable {s : State} (act : State → State)

theorem State.debugCommand_again (again : s.arg.dbg.again = true) : s.debugCommand act = s := if_pos again

theorem State.debugCommand_busy (new : s.arg.dbg.again = false) (busy : s.debugBlock.busy = true) :
    s.debugCommand act = s.debugErr 2 :=
  (if_neg (Bool.eq_false_iff.mp new)).trans (if_pos busy)

theorem State.debugCommand_loads (idle : s.debugIdle) : s.debugCommand act =
    if !s.debugBlock.att then s.loaded.debugErr 1 else if s.arg.dbg.reserved then s.loaded.debugErr 3 else act s.loaded := by
  obtain ⟨new, free⟩ := idle
  refine (if_neg (Bool.eq_false_iff.mp new)).trans ((if_neg (Bool.eq_false_iff.mp free)).trans ?_)
  have att : s.debugBlock.att = s.loaded.debugBlock.att := by rw [State.debugBlock_loaded]; rfl
  rw [att]
  rfl

theorem State.debugCommand_locked (idle : s.debugIdle) (locked : s.debugBlock.att = false) :
    s.debugCommand act = s.loaded.debugErr 1 := by
  rw [State.debugCommand_loads act idle, locked]
  rfl

theorem State.debugCommand_reserved (idle : s.debugIdle) (unlocked : s.debugBlock.att = true)
    (reserved : s.arg.dbg.reserved = true) : s.debugCommand act = s.loaded.debugErr 3 := by
  rw [State.debugCommand_loads act idle, unlocked, reserved]
  rfl

theorem State.debugCommand_acts (admits : s.debugAdmits) : s.debugCommand act = act s.loaded := by
  obtain ⟨idle, unlocked, valid⟩ := admits
  rw [State.debugCommand_loads act idle, unlocked, valid]
  rfl

end command

/-! ## Commands on a task -/

/-- Halt, resume and access register act on the task that SEL names. -/
theorem exec_debugTask {i : Instr} (task : i ∈ ([.debugHalt, .debugResume, .accessRegister] : List Instr)) :
    ∃ act, ∀ s, exec i s = .next (s.debugCommand fun s => s.onTarget act) := by
  simp only [List.mem_cons, List.not_mem_nil, or_false] at task
  rcases task with rfl | rfl | rfl
  · exact ⟨_, fun _ => rfl⟩
  · exact ⟨_, fun _ => rfl⟩
  · exact ⟨_, fun _ => rfl⟩

theorem exec_accessMemory_new {s : State} (new : s.arg.dbg.again = false) :
    exec .accessMemory s = .next (s.debugCommand State.tryMemory) :=
  congrArg Host.Outcome.next (if_neg (by rw [new]; exact Bool.false_ne_true))

theorem exec_accessMemory_again {s : State} (again : s.arg.dbg.again = true) :
    exec .accessMemory s = .next (if s.debugBlock.busy = true then s.tryMemory else s) := by
  refine congrArg Host.Outcome.next ?_
  rw [State.debugCommand_again _ again, again, Bool.true_and]

/-- A new command of a debug core goes through the checks of the block. -/
theorem exec_debugCommand {i : Instr} (command : i ∈ ([.debugHalt, .debugResume, .accessRegister, .accessMemory] : List Instr)) :
    ∃ act, ∀ s, s.arg.dbg.again = false → exec i s = .next (s.debugCommand act) := by
  by_cases task : i ∈ ([.debugHalt, .debugResume, .accessRegister] : List Instr)
  · obtain ⟨act, run⟩ := exec_debugTask task
    exact ⟨_, fun s _ => run s⟩
  · have memory : i = .accessMemory := by
      simp only [List.mem_cons, List.not_mem_nil, or_false] at command task
      tauto
    exact ⟨_, fun s new => memory ▸ exec_accessMemory_new new⟩

section checks
variable {i : Instr} (command : i ∈ ([.debugHalt, .debugResume, .accessRegister, .accessMemory] : List Instr)) {s : State}
include command

theorem exec_debugCommand_busy (new : s.arg.dbg.again = false) (busy : s.debugBlock.busy = true) :
    exec i s = .next (s.debugErr 2) := by
  obtain ⟨act, run⟩ := exec_debugCommand command
  rw [run s new, State.debugCommand_busy act new busy]

variable (idle : s.debugIdle)
include idle

theorem exec_debugCommand_locked (locked : s.debugBlock.att = false) : exec i s = .next (s.loaded.debugErr 1) := by
  obtain ⟨act, run⟩ := exec_debugCommand command
  have ⟨new, _⟩ := idle
  rw [run s new, State.debugCommand_locked act idle locked]

theorem exec_debugCommand_reserved (unlocked : s.debugBlock.att = true) (reserved : s.arg.dbg.reserved = true) :
    exec i s = .next (s.loaded.debugErr 3) := by
  obtain ⟨act, run⟩ := exec_debugCommand command
  have ⟨new, _⟩ := idle
  rw [run s new, State.debugCommand_reserved act idle unlocked reserved]

end checks

theorem exec_accessMemory_tries {s : State} (admits : s.debugAdmits) : exec .accessMemory s = .next s.loaded.tryMemory := by
  have ⟨⟨new, _⟩, _⟩ := admits
  rw [exec_accessMemory_new new, State.debugCommand_acts _ admits]

theorem exec_debugTask_again {i : Instr} (task : i ∈ ([.debugHalt, .debugResume, .accessRegister] : List Instr)) {s : State}
    (again : s.arg.dbg.again = true) : exec i s = .next s := by
  obtain ⟨act, run⟩ := exec_debugTask task
  rw [run, State.debugCommand_again _ again]

theorem State.onTarget_none {s : State} (act : State → Nat → State) (unnamed : s.debugTarget = none) :
    s.onTarget act = s.debugErr 4 := by
  rw [State.onTarget, unnamed]
  rfl

theorem State.onTarget_some {s : State} (act : State → Nat → State) {t : Nat} (named : s.debugTarget = some t) :
    s.onTarget act = act s t := by
  rw [State.onTarget, named]

section target
variable {s : State} (admits : s.debugAdmits)
include admits

theorem exec_debugTask_unnamed (unnamed : s.loaded.debugTarget = none) {i : Instr}
    (task : i ∈ ([.debugHalt, .debugResume, .accessRegister] : List Instr)) : exec i s = .next (s.loaded.debugErr 4) := by
  obtain ⟨act, run⟩ := exec_debugTask task
  rw [run, State.debugCommand_acts _ admits, State.onTarget_none act unnamed]

variable {t : Nat} (named : s.loaded.debugTarget = some t)
include named

theorem State.debugTask_acts (act : State → Nat → State) :
    (s.debugCommand fun s => s.onTarget act) = act s.loaded t := by
  rw [State.debugCommand_acts _ admits, State.onTarget_some act named]

section running
variable (runs : (s.loaded.task t).frozenBy = none)
include runs

omit admits named in
theorem State.halted_false : ¬(s.loaded.task t).frozenBy.isSome = true := by
  rw [runs]
  exact Bool.false_ne_true

theorem exec_debugHalt_idle (idle : (s.loaded.task t).life ≠ .running) : exec .debugHalt s = .next (s.loaded.debugErr 9) :=
  congrArg Host.Outcome.next ((State.debugTask_acts admits named _).trans
    ((if_neg (State.halted_false runs)).trans (if_pos (bne_iff_ne.mpr idle))))

theorem exec_debugHalt_halts (running : (s.loaded.task t).life = .running) :
    exec .debugHalt s = .next (s.loaded.debugStop t 1 0 none) :=
  congrArg Host.Outcome.next ((State.debugTask_acts admits named _).trans
    ((if_neg (State.halted_false runs)).trans (if_neg (by rw [running]; exact Bool.false_ne_true))))

/-- Resume and access register need a halted task. -/
theorem exec_debugTask_runs {i : Instr} (task : i ∈ ([.debugResume, .accessRegister] : List Instr)) :
    exec i s = .next (s.loaded.debugErr 5) := by
  have running : (s.loaded.task t).frozenBy.isNone = true := Option.isNone_iff_eq_none.mpr runs
  simp only [List.mem_cons, List.not_mem_nil, or_false] at task
  rcases task with rfl | rfl
  · exact congrArg Host.Outcome.next ((State.debugTask_acts admits named _).trans (if_pos running))
  · exact congrArg Host.Outcome.next ((State.debugTask_acts admits named _).trans (if_pos running))

end running

theorem exec_debugHalt_halted (halted : (s.loaded.task t).frozenBy ≠ none) :
    exec .debugHalt s = .next (s.loaded.debugErr 6) :=
  congrArg Host.Outcome.next
    ((State.debugTask_acts admits named _).trans (if_pos (Option.isSome_iff_ne_none.mpr halted)))

theorem exec_debugResume_resumes {d : DebugStop} (halted : (s.loaded.task t).frozenBy = some d) : exec .debugResume s =
    .next (((s.loaded.acquire (s.loaded.task t).ctx (s.loaded.task t).core .dev).setTask t
      { s.loaded.task t with frozenBy := none, placed := s.loaded.cycle }).skipTask t (s.loaded.cycle - d.since)) := by
  refine congrArg Host.Outcome.next ((State.debugTask_acts admits named _).trans ((if_neg ?_).trans ?_))
  · rw [halted]
    exact Bool.false_ne_true
  · simp only [State.debugResume, halted]

theorem exec_accessRegister : exec .accessRegister s = .next (s.loaded.debugRegister t) :=
  congrArg Host.Outcome.next (State.debugTask_acts admits named _)

end target

/-! ## Registers -/

section register
variable {s : State} {t : Nat} (halted : (s.task t).frozenBy ≠ none)
include halted

theorem State.debugRegister_unknown (unknown : debugReg s.debugBlock.regno.toNat = none) : s.debugRegister t = s.debugErr 7 := by
  refine (if_neg (mt Option.isNone_iff_eq_none.mp halted)).trans ?_
  rw [unknown]
  rfl

variable {k : DebugReg} (known : debugReg s.debugBlock.regno.toNat = some k)
include known

theorem State.debugRegister_known : s.debugRegister t =
    if s.debugBlock.wr then s.writeDebug (s.selStrand t) k s.debugBlock.data
    else s.putBlock { s.debugBlock with data := s.readDebug (s.selStrand t) k } := by
  refine (if_neg (mt Option.isNone_iff_eq_none.mp halted)).trans ?_
  rw [known]

theorem State.debugRegister_writes (writes : s.debugBlock.wr = true) :
    s.debugRegister t = s.writeDebug (s.selStrand t) k s.debugBlock.data :=
  (State.debugRegister_known halted known).trans (if_pos writes)

theorem State.debugRegister_reads (reads : s.debugBlock.wr = false) :
    s.debugRegister t = s.putBlock { s.debugBlock with data := s.readDebug (s.selStrand t) k } :=
  (State.debugRegister_known halted known).trans (if_neg (Bool.eq_false_iff.mp reads))

end register

section access
variable {s : State} (admits : s.debugAdmits) {t : Nat} (named : s.loaded.debugTarget = some t)
  (halted : (s.loaded.task t).frozenBy ≠ none)
include admits named halted

theorem exec_accessRegister_unknown (unknown : debugReg s.arg.dbg.regno.toNat = none) :
    exec .accessRegister s = .next (s.loaded.debugErr 7) := by
  rw [exec_accessRegister admits named, State.debugRegister_unknown halted]
  rwa [State.debugBlock_loaded]

variable {k : DebugReg} (known : debugReg s.arg.dbg.regno.toNat = some k)
include known

theorem exec_accessRegister_writes (writes : s.arg.dbg.wr = true) : exec .accessRegister s =
    .next (s.loaded.writeDebug (s.loaded.selStrand t) k s.arg.dbg.data) := by
  have block := s.debugBlock_loaded
  rw [exec_accessRegister admits named, State.debugRegister_writes (k := k) halted, block]
  · rfl
  · rwa [block]
  · rwa [block]

theorem exec_accessRegister_reads (reads : s.arg.dbg.wr = false) : exec .accessRegister s =
    .next (s.loaded.putBlock { s.debugBlock.load s.arg.dbg with data := s.loaded.readDebug (s.loaded.selStrand t) k }) := by
  have block := s.debugBlock_loaded
  rw [exec_accessRegister admits named, State.debugRegister_reads (k := k) halted, block]
  · rwa [block]
  · rwa [block]

end access

/-- g0 reads 0 and p0 reads 1 (R93). -/
theorem State.readDebug_numbered (s : State) (r : StrandRef) {k : Nat} (numbered : k ≠ 0) :
    s.readDebug r (.g k) = Assoc.getD (s.strand r).g k 0 ∧
    s.readDebug r (.p k) = if Assoc.getD (s.strand r).p k false then 1 else 0 := by
  refine ⟨if_neg numbered, ?_⟩
  rw [State.readDebug, decide_eq_false numbered, Bool.false_or]

theorem State.writeDebug_g (s : State) (r : StrandRef) (v : DWord) {k : Nat} (numbered : k ≠ 0) :
    s.writeDebug r (.g k) v = s.setStrand r { s.strand r with g := Assoc.set (s.strand r).g k v } := if_neg numbered

end Sys2Proof.Machine
end

section
/-! SUPPORT. Access memory of a debug core (R421): what each of its four spaces answers. -/

namespace Sys2Proof.Machine

section memory
variable {s : State}

/-! ## The end of an access -/

/-- The state with the debug core's access over. -/
def State.debugEnd (s : State) : State := s.putBlock { s.debugBlock with busy := false }

theorem State.tryMemory_ends {t : State} (ends : s.debugMemory = some t) : s.tryMemory = t.debugEnd := by
  rw [State.tryMemory, ends]
  rfl

theorem State.tryMemory_waits (waits : s.debugMemory = none) : s.tryMemory = s.putBlock { s.debugBlock with busy := true } := by
  rw [State.tryMemory, waits]

theorem State.debugMemory_reserved (reserved : 3 < s.debugBlock.space.toNat) : s.debugMemory = some (s.debugErr 3) :=
  if_pos reserved

theorem State.debugMemory_misaligned (space : s.debugBlock.space.toNat ≤ 3)
    (misaligned : s.debugBlock.addr.toNat % s.debugBlock.bytes ≠ 0) : s.debugMemory = some (s.debugErr 8) :=
  (if_neg (Nat.not_lt.mpr space)).trans (if_pos (bne_iff_ne.mpr misaligned))

/-! ## At a physical address -/

section home
variable (pa : Nat)

theorem State.debugHome_reads (reads : s.debugBlock.wr = false) (sound : s.isBad pa s.debugBlock.bytes = false) :
    s.debugHome pa = s.putBlock { s.debugBlock with data := BitVec.ofNat 64 (s.mem.nat pa s.debugBlock.bytes) } :=
  (if_neg (Bool.eq_false_iff.mp reads)).trans (if_neg (Bool.eq_false_iff.mp sound))

theorem State.debugHome_readsBad (reads : s.debugBlock.wr = false) (bad : s.isBad pa s.debugBlock.bytes = true) :
    s.debugHome pa = s.debugErr 8 :=
  (if_neg (Bool.eq_false_iff.mp reads)).trans (if_pos bad)

theorem State.debugHome_writes (writes : s.debugBlock.wr = true) (sound : s.partBad pa s.debugBlock.bytes = false) :
    s.debugHome pa = s.setHome pa s.debugBlock.bytes s.debugBlock.data.toNat 0 :=
  (if_pos writes).trans (if_neg (Bool.eq_false_iff.mp sound))

theorem State.debugHome_writesBad (writes : s.debugBlock.wr = true) (bad : s.partBad pa s.debugBlock.bytes = true) :
    s.debugHome pa = s.debugErr 8 :=
  (if_pos writes).trans (if_pos bad)

end home

variable (aligned : s.debugBlock.addr.toNat % s.debugBlock.bytes = 0)

/-! ## Space 0: a carve -/

/-- Where the access lies in the scratchpad of the core of a task. -/
def State.debugPlace (s : State) (t : Nat) : Nat := (s.task t).gran0 * granule + s.debugBlock.addr.toNat

/-- The access lies within the carve of a task. -/
def State.debugFits (s : State) (t : Nat) : Prop :=
  s.debugBlock.addr.toNat + s.debugBlock.bytes ≤ (s.task t).hdr.gran * granule

/-- Some of the bytes of the access have an uncorrectable error. -/
def State.debugBad (s : State) (t : Nat) : Prop :=
  ∃ a ∈ (s.core (s.task t).core).bad, s.debugPlace t ≤ a ∧ a < s.debugPlace t + s.debugBlock.bytes

theorem State.debugBad_iff (s : State) (t : Nat) : s.debugBad t ↔ ((s.core (s.task t).core).bad.any fun k =>
    decide (s.debugPlace t ≤ k) && decide (k < s.debugPlace t + s.debugBlock.bytes)) = true := by
  simp only [State.debugBad, List.any_eq_true, Bool.and_eq_true, decide_eq_true_eq]

section carve
variable {t : Nat}

theorem State.debugCarve_outside (outside : ¬s.debugFits t) : s.debugCarve t = some (s.debugErr 8) :=
  if_pos (Nat.not_le.mp outside)

variable (fits : s.debugFits t)
include fits

theorem State.debugCarve_zeroing
    (zeroing : (s.core (s.task t).core).zeroingAt (s.debugPlace t) s.debugBlock.bytes = true) : s.debugCarve t = none :=
  (if_neg (Nat.not_lt.mpr fits)).trans (if_pos zeroing)

variable (still : (s.core (s.task t).core).zeroingAt (s.debugPlace t) s.debugBlock.bytes = false)
include still

theorem State.debugCarve_bad (bad : s.debugBad t) : s.debugCarve t = some (s.debugErr 8) :=
  (if_neg (Nat.not_lt.mpr fits)).trans ((if_neg (Bool.eq_false_iff.mp still)).trans (if_pos ((s.debugBad_iff t).mp bad)))

variable (sound : ¬s.debugBad t)
include sound

theorem State.debugCarve_reads (reads : s.debugBlock.wr = false) : s.debugCarve t = some (s.putBlock { s.debugBlock with
    data := BitVec.ofNat 64 ((s.core (s.task t).core).pad.nat (s.debugPlace t) s.debugBlock.bytes) }) :=
  (if_neg (Nat.not_lt.mpr fits)).trans ((if_neg (Bool.eq_false_iff.mp still)).trans
    ((if_neg (mt (s.debugBad_iff t).mpr sound)).trans (if_neg (Bool.eq_false_iff.mp reads))))

/-- A write of the code or the tables of a carve drops the residency entries that it meets. -/
theorem State.debugCarve_writes (writes : s.debugBlock.wr = true) : s.debugCarve t = some
    (let y := s.writePad (s.task t).core (s.debugPlace t) (leBytes s.debugBlock.data.toNat s.debugBlock.bytes)
     if s.debugBlock.addr.toNat < (s.task t).hdr.cs then
       y.dropResidency (s.task t).core (s.debugPlace t) s.debugBlock.bytes else y) :=
  (if_neg (Nat.not_lt.mpr fits)).trans ((if_neg (Bool.eq_false_iff.mp still)).trans
    ((if_neg (mt (s.debugBad_iff t).mpr sound)).trans (if_pos writes)))

end carve

/-! ## Space 1: a virtual address -/

/-- The mapping of a page lets the access be made: it is of space device, and written only where it may be. -/
def State.debugMay (s : State) (pte : DWord) : Prop := pteSpace pte = 0 ∧ (s.debugBlock.wr = true → pteW pte = true)

theorem State.debugMay_iff (s : State) (pte : DWord) :
    s.debugMay pte ↔ ¬(pteSpace pte != 0 || (s.debugBlock.wr && !pteW pte)) = true := by
  simp only [State.debugMay, Bool.or_eq_true, bne_iff_ne, Bool.and_eq_true, Bool.not_eq_true', not_or, not_not, not_and,
    Bool.not_eq_false]

/-- The access writes a page under a migration lock. -/
def State.debugLocked (s : State) : Prop :=
  s.debugBlock.wr = true ∧ (s.ctx s.debugBlock.ctx.toNat).locks s.debugBlock.addr = true

theorem State.debugVirtual_unmapped (unmapped : s.peekMap s.debugBlock.ctx.toNat s.debugBlock.addr = none) :
    s.debugVirtual = some (s.debugErr 8) := by
  simp only [State.debugVirtual, unmapped]
  rfl

section virtual
variable {pa : Nat} {pte : DWord} (maps : s.peekMap s.debugBlock.ctx.toNat s.debugBlock.addr = some (pa, pte))
include maps

theorem State.debugVirtual_refuses (no : ¬s.debugMay pte) : s.debugVirtual = some (s.debugErr 8) := by
  rw [State.debugMay_iff, not_not] at no
  simp only [State.debugVirtual, maps, if_pos no]
  rfl

variable (may : s.debugMay pte)
include may

theorem State.debugVirtual_waits (locked : s.debugLocked) : s.debugVirtual = none := by
  rw [State.debugMay_iff] at may
  simp only [State.debugVirtual, maps, if_neg may, if_pos (Bool.and_eq_true_iff.mpr locked)]

theorem State.debugVirtual_reaches (free : ¬s.debugLocked) :
    s.debugVirtual = some ((s.claimNow s.debugBlock.ctx.toNat (pa / 65536)).debugHome pa) := by
  rw [State.debugMay_iff] at may
  simp only [State.debugVirtual, maps, if_neg may, if_neg (mt Bool.and_eq_true_iff.mp free)]

end virtual

/-! ## Space 3: an edge ring -/

/-- SEL is a party of this card and die. -/
def State.debugHere (s : State) : Prop :=
  s.debugBlock.sel.toNat / 2 ^ 20 = s.cardUsed.toNat ∧ s.debugBlock.sel.toNat / 2 ^ 18 % 4 = s.arg.die.toNat

theorem State.debugHere_iff (s : State) : s.debugHere ↔
    ¬(s.debugBlock.sel.toNat / 2 ^ 20 != s.cardUsed.toNat || s.debugBlock.sel.toNat / 2 ^ 18 % 4 != s.arg.die.toNat) = true := by
  simp only [State.debugHere, Bool.or_eq_true, bne_iff_ne, not_or, not_not]

/-- The record of SEL's ring that the address lies in. -/
def State.debugEdge (s : State) : Option Edge := (Assoc.getD s.rings (ringOf s.debugBlock.sel) [])[s.debugBlock.addr.toNat / 32]?

theorem State.debugRing_elsewhere (elsewhere : ¬s.debugHere) : s.debugRing = s.debugErr 4 := by
  rw [State.debugHere_iff, not_not] at elsewhere
  exact if_pos elsewhere

section ring
variable (here : s.debugHere)
include here

theorem State.debugRing_refuses (no : s.debugBlock.wr = true ∨ s.debugEdge = none) : s.debugRing = s.debugErr 8 := by
  refine (if_neg (s.debugHere_iff.mp here)).trans ?_
  change (match s.debugEdge, s.debugBlock.wr with | some e, false => _ | _, _ => _) = _
  rcases no with writes | absent
  · rw [writes]
    cases s.debugEdge <;> rfl
  · rw [absent]
    rfl

theorem State.debugRing_reads (reads : s.debugBlock.wr = false) {e : Edge} (present : s.debugEdge = some e) :
    s.debugRing = s.putBlock { s.debugBlock with data := BitVec.ofNat 64 (leNat
      (((e.words.flatMap fun (k : DWord) => leBytes k.toNat 8).drop (s.debugBlock.addr.toNat % 32)).take s.debugBlock.bytes)) } := by
  refine (if_neg (s.debugHere_iff.mp here)).trans ?_
  split
  next found _ =>
    obtain rfl := Option.some.inj (present.symm.trans found)
    rfl
  next other => exact (other e present reads).elim

end ring

/-! ## The spaces -/

include aligned

theorem State.debugMemory_carve (space : s.debugBlock.space.toNat = 0) {t : Nat} (named : s.debugTarget = some t) :
    s.debugMemory = s.debugCarve t := by
  simp only [State.debugMemory, aligned, space, named]
  rfl

theorem State.debugMemory_unnamed (space : s.debugBlock.space.toNat = 0) (unnamed : s.debugTarget = none) :
    s.debugMemory = some (s.debugErr 4) := by
  simp only [State.debugMemory, aligned, space, unnamed]
  rfl

theorem State.debugMemory_virtual (space : s.debugBlock.space.toNat = 1) : s.debugMemory = s.debugVirtual := by
  simp only [State.debugMemory, aligned, space]
  rfl

section physical
variable (space : s.debugBlock.space.toNat = 2)
include space

theorem State.debugMemory_physical (inside : s.debugBlock.addr.toNat + s.debugBlock.bytes ≤ 2 ^ 39) :
    s.debugMemory = some (s.debugHome s.debugBlock.addr.toNat) := by
  simp only [State.debugMemory, aligned, space]
  exact congrArg some (if_neg (Nat.not_lt.mpr inside))

theorem State.debugMemory_outside (outside : 2 ^ 39 < s.debugBlock.addr.toNat + s.debugBlock.bytes) :
    s.debugMemory = some (s.debugErr 8) := by
  simp only [State.debugMemory, aligned, space]
  exact congrArg some (if_pos outside)

end physical

theorem State.debugMemory_ring (space : s.debugBlock.space.toNat = 3) : s.debugMemory = some s.debugRing := by
  simp only [State.debugMemory, aligned, space]
  rfl

end memory

end Sys2Proof.Machine
end

section
/-! SUPPORT. The ring writer (R424) and the Cordonnet unit (R410 to R416, Tables 18-4, 18-5): when a packet is written, and what a
walk leaves. -/

namespace Sys2Proof.Machine

/-! ## The trace ring -/

section trace
variable {s : State}

/-- The source of the event. -/
def State.traceSource (s : State) : TraceSrc := Assoc.getD s.trace (ringOf s.arg.src) {}

/-- The ring has room for a packet (R424). -/
def State.traceFits (s : State) : Prop :=
  s.traceSize ≠ 0 ∧ (s.wptr + 2 ^ 64 - s.mem.nat (s.traceBase + 8) 8) % 2 ^ 64 ≤ s.traceRoom - 64

theorem State.traceFits_iff (s : State) : s.traceFits ↔ s.traceAccepts = true := by
  rw [State.traceFits, State.traceAccepts, Bool.and_eq_true, bne_iff_ne, decide_eq_true_eq]

theorem exec_tracePacketWrite_empty (empty : s.traceSource.buf = []) : exec .tracePacketWrite s = .next s := by
  refine congrArg Host.Outcome.next ?_
  rw [State.traceSource] at empty
  simp only [State.writePacket, empty]

theorem exec_tracePacketWrite_cons {p : Packet} {rest : List Packet} (oldest : s.traceSource.buf = p :: rest) :
    exec .tracePacketWrite s = .next (if !s.traceAccepts then s else
      let v := { s with trace := Assoc.set s.trace (ringOf s.arg.src) { s.traceSource with buf := rest } }.writeHome
        (s.traceBase + 65536 + s.wptr % s.traceRoom) (p.words.flatMap fun (k : DWord) => leBytes k.toNat 8) (controllerParty s)
      { v with wptr := (s.wptr + 64) % 2 ^ 64 }.setHome s.traceBase 8 ((s.wptr + 64) % 2 ^ 64) (controllerParty v)) := by
  refine congrArg Host.Outcome.next ?_
  rw [State.traceSource] at oldest
  simp only [State.writePacket, oldest]
  rfl

theorem exec_tracePacketWrite_full (full : ¬s.traceFits) : exec .tracePacketWrite s = .next s := by
  rw [State.traceFits_iff, Bool.not_eq_true] at full
  cases oldest : s.traceSource.buf with
  | nil => exact exec_tracePacketWrite_empty oldest
  | cons p rest =>
    rw [exec_tracePacketWrite_cons oldest, full]
    rfl

theorem exec_tracePacketWrite_writes (fits : s.traceFits) {p : Packet} {rest : List Packet}
    (oldest : s.traceSource.buf = p :: rest) : exec .tracePacketWrite s = .next
      (let v := { s with trace := Assoc.set s.trace (ringOf s.arg.src) { s.traceSource with buf := rest } }.writeHome
        (s.traceBase + 65536 + s.wptr % s.traceRoom) (p.words.flatMap fun (k : DWord) => leBytes k.toNat 8) (controllerParty s)
       { v with wptr := (s.wptr + 64) % 2 ^ 64 }.setHome s.traceBase 8 ((s.wptr + 64) % 2 ^ 64) (controllerParty v)) := by
  rw [exec_tracePacketWrite_cons oldest, (s.traceFits_iff).mp fits]
  rfl

end trace

/-! ## Walks -/

section walk
variable {s : State}

/-- The die whose Cordonnet unit the event names, and the unit's party. -/
def State.walkDie (s : State) : Nat := s.arg.die.toNat
def State.walkParty (s : State) : Party := partyOf s.cardUsed (s.walkDie * 256) 4 10

/-- The accesses of a walk. -/
def State.reportAccess (s : State) (k : Walk) : Access :=
  { ctx := k.ctx, die := s.walkDie, write := true, eng := true, party := s.walkParty, joined := .walk s.walkDie }

/-- The state without the oldest walk of a die. -/
def State.popWalk (s : State) (die : Nat) : State := s.setDie die { s.die die with walks := (s.die die).walks.tail }

/-- A walk is made 128 cycles after its step's end, and after the earlier walks of its queue (R410). -/
def State.walkDue (s : State) (k : Walk) : Prop := k.fin + 128 ≤ s.cycle ∧ s.walkBehind k = false

theorem State.walkDue_iff (s : State) (k : Walk) : s.walkDue k ↔ ¬(decide (s.cycle < k.fin + 128) || s.walkBehind k) = true := by
  simp only [State.walkDue, Bool.or_eq_true, decide_eq_true_eq, not_or, Nat.not_lt, Bool.not_eq_true]

theorem exec_cordonnetWalk_none (none : (s.die s.walkDie).walks = []) : exec .cordonnetWalk s = .next s := by
  refine congrArg Host.Outcome.next ?_
  rw [State.walkDie] at none
  rw [State.walkStep, none]

section oldest
variable {k : Walk} {ks : List Walk} (oldest : (s.die s.walkDie).walks = k :: ks)
include oldest

theorem exec_cordonnetWalk_early (early : ¬s.walkDue k) : exec .cordonnetWalk s = .next s := by
  rw [State.walkDue_iff, not_not] at early
  rw [State.walkDie] at oldest
  refine congrArg Host.Outcome.next ?_
  rw [State.walkStep, oldest]
  exact if_pos early

variable (due : s.walkDue k)
include due

/-- The report of a queue that is gone is dropped. -/
theorem exec_cordonnetWalk_drops (gone : (s.queue (stepQueue k.step)).state = .free) :
    exec .cordonnetWalk s = .next (s.popWalk s.walkDie) := by
  rw [State.walkDie] at oldest
  refine congrArg Host.Outcome.next ?_
  rw [State.walkStep, oldest]
  exact (if_neg ((s.walkDue_iff k).mp due)).trans (if_pos (beq_iff_eq.mpr gone))

variable (used : (s.queue (stepQueue k.step)).state ≠ .free)
include used

theorem exec_cordonnetWalk_waits {y : Why} {v : State}
    (stalls : s.translate (s.reportAccess k) (s.queue (stepQueue k.step)).rpta = (.stall y, v)) :
    exec .cordonnetWalk s = .next v := by
  rw [State.walkDue_iff] at due
  simp only [State.reportAccess, State.walkParty, State.walkDie] at stalls oldest
  refine congrArg Host.Outcome.next ?_
  simp only [State.walkStep, oldest, if_neg due, beq_iff_eq, if_neg used, stalls]

variable {pa : Nat} {pte : DWord} {v : State}
  (maps : s.translate (s.reportAccess k) (s.queue (stepQueue k.step)).rpta = (.ok pa pte, v))
include maps

theorem exec_cordonnetWalk_reports (silent : k.tl = 0) : exec .cordonnetWalk s =
    .next ((v.writeHome pa (v.reportOf k s.reachable s.arg.remote) s.walkParty).popWalk s.walkDie) := by
  rw [State.walkDue_iff] at due
  simp only [State.reportAccess, State.walkParty, State.walkDie] at maps oldest
  refine congrArg Host.Outcome.next ?_
  simp only [State.walkStep, oldest, if_neg due, beq_iff_eq, if_neg used, maps, if_pos silent]
  rfl

/-- With a timeline the walk increments it after its report (R414). -/
theorem exec_cordonnetWalk_signals (signals : k.tl ≠ 0) {pb : Nat} {qte : DWord} {y : State}
    (timeline : v.translate (s.reportAccess k) k.tl = (.ok pb qte, y)) : exec .cordonnetWalk s =
      .next (((y.writeHome pa (y.reportOf k s.reachable s.arg.remote) s.walkParty).deviceInc pb s.walkParty).popWalk s.walkDie) := by
  rw [State.walkDue_iff] at due
  simp only [State.reportAccess, State.walkParty, State.walkDie] at maps timeline oldest
  refine congrArg Host.Outcome.next ?_
  simp only [State.walkStep, oldest, if_neg due, beq_iff_eq, if_neg used, maps, if_neg signals, timeline]
  rfl

end oldest

theorem State.reachable_iff (s : State) (card : Nat) : s.reachable card = true ↔
    (s.portOpen 1 = true ∧ s.arg.reach0.getLsbD card = true) ∨ (s.portOpen 2 = true ∧ s.arg.reach1.getLsbD card = true) := by
  rw [State.reachable, Bool.or_eq_true, Bool.and_eq_true, Bool.and_eq_true]

end walk

/-! ## The report (Tables 18-4, 18-5) -/

theorem Segment.bytes_length (g : Segment) (beg : Nat) : (g.bytes beg).length = 32 := by
  simp only [Segment.bytes, List.length_append, leBytes_length]

/-- A report is a header of 64 bytes and at most 126 segments of 32. -/
theorem reportBytes_length (step : Word) (beg fin e k : Nat) (segs : List Segment) :
    (reportBytes step beg fin e k segs).length = 64 + 32 * min segs.length 126 := by
  have segments : ((segs.take 126).flatMap fun g => g.bytes beg).length = min segs.length 126 * 32 := by
    simp only [List.length_flatMap, Segment.bytes_length, List.map_const', List.sum_replicate, List.length_take, smul_eq_mul,
      Nat.min_comm]
  simp only [reportBytes, List.length_append, leBytes_length, segments]
  omega

end Sys2Proof.Machine
end

section
/-! SUPPORT. The pager and the end of its service (R365, R366), and live migration (R367): what each event leaves, by the posts, the
requests and the leaf that a walk finds. -/

namespace Sys2Proof.Machine

/-! ## A frame filled -/

/-- A byte that the memory lists is its value. -/
theorem Memory.byte_of_mem {m : Memory} {lo b : Nat} {v : Byte} (wf : Memory.wfFrom lo m = true) (listed : (b, v) ∈ m) :
    m.byte b = v := by
  induction m generalizing lo with
  | nil => exact absurd listed List.not_mem_nil
  | cons e t ih =>
    obtain ⟨c, w⟩ := e
    simp only [Memory.wfFrom, Bool.and_eq_true] at wf
    obtain ⟨-, rest⟩ := wf
    rcases List.mem_cons.mp listed with first | later
    · cases first
      exact Memory.byte_cons_eq _ _ _
    · obtain ⟨-, above, -⟩ := Memory.wfFrom_iff.mp rest
      rw [Memory.byte_cons_gt _ _ (above _ later)]
      exact ih rest later

/-- A byte that the memory does not list reads 0. -/
theorem Memory.byte_of_not_mem {m : Memory} {b : Nat} (absent : ∀ v, (b, v) ∉ m) : m.byte b = 0 := by
  induction m with
  | nil => rfl
  | cons e t ih =>
    obtain ⟨c, w⟩ := e
    rcases Nat.lt_trichotomy b c with below | rfl | above
    · exact Memory.byte_cons_lt _ _ below
    · exact absurd List.mem_cons_self (absent w)
    · rw [Memory.byte_cons_gt _ _ above]
      exact ih fun v later => absent v (List.mem_cons_of_mem _ later)

/-- Two bytes are equal when their memories list them with the same values. -/
theorem Memory.byte_congr {m n : Memory} {a b : Nat} (wm : m.wf = true) (wn : n.wf = true)
    (same : ∀ v, (a, v) ∈ m ↔ (b, v) ∈ n) : m.byte a = n.byte b := by
  by_cases listed : ∃ v, (b, v) ∈ n
  · obtain ⟨v, listed⟩ := listed
    rw [Memory.byte_of_mem wn listed, Memory.byte_of_mem wm ((same v).mpr listed)]
  · rw [not_exists] at listed
    rw [Memory.byte_of_not_mem listed, Memory.byte_of_not_mem fun v => mt (same v).mp (listed v)]

theorem Memory.mem_slice {m : Memory} {a n b c : Nat} {v : Byte} :
    (c, v) ∈ m.slice a n b ↔ ∃ k, k < n ∧ (a + k, v) ∈ m ∧ c = b + k := by
  simp only [Memory.slice, List.mem_map, List.mem_filter, Bool.and_eq_true, decide_eq_true_eq, Prod.mk.injEq]
  constructor
  · rintro ⟨⟨d, w⟩, ⟨listed, from_, to_⟩, rfl, rfl⟩
    refine ⟨d - a, by omega, ?_, by omega⟩
    rwa [Nat.add_sub_cancel' from_]
  · rintro ⟨k, inside, listed, rfl⟩
    exact ⟨(a + k, v), ⟨listed, by omega, by omega⟩, by omega, rfl⟩

/-- A copy of a range has its bytes. -/
theorem Memory.byte_paste_slice {m u : Memory} (a old : Nat) {n k : Nat} (inside : k < n) (wm : m.wf = true) (wu : u.wf = true) :
    (u.paste a n (m.slice old n a)).byte (a + k) = m.byte (old + k) := by
  have within : ∀ e ∈ m.slice old n a, a ≤ e.1 ∧ e.1 < a + n := by
    rintro ⟨c, w⟩ listed
    obtain ⟨j, below, -, rfl⟩ := Memory.mem_slice.mp listed
    exact ⟨Nat.le_add_right _ _, Nat.add_lt_add_left below a⟩
  refine Memory.byte_congr (Memory.wf_paste a n wu (Memory.wf_slice old n a wm) within) wm fun v => ?_
  simp only [Memory.paste, List.mem_append, List.mem_filter, decide_eq_true_eq, Memory.mem_slice]
  constructor
  · rintro ((⟨-, below⟩ | ⟨j, -, listed, same⟩) | ⟨-, above⟩)
    · omega
    · rwa [Nat.add_left_cancel same]
    · omega
  · exact fun listed => .inl (.inr ⟨k, inside, listed, rfl⟩)

/-- A frame filled from a slice of the memory holds its bytes. -/
theorem State.byte_fillFrame (s : State) (f old : Nat) (who : Party) (wf : s.mem.wf = true) {k : Nat} (inside : k < 65536) :
    (s.fillFrame (65536 * f) (s.mem.slice old 65536 (65536 * f)) who).mem.byte (65536 * f + k) = s.mem.byte (old + k) :=
  Memory.byte_paste_slice (65536 * f) old inside wf (Memory.wf_clear _ _ wf)

/-! ## The pager (R365) -/

section pager
variable {s : State}

/-- The context of an event of the pages. -/
def State.pageCtx (s : State) : Context := s.ctx s.arg.ctx.toNat

/-- The next descriptor that the pager serves. -/
def State.pagerNext (s : State) : Nat := s.mem.nat (s.pageCtx.pageArea + 8) 8

/-- It was posted for the hardware pager. -/
def State.pagerPosted (s : State) : Prop := ∃ p ∈ s.pageCtx.posts, p.n = s.pagerNext ∧ p.hostMode = false

theorem State.pagerPosted_iff (s : State) :
    s.pagerPosted ↔ ¬(!s.pageCtx.posts.any fun p => p.n == s.pagerNext && !p.hostMode) = true := by
  simp only [State.pagerPosted, Bool.not_eq_true', Bool.not_eq_false, List.any_eq_true, Bool.and_eq_true, beq_iff_eq]

theorem exec_pagerService_unposted (unposted : ¬s.pagerPosted) : exec .pagerService s = .next s := by
  rw [State.pagerPosted_iff, not_not] at unposted
  exact congrArg Host.Outcome.next (if_pos unposted)

section posted
variable (posted : s.pagerPosted)
include posted

theorem exec_pagerService_waits (waits : s.servePage s.arg.ctx.toNat s.pagerNext = none) : exec .pagerService s = .next s := by
  refine congrArg Host.Outcome.next ((if_neg ((s.pagerPosted_iff).mp posted)).trans ?_)
  rw [State.pagerNext, State.pageCtx] at waits
  rw [waits]

theorem exec_pagerService_serves {r : Nat} {v : State} (serves : s.servePage s.arg.ctx.toNat s.pagerNext = some (r, v)) :
    exec .pagerService s = .next ((v.setHome (s.pageCtx.descAt s.pagerNext + 10) 1 r (v.pagerParty s.arg.ctx.toNat)).setHome
      (s.pageCtx.pageArea + 8) 8 (s.pagerNext + 1) (v.pagerParty s.arg.ctx.toNat)) := by
  refine congrArg Host.Outcome.next ((if_neg ((s.pagerPosted_iff).mp posted)).trans ?_)
  rw [State.pagerNext, State.pageCtx] at serves
  rw [serves]
  rfl

end posted

section absent
variable {c n : Nat} {pte : DWord} {leafAt : Nat}

/-- The backing word of an absent leaf. -/
def backOf (leafAt : Nat) : Nat := leafAt / 65536 * 65536 + 0x10000 + leafAt % 65536

/-- The pager can fill the leaf of descriptor `n`. -/
def State.pageFits (s : State) (c n : Nat) (pte : DWord) (leafAt : Nat) : Prop :=
  bitsOf (s.mem.word ((s.ctx c).descAt n + 8)) 2 2 = 2 ∧ fillable pte = true ∧ s.isBad (backOf leafAt) 8 = false

theorem State.pageFits_iff (s : State) (c n : Nat) (pte : DWord) (leafAt : Nat) : s.pageFits c n pte leafAt ↔
    ¬(bitsOf (s.mem.word ((s.ctx c).descAt n + 8)) 2 2 != 2 || !fillable pte || s.isBad (backOf leafAt) 8) = true := by
  simp only [State.pageFits, Bool.or_eq_true, bne_iff_ne, Bool.not_eq_true', not_or, not_not, Bool.not_eq_false,
    Bool.not_eq_true, and_assoc]

variable (leaf : s.walk (s.ctx c).ptroot.toNat (bitsOf (s.mem.word ((s.ctx c).descAt n)) 0 55) = .absent 2 pte leafAt)
include leaf

theorem State.servePage_unfit (unfit : ¬s.pageFits c n pte leafAt) : s.servePage c n = some (2, s) := by
  rw [State.pageFits_iff, not_not] at unfit
  rw [State.servePage, leaf]
  exact if_pos unfit

variable (fits : s.pageFits c n pte leafAt)
include fits

theorem State.servePage_fits : s.servePage c n =
    if s.portTraining 0 then none else if !s.portOpen 0 then some (2, s)
    else some (1, s.fillPage c pte leafAt (bitsOf (s.mem.word (backOf leafAt)) 16 32 * 65536)) := by
  rw [State.servePage, leaf]
  exact if_neg ((s.pageFits_iff c n pte leafAt).mp fits)

theorem State.servePage_down (down : (s.port 0).state = .down) : s.servePage c n = some (2, s) := by
  rw [State.servePage_fits leaf fits, State.portTraining, State.portOpen, down]
  rfl

theorem State.servePage_fills (isOpen : (s.port 0).state = .up ∨ (s.port 0).state = .degraded) :
    s.servePage c n = some (1, s.fillPage c pte leafAt (bitsOf (s.mem.word (backOf leafAt)) 16 32 * 65536)) := by
  rw [State.servePage_fits leaf fits, State.portTraining, State.portOpen]
  rcases isOpen with up | degraded
  · rw [up]
    rfl
  · rw [degraded]
    rfl

/-- The fill waits while the host port trains. -/
theorem State.servePage_waits (trains : (s.port 0).state = .training ∨ (s.port 0).state = .retrain) : s.servePage c n = none := by
  rw [State.servePage_fits leaf fits, (s.portTraining_iff 0).mpr trains]
  rfl

end absent
end pager

/-! ## The end of a service (R366) -/

section observe
variable {s : State}

theorem exec_pageFaultServiceObserved_unposted (unposted : ∀ p ∈ s.pageCtx.posts, p.n ≠ s.arg.k) :
    exec .pageFaultServiceObserved s = .next s := by
  have none : (s.pageCtx.posts.find? fun p => p.n == s.arg.k) = none :=
    List.find?_eq_none.mpr fun p listed => mt beq_iff_eq.mp (unposted p listed)
  rw [State.pageCtx] at none
  refine congrArg Host.Outcome.next ?_
  simp only [State.observeService, none]

/-- The device has not yet observed the pager's index beyond the descriptor. -/
theorem exec_pageFaultServiceObserved_early (early : s.pagerNext ≤ s.arg.k) : exec .pageFaultServiceObserved s = .next s := by
  rw [State.pagerNext, State.pageCtx] at early
  refine congrArg Host.Outcome.next ?_
  simp only [State.observeService, if_pos early]
  split <;> rfl

/-- The state in which the records that the dispatcher could not write are written, if that is what joined. -/
def State.recordJoined (v : State) (j : Joined) : State :=
  match j with
  | .dispatcher job q => if job = jobRecord then v.flushRecords q (v.queue q).pendingRecords.length else v
  | _ => v

/-- What a served descriptor fails: with RESULT 1 nothing, with any other what still waits for its page. -/
def State.joinedFailed (s : State) (p : FaultPost) : List (Nat × Joined) :=
  if s.mem.byte (s.pageCtx.descAt s.arg.k + 10) = 1 then []
  else (p.joined.filter (s.stillJoined p.vpn)).map fun j => (p.vpn, j)

/-- The state without the descriptor. -/
def State.postServed (s : State) (p : FaultPost) : State :=
  s.setCtx s.arg.ctx.toNat { s.pageCtx with
    posts := s.pageCtx.posts.filter fun o => o.n != s.arg.k, failed := s.pageCtx.failed ++ s.joinedFailed p }

theorem exec_pageFaultServiceObserved_ends (served : s.arg.k < s.pagerNext) {p : FaultPost}
    (found : (s.pageCtx.posts.find? fun p => p.n == s.arg.k) = some p) : exec .pageFaultServiceObserved s = .next
      ((p.joined.foldl State.recordJoined (if .controller ∈ p.joined then
        (s.postServed p).payStat s.arg.ctx.toNat ((s.postServed p).ctx s.arg.ctx.toNat).owed else s.postServed p)).wakeJoined
          p.vpn p.joined) := by
  have late : ¬s.mem.nat ((s.ctx s.arg.ctx.toNat).pageArea + 8) 8 ≤ s.arg.k := Nat.not_le.mpr served
  rw [State.pageCtx] at found
  refine congrArg Host.Outcome.next ?_
  simp only [State.observeService, found, if_neg late, beq_iff_eq, List.contains_iff_mem]
  rfl

end observe

/-! ## Migration (R367) -/

section migration
variable {s : State}

/-- The next migration request of the context, its address and target, and the number of requests made. -/
def State.migrationNext (s : State) : Nat := s.mem.nat (s.pageCtx.pageArea + 0x8008) 8
def State.migrationMade (s : State) : Nat := s.mem.nat (s.pageCtx.pageArea + 0x8000) 8
def State.migrationAt (s : State) : Nat := s.pageCtx.reqAt s.migrationNext
def State.migrationPage (s : State) : DWord := s.mem.word s.migrationAt
def State.migrationTarget (s : State) : Nat := (s.mem.word (s.migrationAt + 8)).toNat

theorem exec_migrationRequest_untrusted (untrusted : s.pageCtx.trusted = false) : exec .migrationRequest s = .next s := by
  rw [State.pageCtx] at untrusted
  exact congrArg Host.Outcome.next (if_pos (by rw [untrusted]; rfl))

variable (trusted : s.pageCtx.trusted = true)
include trusted

theorem exec_migrationRequest_locked {l : MigLock} (locked : s.pageCtx.lock = some l) :
    exec .migrationRequest s = .next (s.finishMigration s.arg.ctx.toNat l) := by
  rw [State.pageCtx] at trusted locked
  refine congrArg Host.Outcome.next ((if_neg (by rw [trusted]; exact Bool.false_ne_true)).trans ?_)
  rw [locked]

section free
variable (free : s.pageCtx.lock = none)
include free

theorem exec_migrationRequest_free : exec .migrationRequest s = .next
    (if s.migrationNext < s.migrationMade then s.startMigration s.arg.ctx.toNat s.migrationNext else s) := by
  rw [State.pageCtx] at trusted free
  refine congrArg Host.Outcome.next ((if_neg (by rw [trusted]; exact Bool.false_ne_true)).trans ?_)
  rw [free]
  rfl

theorem exec_migrationRequest_idle (idle : s.migrationMade ≤ s.migrationNext) : exec .migrationRequest s = .next s := by
  rw [exec_migrationRequest_free trusted free, if_neg (Nat.not_lt.mpr idle)]

variable (made : s.migrationNext < s.migrationMade)
include made

theorem exec_migrationRequest_starts :
    exec .migrationRequest s = .next (s.startMigration s.arg.ctx.toNat s.migrationNext) := by
  rw [exec_migrationRequest_free trusted free, if_pos made]

end free

omit trusted

/-! ## The start of a migration -/

/-- A request is served when its target is a frame of the memory and no reserved byte is set. -/
def State.migrationFits (s : State) : Prop :=
  s.migrationTarget % 65536 = 0 ∧ s.migrationTarget < 2 ^ 39 ∧ s.mem.nat (s.migrationAt + 17) 15 = 0

theorem State.migrationFits_iff (s : State) : s.migrationFits ↔
    ¬(s.migrationTarget % 65536 != 0 || decide (2 ^ 39 ≤ s.migrationTarget) || s.mem.nat (s.migrationAt + 17) 15 != 0) = true := by
  rw [State.migrationFits, Bool.or_eq_true, Bool.or_eq_true, bne_iff_ne, bne_iff_ne, decide_eq_true_eq, not_or, not_or, not_not,
    not_not, Nat.not_le, and_assoc]

theorem State.startMigration_unmovable (unmovable : s.movable s.arg.ctx.toNat s.migrationPage = none) :
    s.startMigration s.arg.ctx.toNat s.migrationNext = s.endMigration s.arg.ctx.toNat s.migrationNext 2 := by
  rw [State.migrationPage, State.migrationAt, State.pageCtx] at unmovable
  simp only [State.startMigration, unmovable]

section movable
variable {pte : DWord} {leafAt : Nat} (moves : s.movable s.arg.ctx.toNat s.migrationPage = some (pte, leafAt))
include moves

theorem State.startMigration_movable : s.startMigration s.arg.ctx.toNat s.migrationNext =
    if s.migrationTarget % 65536 != 0 || 2 ^ 39 ≤ s.migrationTarget || s.mem.nat (s.migrationAt + 17) 15 != 0 then
      s.endMigration s.arg.ctx.toNat s.migrationNext 2
    else if !s.owned s.arg.ctx.toNat (ptePa pte / 65536) then
      (if (Assoc.get? s.zeroing (ptePa pte / 65536)).isSome then s
        else { s with zeroing := Assoc.set s.zeroing (ptePa pte / 65536) s.arg.ctx.toNat })
    else if 16 ≤ s.locksOf (Config.homeDie (ptePa pte)) then s
    else (s.setCtx s.arg.ctx.toNat { s.pageCtx with
      lock := some ⟨s.migrationNext, vpnOf s.migrationPage, leafAt, pte, s.migrationTarget⟩ }).dropPage
        s.arg.ctx.toNat (vpnOf s.migrationPage) := by
  rw [State.migrationPage, State.migrationAt, State.pageCtx] at moves
  rw [State.startMigration, moves]
  rfl

theorem State.startMigration_unfit (unfit : ¬s.migrationFits) :
    s.startMigration s.arg.ctx.toNat s.migrationNext = s.endMigration s.arg.ctx.toNat s.migrationNext 2 := by
  rw [State.migrationFits_iff, not_not] at unfit
  rw [State.startMigration_movable moves, if_pos unfit]

variable (fits : s.migrationFits)
include fits

/-- A frame that the context does not own yet is claimed first (R362). -/
theorem State.startMigration_claims (other : ¬s.owned s.arg.ctx.toNat (ptePa pte / 65536) = true) :
    s.startMigration s.arg.ctx.toNat s.migrationNext = if (Assoc.get? s.zeroing (ptePa pte / 65536)).isSome = true then s
      else { s with zeroing := Assoc.set s.zeroing (ptePa pte / 65536) s.arg.ctx.toNat } := by
  rw [State.migrationFits_iff] at fits
  rw [Bool.not_eq_true] at other
  rw [State.startMigration_movable moves, if_neg fits, other]
  rfl

variable (own : s.owned s.arg.ctx.toNat (ptePa pte / 65536) = true)
include own

theorem State.startMigration_waits (full : 16 ≤ s.locksOf (Config.homeDie (ptePa pte))) :
    s.startMigration s.arg.ctx.toNat s.migrationNext = s := by
  rw [State.migrationFits_iff] at fits
  rw [State.startMigration_movable moves, if_neg fits, own, if_pos full]
  rfl

theorem State.startMigration_locks (room : s.locksOf (Config.homeDie (ptePa pte)) < 16) :
    s.startMigration s.arg.ctx.toNat s.migrationNext = (s.setCtx s.arg.ctx.toNat { s.pageCtx with
      lock := some ⟨s.migrationNext, vpnOf s.migrationPage, leafAt, pte, s.migrationTarget⟩ }).dropPage
        s.arg.ctx.toNat (vpnOf s.migrationPage) := by
  rw [State.migrationFits_iff] at fits
  rw [State.startMigration_movable moves, if_neg fits, own, if_neg (Nat.not_le.mpr room)]
  rfl

end movable

/-! ## The end of a migration -/

/-- The state in which the page under a lock is copied to its new frame, with the errors of its sectors. -/
def State.migrated (s : State) (l : MigLock) : State :=
  let v := s.fillFrame l.target (s.mem.slice (ptePa l.pte) 65536 l.target) (controllerParty s)
  { v with bad := v.bad ++
      ((v.bad.filter fun k => k / 2048 == ptePa l.pte / 65536).map fun k => k % 2048 + l.target / 65536 * 2048) }

/-- The state with the page lock of a context released. -/
def State.unlockPage (s : State) (c : Nat) : State := s.setCtx c { s.ctx c with lock := none }

section finish
variable {l : MigLock}

/-- The leaf gets the new frame, which the context owns, and the old frame is freed. -/
def State.leafMoved (v : State) (c : Nat) (l : MigLock) : State :=
  let v := ((v.setHome l.at_ 8 (movedLeaf l.pte l.target).toNat (controllerParty v)).unlockPage c).dropPage c l.vpn
  let v := { v with owners := Assoc.set v.owners (l.target / 65536) (.ctx c), zeroing := Assoc.erase v.zeroing (l.target / 65536) }
  (v.noteZf (l.target / 65536) (pteZf l.pte)).freeFrame (ptePa l.pte / 65536) (pteZf l.pte)

theorem State.finishMigration_eq (c : Nat) (l : MigLock) : s.finishMigration c l =
    if (s.migrated l).mem.word l.at_ != l.pte then ((s.migrated l).unlockPage c).endMigration c l.n 3
    else ((s.migrated l).leafMoved c l).endMigration c l.n 1 := by
  rw [State.finishMigration]
  rfl

theorem State.finishMigration_changed (c : Nat) (changed : (s.migrated l).mem.word l.at_ ≠ l.pte) :
    s.finishMigration c l = ((s.migrated l).unlockPage c).endMigration c l.n 3 := by
  rw [State.finishMigration_eq, if_pos (bne_iff_ne.mpr changed)]

theorem State.finishMigration_moves (c : Nat) (same : (s.migrated l).mem.word l.at_ = l.pte) :
    s.finishMigration c l = ((s.migrated l).leafMoved c l).endMigration c l.n 1 := by
  rw [State.finishMigration_eq, if_neg (by rw [bne_iff_ne, not_not]; exact same)]

end finish
end migration

end Sys2Proof.Machine
end

section
/-! SUPPORT. The debug cores, the trace, the walks and the pages together. -/

namespace Sys2Proof.Machine

/-- Settles O59: a debug command by its checks and its task, an access by its space, a packet by the room of the ring, a walk by what
it may write, a descriptor and a migration request by the leaf that they name. -/
theorem debugTraceWalkPages : Obligations.DebugTraceWalkPages := by
  unfold Obligations.DebugTraceWalkPages
  intro s w b u idle admits
  refine ⟨fun i command => ⟨exec_debugCommand_busy command, exec_debugCommand_locked command,
      exec_debugCommand_reserved command⟩,
    fun again => ⟨fun i task => exec_debugTask_again task again, exec_accessMemory_again again⟩,
    fun admits unnamed i task => exec_debugTask_unnamed admits unnamed task, fun admits t named => ?target,
    fun r k => ⟨rfl, rfl, rfl, rfl, rfl, s.readDebug_numbered r⟩,
    fun r v => ⟨rfl, rfl, fun k => rfl, fun k => s.writeDebug_g r v, fun k => rfl, rfl⟩, exec_accessMemory_tries,
    fun v => ?memory, rfl, ?trace, ?walk, s.reachable_iff, reportBytes_length, ?pager, ?served, ?migration,
    fun f old who wf k => s.byte_fillFrame f old who wf⟩
  case target =>
    exact ⟨exec_debugHalt_halted admits named, exec_debugHalt_idle admits named, exec_debugHalt_halts admits named,
      fun runs i => exec_debugTask_runs admits named runs, fun d => exec_debugResume_resumes admits named,
      exec_accessRegister_unknown admits named, fun halted k known => ⟨exec_accessRegister_writes admits named halted known,
        exec_accessRegister_reads admits named halted known⟩⟩
  case memory =>
    intro d n at_ done waits fails read here
    refine ⟨fun reserved => State.tryMemory_ends (State.debugMemory_reserved reserved),
      fun space misaligned => State.tryMemory_ends (State.debugMemory_misaligned space misaligned),
      fun aligned => ⟨fun space unnamed => State.tryMemory_ends (State.debugMemory_unnamed aligned space unnamed),
        fun space t named => ?carve, fun space unmapped => ?unmapped, fun space pa pte maps => ?virtual,
        fun space inside => State.tryMemory_ends (State.debugMemory_physical aligned space inside),
        fun space outside => State.tryMemory_ends (State.debugMemory_outside aligned space outside), fun space => ?ring⟩,
      fun pa => ⟨State.debugHome_reads pa, State.debugHome_writes pa, State.debugHome_readsBad pa, State.debugHome_writesBad pa⟩⟩
    case carve =>
      have run := State.debugMemory_carve aligned space named
      exact ⟨fun outside => State.tryMemory_ends (run.trans (State.debugCarve_outside (Nat.not_le.mpr outside))),
        fun fits zeroing => State.tryMemory_waits (run.trans (State.debugCarve_zeroing fits zeroing)),
        fun fits still bad => State.tryMemory_ends (run.trans (State.debugCarve_bad fits still bad)),
        fun ⟨fits, still, sound⟩ reads => State.tryMemory_ends (run.trans
          (State.debugCarve_reads fits still (fun ⟨a, listed, within⟩ => sound a listed within) reads)),
        fun ⟨fits, still, sound⟩ writes => State.tryMemory_ends (run.trans
          (State.debugCarve_writes fits still (fun ⟨a, listed, within⟩ => sound a listed within) writes))⟩
    case unmapped =>
      exact State.tryMemory_ends ((State.debugMemory_virtual aligned space).trans (State.debugVirtual_unmapped unmapped))
    case virtual =>
      have run := State.debugMemory_virtual aligned space
      exact ⟨fun no => State.tryMemory_ends (run.trans (State.debugVirtual_refuses maps no)),
        fun may locked => State.tryMemory_waits (run.trans (State.debugVirtual_waits maps may locked)),
        fun may free => State.tryMemory_ends (run.trans (State.debugVirtual_reaches maps may free))⟩
    case ring =>
      have run := State.debugMemory_ring aligned space
      exact ⟨fun elsewhere => State.tryMemory_ends (run.trans (congrArg some (State.debugRing_elsewhere elsewhere))),
        fun here no => State.tryMemory_ends (run.trans (congrArg some (State.debugRing_refuses here no))),
        fun here reads e present => State.tryMemory_ends (run.trans (congrArg some (State.debugRing_reads here reads present)))⟩
  case trace =>
    exact ⟨exec_tracePacketWrite_empty, exec_tracePacketWrite_full, fun fits p rest => exec_tracePacketWrite_writes fits, rfl⟩
  case walk =>
    refine ⟨exec_cordonnetWalk_none, fun k ks oldest => ⟨exec_cordonnetWalk_early oldest, exec_cordonnetWalk_drops oldest,
      fun due used pa pte v maps => ⟨exec_cordonnetWalk_reports oldest due used maps, fun signals pb qte y =>
        exec_cordonnetWalk_signals oldest due used maps signals⟩,
      fun due used y v => exec_cordonnetWalk_waits oldest due used⟩⟩
  case pager =>
    refine ⟨exec_pagerService_unposted, exec_pagerService_waits, fun posted r v => exec_pagerService_serves posted,
      fun pte leafAt leaf => ⟨State.servePage_unfit leaf, State.servePage_down leaf, State.servePage_fills leaf,
        State.servePage_waits leaf⟩⟩
  case served =>
    exact ⟨exec_pageFaultServiceObserved_unposted, exec_pageFaultServiceObserved_early, fun served p =>
      exec_pageFaultServiceObserved_ends served⟩
  case migration =>
    refine ⟨exec_migrationRequest_untrusted, exec_migrationRequest_idle, fun trusted free made => ?starts,
      fun trusted l locked => ?finishes⟩
    case starts =>
      have run := exec_migrationRequest_starts trusted free made
      refine ⟨fun unmovable => run.trans (congrArg _ (State.startMigration_unmovable unmovable)), fun pte leafAt moves =>
        ⟨fun unfit => run.trans (congrArg _ (State.startMigration_unfit moves unfit)),
        fun fits other => run.trans (congrArg _ (State.startMigration_claims moves fits other)),
        fun fits own full => run.trans (congrArg _ (State.startMigration_waits moves fits own full)),
        fun fits own room => run.trans (congrArg _ (State.startMigration_locks moves fits own room))⟩⟩
    case finishes =>
      have run := exec_migrationRequest_locked trusted locked
      exact ⟨fun changed => run.trans (congrArg _ (State.finishMigration_changed _ changed)),
        fun same => run.trans (congrArg _ (State.finishMigration_moves _ same))⟩

end Sys2Proof.Machine
end

section
/-! SUPPORT. Scalar integer and predicate instructions: what runs (R98 to R103, R107, Tables 4-4 and 4-8). -/

namespace Sys2Proof.Machine

/-- Settles O1: each two-source instruction runs the one body of its table, whose lemma gives what it leaves. -/
theorem integerTwoSource : Obligations.IntegerTwoSource := by
  unfold Obligations.IntegerTwoSource
  intro s x y e he ha hr
  have run : exec e.1 s = runStrand e.1.view (intBody e.2.2 e.2.1) s := by
    fin_cases he <;> rfl
  rw [run]
  exact runStrand_next ha (intBody_ok e.2.2 hr)

/-- Settles O2: each instruction runs its body, whose lemma gives its value. -/
theorem integerOther : Obligations.IntegerOther := by
  unfold Obligations.IntegerOther
  intro s x y
  refine ⟨fun e he ha hr => ?unary, fun e he ha hr => ?bfi, fun e he ha hr => ?sel, fun e he ha hr => ?cmp,
    fun ha hr => ⟨fun v hv => ?imm, fun w hw => ?lit⟩, fun w hw ha hr => ?hi, fun i hi ha => ?nop⟩
  case unary =>
    have run : exec e.1 s = runStrand e.1.view (unaryBody e.2.2 e.2.1) s := by fin_cases he <;> rfl
    rw [run]
    exact runStrand_next ha (unaryBody_ok e.2.2 hr)
  case bfi =>
    have run : exec e.1 s = runStrand e.1.view (bfiBody e.2) s := by fin_cases he <;> rfl
    rw [run]
    exact runStrand_next ha (bfiBody_ok hr)
  case sel =>
    have run : exec e.1 s = runStrand e.1.view (selBody e.2) s := by fin_cases he <;> rfl
    rw [run]
    exact runStrand_next ha (selBody_ok hr)
  case cmp =>
    have run : exec e.1 s = runStrand e.1.view (cmpBody e.2) s := by fin_cases he <;> rfl
    rw [run]
    exact runStrand_next ha (cmpBody_ok hr)
  case imm =>
    have body := moviBody_ok hr
    rw [hv] at body
    exact runStrand_next ha body
  case lit =>
    have body := moviBody_ok hr
    rw [hw] at body
    exact runStrand_next ha body
  case hi =>
    have body := moviHiBody_ok hr
    rw [hw] at body
    exact runStrand_next ha body
  case nop =>
    have run : exec i s = runStrand i.view nopBody s := by fin_cases hi <;> rfl
    rw [run]
    exact runStrand_next ha rfl

end Sys2Proof.Machine
end

section
/-! SUPPORT. Banks of predicates, and the predicate instructions (R107, Table 4-8). -/

namespace Sys2Proof.Machine

/-- p0 is always true (R66). -/
theorem Strand.pred_zero (d : Strand) : d.pred 0 = true := rfl

/-- A number summed up from bits holds those bits and no other. -/
theorem sum_of_bits (f : Nat → Bool) (n : Nat) :
    let w := (List.range n).foldl (fun w j => w + (if f j then 2 ^ j else 0)) 0
    w < 2 ^ n ∧ ∀ j, j < n → w.testBit j = f j := by
  induction n with
  | zero => exact ⟨Nat.one_pos, fun j h => absurd h (Nat.not_lt_zero j)⟩
  | succ n ih =>
    obtain ⟨below, bits⟩ := ih
    rw [List.range_succ, List.foldl_append, List.foldl_cons, List.foldl_nil]
    generalize (List.range n).foldl (fun w j => w + (if f j then 2 ^ j else 0)) 0 = w at below bits
    have sum : w + (if f n then 2 ^ n else 0) = 2 ^ n * (f n).toNat + w := by
      cases f n
      · simp
      · simp [Nat.add_comm]
    have most : (f n).toNat ≤ 1 := Bool.toNat_le _
    refine ⟨by rw [Nat.pow_succ]; split <;> omega, fun j h => ?_⟩
    simp only [sum, Nat.testBit_two_pow_mul_add _ below]
    split
    · exact bits j ‹_›
    · obtain rfl : j = n := by omega
      cases f j <;> simp

/-- A predicate after some of a bank are written: p0 stays as it is. -/
theorem pred_writes (d : Strand) (base : Nat) (v : DWord) {n m : Nat} (hn : base + n ≤ 96) (hm : m < 96) :
    ((List.range n).foldl (fun (d : Strand) j => d.writeP (base + j) (v.getLsbD j)) d).pred m =
      if base ≤ m ∧ m < base + n ∧ m ≠ 0 then v.getLsbD (m - base) else d.pred m := by
  induction n with
  | zero => rw [if_neg (by omega)]; rfl
  | succ n ih =>
    rw [List.range_succ, List.foldl_append, List.foldl_cons, List.foldl_nil, writeP_pred _ _ (by omega) hm, ih (by omega)]
    by_cases last : base + n = m
    · subst last
      by_cases zero : base + n = 0
      · rw [if_neg (by omega), if_neg (by omega), if_neg (by omega)]
      · rw [if_pos (by omega), if_pos (by omega), Nat.add_sub_cancel_left]
    · rw [if_neg (by omega)]
      exact if_congr (by omega) rfl rfl

theorem Strand.readBank_spec (d : Strand) (base : Nat) :
    d.readBank base < 2 ^ 32 ∧ ∀ j, j < 32 → (d.readBank base).testBit j = d.pred (base + j) :=
  sum_of_bits (fun j => d.pred (base + j)) 32

/-- A predicate after its bank is written. -/
theorem Strand.pred_writeBank (d : Strand) (v : DWord) {base n : Nat} (hb : base ≤ 64) (hn : n < 96) :
    (d.writeBank base v).pred n =
      if base ≤ n ∧ n < base + 32 ∧ n ≠ 0 then v.getLsbD (n - base) else d.pred n :=
  pred_writes d base v (by omega) hn

/-- Settles O7: each instruction runs its body, whose lemma gives its predicate; a bank is its predicates one by one. -/
theorem predicateResults : Obligations.PredicateResults := by
  unfold Obligations.PredicateResults
  refine ⟨fun s x y => ⟨fun e he ha => ?two, fun e he ha => ?pnot, fun e he ha => ?pmov, fun e he ha => ?pset⟩,
    fun x d b hb => ?operands, fun d v => ⟨d.pred_zero, fun base hb => ?bank⟩⟩
  case two =>
    have run : exec e.1 s = runStrand e.1.view (predBody e.2.2 e.2.1) s := by fin_cases he <;> rfl
    rw [run]
    exact runStrand_next ha (predBody_ok e.2.2 e.2.1 s)
  case pnot =>
    have run : exec e.1 s = runStrand e.1.view (pnotBody e.2) s := by fin_cases he <;> rfl
    rw [run]
    exact runStrand_next ha (pnotBody_ok e.2 s)
  case pmov =>
    have run : exec e.1 s = runStrand e.1.view (pmovBody e.2) s := by fin_cases he <;> rfl
    rw [run]
    exact ⟨fun k => runStrand_next ha (pmovBody_pred k), fun k hr => runStrand_next ha (pmovBody_toBank k hr),
      fun k hr => runStrand_next ha (pmovBody_fromBank (by rw [k]; decide) (by rw [k]; decide) hr)⟩
  case pset =>
    have run : exec e.1 s = runStrand e.1.view (psetBody e.2) s := by fin_cases he <;> rfl
    rw [run]
    exact ⟨fun k => runStrand_next ha (psetBody_const k), fun k hr => runStrand_next ha (psetBody_reg k hr)⟩
  case operands =>
    simp only [predA, predB, hb]
    cases x.sub.getLsbD 0 <;> cases x.sub.getLsbD 1 <;> simp
  case bank =>
    have top : base ≤ 64 := by fin_cases hb <;> decide
    obtain ⟨below, bits⟩ := d.readBank_spec base
    refine ⟨below, fun j h => ⟨bits j h, ?_⟩, fun n hn out => ?_⟩
    · rw [d.pred_writeBank v top (by omega)]
      by_cases zero : base + j = 0
      · rw [if_neg (by omega), if_pos zero, zero, d.pred_zero]
      · rw [if_pos (by omega), if_neg zero, Nat.add_sub_cancel_left]
    · rw [d.pred_writeBank v top hn, if_neg (by omega)]

end Sys2Proof.Machine
end

section
/-! SUPPORT. Atomics on the card (R133, R140 to R142, R253), and their values (Table 5-5). -/

namespace Sys2Proof.Machine

/-- An admitted atomic on a member's memory names the member by a register (R71). -/
theorem atomicMember_of_admits {s : State} {x : Amo} (h : s.admits (.amo 0x5D x) = true) : x.b ≠ 0x1FF := by
  have k : amoOperandsOk 0x5D x = true := operandsOk_of_admits h rfl nofun
  intro e
  simp [amoOperandsOk, indexOk, isG, e] at k

theorem isCas_iff (f : BitVec 4) : f.toNat = 2 ↔ f = 2 :=
  ⟨fun h => BitVec.eq_of_toNat_eq h, fun h => by rw [h]; rfl⟩

/-- A compare that fails is the one atomic that stores nothing (R142). -/
theorem stores_iff {f : BitVec 4} {new old : Nat} : (new != old || f.toNat != 2) = true ↔ ¬(f = 2 ∧ new = old) := by
  rw [Bool.or_eq_true, bne_iff_ne, bne_iff_ne, ne_eq, ne_eq, isCas_iff]
  tauto

theorem atomicLoc_pad (core lo : Nat) (shared : Bool) (f : BitVec 4) (size x y : Nat) (s : State) :
    atomicLoc (.pad core lo shared) f.toNat size x y s =
      (let q := s.clearFor s.cur (.pad core lo shared) size
       let old := (q.core core).pad.nat lo size
       let new := atomicNew f.toNat (8 * size) old x y
       .ok old (if f = 2 ∧ new = old then q else q.storePad ⟨core, lo, true⟩ size new)) := by
  simp only [atomicLoc, stores_iff, ite_not]
  rfl

theorem atomicLoc_home (pa : Nat) (pte : DWord) (f : BitVec 4) (size x y : Nat) (s : State) :
    atomicLoc (.home pa pte) f.toNat size x y s =
      (let q := s.clearFor s.cur (.home pa pte) size
       let old := q.mem.nat pa size
       let new := atomicNew f.toNat (8 * size) old x y
       .ok old (q.atomicHome q.curTask.core pa (if f = 2 ∧ new = old then [] else leBytes new size) (q.strandParty q.cur))) := by
  simp only [atomicLoc, stores_iff, ite_not]

/-- An atomic on the card, whose place is found, when what it does there is known. -/
theorem atomicBody_at {op : Nat} {x : Amo} {s s1 t : State} {l : Loc} {sp : Space} {old : Nat}
    (hsp : amoSpace op = sp) (hx : sp ≠ .x) (hh : sp ≠ .h) (hn : sp = .n → x.b ≠ 0x1FF)
    (hr : s.ready (indexedCodes x.a x.b ++ [x.d.toNat] ++ (if x.func = 2 then [x.d.toNat + 1] else [])) (some x.d.toNat) = true)
    (hl : resolve ⟨op, sp, if sp = .n then s.memberOf x.b else 0,
      s.accessAddress sp x.a x.b (x.off.signExtend 64) (2 ^ x.size.toNat), 2 ^ x.size.toNat, true, true⟩ s = .ok (.ok l) s1)
    (hf : s1.flushDone (x.ord != 0) (scopeOf x.scope.toNat) = true) (hk : ∀ a b c, l ≠ .link a b c)
    (ht : atomicLoc l x.func.toNat (2 ^ x.size.toNat) (storeData (2 ^ x.size.toNat) (s.source x.d.toNat))
      (if x.func = 2 then storeData (2 ^ x.size.toNat) (s.source (x.d.toNat + 1)) else 0)
      (s1.ordered (x.ord.getLsbD 1) x.scope.toNat) = .ok old t) :
    atomicBody op x s = .ok .next
      (((t.popCodes (indexedCodes x.a x.b ++ [x.d.toNat] ++ (if x.func = 2 then [x.d.toNat + 1] else []))).writeDst x.d.toNat
        (BitVec.ofNat 64 old)).ordered (x.ord.getLsbD 0) x.scope.toNat) := by
  obtain ⟨old', t', ht', body⟩ := atomicBody_card hsp hx hh hn rfl hr rfl hl hf hk
  obtain ⟨rfl, rfl⟩ := EStateM.Result.ok.inj (ht'.symm.trans ht)
  exact body

/-- Settles O20: each atomic runs its body at its place, and what it does there is one operation. -/
theorem scratchpadAtomics : Obligations.ScratchpadAtomics := by
  unfold Obligations.ScratchpadAtomics
  intro s x p d size codes hr hf e he ha hp
  have at_place {sp : Space} (hp : s.padPlace sp (s.memberOf x.b) (s.accessAddress sp x.a x.b (x.off.signExtend 64) size) size
      true = some p) (op : Nat) := resolve_pad (x := ⟨op, sp, _, _, size, true, true⟩) ((padPlace_member ..).trans hp)
  simp only [List.mem_cons, List.not_mem_nil, or_false] at he
  rcases he with rfl | rfl
  · exact runStrand_next ha (atomicBody_at rfl nofun nofun nofun hr (at_place hp _) hf nofun (atomicLoc_pad ..))
  · exact runStrand_next ha (atomicBody_at rfl nofun nofun (fun _ => atomicMember_of_admits ha) hr (at_place hp _) hf nofun
      (atomicLoc_pad ..))

/-- Settles O24: `amg` runs its body at the home of its address. -/
theorem deviceAtomics : Obligations.DeviceAtomics := by
  unfold Obligations.DeviceAtomics
  intro s s1 x pte pa d size codes a hr ha aligned ht hb hf
  exact runStrand_next ha (atomicBody_at rfl nofun nofun nofun hr (resolve_home aligned rfl ht hb) hf nofun (atomicLoc_home ..))

/-- The signed value of the bits of a word. -/
theorem signedBits_toNat {w : Nat} (a : BitVec w) (h : 0 < w) : signedBits w a.toNat = a.toInt := by
  have half : 2 ^ w = 2 * 2 ^ (w - 1) := by rw [← Nat.pow_succ']; congr 1; omega
  rw [signedBits, Nat.mod_eq_of_lt a.isLt, BitVec.toInt_eq_toNat_cond]
  exact if_congr (by omega) rfl rfl

theorem ofNat_ite {w : Nat} (c : Prop) [Decidable c] (a b : BitVec w) :
    BitVec.ofNat w (if c then a.toNat else b.toNat) = if c then a else b := by
  split <;> rw [BitVec.ofNat_toNat, BitVec.setWidth_eq]

/-- Settles O21: each function on the numbers of two words is the operation on the words. -/
theorem atomicValues : Obligations.AtomicValues := by
  unfold Obligations.AtomicValues
  intro w a x y hw new
  have signed := fun a => signedBits_toNat (w := w) a hw
  refine ⟨?sum, ?swap, ?cas, ?smin, ?smax, ?umin, ?umax, ?and, ?or, ?xor⟩
  case sum => exact BitVec.eq_of_toNat_eq (by simp [new, atomicNew])
  case swap => simp [new, atomicNew]
  case cas => simp [new, atomicNew, ofNat_ite, BitVec.toNat_inj]
  case smin => simp [new, atomicNew, signed, ofNat_ite, BitVec.slt_iff_toInt_lt]
  case smax => simp [new, atomicNew, signed, ofNat_ite, BitVec.slt_iff_toInt_lt]
  case umin =>
    simp only [new, atomicNew, BitVec.ult_iff_toNat_lt, ← ofNat_ite]
    congr 1; split <;> omega
  case umax =>
    simp only [new, atomicNew, BitVec.ult_iff_toNat_lt, ← ofNat_ite]
    congr 1; split <;> omega
  case and => exact BitVec.eq_of_toNat_eq (by simp [new, atomicNew])
  case or => exact BitVec.eq_of_toNat_eq (by simp [new, atomicNew])
  case xor => exact BitVec.eq_of_toNat_eq (by simp [new, atomicNew])

end Sys2Proof.Machine
end

section
/-! SUPPORT. Loads from and stores to device memory (R127, R131 to R140, R253). -/

namespace Sys2Proof.Machine

/-- A load of device memory that has nothing older pending and returns at once. -/
theorem State.loadIn_home {s : State} {d pa n : Nat} {pte : DWord} (h : s.curStrand.calm = true)
    (k : ¬(s.defer = true ∧ d ≠ 0 ∧ d ≤ 63)) :
    s.loadIn d (.home pa pte) n =
      (s.loadG s.curTask.ctx s.curTask.core pa n (pteUc pte)).2.writeDst d
        (BitVec.ofNat 64 (s.loadG s.curTask.ctx s.curTask.core pa n (pteUc pte)).1) := by
  rw [State.loadIn_now k, State.loadNow_calm h]
  rfl

/-- Settles O22: each load runs its body at the home of its address. -/
theorem deviceLoads : Obligations.DeviceLoads := by
  unfold Obligations.DeviceLoads
  intro s s1 x va pte pa hr size codes a e he ha aligned hv ht hb hf
  have run : exec e.1 s = .next (s.retire (((s1.popCodes codes).loadIn x.d.toNat (.home pa pte) size).ordered (x.ord == 1)
      x.scope.toNat) e.1.view .next) := by
    simp only [List.mem_cons, List.not_mem_nil, or_false] at he
    rcases he with rfl | rfl
    · exact runStrand_next ha (loadBody_card rfl nofun nofun nofun hr rfl (resolve_home aligned hv ht hb) hf nofun)
    · exact runStrand_next ha (loadBody_card rfl nofun nofun nofun hr rfl (resolve_home aligned hv ht hb) hf nofun)
  refine ⟨run, fun hc hd => ?_⟩
  have now : ¬((s1.popCodes codes).defer = true ∧ x.d.toNat ≠ 0 ∧ x.d.toNat ≤ 63) := by
    rw [popCodes_defer]
    rintro ⟨h1, h2, h3⟩
    rcases hd with hd | hd | hd
    · exact absurd h1 (by rw [hd]; decide)
    · exact h2 (by rw [hd]; rfl)
    · omega
  rw [run, State.loadIn_home (by rwa [popCodes_curStrand]) now]

/-- Settles O23: each store runs its body at the home of its address. -/
theorem deviceStores : Obligations.DeviceStores := by
  unfold Obligations.DeviceStores
  intro s q s1 x v va pte pa hi size a e he ha aligned hv ht hb hf m
  have run : exec e.1 s = .next (s.retire (m.storeOut (.home pa pte) size (storeData size v)) e.1.view .next) := by
    simp only [List.mem_cons, List.not_mem_nil, or_false] at he
    rcases he with rfl | rfl
    · exact runStrand_next ha (storeBody_card rfl nofun nofun nofun hi rfl (resolve_home aligned hv ht hb) hf nofun)
    · exact runStrand_next ha (storeBody_card rfl nofun nofun nofun hi rfl (resolve_home aligned hv ht hb) hf nofun)
  refine ⟨run, fun hc hl => ?_⟩
  rw [run, State.storeOut_now hc hl]
  rfl

end Sys2Proof.Machine
end

section
/-! SUPPORT. Accesses over a link: when they go out and when their completion has come (R136 to R138, R143, R372 to R378). -/

namespace Sys2Proof.Machine

theorem indexCodes_host (a b : BitVec 9) : a.toNat :: indexCodes .h b = indexedCodes a b :=
  indexedCodes_eq (sp := .h) nofun a b

/-- The operand registers of an atomic, as a list. -/
theorem atomicCodes_host (y : Amo) :
    y.a.toNat :: indexCodes .h y.b ++ [y.d.toNat] ++ (if y.func.toNat = 2 then [y.d.toNat + 1] else []) =
      indexedCodes y.a y.b ++ y.d.toNat :: if y.func = 2 then [y.d.toNat + 1] else [] := by
  rw [indexCodes_host, if_congr (isCas_iff y.func) rfl rfl, List.append_assoc, List.singleton_append]

theorem atomicCodes_peer (y : Amo) :
    y.a.toNat :: indexCodes .x y.b ++ [y.d.toNat] ++ (if y.func.toNat = 2 then [y.d.toNat + 1] else []) =
      y.a.toNat :: y.d.toNat :: if y.func = 2 then [y.d.toNat + 1] else [] := by
  rw [if_congr (isCas_iff y.func) rfl rfl]; rfl

/-- The address of a host access without a data register. -/
theorem accessOf_host_only (op : Nat) (s : State) (a b : BitVec 9) (off : DWord) (size : Nat) :
    accessOf op .h b off size ((indexedCodes a b).map s.source) =
      { op, space := .h, a := s.indexedAddress a b off size, size } := by
  rw [← accessOf_host op s a b off size [], List.append_nil]

/-- An atomic that no link carries traps before it looks at its address (R143). -/
theorem atomicBody_noLink {op : Nat} {x : Amo} {s : State} {codes : List Nat} (hx : amoSpace op = .x ∨ amoSpace op = .h)
    (hn : s.unanswered)
    (hc : x.a.toNat :: indexCodes (amoSpace op) x.b ++ [x.d.toNat] ++ (if x.func.toNat = 2 then [x.d.toNat + 1] else []) = codes)
    (hr : s.ready codes (some x.d.toNat) = true) (hk : linkAtomic x.func.toNat = none) :
    atomicBody op x s = .error (.trap (trapOf 24 { accessOf op (amoSpace op) x.b (x.off.signExtend 64) (2 ^ x.size.toNat)
      (codes.map s.source) with write := true }.value)) s := by
  obtain ⟨hn, hh⟩ := hn
  rw [atomicBody]
  rcases hx with hx | hx <;> simp only [hx] at hc ⊢ <;>
    rw [bind_ok (linkAnswer_ok hn), hc, bind_ok (peekOperands_ok hr)] <;> rcases hh with hh | hh <;> rw [hh] <;>
    simp only [hk] <;> rfl

/-- The AtomicOps that a link carries (R143). -/
theorem linkAtomic_iff (f : Nat) :
    (linkAtomic f = some .fetchAdd ↔ f = 0) ∧ (linkAtomic f = some .swap ↔ f = 1) ∧ (linkAtomic f = some .cas ↔ f = 2) := by
  match f with
  | 0 => decide
  | 1 => decide
  | 2 => decide
  | n + 3 => simp [linkAtomic]

/-- Settles O25: each access sends its request in its body, at what its address resolves to. -/
theorem linkRequests : Obligations.LinkRequests := by
  unfold Obligations.LinkRequests
  intro s q s1 x y pa pte v up peer host peerOk hostOk size off a h k pop data hn hh
  refine ⟨fun ha hr ok hf => ?ldx, fun ha hr ok hf => ?ldh, fun ha hi ok hf => ?stx, fun ha hi ok hf => ?sth, ?atomics⟩
  case ldx =>
    obtain ⟨aligned, valid, within, _, port⟩ := ok
    have place := resolve_peer (x := ⟨0x58, .x, x.b.toNat, a, size, false, true⟩) rfl aligned valid within nofun port
    have sends := loadBody_link (op := 0x58) rfl (.inl rfl) ⟨hn, hh⟩ rfl hr rfl place hf
    exact runStrand_holdOn ha sends
  case ldh =>
    obtain ⟨aligned, maps, port⟩ := ok
    have place := resolve_host (x := ⟨0x5A, .h, 0, h, size, false, true⟩) rfl aligned maps port
    have sends := loadBody_link (op := 0x5A) (sp := .h) rfl (.inr rfl) ⟨hn, hh⟩ (indexCodes_host x.a x.b) hr
      (accessOf_host_only ..) place hf
    exact runStrand_holdOn ha sends
  case stx =>
    obtain ⟨aligned, valid, within, writable, port⟩ := ok
    have place := resolve_peer (x := ⟨0x59, .x, x.b.toNat, a, size, true, false⟩) rfl aligned valid within writable port
    have sends := storeBody_link (op := 0x59) rfl (.inl rfl) ⟨hn, hh⟩ rfl hi rfl place hf
    exact runStrand_holdOn ha sends
  case sth =>
    obtain ⟨aligned, maps, port⟩ := ok
    have place := resolve_host (x := ⟨0x5B, .h, 0, h, size, true, false⟩) rfl aligned maps port
    have sends := storeBody_link (op := 0x5B) (sp := .h) rfl (.inr rfl) ⟨hn, hh⟩ (indexCodes_host x.a x.b) hi
      (by rw [accessOf_host_only]) place hf
    exact runStrand_holdOn ha sends
  case atomics =>
    intro n d more b c z w
    refine ⟨fun f hk => ⟨fun ha hr ok hf => ?amx, fun ha hr ok hf => ?amh⟩,
      fun hk => ⟨fun ha hr => ?noPeer, fun ha hr => ?noHost⟩, fun f => (linkAtomic_iff f).1,
      fun f => (linkAtomic_iff f).2.1, fun f => (linkAtomic_iff f).2.2⟩
    case amx =>
      obtain ⟨aligned, valid, within, writable, port⟩ := ok
      have place := resolve_peer (x := ⟨0x5F, .x, y.b.toNat, b, n, true, true⟩) rfl aligned valid within writable port
      have sends := atomicBody_link (op := 0x5F) rfl (.inl rfl) ⟨hn, hh⟩ (atomicCodes_peer y) hr hk rfl place hf
      rw [if_congr (isCas_iff y.func) rfl rfl] at sends
      exact runStrand_holdOn ha sends
    case amh =>
      obtain ⟨aligned, maps, port⟩ := ok
      have place := resolve_host (x := ⟨0x60, .h, 0, c, n, true, true⟩) rfl aligned maps port
      have sends := atomicBody_link (op := 0x60) (sp := .h) rfl (.inr rfl) ⟨hn, hh⟩ (atomicCodes_host y) hr hk
        (by rw [accessOf_host]) place hf
      rw [if_congr (isCas_iff y.func) rfl rfl] at sends
      exact runStrand_holdOn ha sends
    case noPeer =>
      have traps := atomicBody_noLink (op := 0x5F) (.inl rfl) ⟨hn, hh⟩ (atomicCodes_peer y) hr hk
      exact runStrand_raiseKeep ha traps
    case noHost =>
      have traps := atomicBody_noLink (op := 0x60) (.inr rfl) ⟨hn, hh⟩ (atomicCodes_host y) hr hk
      rw [show amoSpace 0x60 = .h from rfl, accessOf_host] at traps
      exact runStrand_raiseKeep ha traps

/-- Settles O26: an access whose completion has come goes on, or takes the trap that it names, in its body. -/
theorem linkCompletions : Obligations.LinkCompletions := by
  unfold Obligations.LinkCompletions
  intro s q x y v w hn
  refine ⟨fun e he ha hr => ?loads, fun e he ha hi => ?stores, fun e he ha hr => ?atomics⟩
  case loads =>
    simp only [List.mem_cons, List.not_mem_nil, or_false] at he
    rcases he with rfl | rfl
    · exact ⟨fun hh => runStrand_next ha (loadBody_answered (.inl rfl) hn rfl hr hh),
        fun c hh => runStrand_raiseKeep ha (loadBody_failed (.inl rfl) hn rfl hr hh)⟩
    · exact ⟨fun hh => runStrand_next ha (loadBody_answered (.inr rfl) hn (indexCodes_host x.a x.b) hr hh),
        fun c hh => runStrand_raiseKeep ha (loadBody_failed (.inr rfl) hn (indexCodes_host x.a x.b) hr hh)⟩
  case stores =>
    simp only [List.mem_cons, List.not_mem_nil, or_false] at he
    rcases he with rfl | rfl
    · exact ⟨fun hh => runStrand_next ha (storeBody_answered (.inl rfl) hn rfl hi hh),
        fun c hh => runStrand_trapData (t := none) ha (storeBody_failed (.inl rfl) hn rfl hi hh)⟩
    · exact ⟨fun hh => runStrand_next ha (storeBody_answered (.inr rfl) hn (indexCodes_host x.a x.b) hi hh),
        fun c hh => runStrand_trapData (t := none) ha (storeBody_failed (.inr rfl) hn (indexCodes_host x.a x.b) hi hh)⟩
  case atomics =>
    simp only [List.mem_cons, List.not_mem_nil, or_false] at he
    rcases he with rfl | rfl
    · exact ⟨fun hh => runStrand_next ha (atomicBody_answered (.inl rfl) hn (atomicCodes_peer y) hr hh),
        fun c hh => runStrand_raiseKeep ha (atomicBody_failed (.inl rfl) hn (atomicCodes_peer y) hr hh)⟩
    · exact ⟨fun hh => runStrand_next ha (atomicBody_answered (.inr rfl) hn (atomicCodes_host y) hr hh),
        fun c hh => runStrand_raiseKeep ha (atomicBody_failed (.inr rfl) hn (atomicCodes_host y) hr hh)⟩

end Sys2Proof.Machine
end

section
/-! SUPPORT. Queue registers: binding, freeing, the status word (R119, R249, R443, Tables 4-12 and 4-13), and front-end runs at
their issue (R136, R381 to R383). -/

namespace Sys2Proof.Machine

/-- The fields that the status word of a queue register is put together from (Table 4-13). -/
theorem Task.queueStatus_toNat (x : Task) (q : QueueReg) (h : q.count * q.bytes ≤ 1024) :
    (x.queueStatus q).toNat = q.count * q.bytes + q.bind.code * 2 ^ 16 + (x.endLive q q.prod.toNat).toNat * 2 ^ 18 +
      (x.endLive q q.cons.toNat).toNat * 2 ^ 19 + q.size.toNat * 2 ^ 20 + q.prod.toNat * 2 ^ 24 + q.cons.toNat * 2 ^ 28 := by
  have hb : q.bind.code ≤ 3 := by cases q.bind <;> decide
  have hs := q.size.isLt
  have hp := q.prod.isLt
  have hc := q.cons.isLt
  have one (b : Bool) (n : Nat) : (if b then n else 0) = b.toNat * n := by cases b <;> simp
  have live := (x.endLive q q.prod.toNat).toNat_le
  have live' := (x.endLive q q.cons.toNat).toNat_le
  rw [Task.queueStatus, BitVec.toNat_ofNat, one, one]
  exact Nat.mod_eq_of_lt (by omega)

theorem getLsbD_eq_div {n : Nat} (w : BitVec n) (k : Nat) : w.getLsbD k = decide (w.toNat / 2 ^ k % 2 = 1) := by
  rw [BitVec.getLsbD, Nat.testBit_eq_decide_div_mod_eq]

theorem bitsOf_eq_div (w : DWord) (lo n : Nat) : bitsOf w lo n = w.toNat / 2 ^ lo % 2 ^ n := by
  rw [bitsOf, BitVec.extractLsb'_toNat, Nat.shiftRight_eq_div_pow]

/-- Each field of the status word of a queue register (Table 4-13). -/
theorem Task.queueStatus_fields (x : Task) (q : QueueReg) (h : q.count * q.bytes ≤ 1024) :
    let w := x.queueStatus q
    bitsOf w 0 11 = q.count * q.bytes ∧ bitsOf w 11 5 = 0 ∧ bitsOf w 16 2 = q.bind.code ∧
    w.getLsbD 18 = x.endLive q q.prod.toNat ∧ w.getLsbD 19 = x.endLive q q.cons.toNat ∧ bitsOf w 20 2 = q.size.toNat ∧
    bitsOf w 22 2 = 0 ∧ bitsOf w 24 3 = q.prod.toNat ∧ bitsOf w 27 1 = 0 ∧ bitsOf w 28 3 = q.cons.toNat ∧ bitsOf w 31 33 = 0 := by
  intro w
  have sum : w.toNat = _ := x.queueStatus_toNat q h
  have hb : q.bind.code ≤ 3 := by cases q.bind <;> decide
  have hs := q.size.isLt
  have hp := q.prod.isLt
  have hc := q.cons.isLt
  have live := (x.endLive q q.prod.toNat).toNat_le
  have live' := (x.endLive q q.cons.toNat).toNat_le
  simp only [bitsOf_eq_div, getLsbD_eq_div, sum]
  have isTrue (b : Bool) (k : Nat) (hk : k = b.toNat) : decide (k = 1) = b := by subst hk; cases b <;> rfl
  refine ⟨?_, ?_, ?_, isTrue _ _ ?_, isTrue _ _ ?_, ?_, ?_, ?_, ?_, ?_, ?_⟩ <;> omega

/-- Settles O12: each instruction runs its body, whose lemmas give what it binds or its trap. -/
theorem queueBinding : Obligations.QueueBinding := by
  unfold Obligations.QueueBinding
  refine ⟨fun s x => ⟨fun ha hb => ?qbind, fun ha hb => ?qfree, fun ha hr => ?qstat, ?stbind, fun ha hb => ?ststop,
    fun e he ha hb => ?traps⟩, fun x q h => ?fields⟩
  case qbind => exact runStrand_next ha (qbindBody_ok hb)
  case qfree => exact runStrand_next ha (qfreeBody_ok hb)
  case qstat => exact runStrand_next ha (qstatBody_ok hr)
  case stbind =>
    intro q ha hr p v ch ws hb aligned within zeroed sound free legal fits alive idle
    exact runStrand_next ha (stbindBody_ok rfl hr rfl rfl rfl rfl hb aligned within zeroed sound free legal fits alive idle)
  case ststop => exact runStrand_next ha (ststopBody_ok hb)
  case traps =>
    simp only [List.mem_cons, List.not_mem_nil, or_false] at he
    rcases he with rfl | rfl | rfl
    · exact runStrand_raiseWord ha (qbindBody_bound hb)
    · exact runStrand_raiseWord ha (qfreeBody_unbound hb)
    · exact runStrand_raiseWord ha (ststopBody_other hb)
  case fields =>
    have fields := x.queueStatus_fields q h
    cases hb : q.bind <;> rw [hb] at fields <;> exact fields

/-! ## Front-end runs -/

theorem translateCur_ok {s t : State} {write host : Bool} {a pte : DWord} {pa : Nat}
    (h : s.translate (s.strandAccess write host) a = (.ok pa pte, t)) : translateCur write host a s = .ok (.ok (pa, pte)) t := by
  simp only [translateCur, h]

theorem runBody_misaligned {kind : Nat} {x : Gen} {s : State} (h : s.ready [x.a.toNat] none = true)
    (k : s.source x.a.toNat &&& 127 ≠ 0) :
    runBody kind x s = .error (.trap { cause := 13, value := some (s.source x.a.toNat) }) (s.popCodes [x.a.toNat]) := by
  rw [runBody, bind_ok (operands_ok h)]
  simp only [List.map_cons, List.headD_cons, bne_iff_ne, ne_eq, k, not_false_eq_true, if_true]
  rfl

section run
variable {kind : Nat} {x : Gen} {s t : State} {pa : Nat} {pte : DWord} (h : s.ready [x.a.toNat] none = true)
  (k : s.source x.a.toNat &&& 127 = 0)
  (ht : ((s.popCodes [x.a.toNat]).mark .dev).translate (((s.popCodes [x.a.toNat]).mark .dev).strandAccess false false)
    (s.source x.a.toNat) = (.ok pa pte, t))
include h k ht

/-- A run whose queue has room enters it. -/
theorem runBody_queues (room : (t.die (dieOf t.curTask.core)).runCount kind < 64) :
    runBody kind x s = .ok .next (
      let k := dieOf t.curTask.core
      let d := t.die k
      let r : Run :=
        { ctx := t.curTask.ctx, kind, seq := t.nextRun, addr := s.source x.a.toNat, hostMode := t.curCtx.runMode kind
          party := t.strandParty t.cur, step := t.curTask.step, queued := t.cycle }
      { t.setDie k { d with runs := Assoc.set d.runs kind (Assoc.getD d.runs kind [] ++ [r]) } with nextRun := t.nextRun + 1 }) := by
  rw [runBody, bind_ok (operands_ok h)]
  simp only [List.map_cons, List.headD_cons, k, bne_self_eq_false, Bool.false_eq_true, if_false]
  rw [qMark, bind_ok (modify_apply _ _), bind_ok (translateCur_ok ht)]
  simp only
  rw [bind_ok (get_apply t), if_neg (by omega)]
  rfl

/-- A run whose queue is full waits. -/
theorem runBody_waits (full : 64 ≤ (t.die (dieOf t.curTask.core)).runCount kind) :
    runBody kind x s = .error (.stall (.runQueue kind) false) t := by
  rw [runBody, bind_ok (operands_ok h)]
  simp only [List.map_cons, List.headD_cons, k, bne_self_eq_false, Bool.false_eq_true, if_false]
  rw [qMark, bind_ok (modify_apply _ _), bind_ok (translateCur_ok ht)]
  simp only
  rw [bind_ok (get_apply t), if_pos full]
  rfl

end run

/-- Settles O38: each instruction runs the body of its kind. -/
theorem runIssue : Obligations.RunIssue := by
  unfold Obligations.RunIssue
  intro s x e he ha hr a p q
  have run : exec e.1 s = runStrand e.1.view (runBody e.2 x) s := by fin_cases he <;> rfl
  rw [run]
  exact ⟨fun k => runStrand_raise ha (runBody_misaligned hr k), fun k pa pte t ht =>
    ⟨fun room => runStrand_next ha (runBody_queues hr k ht room), fun full => runStrand_stallOn ha (runBody_waits hr k ht full)⟩⟩

end Sys2Proof.Machine
end

section
/-! SUPPORT. The end of a task and its successor (R112, R204, R238, R322, R323, R444). -/

namespace Sys2Proof.Machine

/-! ## Traps that commands left -/

theorem lateTrap_vector_none {f : Channel → Bool} {s : State} (h : s.curTask.late = []) : lateTrap .vector f s = .ok () s := by
  rw [lateTrap, bind_ok (get_apply s)]
  simp only [h]
  rfl

/-- The first trap that a vector command left is taken and dropped (R444). -/
theorem lateTrap_vector_first {f : Channel → Bool} {s : State} {l : LateTrap} {rest : List LateTrap}
    (h : s.curTask.late = l :: rest) :
    lateTrap .vector f s = .error (.trap { cause := l.cause, value := some l.value, keep := true })
      ((s.updTask fun t => { t with late := rest }).tookLate l) := by
  rw [lateTrap, bind_ok (get_apply s)]
  simp only [h]
  rw [bind_ok (modifyTask_apply _ s), LateTrap.take_apply]

theorem lateTrap_copy_none {f : Channel → Bool} {s : State} (h : (s.curTask.chans.find? fun c => c.2.faulted && f c.2) = none) :
    lateTrap .copy f s = .ok () s := by
  rw [lateTrap, bind_ok (get_apply s)]
  simp only [h]
  rfl

/-- The fault of a copy channel is taken (R238). -/
theorem lateTrap_copy_first {f : Channel → Bool} {s : State} {ch : Nat} {c : Channel}
    (h : (s.curTask.chans.find? fun c => c.2.faulted && f c.2) = some (ch, c)) :
    lateTrap .copy f s = .error (.trap { cause := 30, value := some (copyFaultValue ch c), keep := true })
      (s.producedBy (s.taskParty s.cur.task 2)) := by
  rw [lateTrap, bind_ok (get_apply s)]
  simp only [h]
  rfl

/-! ## exit -/

section exit
variable {s : State}

theorem exitBody_live (h : s.curTask.engineLive = true) : exitBody s = .error (.trap { cause := 9 }) s := by
  rw [exitBody, bind_ok (get_apply s)]
  simp only [h, if_true]
  rfl

variable (live : s.curTask.engineLive = false)
include live

theorem exitBody_vectorTrap {l : LateTrap} {rest : List LateTrap} (h : s.curTask.late = l :: rest) :
    exitBody s = .error (.trap { cause := l.cause, value := some l.value, keep := true })
      ((s.updTask fun t => { t with late := rest }).tookLate l) := by
  rw [exitBody, bind_ok (get_apply s)]
  simp only [live, Bool.false_eq_true, if_false]
  rw [bind_error (lateTrap_vector_first h)]

variable (clear : s.curTask.late = [])
include clear

theorem exitBody_copyTrap {ch : Nat} {c : Channel}
    (h : (s.curTask.chans.find? fun c => c.2.faulted && c.2.cmds.any fun k => k.hd.usesCarve) = some (ch, c)) :
    exitBody s = .error (.trap { cause := 30, value := some (copyFaultValue ch c), keep := true })
      (s.producedBy (s.taskParty s.cur.task 2)) := by
  rw [exitBody, bind_ok (get_apply s)]
  simp only [live, Bool.false_eq_true, if_false]
  rw [bind_ok (lateTrap_vector_none clear), bind_error (lateTrap_copy_first h)]

variable (sound : (s.curTask.chans.find? fun c => c.2.faulted && c.2.cmds.any fun k => k.hd.usesCarve) = none)
include sound

theorem exitBody_matrixTrap {l : LateTrap} {rest : List LateTrap} (h : s.curTask.mat.late = l :: rest) :
    exitBody s = .error (.trap { cause := l.cause, value := some l.value, keep := true })
      ((s.updTask fun t => { t with mat := { t.mat with late := rest } }).tookLate l) := by
  rw [exitBody, bind_ok (get_apply s)]
  simp only [live, Bool.false_eq_true, if_false]
  rw [bind_ok (lateTrap_vector_none clear), bind_ok (lateTrap_copy_none sound), bind_error (lateTrap_matrix_first h)]

theorem exitBody_waits (h : s.curTask.mat.late = []) (used : s.carveUsers s.cur.task = true) :
    exitBody s = .error (.stall .exitCarve false) s := by
  rw [exitBody, bind_ok (get_apply s)]
  simp only [live, Bool.false_eq_true, if_false]
  rw [bind_ok (lateTrap_vector_none clear), bind_ok (lateTrap_copy_none sound), bind_ok (lateTrap_matrix_none h), if_pos used]
  rfl

end exit

/-! ## exit.succ -/

section successor
variable {x : Gen} {s : State} (hr : s.ready (x.a.toNat :: Src.codes x.b) none = true)
include hr

theorem exitSuccBody_live (h : s.curTask.engineLive = true) : exitSuccBody x s = .error (.trap { cause := 9 }) s := by
  rw [exitSuccBody, bind_ok (peekOperands_ok hr), bind_ok (get_apply s)]
  simp only [h, if_true]
  rfl

variable (live : s.curTask.engineLive = false)
include live

theorem exitSuccBody_vectorTrap {l : LateTrap} {rest : List LateTrap} (h : s.curTask.late = l :: rest) :
    exitSuccBody x s = .error (.trap { cause := l.cause, value := some l.value, keep := true })
      ((s.updTask fun t => { t with late := rest }).tookLate l) := by
  rw [exitSuccBody, bind_ok (peekOperands_ok hr), bind_ok (get_apply s)]
  simp only [live, Bool.false_eq_true, if_false]
  rw [bind_error (lateTrap_vector_first h)]

variable (clear : s.curTask.late = [])
include clear

theorem exitSuccBody_misaligned (h : s.source x.a.toNat &&& 0xFF ≠ 0) :
    exitSuccBody x s = .error (.trap { cause := 25 }) (s.drainTask s.cur.task) := by
  rw [exitSuccBody, bind_ok (peekOperands_ok hr), bind_ok (get_apply s)]
  simp only [live, Bool.false_eq_true, if_false]
  rw [bind_ok (lateTrap_vector_none clear), bind_ok (modify_apply _ s), bind_ok (get_apply _)]
  simp only [List.map_cons, List.headD_cons, bne_iff_ne, ne_eq, h, not_false_eq_true, if_true]
  rfl

variable (aligned : s.source x.a.toNat &&& 0xFF = 0)
include aligned

/-- What `exit.succ` does with the answer to the read of its code object's header: `s` is the state that it read its operands in,
`q` the one in which it read the header (R323). -/
def continueWith (x : Gen) (s q : State) : DevRead → M Flow
  | .wait y => holdOn y
  | .bad => throw (.trap { cause := 25, keep := true })
  | .ok ws =>
    match parseHeader ws with
    | none => throw (.trap { cause := 25, keep := true })
    | some o =>
      if o.hdr != q.curTask.hdr || o.gsize != q.curTask.gsize then throw (.trap { cause := 25, keep := true })
      else do
        popNow (x.a.toNat :: Src.codes x.b)
        issueNow
        modify fun t =>
          let u := t.chargeTask q.cur.task
          (u.setTask q.cur.task ((u.task q.cur.task).succeed (s.source x.a.toNat) o.entry (s.valueB x.b)
            (u.launch q.curTask.launch).ver (u.queue q.curTask.queue).supv u.cycle)).boundary u.cur
        pure .gone

/-- An aligned `exit.succ` reads its header and continues with what comes. -/
theorem exitSuccBody_reads {t : State} {e : DevRead}
    (read : (s.drainTask s.cur.task).devRead (s.drainTask s.cur.task).tableAccess (s.source x.a.toNat) 32 = (e, t)) :
    exitSuccBody x s = continueWith x s (s.drainTask s.cur.task) e t := by
  rw [exitSuccBody, bind_ok (peekOperands_ok hr), bind_ok (get_apply s)]
  simp only [live, Bool.false_eq_true, if_false]
  rw [bind_ok (lateTrap_vector_none clear), bind_ok (modify_apply _ s), bind_ok (get_apply _)]
  have arg : srcVal x.b (second (s.source x.a.toNat :: (Src.codes x.b).map s.source)) = s.valueB x.b := by cases x.b <;> rfl
  simp only [List.map_cons, List.headD_cons, aligned, bne_self_eq_false, Bool.false_eq_true, if_false, read, arg]
  cases e <;> rfl

end successor

theorem continueWith_noHeader {x : Gen} {s q t : State} {ws : List DWord} (h : parseHeader ws = none) :
    continueWith x s q (.ok ws) t = .error (.trap { cause := 25, keep := true }) t := by
  rw [continueWith.eq_def]
  dsimp only
  rw [h]
  rfl

theorem continueWith_mismatch {x : Gen} {s q t : State} {ws : List DWord} {o : CodeObject} (h : parseHeader ws = some o)
    (k : o.hdr ≠ q.curTask.hdr ∨ o.gsize ≠ q.curTask.gsize) :
    continueWith x s q (.ok ws) t = .error (.trap { cause := 25, keep := true }) t := by
  rw [continueWith.eq_def]
  dsimp only
  rw [h]
  dsimp only
  rw [if_pos (by simpa using k)]
  rfl

theorem continueWith_succeeds {x : Gen} {s q t : State} {ws : List DWord} {o : CodeObject} (h : parseHeader ws = some o)
    (hh : o.hdr = q.curTask.hdr) (hg : o.gsize = q.curTask.gsize) :
    continueWith x s q (.ok ws) t = .ok .gone (
      let p := t.popCodes (x.a.toNat :: Src.codes x.b)
      let u := (p.issue p.cur).chargeTask q.cur.task
      (u.setTask q.cur.task ((u.task q.cur.task).succeed (s.source x.a.toNat) o.entry (s.valueB x.b)
        (u.launch q.curTask.launch).ver (u.queue q.curTask.queue).supv u.cycle)).boundary u.cur) := by
  rw [continueWith.eq_def]
  dsimp only
  rw [h]
  dsimp only
  rw [if_neg (by simp [hh, hg])]
  rfl

/-- Settles O33: each instruction runs its body, whose lemmas take the traps in their order, and then end or continue the task. -/
theorem taskEnds : Obligations.TaskEnds := by
  unfold Obligations.TaskEnds
  intro s x dropLate dropMat fault
  refine ⟨fun ha => ⟨fun live => ?exitLive, fun live => ⟨fun l rest h => ?exitVector, fun clear => ⟨fun ch c h => ?exitCopy,
    fun l rest sound h => ?exitMatrix, fun sound h used => ?exitWaits, fun h unused => ?ends⟩⟩⟩, ?successor⟩
  case exitLive => exact runStrand_raiseWord ha (exitBody_live live)
  case exitVector => exact runStrand_raiseKeep ha (exitBody_vectorTrap live h)
  case exitCopy => exact runStrand_raiseKeep ha (exitBody_copyTrap live clear h)
  case exitMatrix => exact runStrand_raiseKeep ha (exitBody_matrixTrap live clear sound h)
  case exitWaits => exact runStrand_stallOn ha (exitBody_waits live clear sound h used)
  case ends => exact runStrand_gone ha (exitBody_ok live clear h unused)
  case successor =>
    intro code codes word q me ha hr
    refine ⟨fun live => runStrand_raiseWord ha (exitSuccBody_live hr live),
      fun l rest live h => runStrand_raiseKeep ha (exitSuccBody_vectorTrap hr live h), fun live clear =>
      ⟨fun k => runStrand_raiseWord ha (exitSuccBody_misaligned hr live clear k), fun k => ?reads⟩⟩
    have body {e : DevRead} {t : State} := exitSuccBody_reads (e := e) (t := t) hr live clear k
    refine ⟨fun y t read => runStrand_holdOn ha (body read), fun t read => runStrand_raiseWordKeep ha (body read),
      fun ws t read => ⟨fun h => ?unread, fun o h k => ?mismatch, fun o h hh hg => ?succeeds⟩⟩
    case unread => exact runStrand_raiseWordKeep ha ((body read).trans (continueWith_noHeader h))
    case mismatch => exact runStrand_raiseWordKeep ha ((body read).trans (continueWith_mismatch (q := q) h k))
    case succeeds =>
      intro p u
      have continues := (body read).trans (continueWith_succeeds (q := q) h hh hg)
      exact runStrand_gone ha continues

end Sys2Proof.Machine
end

section
/-! SUPPORT. Ordering markers, fences and cache maintenance (R136, R144 to R147, R255). -/

namespace Sys2Proof.Machine

/-! ## Files changed entry by entry -/

/-- Reading a file whose things of some numbers have changed: the default of the file changes to itself. -/
theorem Assoc.getD_mapIf {α : Type} (m : Assoc α) (p : Nat → Bool) (f : α → α) (k : Nat) {d : α} (h : f d = d) :
    Assoc.getD (m.map fun e => if p e.1 then (e.1, f e.2) else e) k d =
      if p k then f (Assoc.getD m k d) else Assoc.getD m k d := by
  induction m with
  | nil =>
    show d = if p k then f d else d
    rw [h, ite_self]
  | cons e m ih =>
    obtain ⟨j, v⟩ := e
    have key : (if p j then (j, f v) else (j, v)) = (j, if p j then f v else v) := by split <;> rfl
    simp only [Assoc.getD] at ih ⊢
    rw [List.map_cons, key, Assoc.get?, Assoc.get?]
    by_cases hj : j = k
    · subst hj
      rw [if_pos rfl, if_pos rfl, Option.getD_some, Option.getD_some]
    · rw [if_neg hj, if_neg hj, ih]

/-! ## Markers -/

theorem qmarkBody_ok {x : Gen} {s : State} (h : s.flushDone true (scopeOf (x.fn.toNat % 8)) = true) :
    qmarkBody x s = .ok .next (s.mark (scopeOf (x.fn.toNat % 8))) := by
  rw [qmarkBody, bind_ok (flushFor_ok h)]
  rfl

theorem rfenceBody_all {x : Gen} {s : State} (h : s.flushDone true (scopeOf (x.fn.toNat % 8)) = true)
    (all : x.fn.getLsbD 3 = true) (hr : s.ready [] none = true) :
    rfenceBody x s = .ok .next (
      let p := s.drain s.cur
      p.dropRecords (p.fenceHoops (scopeOf (x.fn.toNat % 8))) p.curTask.ctx none) := by
  rw [rfenceBody]
  simp only [all, if_true]
  rw [bind_ok (peekOperands_ok hr), bind_ok (flushFor_ok h)]
  rfl

theorem rfenceBody_one {x : Gen} {s : State} (h : s.flushDone true (scopeOf (x.fn.toNat % 8)) = true)
    (one : x.fn.getLsbD 3 = false) (hr : s.ready [x.a.toNat] none = true) :
    rfenceBody x s = .ok .next (
      let p := (s.popCodes [x.a.toNat]).drain s.cur
      p.dropRecords (p.fenceHoops (scopeOf (x.fn.toNat % 8))) p.curTask.ctx (some (bitsOf (s.source x.a.toNat) 0 16))) := by
  rw [rfenceBody]
  simp only [one, Bool.false_eq_true, if_false]
  rw [bind_ok (peekOperands_ok hr), bind_ok (flushFor_ok h), bind_ok (popNow_apply _ _), bind_ok (modify_apply _ _), popCodes_cur]
  rfl

/-- The records of a hoop after a fence: those of the hoops covered that it names are gone. -/
theorem State.record_dropRecords (s : State) (hoops : List Nat) (ctx h : Nat) (id : Option Nat) :
    ((s.dropRecords hoops ctx id).hoop h).record = if hoops.contains h then
      (s.hoop h).record.filter (fun e => e.ctx != ctx || (id.isSome && id != some e.id)) else (s.hoop h).record := by
  have read : (s.dropRecords hoops ctx id).hoop h = _ := Assoc.getD_mapIf s.hoops hoops.contains
    (fun x => { x with record := x.record.filter fun e => e.ctx != ctx || (id.isSome && id != some e.id) }) h (d := {}) rfl
  rw [read]
  split <;> rfl

theorem State.mem_fenceHoops_die (s : State) (h : Nat) : h ∈ s.fenceHoops .die ↔ h / 64 = dieOf s.curTask.core := by
  simp only [State.fenceHoops, List.mem_map, List.mem_range]
  constructor
  · rintro ⟨k, hk, rfl⟩
    omega
  · intro e
    exact ⟨h % 64, Nat.mod_lt _ (by decide), by omega⟩

/-! ## cflush and pfch -/

section lines
variable {y : Mem} {s : State} (hr : s.ready (indexedCodes y.a y.b) none = true)
include hr

/-- The operands of an instruction that works on lines: where they start, and their length, one line without an index. -/
theorem operands_lines :
    ∃ vs, operands (y.a.toNat :: (if y.b = 0x1FF then [] else [y.b.toNat])) none s = .ok vs (s.popCodes (indexedCodes y.a y.b)) ∧
      vs.headD 0 = s.source y.a.toNat ∧
      (if y.b = 0x1FF then 128 else (second vs).toNat) = if y.b = 0x1FF then 128 else (s.source y.b.toNat).toNat := by
  refine ⟨(indexedCodes y.a y.b).map s.source, operands_ok hr, rfl, ?_⟩
  by_cases h : y.b = 0x1FF
  · rw [if_pos h, if_pos h]
  · rw [if_neg h, if_neg h, indexedCodes, if_neg h]
    rfl

theorem cflushBody_noncanonical (h : canonical (s.source y.a.toNat + (y.off.signExtend 64 <<< 7)) = false) :
    cflushBody y s = .error (.trap { cause := 17, value := some (s.source y.a.toNat + (y.off.signExtend 64 <<< 7)) })
      (s.popCodes (indexedCodes y.a y.b)) := by
  obtain ⟨vs, read, start, -⟩ := operands_lines hr
  rw [cflushBody, bind_ok read, bind_ok (get_apply _), start]
  exact congrFun (if_pos (congrArg (!·) h)) _

section canonical
variable (hc : canonical (s.source y.a.toNat + (y.off.signExtend 64 <<< 7)) = true)
include hc

theorem cflushBody_nothing (h : (if y.b = 0x1FF then 128 else (s.source y.b.toNat).toNat) = 0 ∨ y.size = 0) :
    cflushBody y s = .ok .next (s.popCodes (indexedCodes y.a y.b)) := by
  obtain ⟨vs, read, start, len⟩ := operands_lines hr
  rw [cflushBody, bind_ok read, bind_ok (get_apply _), start, len]
  exact congrFun ((if_neg (by rw [hc]; decide)).trans (if_pos (by simpa using h))) _

theorem cflushBody_drops (h : (if y.b = 0x1FF then 128 else (s.source y.b.toNat).toNat) ≠ 0) (k : y.size ≠ 0) :
    cflushBody y s = .ok .next (
      let start := s.source y.a.toNat + (y.off.signExtend 64 <<< 7)
      let len := if y.b = 0x1FF then 128 else (s.source y.b.toNat).toNat
      let line := start &&& 0xFFFFFFFFFFFFFF80
      let p := s.popCodes (indexedCodes y.a y.b)
      let n := (len + (start.toNat % 128) + 127) / 128 * 128
      let ps := p.flushPieces p.curTask.ctx line n (min (rangePages line n) (2 ^ 39 + 4))
      p.dropLines p.curTask.core (scopeOf y.scope.toNat) ps) := by
  obtain ⟨vs, read, start, len⟩ := operands_lines hr
  rw [cflushBody, bind_ok read, bind_ok (get_apply _), start, len]
  exact congrFun ((if_neg (by rw [hc]; decide)).trans (if_neg (by simpa using ⟨h, k⟩))) _

end canonical

theorem pfchBody_ok :
    pfchBody y s = .ok .next (
      let start := s.source y.a.toNat + (y.off.signExtend 64 <<< 7)
      let len := if y.b = 0x1FF then 128 else (s.source y.b.toNat).toNat
      (s.popCodes (indexedCodes y.a y.b)).prefetchLines (y.size == 0) (start &&& 0xFFFFFFFFFFFFFF80)
        (if len = 0 then 0 else min 64 ((start.toNat % 128 + len + 127) / 128))) := by
  obtain ⟨vs, read, start, len⟩ := operands_lines hr
  rw [pfchBody, bind_ok read, start, len]
  rfl

end lines

/-- The dies that a scope of `cflush` covers. -/
theorem contains_flushDies (k : Scope) (core d : Nat) :
    (flushDies k core).contains d = decide ((k = .die ∧ d = dieOf core) ∨ ((k = .dev ∨ k = .sys) ∧ d < 4)) := by
  cases k <;> simp [flushDies]

theorem State.dropLines_frame (s : State) (core : Nat) (k : Scope) (ps : List (Nat × Nat)) :
    s.dropLines core k ps = { s with cores := (s.dropLines core k ps).cores, dies := (s.dropLines core k ps).dies } := rfl

theorem State.core_dropLines (s : State) (core n : Nat) (k : Scope) (ps : List (Nat × Nat)) :
    (s.dropLines core k ps).core n = if n = core then
      { s.core n with l1 := (s.core n).l1.filter fun e => !inPieces ps e.addr } else s.core n := by
  split
  · next h =>
    subst h
    exact State.core_setCore ..
  · next h => exact State.core_setCore_ne _ _ h

theorem State.rdc_dropLines (s : State) (core d : Nat) (k : Scope) (ps : List (Nat × Nat)) :
    ((s.dropLines core k ps).die d).rdc = if (k = .die ∧ d = dieOf core) ∨ ((k = .dev ∨ k = .sys) ∧ d < 4) then
      (s.die d).rdc.filter fun e => !inPieces ps e.addr else (s.die d).rdc := by
  have read : (s.dropLines core k ps).die d = _ := Assoc.getD_mapIf s.dies (flushDies k core).contains
    (fun x => { x with rdc := x.rdc.filter fun e => !inPieces ps e.addr }) d (d := {}) rfl
  rw [read, contains_flushDies]
  simp only [decide_eq_true_eq]
  split <;> rfl

theorem State.flushPieces_empty (s : State) (ctx f : Nat) (va : DWord) : s.flushPieces ctx va 0 f = [] := by
  cases f <;> rfl

/-- The pieces of a range within one page: the page's place when the page is a device page that is present (R146). -/
theorem State.flushPieces_page (s : State) (ctx n f : Nat) {va : DWord} (hc : canonical va = true) (h : 0 < n)
    (k : n ≤ 65536 - va.toNat % 65536) :
    s.flushPieces ctx va n (f + 1) =
      match s.peekMap ctx va with
      | some (pa, pte) => if pteSpace pte = 0 then [(pa, n)] else []
      | none => [] := by
  have all : min n (65536 - va.toNat % 65536) = n := Nat.min_eq_left k
  simp only [State.flushPieces, if_neg (Nat.ne_of_gt h), hc, if_true, all, Nat.sub_self, State.flushPieces_empty, beq_iff_eq]
    <;> cases s.peekMap ctx va <;> rfl

/-! ## What `pfch` leaves -/

/-- Every field of the state but the files of cores and dies is the same. -/
def State.sameButCaches (s t : State) : Prop := t = { s with cores := t.cores, dies := t.dies }

theorem State.sameButCaches.trans {s t u : State} (h : s.sameButCaches t) (k : t.sameButCaches u) : s.sameButCaches u := by
  rw [State.sameButCaches] at h k ⊢
  rw [k, h]

theorem State.sameButCaches_dieSector (s : State) (ctx die a : Nat) : s.sameButCaches (s.dieSector ctx die a).2 := by
  rw [State.dieSector]
  split
  · rfl
  · split <;> rfl

theorem State.sameButCaches_coreSector (s : State) (ctx core a : Nat) : s.sameButCaches (s.coreSector ctx core a).2 := by
  rw [State.coreSector]
  split
  · rfl
  · exact (s.sameButCaches_dieSector ctx (dieOf core) a).trans rfl

theorem State.sameButCaches_foldl {α : Type} (f : State → α → State) (h : ∀ (s : State) a, s.sameButCaches (f s a)) (l : List α)
    (s : State) : s.sameButCaches (l.foldl f s) := by
  induction l generalizing s with
  | nil => rfl
  | cons a l ih => exact (h s a).trans (ih _)

/-- A line filled by `pfch` changes caches only (R147). -/
theorem State.sameButCaches_prefetch (s : State) (l1 : Bool) (va : DWord) : s.sameButCaches (s.prefetch l1 va) := by
  rw [State.prefetch]
  split
  · rfl
  · split
    · rfl
    · refine State.sameButCaches_foldl _ (fun t k => ?_) _ s
      split
      · rfl
      · split
        · exact t.sameButCaches_coreSector ..
        · exact t.sameButCaches_dieSector ..

theorem State.sameButCaches_prefetchLines (s : State) (l1 : Bool) (va : DWord) (n : Nat) :
    s.sameButCaches (s.prefetchLines l1 va n) := by
  induction n generalizing s va with
  | zero => rfl
  | succ n ih => exact (s.sameButCaches_prefetch l1 va).trans (ih _ _)

/-- Settles O27: each instruction runs its body; what it drops or fills, the lemmas of its operation say. -/
theorem orderingMarkers : Obligations.OrderingMarkers := by
  unfold Obligations.OrderingMarkers
  refine ⟨fun s x hf => ⟨fun ha => ?qmark, fun ha => ⟨fun all hr => ?fenceAll, fun one hr => ?fenceOne⟩⟩,
    State.record_dropRecords, fun s => ⟨rfl, s.mem_fenceHoops_die, fun k hk h => ?hoops⟩,
    fun s y hr => ⟨fun ha => ⟨fun no => ?outside, fun yes h => ?nothing, fun yes h k => ?drops⟩, fun ha => ?pfch⟩,
    fun s core k sc ps => ⟨s.dropLines_frame .., s.core_dropLines .., s.rdc_dropLines ..⟩,
    fun s ctx n f va hc h k => s.flushPieces_page ctx n f hc h k, State.sameButCaches_prefetchLines⟩
  case qmark => exact runStrand_next ha (qmarkBody_ok hf)
  case fenceAll => exact runStrand_next ha (rfenceBody_all hf all hr)
  case fenceOne => exact runStrand_next ha (rfenceBody_one hf one hr)
  case hoops =>
    simp only [List.mem_cons, List.not_mem_nil, or_false] at hk
    rcases hk with rfl | rfl <;> exact List.mem_range
  case outside => exact runStrand_raise ha (cflushBody_noncanonical hr no)
  case nothing => exact runStrand_next ha (cflushBody_nothing hr yes h)
  case drops => exact runStrand_next ha (cflushBody_drops hr yes h k)
  case pfch => exact runStrand_next ha (pfchBody_ok hr)

end Sys2Proof.Machine
end

section
/-! SUPPORT. The results of the integer instructions in plain arithmetic: a source narrowed to the width is a word of that width,
and a result is a word extended (R98 to R103, Tables 4-4 and 4-5). -/

namespace Sys2Proof.Machine

/-! ## Words of the width -/

/-- The low word of a source, of the width of the operation (R98). -/
def lowWord (w : Bool) (v : DWord) : BitVec (widthOf w) := v.setWidth (widthOf w)

/-- A word of the width of the operation as a result (R98). -/
def extended (w u : Bool) (v : BitVec (widthOf w)) : DWord := if u then v.setWidth 64 else v.signExtend 64

/-- A word of the width as an exact integer. -/
def valueOf (u : Bool) {n : Nat} (v : BitVec n) : Int := if u then v.toNat else v.toInt

theorem widthOf_bounds (w : Bool) : 0 < widthOf w ∧ widthOf w ≤ 64 := by cases w <;> decide

theorem lowWord_whole (v : DWord) : lowWord false v = v := rfl

theorem extended_whole (u : Bool) (v : DWord) : extended false u v = v := by
  cases u
  · exact BitVec.signExtend_eq ..
  · exact BitVec.setWidth_eq ..

theorem lowWord_half (v : DWord) : lowWord true v = v.extractLsb' 0 32 := rfl

theorem extended_half (u : Bool) (v : BitVec 32) :
    extended true u v = if u then v.zeroExtend 64 else v.signExtend 64 := rfl

theorem narrow_eq (w u : Bool) (v : DWord) : narrow w u v = extended w u (lowWord w v) := by
  cases w
  · rw [lowWord_whole, extended_whole]
    rfl
  · rw [lowWord_half, extended_half]
    rfl

theorem setWidth_ofInt_of_le {n k : Nat} (h : n ≤ k) (x : Int) :
    (BitVec.ofInt k x).setWidth n = BitVec.ofInt n x := by
  have dvd : (2 ^ n : Int) ∣ 2 ^ k := pow_dvd_pow 2 h
  refine BitVec.eq_of_toNat_eq ?_
  rw [BitVec.toNat_setWidth, BitVec.toNat_ofInt, BitVec.toNat_ofInt, Nat.cast_pow, Nat.cast_pow, Nat.cast_ofNat]
  have pos (m : Nat) : (0 : Int) ≤ x % 2 ^ m := Int.emod_nonneg x (by positivity)
  zify
  rw [Int.toNat_of_nonneg (pos k), Int.toNat_of_nonneg (pos n), Int.emod_emod_of_dvd x dvd]

/-- The low word of an exact integer's 64 bits is its residue at the width. -/
theorem lowWord_ofInt (w : Bool) (x : Int) : lowWord w (BitVec.ofInt 64 x) = BitVec.ofInt (widthOf w) x :=
  setWidth_ofInt_of_le (widthOf_bounds w).2 x

theorem lowWord_ofNat (w : Bool) (x : Nat) : lowWord w (BitVec.ofNat 64 x) = BitVec.ofNat (widthOf w) x :=
  BitVec.setWidth_ofNat_of_le (widthOf_bounds w).2 x

theorem ofInt_valueOf (u : Bool) {n : Nat} (v : BitVec n) : BitVec.ofInt n (valueOf u v) = v := by
  cases u
  · exact BitVec.ofInt_toInt
  · exact (BitVec.ofInt_natCast n v.toNat).trans (BitVec.ofNat_toNat n v |>.trans (BitVec.setWidth_eq v))

/-- Extension keeps the value. -/
theorem extended_eq (w u : Bool) (v : BitVec (widthOf w)) : extended w u v = BitVec.ofInt 64 (valueOf u v) := by
  cases u
  · rfl
  · exact (BitVec.ofNat_toNat 64 v).symm.trans (BitVec.ofInt_natCast 64 v.toNat).symm

theorem lowWord_extended (w u : Bool) (v : BitVec (widthOf w)) : lowWord w (extended w u v) = v := by
  rw [extended_eq, lowWord_ofInt, ofInt_valueOf]

theorem exact_eq (w u : Bool) (v : DWord) : exact w u v = valueOf u (lowWord w v) := by
  rw [exact, narrow_eq, valueOf]
  cases u
  · exact BitVec.toInt_signExtend_of_le (widthOf_bounds w).2
  · exact congrArg Nat.cast (BitVec.toNat_setWidth_of_le (widthOf_bounds w).2)

theorem low_eq (w : Bool) (v : DWord) : low w v = (lowWord w v).toNat := (BitVec.toNat_setWidth ..).symm

theorem narrow_ofInt (w u : Bool) (x : Int) : narrow w u (BitVec.ofInt 64 x) = extended w u (BitVec.ofInt (widthOf w) x) := by
  rw [narrow_eq, lowWord_ofInt]

/-! ## The range of a word -/

/-- An integer that a word of `n` bits represents. -/
def InRange (u : Bool) (n : Nat) (x : Int) : Prop :=
  if u then 0 ≤ x ∧ x < 2 ^ n else -(2 ^ (n - 1)) ≤ x ∧ x < 2 ^ (n - 1)

theorem valueOf_inRange (u : Bool) {n : Nat} (v : BitVec n) : InRange u n (valueOf u v) := by
  cases u
  · exact ⟨BitVec.le_toInt v, BitVec.toInt_lt⟩
  · exact ⟨Int.natCast_nonneg _, (by exact_mod_cast v.isLt : (v.toNat : Int) < 2 ^ n)⟩

theorem valueOf_ofInt {u : Bool} {n : Nat} {x : Int} (h0 : 0 < n) (h : InRange u n x) : valueOf u (BitVec.ofInt n x) = x := by
  cases u
  · exact BitVec.toInt_ofInt_eq_self h0 h.1 h.2
  · have residue : x % 2 ^ n = x := Int.emod_eq_of_lt h.1 h.2
    change (((BitVec.ofInt n x).toNat : Nat) : Int) = x
    rw [BitVec.toNat_ofInt, Nat.cast_pow, Nat.cast_ofNat, residue, Int.toNat_of_nonneg h.1]

theorem narrow_inRange {w u : Bool} {x : Int} (h : InRange u (widthOf w) x) : narrow w u (BitVec.ofInt 64 x) = BitVec.ofInt 64 x := by
  rw [narrow_ofInt, extended_eq, valueOf_ofInt (widthOf_bounds w).1 h]

/-! ## Results (R98) -/

theorem shape_wraps (w u : Bool) (x : Int) : shape w u false x = extended w u (BitVec.ofInt (widthOf w) x) := narrow_ofInt ..

theorem shape_signed (w : Bool) (x : Int) :
    shape w false true x =
      extended w false (BitVec.ofInt _ (clamp (-(2 ^ (widthOf w - 1))) (2 ^ (widthOf w - 1) - 1) x)) := narrow_ofInt ..

theorem shape_unsigned (w : Bool) (x : Int) :
    shape w true true x = extended w true (BitVec.ofInt _ (clamp 0 (2 ^ widthOf w - 1) x)) := narrow_ofInt ..

section
variable {n : Nat} (u : Bool) (p q : BitVec n)

theorem ofInt_valueOf_add : BitVec.ofInt n (valueOf u p + valueOf u q) = p + q := by
  rw [BitVec.ofInt_add, ofInt_valueOf, ofInt_valueOf]

theorem ofInt_valueOf_sub : BitVec.ofInt n (valueOf u p - valueOf u q) = p - q := by
  rw [Int.sub_eq_add_neg, BitVec.ofInt_add, BitVec.ofInt_neg, ofInt_valueOf, ofInt_valueOf, BitVec.sub_eq_add_neg]

theorem ofInt_valueOf_mul : BitVec.ofInt n (valueOf u p * valueOf u q) = p * q := by
  rw [BitVec.ofInt_mul, ofInt_valueOf, ofInt_valueOf]

theorem valueOf_lt_iff : valueOf u p < valueOf u q ↔ (if u then p.ult q else p.slt q) = true := by
  cases u
  · exact BitVec.slt_iff_toInt_lt.symm
  · exact Int.ofNat_lt.trans BitVec.ult_iff_lt.symm

theorem ofInt_natAbs_valueOf : BitVec.ofInt n (valueOf u p).natAbs = if !u && p.msb then -p else p := by
  cases u
  · change BitVec.ofInt n p.toInt.natAbs = if p.msb then -p else p
    rw [BitVec.msb_eq_toInt]
    by_cases h : p.toInt < 0
    · rw [if_pos (decide_eq_true h), Int.ofNat_natAbs_of_nonpos h.le, BitVec.ofInt_neg, BitVec.ofInt_toInt]
    · rw [if_neg (by simpa using h), Int.natAbs_of_nonneg (not_lt.1 h), BitVec.ofInt_toInt]
  · exact ofInt_valueOf true p

end

/-! ## Clamped results -/

section
variable {n : Nat} (p q : BitVec n)

theorem ofInt_clamp_of_inRange {x : Int} (h : InRange false n x) :
    BitVec.ofInt n (clamp (-(2 ^ (n - 1))) (2 ^ (n - 1) - 1) x) = BitVec.ofInt n x := by
  obtain ⟨lo, hi⟩ := h
  rw [clamp, if_neg (not_lt.2 lo), if_neg (by omega)]

theorem ofInt_clamp_high {x : Int} (h : 2 ^ (n - 1) ≤ x) :
    BitVec.ofInt n (clamp (-(2 ^ (n - 1))) (2 ^ (n - 1) - 1) x) = BitVec.intMax n := by
  have pos : (0 : Int) < 2 ^ (n - 1) := by positivity
  rw [clamp, if_neg (by omega), if_pos (by omega), ← BitVec.toInt_intMax, BitVec.ofInt_toInt]

theorem ofInt_clamp_low (h0 : 0 < n) {x : Int} (h : x < -(2 ^ (n - 1))) :
    BitVec.ofInt n (clamp (-(2 ^ (n - 1))) (2 ^ (n - 1) - 1) x) = BitVec.intMin n := by
  rw [clamp, if_pos h, ← BitVec.toInt_intMin_of_pos h0, BitVec.ofInt_toInt]

/-- A clamped sum or difference, as the sign of the first operand tells which bound an overflow passes. -/
theorem ofInt_clamp (h0 : 0 < n) {x : Int} {r : BitVec n} {past : Bool} (wraps : BitVec.ofInt n x = r)
    (ho : past = (decide (x ≥ 2 ^ (n - 1)) || decide (x < -2 ^ (n - 1)))) (neg : x < -2 ^ (n - 1) → p.toInt < 0)
    (nonneg : 2 ^ (n - 1) ≤ x → 0 ≤ p.toInt) :
    BitVec.ofInt n (clamp (-(2 ^ (n - 1))) (2 ^ (n - 1) - 1) x) =
      if past then (if p.msb then BitVec.intMin n else BitVec.intMax n) else r := by
  rw [ho, BitVec.msb_eq_toInt]
  rcases lt_or_ge x (-2 ^ (n - 1)) with low | low
  · rw [ofInt_clamp_low h0 low, if_pos (by simp [low]), if_pos (decide_eq_true (neg low))]
  rcases lt_or_ge x (2 ^ (n - 1)) with high | high
  · rw [ofInt_clamp_of_inRange ⟨low, high⟩, wraps, if_neg (by simp [low, high])]
  · rw [ofInt_clamp_high high, if_pos (by simp [high]), if_neg (by simpa using nonneg high)]

theorem ofInt_clamp_add (h0 : 0 < n) :
    BitVec.ofInt n (clamp (-(2 ^ (n - 1))) (2 ^ (n - 1) - 1) (valueOf false p + valueOf false q)) =
      if p.saddOverflow q then (if p.msb then BitVec.intMin n else BitVec.intMax n) else p + q := by
  have lo := BitVec.le_toInt q
  have hi := BitVec.toInt_lt (x := q)
  exact ofInt_clamp p h0 (ofInt_valueOf_add false p q) rfl (fun (h : p.toInt + q.toInt < _) => by omega)
    (fun (h : _ ≤ p.toInt + q.toInt) => by omega)

theorem ofInt_clamp_sub (h0 : 0 < n) :
    BitVec.ofInt n (clamp (-(2 ^ (n - 1))) (2 ^ (n - 1) - 1) (valueOf false p - valueOf false q)) =
      if p.ssubOverflow q then (if p.msb then BitVec.intMin n else BitVec.intMax n) else p - q := by
  have lo := BitVec.le_toInt q
  have hi := BitVec.toInt_lt (x := q)
  exact ofInt_clamp p h0 (ofInt_valueOf_sub false p q) rfl (fun (h : p.toInt - q.toInt < _) => by omega)
    (fun (h : _ ≤ p.toInt - q.toInt) => by omega)

theorem ofInt_clamp_natAbs (h0 : 0 < n) :
    BitVec.ofInt n (clamp (-(2 ^ (n - 1))) (2 ^ (n - 1) - 1) (valueOf false p).natAbs) =
      if p = BitVec.intMin n then BitVec.intMax n else if p.msb then -p else p := by
  obtain ⟨lo, hi⟩ := valueOf_inRange false p
  have least : p = BitVec.intMin n ↔ valueOf false p = -2 ^ (n - 1) := by
    rw [← BitVec.toInt_inj, BitVec.toInt_intMin_of_pos h0]
    rfl
  by_cases h : p = BitVec.intMin n
  · rw [if_pos h, ofInt_clamp_high (by have := least.1 h; omega)]
  · have above : valueOf false p ≠ -2 ^ (n - 1) := fun k => h (least.2 k)
    have within : InRange false n (valueOf false p).natAbs := ⟨by omega, by omega⟩
    rw [if_neg h, ofInt_clamp_of_inRange within, ofInt_natAbs_valueOf]
    rfl

theorem ofInt_two_pow_sub_one : BitVec.ofInt n (2 ^ n - 1) = BitVec.allOnes n := by
  rw [← ofInt_valueOf true (BitVec.allOnes n)]
  congr 1
  change (2 ^ n - 1 : Int) = ((BitVec.allOnes n).toNat : Int)
  rw [BitVec.toNat_allOnes, Nat.cast_sub Nat.one_le_two_pow]
  norm_num

theorem ofInt_clampU_add :
    BitVec.ofInt n (clamp 0 (2 ^ n - 1) (valueOf true p + valueOf true q)) =
      if p.toNat + q.toNat < 2 ^ n then p + q else BitVec.allOnes n := by
  have sum : valueOf true p + valueOf true q = (p.toNat + q.toNat : Nat) := (Int.natCast_add ..).symm
  by_cases h : p.toNat + q.toNat < 2 ^ n
  · have bound : ((p.toNat + q.toNat : Nat) : Int) < 2 ^ n := by exact_mod_cast h
    rw [if_pos h, ← ofInt_valueOf_add true p q, sum, clamp, if_neg (by omega), if_neg (by omega)]
  · have bound : (2 ^ n : Int) ≤ (p.toNat + q.toNat : Nat) := by exact_mod_cast not_lt.1 h
    rw [if_neg h, sum, clamp, if_neg (by omega), if_pos (by omega), ofInt_two_pow_sub_one]

theorem ofInt_clampU_sub :
    BitVec.ofInt n (clamp 0 (2 ^ n - 1) (valueOf true p - valueOf true q)) =
      if q.toNat ≤ p.toNat then p - q else 0 := by
  have diff : valueOf true p - valueOf true q = (p.toNat : Int) - q.toNat := rfl
  have bound : (p.toNat : Int) < 2 ^ n := by exact_mod_cast p.isLt
  by_cases h : q.toNat ≤ p.toNat
  · rw [if_pos h, ← ofInt_valueOf_sub true p q, diff, clamp, if_neg (by omega), if_neg (by omega)]
  · rw [if_neg h, diff, clamp, if_pos (by omega)]
    exact BitVec.ofInt_natCast n 0

theorem ofInt_clampU_natAbs : BitVec.ofInt n (clamp 0 (2 ^ n - 1) (valueOf true p).natAbs) = p := by
  obtain ⟨lo, hi⟩ := valueOf_inRange true p
  rw [Int.natAbs_of_nonneg lo, clamp, if_neg (by omega), if_neg (by omega), ofInt_valueOf]

end

/-! ## Bits, shifts and rotations -/

section
variable (w u : Bool) (a b : DWord)

theorem narrow_bits {f : {n : Nat} → BitVec n → BitVec n → BitVec n}
    (h : ∀ p q : DWord, lowWord w (f p q) = f (lowWord w p) (lowWord w q)) :
    narrow w u (f (narrow w u a) (narrow w u b)) = extended w u (f (lowWord w a) (lowWord w b)) := by
  rw [narrow_eq w u (f _ _), h, narrow_eq w u a, narrow_eq w u b, lowWord_extended, lowWord_extended]

theorem narrow_shiftLeft (k : Nat) : narrow w u (a <<< k) = extended w u (lowWord w a <<< k) := by
  rw [narrow_eq, lowWord, BitVec.setWidth_shiftLeft_of_le (widthOf_bounds w).2]
  rfl

theorem narrow_shiftRight (k : Nat) :
    narrow w u (BitVec.ofNat 64 (low w a / 2 ^ k)) = extended w u (lowWord w a >>> k) := by
  have shifted : BitVec.ofNat (widthOf w) (low w a / 2 ^ k) = lowWord w a >>> k := by
    refine BitVec.eq_of_toNat_eq ?_
    rw [BitVec.toNat_ofNat, BitVec.toNat_ushiftRight, Nat.shiftRight_eq_div_pow, low_eq]
    exact Nat.mod_eq_of_lt (lt_of_le_of_lt (Nat.div_le_self ..) (lowWord w a).isLt)
  rw [narrow_eq, lowWord_ofNat, shifted]

theorem narrow_sshiftRight (k : Nat) :
    narrow w u ((narrow w false a).sshiftRight k) = extended w u ((lowWord w a).sshiftRight k) := by
  have shifted : (narrow w false a).sshiftRight k = BitVec.ofInt 64 ((lowWord w a).sshiftRight k).toInt := by
    rw [← BitVec.ofInt_toInt (x := (narrow w false a).sshiftRight k), BitVec.toInt_sshiftRight, BitVec.toInt_sshiftRight]
    exact congrArg (fun v : Int => BitVec.ofInt 64 (v >>> k)) (exact_eq w false a)
  rw [shifted, narrow_ofInt, BitVec.ofInt_toInt]

theorem rotateLeft_eq {n : Nat} (p : BitVec n) {k : Nat} (h : k < n) :
    BitVec.ofNat n (p.toNat * 2 ^ k % 2 ^ n + p.toNat / 2 ^ (n - k)) = p.rotateLeft k := by
  have split : 2 ^ n = 2 ^ k * 2 ^ (n - k) := by rw [← pow_add, Nat.add_sub_cancel' h.le]
  have top : p.toNat / 2 ^ (n - k) < 2 ^ k := Nat.div_lt_of_lt_mul (by rw [Nat.mul_comm, ← split]; exact p.isLt)
  have bottom : p.toNat * 2 ^ k % 2 ^ n = 2 ^ k * (p.toNat % 2 ^ (n - k)) := by rw [split, Nat.mul_comm, Nat.mul_mod_mul_left]
  have joined : (p.rotateLeft k).toNat = p.toNat * 2 ^ k % 2 ^ n + p.toNat / 2 ^ (n - k) := by
    rw [BitVec.toNat_rotateLeft, Nat.mod_eq_of_lt h, Nat.shiftLeft_eq, Nat.shiftRight_eq_div_pow, bottom, Nat.two_pow_add_eq_or_of_lt top]
  rw [← joined, BitVec.ofNat_toNat, BitVec.setWidth_eq]

theorem narrow_rotateLeft {k : Nat} (h : k < widthOf w) :
    narrow w u (BitVec.ofNat 64 (low w a * 2 ^ k % 2 ^ widthOf w + low w a / 2 ^ (widthOf w - k))) =
      extended w u ((lowWord w a).rotateLeft k) := by
  rw [narrow_eq, lowWord_ofNat, low_eq, rotateLeft_eq _ h]

theorem amount_lt : amount w b < widthOf w := Nat.mod_lt _ (widthOf_bounds w).1

end

/-! ## The results of an operation of width `w`

With `aluW x = w`, each result is the word operation on the low words, extended; at 64 bits both are the identity, at 32 bits they
are the statement's `lo` and `ext`. -/

section
variable {x : Alu} {w : Bool} (hw : aluW x = w) (a b : DWord)
include hw

theorem addValue_wraps (hs : x.sub.getLsbD 1 = false) : addValue x a b = extended w x.u (lowWord w a + lowWord w b) := by
  rw [addValue, hs, hw, shape_wraps, exact_eq, exact_eq, ofInt_valueOf_add]

theorem subValue_wraps (hs : x.sub.getLsbD 1 = false) : subValue x a b = extended w x.u (lowWord w a - lowWord w b) := by
  rw [subValue, hs, hw, shape_wraps, exact_eq, exact_eq, ofInt_valueOf_sub]

theorem absValue_wraps (hs : x.sub.getLsbD 1 = false) :
    absValue x a b = extended w x.u (if !x.u && (lowWord w a).msb then -lowWord w a else lowWord w a) := by
  rw [absValue, hs, hw, shape_wraps, exact_eq, ofInt_natAbs_valueOf]

theorem mulValue_wraps : mulValue x a b = extended w x.u (lowWord w a * lowWord w b) := by
  rw [mulValue, hw, shape_wraps, exact_eq, exact_eq, ofInt_valueOf_mul]

theorem andValue_eq : andValue x a b = extended w x.u (lowWord w a &&& lowWord w b) := by
  rw [andValue, hw]
  exact narrow_bits w x.u a b (f := fun p q => p &&& q) fun _ _ => BitVec.setWidth_and

theorem orValue_eq : orValue x a b = extended w x.u (lowWord w a ||| lowWord w b) := by
  rw [orValue, hw]
  exact narrow_bits w x.u a b (f := fun p q => p ||| q) fun _ _ => BitVec.setWidth_or

theorem xorValue_eq : xorValue x a b = extended w x.u (lowWord w a ^^^ lowWord w b) := by
  rw [xorValue, hw]
  exact narrow_bits w x.u a b (f := fun p q => p ^^^ q) fun _ _ => BitVec.setWidth_xor

theorem andnValue_eq : andnValue x a b = extended w x.u (lowWord w a &&& ~~~(lowWord w b)) := by
  rw [andnValue, hw]
  exact narrow_bits w x.u a b (f := fun p q => p &&& ~~~q) fun _ q => BitVec.setWidth_and.trans
    (congrArg _ (BitVec.setWidth_not (x := q) (widthOf_bounds w).2))

theorem shlValue_eq : shlValue x a b = extended w x.u (lowWord w a <<< amount w b) := by
  rw [shlValue, hw, narrow_shiftLeft]

theorem shrValue_eq : shrValue x a b = extended w x.u (lowWord w a >>> amount w b) := by
  rw [shrValue, hw, narrow_shiftRight]

theorem sarValue_eq : sarValue x a b = extended w x.u ((lowWord w a).sshiftRight (amount w b)) := by
  rw [sarValue, hw, narrow_sshiftRight]

theorem rotValue_eq : rotValue x a b = extended w x.u ((lowWord w a).rotateLeft (amount w b)) := by
  rw [rotValue, hw]
  exact narrow_rotateLeft w x.u a (amount_lt w b)

theorem minValue_eq : minValue x a b = extended w x.u
    (if (if x.u then (lowWord w b).ult (lowWord w a) else (lowWord w b).slt (lowWord w a)) then lowWord w b else lowWord w a) := by
  rw [minValue, hw, exact_eq, exact_eq, narrow_eq, narrow_eq, ← apply_ite (extended w x.u)]
  exact congrArg _ (if_congr (valueOf_lt_iff ..) rfl rfl)

theorem maxValue_eq : maxValue x a b = extended w x.u
    (if (if x.u then (lowWord w a).ult (lowWord w b) else (lowWord w a).slt (lowWord w b)) then lowWord w b else lowWord w a) := by
  rw [maxValue, hw, exact_eq, exact_eq, narrow_eq, narrow_eq, ← apply_ite (extended w x.u)]
  exact congrArg _ (if_congr (valueOf_lt_iff ..) rfl rfl)

theorem addValue_clamps (hs : x.sub.getLsbD 1 = true) (hu : x.u = false) :
    addValue x a b = extended w x.u (if (lowWord w a).saddOverflow (lowWord w b) then
      (if (lowWord w a).msb then BitVec.intMin _ else BitVec.intMax _) else lowWord w a + lowWord w b) := by
  rw [addValue, hs, hw, hu, shape_signed, exact_eq, exact_eq, ofInt_clamp_add _ _ (widthOf_bounds w).1]

theorem subValue_clamps (hs : x.sub.getLsbD 1 = true) (hu : x.u = false) :
    subValue x a b = extended w x.u (if (lowWord w a).ssubOverflow (lowWord w b) then
      (if (lowWord w a).msb then BitVec.intMin _ else BitVec.intMax _) else lowWord w a - lowWord w b) := by
  rw [subValue, hs, hw, hu, shape_signed, exact_eq, exact_eq, ofInt_clamp_sub _ _ (widthOf_bounds w).1]

theorem absValue_clamps (hs : x.sub.getLsbD 1 = true) (hu : x.u = false) :
    absValue x a b = extended w x.u (if lowWord w a = BitVec.intMin _ then BitVec.intMax _
      else if (lowWord w a).msb then -lowWord w a else lowWord w a) := by
  rw [absValue, hs, hw, hu, shape_signed, exact_eq, ofInt_clamp_natAbs _ (widthOf_bounds w).1]

theorem addValue_clampsU (hs : x.sub.getLsbD 1 = true) (hu : x.u = true) :
    addValue x a b = extended w x.u (if (lowWord w a).toNat + (lowWord w b).toNat < 2 ^ widthOf w then lowWord w a + lowWord w b
      else BitVec.allOnes _) := by
  rw [addValue, hs, hw, hu, shape_unsigned, exact_eq, exact_eq, ofInt_clampU_add]

theorem subValue_clampsU (hs : x.sub.getLsbD 1 = true) (hu : x.u = true) :
    subValue x a b = extended w x.u (if (lowWord w b).toNat ≤ (lowWord w a).toNat then lowWord w a - lowWord w b else 0) := by
  rw [subValue, hs, hw, hu, shape_unsigned, exact_eq, exact_eq, ofInt_clampU_sub]

theorem absValue_clampsU (hs : x.sub.getLsbD 1 = true) (hu : x.u = true) :
    absValue x a b = extended w x.u (lowWord w a) := by
  rw [absValue, hs, hw, hu, shape_unsigned, exact_eq, ofInt_clampU_natAbs]

end

/-! ## The high half of a product -/

theorem high_inRange (u : Bool) {n : Nat} (p q : BitVec n) (h0 : 0 < n) : InRange u n (valueOf u p * valueOf u q / 2 ^ n) := by
  have pos : (0 : Int) < 2 ^ n := by positivity
  cases u
  · have double : (2 : Int) ^ (n * 2 - 2) = 2 ^ (n - 1) * 2 ^ (n - 1) := by rw [← pow_add]; congr 1; omega
    have half : (2 : Int) ^ n = 2 * 2 ^ (n - 1) := by rw [← pow_succ']; congr 1; omega
    have lo := BitVec.le_toInt_mul_toInt (x := p) (y := q)
    have hi := BitVec.toInt_mul_toInt_le (x := p) (y := q)
    have pos' : (0 : Int) < 2 ^ (n - 1) := by positivity
    rw [double] at lo hi
    refine ⟨(Int.le_ediv_iff_mul_le pos).2 ?_, Int.ediv_lt_of_lt_mul pos ?_⟩
    · change _ ≤ p.toInt * q.toInt
      nlinarith
    · change p.toInt * q.toInt < _
      nlinarith
  · obtain ⟨plo, phi⟩ := valueOf_inRange true p
    obtain ⟨qlo, qhi⟩ := valueOf_inRange true q
    exact ⟨Int.ediv_nonneg (mul_nonneg plo qlo) pos.le, Int.ediv_lt_of_lt_mul pos (mul_lt_mul'' phi qhi plo qlo)⟩

theorem mulhValue_eq {x : Alu} {w : Bool} (hw : aluW x = w) (a b : DWord) :
    mulhValue x a b = if x.u then BitVec.ofNat 64 ((lowWord w a).toNat * (lowWord w b).toNat / 2 ^ widthOf w)
      else BitVec.ofInt 64 ((lowWord w a).toInt * (lowWord w b).toInt / 2 ^ widthOf w) := by
  rw [mulhValue, hw, exact_eq, exact_eq, narrow_inRange (high_inRange _ _ _ (widthOf_bounds w).1)]
  cases x.u
  · rfl
  · rw [if_pos rfl, ← BitVec.ofInt_natCast]
    push_cast
    rfl

/-! ## Counts of zeros and ones -/

theorem leadingZeros_le (n v : Nat) : leadingZeros n v ≤ n := by
  rw [leadingZeros]
  split <;> omega

/-- Above the outermost one, all bits are zero. -/
theorem testBit_of_leadingZeros {n v k : Nat} (hv : v < 2 ^ n) (h : n - leadingZeros n v ≤ k) : v.testBit k = false := by
  rw [leadingZeros] at h
  split at h
  · next zero => exact zero ▸ Nat.zero_testBit k
  · next nz =>
    have top : v.log2 < n := (Nat.log2_lt nz).2 hv
    exact Nat.testBit_lt_two_pow (lt_of_lt_of_le Nat.lt_log2_self (Nat.pow_le_pow_right (by decide) (by omega)))

theorem testBit_leadingZeros {n v : Nat} (hv : v < 2 ^ n) (h : leadingZeros n v < n) :
    v.testBit (n - 1 - leadingZeros n v) = true := by
  rw [leadingZeros] at h ⊢
  split at h
  · exact absurd h (lt_irrefl n)
  · next nz =>
    have top : v.log2 < n := (Nat.log2_lt nz).2 hv
    rw [if_neg nz, Nat.sub_sub_self (by omega), Nat.testBit_log2 nz]

/-- The count from bit `k` passes zeros alone and stops at a one or at the end. -/
theorem trailingZeros_spec (v m k : Nat) :
    k ≤ trailingZeros v k m ∧ trailingZeros v k m ≤ k + m ∧ (∀ j, k ≤ j → j < trailingZeros v k m → v.testBit j = false) ∧
      (trailingZeros v k m < k + m → v.testBit (trailingZeros v k m) = true) := by
  induction m generalizing k with
  | zero => exact ⟨le_rfl, le_rfl, fun j lo hi => absurd lo (not_le.2 hi), fun h => absurd h (lt_irrefl _)⟩
  | succ m ih =>
    rw [trailingZeros]
    split
    · next one => exact ⟨le_rfl, by omega, fun j lo hi => absurd lo (not_le.2 hi), fun _ => one⟩
    · next zero =>
      obtain ⟨lo, hi, zeros, stop⟩ := ih (k + 1)
      refine ⟨by omega, by omega, fun j hj hlt => ?_, fun h => stop (by omega)⟩
      rcases Nat.eq_or_lt_of_le hj with rfl | above
      · exact Bool.eq_false_iff.2 zero
      · exact zeros j above hlt

theorem popCount_eq (v n : Nat) : popCount v n = ((List.range n).filter fun k => v.testBit k).length := by
  induction n with
  | zero => rfl
  | succ n ih =>
    rw [popCount, List.range_succ, List.filter_append, List.length_append, ih, List.filter_singleton]
    cases v.testBit n <;> rfl

section
variable {x : Alu} {w : Bool} (hw : aluW x = w) (a b : DWord)

theorem lt_two_pow_of_count {w : Bool} {z : Nat} (h : z ≤ widthOf w) : z < 2 ^ 64 := by
  have := (widthOf_bounds w).2
  omega

theorem low_lt (w : Bool) (v : DWord) : low w v < 2 ^ widthOf w := Nat.mod_lt _ (by positivity)

theorem low_testBit {w : Bool} {k : Nat} (h : k < widthOf w) : (low w a).testBit k = a.getLsbD k := by
  rw [low, Nat.testBit_mod_two_pow, decide_eq_true h, Bool.true_and, BitVec.testBit_toNat]

include hw

theorem toNat_clzValue : (clzValue x a b).toNat = leadingZeros (widthOf w) (low w a) := by
  rw [clzValue, hw, BitVec.toNat_ofNat, Nat.mod_eq_of_lt (lt_two_pow_of_count (leadingZeros_le ..))]

theorem toNat_ctzValue : (ctzValue x a b).toNat = trailingZeros (low w a) 0 (widthOf w) := by
  have le := (trailingZeros_spec (low w a) (widthOf w) 0).2.1
  rw [ctzValue, hw, BitVec.toNat_ofNat, Nat.mod_eq_of_lt (lt_two_pow_of_count (w := w) (by omega))]

theorem toNat_popcValue : (popcValue x a b).toNat = ((List.range (widthOf w)).filter fun k => a.getLsbD k).length := by
  have bits : (List.range (widthOf w)).filter (fun k => (low w a).testBit k) = (List.range (widthOf w)).filter fun k => a.getLsbD k :=
    List.filter_congr fun k hk => low_testBit a (List.mem_range.1 hk)
  have le : ((List.range (widthOf w)).filter fun k => a.getLsbD k).length ≤ widthOf w := by
    simpa using List.length_filter_le (fun k => a.getLsbD k) (List.range (widthOf w))
  rw [popcValue, hw, popCount_eq, bits, BitVec.toNat_ofNat, Nat.mod_eq_of_lt (lt_two_pow_of_count le)]

theorem clzValue_spec :
    let z := (clzValue x a b).toNat
    z ≤ widthOf w ∧ (∀ k, widthOf w - z ≤ k → k < widthOf w → a.getLsbD k = false) ∧
      (z < widthOf w → a.getLsbD (widthOf w - 1 - z) = true) := by
  intro z
  have read : z = leadingZeros (widthOf w) (low w a) := toNat_clzValue hw a b
  have pos := (widthOf_bounds w).1
  rw [read]
  refine ⟨leadingZeros_le .., fun k lo hi => ?_, fun h => ?_⟩
  · exact (low_testBit a hi).symm.trans (testBit_of_leadingZeros (low_lt w a) lo)
  · exact (low_testBit a (by omega)).symm.trans (testBit_leadingZeros (low_lt w a) h)

theorem ctzValue_spec :
    let t := (ctzValue x a b).toNat
    t ≤ widthOf w ∧ (∀ k, k < t → a.getLsbD k = false) ∧ (t < widthOf w → a.getLsbD t = true) := by
  intro t
  obtain ⟨lo, hi, zeros, stop⟩ := trailingZeros_spec (low w a) (widthOf w) 0
  have read : t = trailingZeros (low w a) 0 (widthOf w) := toNat_ctzValue hw a b
  rw [Nat.zero_add] at hi stop
  rw [read]
  exact ⟨hi, fun k hk => (low_testBit a (lt_of_lt_of_le hk hi)).symm.trans (zeros k (Nat.zero_le k) hk),
    fun h => (low_testBit a h).symm.trans (stop h)⟩

end

/-! ## `lea` and `cmp` -/

theorem toNat_leaValue (x : Alu) (a b : DWord) : (leaValue x a b).toNat = (a.toNat + b.toNat * 2 ^ x.sub.toNat) % 2 ^ 64 := by
  rw [leaValue, BitVec.toNat_add, BitVec.toNat_shiftLeft, Nat.shiftLeft_eq, Nat.add_mod_mod]

theorem exact_eq_iff (w u : Bool) (a b : DWord) : exact w u a = exact w u b ↔ narrow w u a = narrow w u b := by
  refine ⟨fun h => ?_, fun h => by rw [exact, exact, h]⟩
  rw [← ofInt_valueOf u (narrow w u a), ← ofInt_valueOf u (narrow w u b)]
  exact congrArg (BitVec.ofInt 64) h

theorem exact_lt (w u : Bool) (a b : DWord) :
    decide (exact w u a < exact w u b) = if u then (narrow w u a).ult (narrow w u b) else (narrow w u a).slt (narrow w u b) :=
  Bool.eq_iff_iff.2 (decide_eq_true_iff.trans (valueOf_lt_iff u (narrow w u a) (narrow w u b)))

theorem exact_le (w u : Bool) (a b : DWord) : decide (exact w u a ≤ exact w u b) =
    !(if u then (narrow w u b).ult (narrow w u a) else (narrow w u b).slt (narrow w u a)) := by
  rw [← exact_lt, ← decide_not]
  exact decide_eq_decide.2 not_lt.symm

theorem bitVec3_cases : ∀ c : BitVec 3, c = 0 ∨ c = 1 ∨ c = 2 ∨ c = 3 ∨ c = 4 ∨ c = 5 ∨ c = 6 ∨ c = 7 := by decide

theorem cmpHolds_eq (sub : BitVec 4) (u : Bool) (a b : DWord) :
    let v := narrow (sub.getLsbD 3) u a
    let w := narrow (sub.getLsbD 3) u b
    let less (p q : DWord) : Bool := if u then p.ult q else p.slt q
    cmpHolds sub u a b = match (sub.extractLsb' 0 3 : BitVec 3) with
      | 0 => v == w
      | 1 => v != w
      | 2 => less v w
      | 3 => !less v w
      | 4 => !less w v
      | 5 => less w v
      | 6 => v &&& w != 0
      | 7 => v &&& w == 0 := by
  intro v w less
  have equal : (exact (sub.getLsbD 3) u a == exact (sub.getLsbD 3) u b) = (v == w) :=
    Bool.eq_iff_iff.2 (beq_iff_eq.trans ((exact_eq_iff ..).trans beq_iff_eq.symm))
  rw [cmpHolds]
  rcases bitVec3_cases (sub.extractLsb' 0 3) with h | h | h | h | h | h | h | h <;> rw [h]
  · exact equal
  · exact congrArg (!·) equal
  · exact exact_lt ..
  · exact exact_le ..
  · exact exact_le ..
  · exact exact_lt ..
  · rfl
  · rfl

theorem narrow_ite (c u : Bool) (v : DWord) : narrow c u v =
    if c then (if u then (v.extractLsb' 0 32).zeroExtend 64 else (v.extractLsb' 0 32).signExtend 64) else v := by
  cases c <;> rfl

/-! ## The two widths -/

theorem bits_of_sub {x : Alu} : (x.sub = 0 → aluW x = false ∧ x.sub.getLsbD 1 = false) ∧
    (x.sub = 1 → aluW x = true ∧ x.sub.getLsbD 1 = false) ∧ (x.sub = 2 → aluW x = false ∧ x.sub.getLsbD 1 = true) ∧
    (x.sub = 3 → aluW x = true ∧ x.sub.getLsbD 1 = true) := by
  rw [aluW]
  refine ⟨?_, ?_, ?_, ?_⟩ <;> intro h <;> rw [h] <;> decide

/-- A count at the width that SUB gives. -/
theorem counts {x : Alu} {w : Bool} (hw : aluW x = w) (a b : DWord) :
    let n := widthOf w
    let z := (clzValue x a b).toNat
    let t := (ctzValue x a b).toNat
    z ≤ n ∧ (∀ k, n - z ≤ k → k < n → a.getLsbD k = false) ∧ (z < n → a.getLsbD (n - 1 - z) = true) ∧
      t ≤ n ∧ (∀ k, k < t → a.getLsbD k = false) ∧ (t < n → a.getLsbD t = true) ∧
      (popcValue x a b).toNat = ((List.range n).filter fun k => a.getLsbD k).length := by
  obtain ⟨zle, zeros, one⟩ := clzValue_spec hw a b
  obtain ⟨tle, low, stop⟩ := ctzValue_spec hw a b
  exact ⟨zle, zeros, one, tle, low, stop, toNat_popcValue hw a b⟩

/-- Settles O3: each result is a word operation on the sources' low words, extended; the low words and the extension are the
identity at 64 bits and the statement's `lo` and `ext` at 32. -/
theorem integerValues : Obligations.IntegerValues := by
  intro x a b ext lo
  obtain ⟨s0, s1, s2, s3⟩ := bits_of_sub (x := x)
  refine ⟨fun h => ?_, fun h => ?_, fun h hu => ?_, fun h hu => ?_, fun h hu => ?_, fun h hu => ?_, fun h => ?_, rfl,
    toNat_leaValue x a b, ?_⟩
  · obtain ⟨hw, hs⟩ := s0 h
    have whole := extended_whole x.u
    exact ⟨(addValue_wraps hw a b hs).trans (whole _), (subValue_wraps hw a b hs).trans (whole _), (mulValue_wraps hw a b).trans (whole _),
      (andValue_eq hw a b).trans (whole _), (orValue_eq hw a b).trans (whole _), (xorValue_eq hw a b).trans (whole _),
      (andnValue_eq hw a b).trans (whole _), (shlValue_eq hw a b).trans (whole _), (shrValue_eq hw a b).trans (whole _),
      (sarValue_eq hw a b).trans (whole _), (rotValue_eq hw a b).trans (whole _), mulhValue_eq hw a b,
      (minValue_eq hw a b).trans (whole _), (maxValue_eq hw a b).trans (whole _), (absValue_wraps hw a b hs).trans (whole _)⟩
  · obtain ⟨hw, hs⟩ := s1 h
    exact ⟨addValue_wraps hw a b hs, subValue_wraps hw a b hs, mulValue_wraps hw a b, andValue_eq hw a b, orValue_eq hw a b,
      xorValue_eq hw a b, andnValue_eq hw a b, shlValue_eq hw a b, shrValue_eq hw a b, sarValue_eq hw a b, rotValue_eq hw a b,
      mulhValue_eq hw a b, minValue_eq hw a b, maxValue_eq hw a b, absValue_wraps hw a b hs⟩
  · obtain ⟨hw, hs⟩ := s2 h
    have whole := extended_whole x.u
    exact ⟨(addValue_clamps hw a b hs hu).trans (whole _), (subValue_clamps hw a b hs hu).trans (whole _),
      (absValue_clamps hw a b hs hu).trans (whole _)⟩
  · obtain ⟨hw, hs⟩ := s2 h
    have whole := extended_whole x.u
    exact ⟨(addValue_clampsU hw a b hs hu).trans (whole _), (subValue_clampsU hw a b hs hu).trans (whole _),
      (absValue_clampsU hw a b hs hu).trans (whole _)⟩
  · obtain ⟨hw, hs⟩ := s3 h
    exact ⟨addValue_clamps hw a b hs hu, subValue_clamps hw a b hs hu, absValue_clamps hw a b hs hu⟩
  · obtain ⟨hw, hs⟩ := s3 h
    exact ⟨addValue_clampsU hw a b hs hu, subValue_clampsU hw a b hs hu, absValue_clampsU hw a b hs hu⟩
  · rcases h with h | h
    · rw [if_neg (h ▸ by decide)]
      exact counts (s0 h).1 a b
    · rw [if_pos h]
      exact counts (s1 h).1 a b
  · have compare := cmpHolds_eq x.sub x.u a b
    rw [narrow_ite, narrow_ite] at compare
    exact compare

/-! ## Division (R100) -/

theorem quotient_inRange {u : Bool} {n : Nat} {p q : Int} (hp : InRange u n p) (hq : InRange u n q)
    (h : ¬(u = false ∧ p = -(2 ^ (n - 1)) ∧ q = -1)) : InRange u n (p.tdiv q) := by
  have small : (p.tdiv q).natAbs ≤ p.natAbs := Int.natAbs_tdiv p q ▸ Nat.div_le_self ..
  cases u
  · obtain ⟨lo, hi⟩ := hp
    refine ⟨by omega, ?_⟩
    by_cases least : p = -(2 ^ (n - 1))
    · by_cases wide : 1 < q.natAbs
      · have pos : (0 : Int) < 2 ^ (n - 1) := by positivity
        have less : (p.tdiv q).natAbs < p.natAbs := Int.natAbs_tdiv p q ▸ Nat.div_lt_self (by omega) wide
        omega
      · have minus : q ≠ -1 := fun k => h ⟨rfl, least, k⟩
        obtain rfl | rfl : q = 0 ∨ q = 1 := by omega
        · rw [Int.tdiv_zero]
          positivity
        · rw [Int.tdiv_one]
          exact hi
    · omega
  · obtain ⟨lo, hi⟩ := hp
    exact ⟨Int.tdiv_nonneg lo hq.1, by omega⟩

theorem remainder_inRange {u : Bool} {n : Nat} {p : Int} (q : Int) (hp : InRange u n p) : InRange u n (p.tmod q) := by
  have small : (p.tmod q).natAbs ≤ p.natAbs := Int.natAbs_tmod p q ▸ Nat.mod_le ..
  have sign : p < 0 → p.tmod q ≤ 0 := fun neg => by
    have flipped := Int.tmod_nonneg (a := -p) q (by omega)
    rw [Int.neg_tmod] at flipped
    omega
  cases u
  · obtain ⟨lo, hi⟩ := hp
    exact ⟨by omega, by omega⟩
  · obtain ⟨lo, hi⟩ := hp
    exact ⟨Int.tmod_nonneg q lo, by omega⟩

/-- A result that the width represents has its value. -/
theorem exact_shape {w u : Bool} {x : Int} (h : InRange u (widthOf w) x) : exact w u (shape w u false x) = x := by
  rw [exact_eq, shape_wraps, lowWord_extended, valueOf_ofInt (widthOf_bounds w).1 h]

theorem exact_inRange (w u : Bool) (v : DWord) : InRange u (widthOf w) (exact w u v) := exact_eq w u v ▸ valueOf_inRange ..

theorem shape_exact (w u : Bool) (v : DWord) : shape w u false (exact w u v) = narrow w u v := by
  rw [shape_wraps, exact_eq, ofInt_valueOf, narrow_eq]

/-- All ones of the width are the residue of -1 and of the largest number. -/
theorem shape_allOnes (w u : Bool) : shape w u false (if u then 2 ^ widthOf w - 1 else -1) = narrow w u (BitVec.allOnes 64) := by
  have ones (m : Nat) : BitVec.ofInt m (-1) = BitVec.allOnes m := (BitVec.ofInt_neg (n := 1)).trans BitVec.neg_one_eq_allOnes
  rw [shape_wraps, ← ones 64, narrow_ofInt]
  cases u
  · rfl
  · exact congrArg _ (ofInt_two_pow_sub_one.trans (ones _).symm)

/-- Settles O4: the quotient rounded toward zero and the remainder are in the range of the width but for the most negative number
by -1, so the width's extension gives their value. -/
theorem divisionRules : Obligations.DivisionRules := by
  intro x a b _ w ea eb n
  have div : divValue x a b = shape w x.u false (quotient w x.u ea eb) := rfl
  have rem : remValue x a b = shape w x.u false (remainder w x.u ea eb) := rfl
  rw [div, rem, quotient, remainder]
  refine ⟨fun zero => ?_, fun hu least minus => ?_, fun nz other => ?_⟩
  · rw [if_pos zero, if_pos zero]
    exact ⟨shape_allOnes w x.u, shape_exact w x.u a⟩
  · have nz : eb ≠ 0 := by omega
    have special : (!x.u && ea == -(2 ^ (widthOf w - 1)) && eb == -1) = true := by
      rw [hu, beq_iff_eq.2 least, beq_iff_eq.2 minus]
      rfl
    have within : InRange x.u (widthOf w) (-(2 ^ (widthOf w - 1))) := least ▸ exact_inRange w x.u a
    rw [if_neg nz, if_neg nz, if_pos special, if_pos special]
    have zero : InRange false (widthOf w) 0 := ⟨by simp, by positivity⟩
    exact ⟨narrow_inRange within, narrow_inRange (hu.symm ▸ zero)⟩
  · have plain : ¬(!x.u && ea == -(2 ^ (widthOf w - 1)) && eb == -1) = true := by
      simpa [and_assoc] using other
    rw [if_neg nz, if_neg nz, if_neg plain, if_neg plain]
    exact ⟨exact_shape (quotient_inRange (exact_inRange w x.u a) (exact_inRange w x.u b) other),
      exact_shape (remainder_inRange eb (exact_inRange w x.u a))⟩

/-! ## Bit fields (R101) -/

theorem fieldLen_eq (b : DWord) : fieldLen b = min (min (b.extractLsb' 6 7).toNat 64) (64 - (b.extractLsb' 0 6).toNat) := by
  have pos : fieldPos b < 64 := (b.extractLsb' 0 6).isLt
  change (if 64 < fieldPos b + min (bitsOf b 6 7) 64 then 64 - fieldPos b else min (bitsOf b 6 7) 64) =
    min (min (bitsOf b 6 7) 64) (64 - fieldPos b)
  split <;> omega

/-- The field of `bfx` is a word of its length, extended by U. -/
theorem bfxValue_eq (x : Alu) (a b : DWord) (h : 0 < fieldLen b) :
    bfxValue x a b = if x.u then (a.extractLsb' (fieldPos b) (fieldLen b)).setWidth 64
      else (a.extractLsb' (fieldPos b) (fieldLen b)).signExtend 64 := by
  have sign : (bitsOf a (fieldPos b) (fieldLen b)).testBit (fieldLen b - 1) = (a.extractLsb' (fieldPos b) (fieldLen b)).msb :=
    (BitVec.msb_eq_getLsbD_last _).symm
  rw [bfxValue, if_neg h.ne', sign]
  generalize fv : a.extractLsb' (fieldPos b) (fieldLen b) = v at *
  have value : bitsOf a (fieldPos b) (fieldLen b) = v.toNat := congrArg BitVec.toNat fv
  rw [value, BitVec.ofNat_toNat]
  cases x.u <;> cases hm : v.msb
  · exact (BitVec.signExtend_eq_setWidth_of_msb_false hm).symm
  · change BitVec.ofInt 64 (v.toNat - 2 ^ fieldLen b) = BitVec.ofInt 64 v.toInt
    rw [BitVec.toInt_eq_msb_cond, if_pos hm]
    push_cast
    rfl
  · rfl
  · rfl

theorem fieldMask_bit (p l : Nat) {k : Nat} (h : k < 64) :
    (BitVec.ofNat 64 ((2 ^ l - 1) * 2 ^ p)).getLsbD k = decide (p ≤ k ∧ k < p + l) := by
  rw [BitVec.getLsbD_ofNat, decide_eq_true h, Bool.true_and, ← Nat.shiftLeft_eq, Nat.testBit_shiftLeft, Nat.testBit_two_pow_sub_one,
    ← Bool.decide_and]
  exact decide_eq_decide.2 (by omega)

theorem bfiValue_bit (a b d : DWord) {k : Nat} (h : k < 64) :
    (bfiValue a b d).getLsbD k =
      if fieldPos b ≤ k ∧ k < fieldPos b + fieldLen b then a.getLsbD (k - fieldPos b) else d.getLsbD k := by
  rw [bfiValue, BitVec.getLsbD_or, BitVec.getLsbD_and, BitVec.getLsbD_and, BitVec.getLsbD_not, fieldMask_bit _ _ h,
    BitVec.getLsbD_shiftLeft, decide_eq_true h]
  split
  · next field => simp [field, not_lt.2 field.1]
  · next field => simp [field]

theorem bfxValue_bit (x : Alu) (a b : DWord) {k : Nat} (h : k < 64) :
    (bfxValue x a b).getLsbD k = if fieldLen b = 0 then false else
      if k < fieldLen b then a.getLsbD (fieldPos b + k) else !x.u && a.getLsbD (fieldPos b + fieldLen b - 1) := by
  by_cases zero : fieldLen b = 0
  · rw [if_pos zero, bfxValue, if_pos zero]
    exact BitVec.getLsbD_zero
  · rw [if_neg zero, bfxValue_eq x a b (Nat.pos_of_ne_zero zero)]
    cases x.u
    · rw [if_neg Bool.false_ne_true, BitVec.getLsbD_signExtend, BitVec.msb_eq_getLsbD_last, BitVec.getLsbD_extractLsb',
        BitVec.getLsbD_extractLsb', decide_eq_true h, decide_eq_true (by omega : fieldLen b - 1 < fieldLen b),
        ← Nat.add_sub_assoc (Nat.pos_of_ne_zero zero)]
      split
      · next within => simp [within]
      · rfl
    · rw [if_pos rfl, BitVec.getLsbD_setWidth, BitVec.getLsbD_extractLsb', decide_eq_true h]
      split
      · next within => simp [within]
      · next past => simp [past]

/-- Settles O5: `bfx` extends the field as a word of its length, and the mask of `bfi` has the field's bits. -/
theorem bitFieldRules : Obligations.BitFieldRules := by
  intro x a b d pos len k h
  have cut : len = fieldLen b := (fieldLen_eq b).symm
  rw [cut]
  exact ⟨bfxValue_bit x a b h, bfiValue_bit a b d h⟩

end Sys2Proof.Machine
end

section
/-! SUPPORT. What the register instructions leave unchanged (R98 to R107): pops, a write of the destination, flags and the end of
the instruction each change the current strand and queue registers of its task at most. -/

namespace Sys2Proof.Machine

/-! ## States that differ in the current strand and in queue registers -/

/-- Of the state nothing differs but the current strand and, of its task's queue registers, those in `Q`. -/
def State.framed (s t : State) (Q : Nat → Prop) : Prop :=
  s.sameOutside t ∧ (∀ k, k ≠ s.cur.task → t.task k = s.task k) ∧
  t.task s.cur.task = { s.curTask.setStrand s.cur.unit (t.strand s.cur) with queues := (t.task s.cur.task).queues } ∧
  (∀ q, ¬Q q → (t.task s.cur.task).queueReg q = s.curTask.queueReg q) ∧
  ((Assoc.get? s.tasks s.cur.task).isSome = true → (Assoc.get? t.tasks s.cur.task).isSome = true)

section
variable {s t u : State} {Q R : Nat → Prop}

theorem State.framed.cur_eq (h : s.framed t Q) : t.cur = s.cur := by
  rw [h.1]

theorem State.framed.mono (h : s.framed t Q) (k : ∀ q, Q q → R q) : s.framed t R := by
  obtain ⟨outside, others, own, queues, known⟩ := h
  exact ⟨outside, others, own, fun q hq => queues q fun hQ => hq (k q hQ), known⟩

theorem State.framed_refl : s.framed s Q :=
  ⟨rfl, fun _ _ => rfl, by
    change s.curTask = { s.curTask.setStrand s.cur.unit (s.curTask.strand s.cur.unit) with queues := s.curTask.queues }
    rw [Task.setStrand_strand], fun _ _ => rfl, id⟩

theorem Task.setStrand_withQueues (x : Task) (u : UnitId) (d : Strand) (q : Assoc QueueReg) :
    { x with queues := q }.setStrand u d = { x.setStrand u d with queues := q } := by
  cases u <;> rfl

theorem State.framed.trans (h : s.framed t Q) (k : t.framed u Q) : s.framed u Q := by
  have hcur := h.cur_eq
  obtain ⟨outside, others, own, queues, known⟩ := h
  obtain ⟨outside', others', own', queues', known'⟩ := k
  rw [State.curTask, hcur] at own' queues'
  rw [hcur] at others' known'
  refine ⟨State.sameOutside_trans outside outside', fun k hk => (others' k hk).trans (others k hk), ?_,
    fun q hq => (queues' q hq).trans (queues q hq), fun h => known' (known h)⟩
  rw [own', own, Task.setStrand_withQueues, Task.setStrand_setStrand]

/-- The task replaced by one that differs in the current strand and in queue registers. -/
theorem State.framed_setTask (x : Task) (own : x = { s.curTask.setStrand s.cur.unit (x.strand s.cur.unit) with queues := x.queues })
    (queues : ∀ q, ¬Q q → x.queueReg q = s.curTask.queueReg q) : s.framed (s.setTask s.cur.task x) Q := by
  refine ⟨rfl, fun k hk => State.task_setTask_ne _ _ hk, ?_, fun q hq => ?_, fun _ => ?_⟩
  · rw [State.strand, State.task_setTask]
    exact own
  · rw [State.task_setTask]
    exact queues q hq
  · exact congrArg Option.isSome (Assoc.get?_set ..)

theorem State.framed_setStrand (d : Strand) : s.framed (s.setStrand s.cur d) Q :=
  State.framed_setTask _ (by rw [Task.strand_setStrand, Task.setStrand_queues]; exact (Task.setStrand_withQueues ..)) 
    fun q _ => by rw [Task.queueReg, Task.setStrand_queues]; rfl

theorem State.framed_setQueueReg {q : Nat} (r : QueueReg) (hq : Q q) :
    s.framed (s.setTask s.cur.task (s.curTask.setQueueReg q r)) Q :=
  State.framed_setTask _ (by
      conv_lhs => rw [← Task.setStrand_strand s.curTask s.cur.unit]
      cases s.cur.unit <;> rfl)
    fun p hp => Assoc.getD_set_ne _ _ _ fun same => hp (same ▸ hq)

theorem State.framed_popCodes (codes : List Nat) :
    s.framed (s.popCodes codes) fun q => ∃ c ∈ codes, isPopCode c = true ∧ queueOf c = some q := by
  have named : ∀ q ∈ Sys2Proof.Machine.queuesOf (codes.filter isPopCode), ∃ c ∈ codes, isPopCode c = true ∧ queueOf c = some q := by
    intro q hq
    obtain ⟨c, hc, hcq⟩ := List.mem_filterMap.1 (List.mem_eraseDups.1 hq)
    obtain ⟨mem, pop⟩ := List.mem_filter.1 hc
    exact ⟨c, mem, pop, hcq⟩
  rw [State.popCodes]
  generalize Sys2Proof.Machine.queuesOf (codes.filter isPopCode) = l at named
  induction l generalizing s with
  | nil => exact State.framed_refl
  | cons q l ih =>
    exact (State.framed_setQueueReg _ (named q List.mem_cons_self)).trans
      (ih fun p hp => named p (List.mem_cons_of_mem q hp))

theorem State.framed_writeDst (c : Nat) (v : DWord) : s.framed (s.writeDst c v) fun q => queueOf c = some q := by
  rw [State.writeDst]
  split
  · next q hq => exact State.framed_setQueueReg _ hq
  · exact State.framed_setStrand _

/-- A quiet state stays quiet when its strand's wait and start record stay. -/
theorem State.framed.quiet (h : s.framed t Q) (quiet : s.quiet s.cur = true) (wait : (t.strand s.cur).wait = s.curStrand.wait)
    (fresh : (t.strand s.cur).fresh = s.curStrand.fresh) : t.quiet s.cur = true := by
  obtain ⟨-, -, own, -, known⟩ := h
  have stop : (t.task s.cur.task).stopReq = (s.task s.cur.task).stopReq := by
    rw [own]
    exact Task.setStrand_stopReq ..
  simp only [State.quiet, Bool.and_eq_true] at quiet ⊢
  obtain ⟨⟨⟨hknown, hwait⟩, hfresh⟩, hstop⟩ := quiet
  exact ⟨⟨⟨known hknown, wait ▸ hwait⟩, fresh ▸ hfresh⟩, stop ▸ hstop⟩

/-- The end of an instruction in a quiet state changes the strand only. -/
theorem State.framed_retire (v : View) (h : s.framed t Q) (quiet : t.quiet s.cur = true) :
    s.framed (s.retire t v .next) Q ∧ (s.retire t v .next).strand s.cur =
      { t.strand s.cur with pc := s.curStrand.pc + BitVec.ofNat 64 v.size, state := .running, held := none } := by
  rw [State.retire_quiet v quiet]
  have cur := h.cur_eq
  rw [← cur]
  exact ⟨h.trans (State.framed_setStrand _), State.strand_setStrand ..⟩

end

/-! ## The strand after a result -/

/-- The strand differs in its g register `c`, if that is one, and in fcsr. -/
def Strand.framedG (d e : Strand) (c : Nat) : Prop :=
  e = { d with g := e.g, fcsr := e.fcsr } ∧ (c = 0 ∨ 64 ≤ c → e.g = d.g) ∧ ∀ n, physG d n ≠ physG d c → e.readG n = d.readG n

/-- The strand differs in its predicate `c` and in fcsr. -/
def Strand.framedP (d e : Strand) (c : Nat) : Prop :=
  e = { d with p := e.p, fcsr := e.fcsr } ∧ (c = 0 → e.p = d.p) ∧ ∀ n, physP d n ≠ physP d c → e.pred n = d.pred n

theorem Strand.framedG_writeG (d : Strand) {c : Nat} (v : DWord) (h : c ≤ 63) : d.framedG (d.writeG c v) c := by
  refine ⟨?_, fun hc => ?_, fun n hn => Strand.readG_writeG_ne d v hn⟩
  · rw [Strand.writeG]
    split <;> rfl
  · rw [Strand.writeG, if_pos (by omega)]

theorem Strand.framedP_writeP (d : Strand) (c : Nat) (b : Bool) : d.framedP (d.writeP c b) c := by
  rw [Strand.writeP]
  split
  · exact ⟨rfl, fun _ => rfl, fun n _ => rfl⟩
  · next nz =>
    refine ⟨rfl, fun h => absurd h nz, fun n hn => ?_⟩
    change (if physP d n = 0 then true else Assoc.getD (Assoc.set d.p (physP d c) b) (physP d n) false) = _
    rw [Assoc.getD_set_ne _ _ _ hn]
    rfl

theorem Strand.framedG_withFlags {d e : Strand} {c : Nat} (h : d.framedG e c) (k : BitVec 64) : d.framedG { e with fcsr := k } c := by
  obtain ⟨same, g, regs⟩ := h
  exact ⟨by rw [same], g, regs⟩

theorem Strand.framedP_withFlags {d e : Strand} {c : Nat} (h : d.framedP e c) (k : BitVec 64) : d.framedP { e with fcsr := k } c := by
  obtain ⟨same, p, preds⟩ := h
  exact ⟨by rw [same], p, preds⟩

/-! ## States after a result -/

theorem State.writeDst_strand (s : State) {c : Nat} (v : DWord) (h : c ≤ 79) :
    (s.writeDst c v).strand s.cur = if c ≤ 63 then s.curStrand.writeG c v else s.curStrand := by
  split
  · next g => rw [State.writeDst_g s v g, State.strand_setStrand]
  · next q =>
    rw [State.writeDst_queue s v (by omega) (by omega), State.strand, State.task_setTask, State.curStrand, State.strand,
      State.curTask, Task.setQueueReg]
    cases s.cur.unit <;> rfl

/-- A result written to the scalar destination `c`, with the sources' queues popped. -/
def State.resultFrame (s t : State) (codes : List Nat) (c : Nat) : Prop :=
  s.framed t (fun q => (∃ k ∈ codes, isPopCode k = true ∧ queueOf k = some q) ∨ queueOf c = some q) ∧
    s.curStrand.framedG (t.strand s.cur) c

/-- A result written to predicate `c`, with the sources' queues popped. -/
def State.predFrame (s t : State) (codes : List Nat) (c : Nat) : Prop :=
  s.framed t (fun q => ∃ k ∈ codes, isPopCode k = true ∧ queueOf k = some q) ∧ s.curStrand.framedP (t.strand s.cur) c

section
variable {s t : State} {codes : List Nat} {c : Nat}

theorem State.resultFrame_writeDst (h : c ≤ 79) (v : DWord) :
    s.resultFrame ((s.popCodes codes).writeDst c v) codes c ∧
      (((s.popCodes codes).writeDst c v).strand s.cur).fcsr = s.curStrand.fcsr := by
  have strand : ((s.popCodes codes).writeDst c v).strand s.cur = if c ≤ 63 then s.curStrand.writeG c v else s.curStrand := by
    rw [← popCodes_cur s codes, State.writeDst_strand _ v h, popCodes_curStrand]
  have frame : s.framed ((s.popCodes codes).writeDst c v) _ :=
    ((State.framed_popCodes codes).mono fun q hq => Or.inl hq).trans ((State.framed_writeDst c v).mono fun q hq => Or.inr hq)
  rw [State.resultFrame, strand]
  split
  · next g =>
    refine ⟨⟨frame, Strand.framedG_writeG _ v g⟩, ?_⟩
    rw [Strand.writeG]
    split <;> rfl
  · exact ⟨⟨frame, rfl, fun _ => rfl, fun _ _ => rfl⟩, rfl⟩

theorem State.predFrame_withPred (b : Bool) :
    s.predFrame ((s.popCodes codes).withPred c b) codes c ∧
      (((s.popCodes codes).withPred c b).strand s.cur).fcsr = s.curStrand.fcsr := by
  have strand : ((s.popCodes codes).withPred c b).strand s.cur = s.curStrand.writeP c b := by
    rw [State.withPred, popCodes_curStrand, ← popCodes_cur s codes, State.strand_setStrand]
  refine ⟨⟨(State.framed_popCodes codes).trans (State.framed_setStrand _), strand ▸ Strand.framedP_writeP _ c b⟩, ?_⟩
  rw [strand, Strand.writeP]
  split <;> rfl

theorem State.framed.withFlags {Q : Nat → Prop} (h : s.framed t Q) (k : Flags) :
    s.framed (t.withFlags k) Q ∧
      (t.withFlags k).strand s.cur = { t.strand s.cur with fcsr := fcsrWith (t.strand s.cur).fcsr k } := by
  refine ⟨h.trans (State.framed_setStrand _), ?_⟩
  rw [State.withFlags, State.curStrand, h.cur_eq, State.strand_setStrand]

theorem State.resultFrame.withFlags (h : s.resultFrame t codes c) (k : Flags) : s.resultFrame (t.withFlags k) codes c := by
  obtain ⟨frame, strand⟩ := h
  obtain ⟨frame', flags⟩ := frame.withFlags k
  exact ⟨frame', flags ▸ Strand.framedG_withFlags strand _⟩

theorem State.predFrame.withFlags (h : s.predFrame t codes c) (k : Flags) : s.predFrame (t.withFlags k) codes c := by
  obtain ⟨frame, strand⟩ := h
  obtain ⟨frame', flags⟩ := frame.withFlags k
  exact ⟨frame', flags ▸ Strand.framedP_withFlags strand _⟩

/-- What an instruction with a scalar result leaves unchanged when it retires in a quiet state. -/
theorem State.resultFrame.retires (h : s.resultFrame t codes c) (quiet : s.quiet s.cur = true) (v : View) :
    let u := s.retire t v .next
    let d := s.curStrand
    let f := u.strand s.cur
    s.sameOutside u ∧ (∀ k, k ≠ s.cur.task → u.task k = s.task k) ∧
      u.task s.cur.task = { s.curTask.setStrand s.cur.unit f with queues := (u.task s.cur.task).queues } ∧
      f = { d with g := f.g, fcsr := f.fcsr, pc := d.pc + BitVec.ofNat 64 v.size, state := .running, held := none } ∧
      f.fcsr = (t.strand s.cur).fcsr ∧ (c = 0 ∨ 64 ≤ c → f.g = d.g) ∧ (∀ n, physG d n ≠ physG d c → f.readG n = d.readG n) ∧
      (∀ q, (∀ k ∈ codes, isPopCode k = true → queueOf k ≠ some q) → queueOf c ≠ some q →
        (u.task s.cur.task).queueReg q = s.curTask.queueReg q) := by
  intro u d f
  obtain ⟨frame, same, g, regs⟩ := h
  obtain ⟨frame', strand⟩ := State.framed_retire v frame (frame.quiet quiet (by rw [same]) (by rw [same]))
  obtain ⟨outside, others, own, queues, -⟩ := frame'
  have read : f = _ := strand
  refine ⟨outside, others, own, ?_, by rw [read], fun hc => by rw [read]; exact g hc, fun n hn => ?_, fun q pops push => ?_⟩
  · rw [read]
    conv_lhs => rw [same]
  · rw [read]
    refine Eq.trans ?_ (regs n hn)
    rfl
  · refine queues q ?_
    rintro (⟨k, hk, pop, hq⟩ | hq)
    · exact pops k hk pop hq
    · exact push hq

theorem State.predFrame.retires (h : s.predFrame t codes c) (quiet : s.quiet s.cur = true) (v : View) :
    let u := s.retire t v .next
    let d := s.curStrand
    let f := u.strand s.cur
    s.sameOutside u ∧ (∀ k, k ≠ s.cur.task → u.task k = s.task k) ∧
      u.task s.cur.task = { s.curTask.setStrand s.cur.unit f with queues := (u.task s.cur.task).queues } ∧
      f = { d with p := f.p, fcsr := f.fcsr, pc := d.pc + BitVec.ofNat 64 v.size, state := .running, held := none } ∧
      f.fcsr = (t.strand s.cur).fcsr ∧ (c = 0 → f.p = d.p) ∧ (∀ n, physP d n ≠ physP d c → f.pred n = d.pred n) ∧
      (∀ q, (∀ k ∈ codes, isPopCode k = true → queueOf k ≠ some q) → (u.task s.cur.task).queueReg q = s.curTask.queueReg q) := by
  intro u d f
  obtain ⟨frame, same, p, preds⟩ := h
  obtain ⟨frame', strand⟩ := State.framed_retire v frame (frame.quiet quiet (by rw [same]) (by rw [same]))
  obtain ⟨outside, others, own, queues, -⟩ := frame'
  have read : f = _ := strand
  refine ⟨outside, others, own, ?_, by rw [read], fun hc => by rw [read]; exact p hc, fun n hn => ?_, fun q pops => ?_⟩
  · rw [read]
    conv_lhs => rw [same]
  · rw [read]
    refine Eq.trans ?_ (preds n hn)
    rfl
  · refine queues q ?_
    rintro ⟨k, hk, pop, hq⟩
    exact pops k hk pop hq

end

/-! ## The destination -/

/-- The opcodes of the ALU layout whose destination is scalar. -/
theorem isDst_of_aluOperandsOk {op : Nat} {x : Alu} (h : aluOperandsOk op x = true)
    (ho : op ≤ 0x2B ∧ op ≠ 0 ∧ op ≠ 0x19 ∧ op ≠ 0x1B ∧ op ≠ 0x26 ∧ op ≠ 0x2B) : x.d.toNat ≤ 79 := by
  obtain ⟨le, n0, n19, n1B, n26, n2B⟩ := ho
  simp only [aluOperandsOk, beq_eq_false_iff_ne.2 n0, beq_eq_false_iff_ne.2 n19, beq_eq_false_iff_ne.2 n1B,
    beq_eq_false_iff_ne.2 n26, beq_eq_false_iff_ne.2 n2B, Bool.or_self, Bool.false_eq_true, if_false, if_pos le, Bool.and_eq_true,
    isDst, decide_eq_true_eq] at h
  exact h.1.1

/-- The destination of an admitted instruction of these is a g register or a queue. -/
theorem dst_le_of_admits {s : State} {v : View} {op : Nat} {z : Alu} (ha : s.admits v = true) (ho : v.op? = some op)
    (hz : v.operandsOk = aluOperandsOk op z) (hop : op ≤ 0x2B ∧ op ≠ 0 ∧ op ≠ 0x19 ∧ op ≠ 0x1B ∧ op ≠ 0x26 ∧ op ≠ 0x2B) :
    z.d.toNat ≤ 79 :=
  isDst_of_aluOperandsOk (hz.symm.trans (operandsOk_of_admits ha ho (not_header_of_op ho))) hop

/-! ## The bodies of the register instructions -/

/-- The codes that an instruction reads: A alone, A and B, or A, B and D. -/
def resultCodes (z : Alu) (k : Nat) : List Nat :=
  [z.a.toNat] ++ (if k = 1 then [] else Src.codes z.b) ++ (if k = 3 then [z.d.toNat] else [])

theorem resultCodes_two (z : Alu) : resultCodes z 2 = z.a.toNat :: Src.codes z.b := List.append_nil _

/-- The body of an instruction with a scalar result, by the number of its sources. -/
inductive ResultRun (s : State) (i : Instr) (z : Alu) : Nat → Prop
  | int (f : Alu → DWord → DWord → DWord) (run : exec i s = runStrand i.view (intBody f z) s) : ResultRun s i z 2
  | unary (f : Alu → DWord → DWord → DWord) (run : exec i s = runStrand i.view (unaryBody f z) s) : ResultRun s i z 1
  | sel (run : exec i s = runStrand i.view (selBody z) s) : ResultRun s i z 2
  | bfi (run : exec i s = runStrand i.view (bfiBody z) s) : ResultRun s i z 3
  | float (f : FpMode → Nat → Val → Val → Nat × Flags) (run : exec i s = runStrand i.view (floatBody f z) s)
      (op : ∀ op, i.view.op? = some op → 0x20 ≤ op) : ResultRun s i z 2
  | ffma (run : exec i s = runStrand i.view (ffmaBody z) s) (op : ∀ op, i.view.op? = some op → 0x20 ≤ op) : ResultRun s i z 3
  | fcvt (run : exec i s = runStrand i.view (fcvtBody z) s) (op : ∀ op, i.view.op? = some op → 0x20 ≤ op) : ResultRun s i z 1
  | fsqrt (run : exec i s = runStrand i.view (fsqrtBody z) s) (op : ∀ op, i.view.op? = some op → 0x20 ≤ op) : ResultRun s i z 1
  | fneg (run : exec i s = runStrand i.view (fnegBody z) s) : ResultRun s i z 1

/-- What an instruction with a scalar result leaves: its result, and its flags when it is a float instruction. -/
def State.leavesResult (s : State) (i : Instr) (z : Alu) (k : Nat) : Prop :=
  ∃ t, exec i s = .next (s.retire t i.view .next) ∧ s.resultFrame t (resultCodes z k) z.d.toNat ∧
    ∀ op, i.view.op? = some op → op < 0x20 → (t.strand s.cur).fcsr = s.curStrand.fcsr

theorem ResultRun.leaves {s : State} {i : Instr} {z : Alu} {k : Nat} (h : ResultRun s i z k) (ha : s.admits i.view = true)
    (hd : z.d.toNat ≤ 79) (hr : s.ready (resultCodes z k) (some z.d.toNat) = true) : s.leavesResult i z k := by
  have plain {body : M Flow} {v : DWord} {codes : List Nat} (run : exec i s = runStrand i.view body s)
      (ok : body s = .ok .next ((s.popCodes codes).writeDst z.d.toNat v)) (hc : resultCodes z k = codes) : s.leavesResult i z k := by
    obtain ⟨frame, flags⟩ := State.resultFrame_writeDst (s := s) (codes := codes) hd v
    exact ⟨_, run.trans (runStrand_next ha ok), hc ▸ frame, fun _ _ _ => flags⟩
  have flagged {body : M Flow} {v : DWord} {f : Flags} {codes : List Nat} (run : exec i s = runStrand i.view body s)
      (ok : body s = .ok .next (((s.popCodes codes).writeDst z.d.toNat v).withFlags f)) (hc : resultCodes z k = codes)
      (float : ∀ op, i.view.op? = some op → 0x20 ≤ op) : s.leavesResult i z k := by
    obtain ⟨frame, -⟩ := State.resultFrame_writeDst (s := s) (codes := codes) hd v
    exact ⟨_, run.trans (runStrand_next ha ok), hc ▸ frame.withFlags f, fun op ho lt => absurd (float op ho) (not_le.2 lt)⟩
  cases h with
  | int f run => exact plain run (intBody_ok f (resultCodes_two z ▸ hr)) (resultCodes_two z)
  | unary f run => exact plain run (unaryBody_ok f hr) rfl
  | sel run => exact plain run (selBody_ok (resultCodes_two z ▸ hr)) (resultCodes_two z)
  | bfi run => exact plain run (bfiBody_ok hr) rfl
  | float f run op => exact flagged run (floatBody_ok f (resultCodes_two z ▸ hr)) (resultCodes_two z) op
  | ffma run op => exact flagged run (ffmaBody_ok hr) rfl op
  | fcvt run op => exact flagged run (fcvtBody_ok hr) rfl op
  | fsqrt run op => exact flagged run (fsqrtBody_ok hr) rfl op
  | fneg run => exact plain run (fnegBody_ok hr) rfl

/-- The codes that an instruction with a predicate result reads. -/
def predCodes (z : Alu) (k : Nat) : List Nat := if k = 0 then [] else z.a.toNat :: (if k = 1 then [] else Src.codes z.b)

/-- The body of an instruction with a predicate result, by the number of its scalar sources. -/
inductive PredRun (s : State) (i : Instr) (z : Alu) : Nat → Prop
  | cmp (run : exec i s = runStrand i.view (cmpBody z) s) : PredRun s i z 2
  | fcmp (run : exec i s = runStrand i.view (fcmpBody z) s) (op : i.view.op? = some 0x26) : PredRun s i z 2
  | fclass (run : exec i s = runStrand i.view (fclassBody z) s) : PredRun s i z 1
  | pred (f : Bool → Bool → Bool) (run : exec i s = runStrand i.view (predBody f z) s) : PredRun s i z 0
  | pnot (run : exec i s = runStrand i.view (pnotBody z) s) : PredRun s i z 0

/-- What an instruction with a predicate result leaves: its result, and the flags of `fcmp`. -/
def State.leavesPred (s : State) (i : Instr) (z : Alu) (k : Nat) : Prop :=
  ∃ t, exec i s = .next (s.retire t i.view .next) ∧ s.predFrame t (predCodes z k) z.d.toNat ∧
    ∀ op, i.view.op? = some op → op ≠ 0x26 → (t.strand s.cur).fcsr = s.curStrand.fcsr

theorem PredRun.leaves {s : State} {i : Instr} {z : Alu} {k : Nat} (h : PredRun s i z k) (ha : s.admits i.view = true)
    (hr : s.ready (predCodes z k) none = true) : s.leavesPred i z k := by
  have plain {body : M Flow} {b : Bool} (run : exec i s = runStrand i.view body s)
      (ok : body s = .ok .next ((s.popCodes (predCodes z k)).withPred z.d.toNat b)) : s.leavesPred i z k := by
    obtain ⟨frame, flags⟩ := State.predFrame_withPred (s := s) (codes := predCodes z k) (c := z.d.toNat) b
    exact ⟨_, run.trans (runStrand_next ha ok), frame, fun _ _ _ => flags⟩
  cases h with
  | cmp run => exact plain run (cmpBody_ok hr)
  | fcmp run op =>
    obtain ⟨frame, -⟩ := State.predFrame_withPred (s := s) (codes := predCodes z 2) (c := z.d.toNat)
      (fcmpHolds z.sub.toNat (floatVal (s.capture z.rnd.toNat) z.u (s.source z.a.toNat))
        (s.floatOperandB (s.capture z.rnd.toNat) z.u z.b)).1
    exact ⟨_, run.trans (runStrand_next ha (fcmpBody_ok hr)), frame.withFlags _,
      fun o ho ne => absurd (Option.some.inj (ho.symm.trans op)) ne⟩
  | fclass run => exact plain run (fclassBody_ok hr)
  | pred f run => exact plain run (predBody_ok f z s)
  | pnot run => exact plain run (pnotBody_ok z s)

/-- Settles O47: each instruction runs one of few bodies, which pops its sources, writes its destination and sets flags. -/
theorem registerFrames : Obligations.RegisterFrames := by
  constructor
  · intro s x y quiet e he z d codes ha hr
    have named : ∃ op, e.1.view.op? = some op ∧ e.1.view.operandsOk = aluOperandsOk op z ∧
        (op ≤ 0x2B ∧ op ≠ 0 ∧ op ≠ 0x19 ∧ op ≠ 0x1B ∧ op ≠ 0x26 ∧ op ≠ 0x2B) := by
      fin_cases he <;> exact ⟨_, rfl, rfl, by decide⟩
    have run : ResultRun s e.1 z e.2.2 := by
      fin_cases he
      iterate 36 exact .int _ rfl
      iterate 10 exact .unary _ rfl
      iterate 2 exact .sel rfl
      iterate 2 exact .bfi rfl
      iterate 6 exact .float _ rfl (by rintro _ ⟨⟩; decide)
      iterate 2 exact .ffma rfl (by rintro _ ⟨⟩; decide)
      iterate 6 exact .float _ rfl (by rintro _ ⟨⟩; decide)
      iterate 2 exact .fcvt rfl (by rintro _ ⟨⟩; decide)
      iterate 2 exact .fsqrt rfl (by rintro _ ⟨⟩; decide)
      iterate 2 exact .fneg rfl
    obtain ⟨op, ho, hz, hop⟩ := named
    obtain ⟨t, hexec, frame, flags⟩ := run.leaves ha (dst_le_of_admits ha ho hz hop) hr
    obtain ⟨outside, others, own, strand, fcsr, g, regs, queues⟩ := frame.retires quiet e.1.view
    exact ⟨_, hexec, outside, others, own, strand, fun o h lt => fcsr.trans (flags o h lt),
      fun h => g (h.imp (fun k => congrArg BitVec.toNat k) id), regs, queues⟩
  · intro s x y quiet e he z d codes ha hr
    have run : PredRun s e.1 z e.2.2 := by
      fin_cases he
      iterate 2 exact .cmp rfl
      iterate 2 exact .fcmp rfl rfl
      iterate 2 exact .fclass rfl
      iterate 6 exact .pred _ rfl
      iterate 2 exact .pnot rfl
    obtain ⟨t, hexec, frame, flags⟩ := run.leaves ha hr
    obtain ⟨outside, others, own, strand, fcsr, p, preds, queues⟩ := frame.retires quiet e.1.view
    exact ⟨_, hexec, outside, others, own, strand, fun o h ne => fcsr.trans (flags o h ne),
      fun h => p (congrArg BitVec.toNat h), preds, queues⟩

end Sys2Proof.Machine
end

section
/-! SUPPORT. The device memory stays canonical through what ends or interrupts an instruction: edge records and trace packets,
translations, which post faults, accesses that perform, fault records, and the end of a task. -/

namespace Sys2Proof.Machine

/-! ## Writes at the home -/

theorem State.wf_writeHome {s : State} (a : Nat) (bs : List Byte) (who : Party) (wf : s.mem.wf = true) :
    (s.writeHome a bs who).mem.wf = true := Memory.wf_write bs a wf

theorem State.wf_setHome {s : State} (a n v : Nat) (who : Party) (wf : s.mem.wf = true) : (s.setHome a n v who).mem.wf = true :=
  State.wf_writeHome a _ who wf

/-! ## Edge records -/

theorem State.wf_postPacket {s : State} (p : Party) (c k t : Nat) (l : List DWord) (wf : s.mem.wf = true) :
    (s.postPacket p c k t l).mem.wf = true := by
  rw [State.postPacket]
  split
  · exact wf
  · dsimp only
    split
    · split
      · exact State.wf_setHome _ _ _ _ wf
      · exact wf
    · exact wf

theorem State.wf_taskEdge {s : State} (t : Nat) (e : Edge) (wf : s.mem.wf = true) : (s.taskEdge t e).mem.wf = true := by
  rw [State.taskEdge, State.writeEdge]
  split
  · exact State.wf_postPacket _ _ _ _ _ wf
  · exact wf

theorem State.wf_startRecord {s : State} (r : StrandRef) (wf : s.mem.wf = true) : (s.startRecord r).mem.wf = true := by
  rw [State.startRecord]
  split
  · exact State.wf_taskEdge _ _ wf
  · exact wf

theorem State.wf_endWait {s : State} (r : StrandRef) (w : Wait) (wf : s.mem.wf = true) : (s.endWait r w).mem.wf = true := by
  rw [State.endWait]
  split
  · exact wf
  · split
    · exact wf
    · exact State.wf_taskEdge _ _ wf

theorem State.wf_issue {s : State} (r : StrandRef) (wf : s.mem.wf = true) : (s.issue r).mem.wf = true := by
  have started := State.wf_startRecord r wf
  rw [State.issue]
  split
  · exact started
  · exact State.wf_endWait r _ started

theorem State.mem_boundary (s : State) (r : StrandRef) : (s.boundary r).mem = s.mem := by
  rw [State.boundary]
  split
  · rfl
  · dsimp only
    split <;> rfl

theorem State.mem_follow (s : State) (r : StrandRef) (f : Flow) (pc : DWord) (size : Nat) : (s.follow r f pc size).mem = s.mem := by
  cases f <;> rfl

theorem State.wf_stall {s : State} (r : StrandRef) (y : Why) (wf : s.mem.wf = true) : (s.stall r y).mem.wf = true := by
  rw [State.stall]
  dsimp only
  split
  · split
    · exact wf
    · exact State.wf_endWait r _ wf
  · exact wf

/-! ## Translations -/

theorem State.wf_postFault {s : State} (x : Access) (va : DWord) (level : Nat) (wf : s.mem.wf = true) :
    (s.postFault x va level).mem.wf = true := by
  rw [State.postFault]
  dsimp only
  split
  · split <;> exact wf
  · split
    · exact wf
    · rw [State.setCtx_mem]
      exact State.wf_setHome _ _ _ _ (State.wf_setHome _ _ _ _ (State.wf_setHome _ _ _ _ (State.wf_setHome _ _ _ _
        (State.wf_setHome _ _ _ _ wf))))

theorem State.mem_fillTlb (s : State) (x : Access) (e : TlbEntry) : (s.fillTlb x e).mem = s.mem := by
  rw [State.fillTlb]
  dsimp only
  split <;> rfl

theorem State.mem_dropTlb (s : State) (x : Access) (vpn : Nat) : (s.dropTlb x vpn).mem = s.mem := by
  rw [State.dropTlb]
  dsimp only
  split <;> rfl

theorem State.mem_noteZf (s : State) (frame : Nat) (zf : Bool) : (s.noteZf frame zf).mem = s.mem := by
  rw [State.noteZf]
  split <;> rfl

theorem State.mem_claim (s : State) (x : Access) (va pte : DWord) (shift : Nat) : (s.claim x va pte shift).2.mem = s.mem := by
  rw [State.claim]
  split
  · rfl
  · dsimp only
    split
    · split <;> rfl
    · split
      · rfl
      · rw [State.mem_fillTlb]
        split
        · exact State.mem_noteZf ..
        · rfl

theorem State.wf_walkAccess {s : State} (x : Access) (va : DWord) (wf : s.mem.wf = true) : (s.walkAccess x va).2.mem.wf = true := by
  rw [State.walkAccess]
  split
  · exact wf
  · split
    · rw [State.mem_claim]
      exact wf
    · exact State.wf_postFault _ _ _ wf
    · exact wf
    · exact wf

theorem State.wf_translate {s : State} (x : Access) (va : DWord) (wf : s.mem.wf = true) : (s.translate x va).2.mem.wf = true := by
  rw [State.translate]
  split
  · exact wf
  · split
    · next failed =>
      rw [State.takeFailed] at failed
      split at failed
      · cases failed
        exact wf
      · cases failed
    · split
      · split
        · exact State.wf_walkAccess _ _ (by rwa [State.mem_dropTlb])
        · split
          · rw [State.mem_claim]
            exact wf
          · exact wf
      · exact State.wf_walkAccess _ _ wf

/-! ## Fault records -/

theorem State.wf_flushRecords (q n : Nat) : ∀ {s : State}, s.mem.wf = true → (s.flushRecords q n).mem.wf = true := by
  induction n with
  | zero => exact fun wf => wf
  | succ n ih =>
    intro s wf
    rw [State.flushRecords]
    dsimp only
    split
    · exact wf
    · next rec rest _ =>
      generalize found : s.translate _ _ = p
      have after : p.2.mem.wf = true := found ▸ State.wf_translate _ _ wf
      split
      · split
        · refine ih ?_
          rw [State.setQueue_mem]
          exact State.wf_writeHome _ _ _ after
        · refine ih ?_
          rw [State.setQueue_mem]
          exact State.wf_setHome _ _ _ _ after
      · exact after
      · exact ih after

theorem State.wf_putRecord {s : State} (q : Nat) (rec : List Byte) (wf : s.mem.wf = true) : (s.putRecord q rec).mem.wf = true := by
  rw [State.putRecord]
  split
  · exact wf
  · exact State.wf_flushRecords q _ wf

/-! ## The end of a task -/

theorem State.wf_drain {s : State} (r : StrandRef) (wf : s.mem.wf = true) : (s.drain r).mem.wf = true := by
  refine List.foldlRecOn (motive := fun t : State => t.mem.wf = true) _ _ ?_ fun t ht e _ => State.wf_landOne r e.id ht
  exact List.foldlRecOn (motive := fun t : State => t.mem.wf = true) _ _ wf fun t ht e _ => by
    rw [(t.readLate_frame r e.1).1]
    exact ht

theorem State.wf_drainTask {s : State} (t : Nat) (wf : s.mem.wf = true) : (s.drainTask t).mem.wf = true :=
  List.foldlRecOn (motive := fun u : State => u.mem.wf = true) _ _ wf fun _ hu _ _ => State.wf_drain _ hu

theorem State.mem_updLaunch (s : State) (l : Nat) (f : Launch → Launch) : (s.updLaunch l f).mem = s.mem := by
  rw [State.updLaunch]
  split <;> rfl

theorem State.mem_faultQueue (s : State) (q l : Nat) : (s.faultQueue q l).mem = s.mem := by
  rw [State.faultQueue]
  split <;> rfl

theorem State.mem_chargeTask (s : State) (t : Nat) : (s.chargeTask t).mem = s.mem := by
  rw [State.chargeTask]
  split <;> rfl

theorem State.mem_standEntries (s : State) (t : Nat) : (s.standEntries t).mem = s.mem := rfl

theorem State.mem_freeImage (s : State) (c : Nat) (k : Option Nat) : (s.freeImage c k).mem = s.mem := by
  cases k <;> rfl

theorem State.mem_settleBarriers (s : State) (g : Nat) (who : Party) : (s.settleBarriers g who).mem = s.mem := by
  rw [State.settleBarriers]
  dsimp only
  split <;> rfl

theorem State.mem_endMember (s : State) (t : Nat) : (s.endMember t).mem = s.mem := by
  rw [State.endMember]
  dsimp only
  split
  · exact State.mem_freeImage ..
  · split
    · exact List.foldlRecOn (motive := fun u : State => u.mem = s.mem) _ _ rfl fun u hu m _ => (u.mem_freeImage ..).trans hu
    · exact State.mem_settleBarriers ..

theorem State.mem_grantLease (s : State) (h : Nat) : (s.grantLease h).mem = s.mem := by
  rw [State.grantLease]
  split
  · rfl
  · split
    · rfl
    · rfl

theorem State.mem_dropLease (s : State) (t : Nat) : (s.dropLease t).mem = s.mem := by
  rw [State.dropLease]
  split
  · rw [State.freeLease]
    split
    · exact State.mem_grantLease ..
    · exact State.mem_grantLease ..
  · rfl

theorem State.mem_countComplete (s : State) (x : Task) (p : Party) : (s.countComplete x p).mem = s.mem := State.mem_updLaunch ..

theorem State.mem_eraseTask (s : State) (t : Nat) : (s.eraseTask t).mem = s.mem := rfl

theorem State.mem_renameTask (s : State) (a b : Nat) : (s.renameTask a b).mem = s.mem := by
  unfold State.renameTask
  extract_lets
  rfl

theorem State.mem_retireTask (s : State) (t : Nat) (faulted : Bool) : (s.retireTask t faulted).mem = s.mem := by
  unfold State.retireTask
  extract_lets x y off released ended u v w
  have released : u.mem = s.mem := rfl
  by_cases h : (u.cmdHeads t).isEmpty
  · rw [if_pos h, State.mem_eraseTask]
    have left : v.mem = u.mem := State.mem_dropLease ..
    refine Eq.trans ?_ (left.trans released)
    by_cases k : (faulted || y.orphaned) = true
    · exact congrArg State.mem (if_pos k)
    · exact (congrArg State.mem (if_neg k)).trans (State.mem_countComplete ..)
  · rw [if_neg h]
    exact (u.mem_renameTask t (u.zombieKey t)).trans released

theorem State.wf_endTask_faulted {s : State} (t : Nat) (wf : s.mem.wf = true) : (s.endTask t true).mem.wf = true := by
  have ended : (s.endTask t true).mem = (s.drainTask t).mem := by
    rw [State.endTask_faulted, State.mem_retireTask, State.mem_endMember, State.mem_standEntries, State.mem_chargeTask]
  rw [ended]
  exact State.wf_drainTask t wf

theorem State.mem_faultNoted (s : State) (t : Nat) : (s.faultNoted t).mem = s.mem :=
  (State.mem_faultQueue ..).trans (State.mem_updLaunch ..)

theorem State.wf_taskFault {s : State} (t : Nat) (f : FaultCause) (wf : s.mem.wf = true) : (s.taskFault t f).mem.wf = true := by
  have noted : (s.faultNoted t).mem.wf = true := by rwa [State.mem_faultNoted]
  cases member : (s.task t).group with
  | some g =>
    rw [State.taskFault_member f member]
    dsimp only
    split <;> exact noted
  | none =>
    rw [State.taskFault]
    dsimp only
    rw [member]
    exact State.wf_endTask_faulted t (State.wf_putRecord _ _ noted)

theorem State.wf_takeTrap {s : State} (r : StrandRef) (cause : Nat) (value tpc data : DWord) (wf : s.mem.wf = true) :
    (s.takeTrap r cause value tpc data).mem.wf = true := by
  rw [State.takeTrap]
  split
  · exact wf
  · exact State.wf_taskFault _ _ wf

/-! ## Bodies that keep the memory canonical -/

/-- The state that a body ends in, whether it succeeds or stops. -/
def endState {α : Type} : EStateM.Result Stop State α → State
  | .ok _ s => s
  | .error _ s => s

/-- The body ends in a state whose memory is canonical when the one it began in had such a memory. -/
def KeepsForm {α : Type} (m : M α) : Prop := ∀ s : State, s.mem.wf = true → (endState (m s)).mem.wf = true

theorem KeepsForm.pure {α : Type} (x : α) : KeepsForm (Pure.pure x : M α) := fun _ wf => wf

theorem KeepsForm.get : KeepsForm (MonadState.get : M State) := fun _ wf => wf

theorem KeepsForm.bind {α β : Type} {m : M α} {f : α → M β} (hm : KeepsForm m) (hf : ∀ x, KeepsForm (f x)) : KeepsForm (m >>= f) := by
  intro s wf
  have after := hm s wf
  cases run : m s with
  | ok x t =>
    rw [run] at after
    rw [bind_ok run]
    exact hf x t after
  | error e t =>
    rw [run] at after
    rw [bind_error run]
    exact after

theorem KeepsForm.modify {f : State → State} (h : ∀ s, (f s).mem = s.mem) : KeepsForm (modify f : M Unit) := fun s wf => by
  change (f s).mem.wf = true
  rwa [h]

theorem KeepsForm.modifyCur (f : Strand → Strand) : KeepsForm (modifyCur f) := KeepsForm.modify fun _ => rfl

theorem mem_popCodes (s : State) (codes : List Nat) : (s.popCodes codes).mem = s.mem := by
  rw [popCodes_outside]

theorem KeepsForm.operands (codes : List Nat) (dst : Option Nat) : KeepsForm (operands codes dst) := by
  intro s wf
  rw [Sys2Proof.Machine.operands]
  split
  · exact wf
  · change (s.popCodes codes).mem.wf = true
    rwa [mem_popCodes]

theorem KeepsForm.writeDst (c : Nat) (v : DWord) : KeepsForm (writeDst c v) := KeepsForm.modify fun s => s.mem_writeDst c v

theorem KeepsForm.operandsAB (a : BitVec 9) (b : Src) (dst : Option Nat) : KeepsForm (operandsAB a b dst) :=
  KeepsForm.bind (KeepsForm.operands _ _) fun _ => KeepsForm.pure _

theorem KeepsForm.operandB (b : Src) (dst : Option Nat) : KeepsForm (operandB b dst) :=
  KeepsForm.bind (KeepsForm.operands _ _) fun _ => KeepsForm.pure _

theorem KeepsForm.captured (r : BitVec 3) : KeepsForm (captured r) := fun _ wf => wf

theorem KeepsForm.writeFloat (c : Nat) (r : Nat × Flags) : KeepsForm (writeFloat c r) :=
  KeepsForm.bind (KeepsForm.writeDst _ _) fun _ => KeepsForm.modifyCur _

/-- An instruction whose body keeps the memory canonical does, with its wait or its trap. -/
theorem KeepsForm.runStrand {body : M Flow} (h : KeepsForm body) {v : View} {s t : State} (wf : s.mem.wf = true)
    (run : runStrand v body s = .next t) : t.mem.wf = true := by
  have issued : (s.issue s.cur).mem.wf = true := State.wf_issue _ wf
  rw [Sys2Proof.Machine.runStrand] at run
  split at run
  · cases run
    rw [State.mem_boundary]
    exact State.wf_takeTrap _ _ _ _ _ issued
  split at run
  · cases run
    rw [State.mem_boundary, State.mem_follow]
    exact issued
  have after := h s wf
  split at run
  · next u ok =>
    cases run
    rwa [ok] at after
  · next f u _ ok =>
    cases run
    rw [ok] at after
    rw [State.mem_boundary, State.mem_follow]
    exact State.wf_issue _ after
  · next y keep u stop =>
    cases run
    rw [stop] at after
    refine State.wf_stall _ _ ?_
    split
    · exact after
    · exact wf
  · next k u stop =>
    cases run
    rw [stop] at after
    rw [State.mem_boundary]
    refine State.wf_takeTrap _ _ _ _ _ (State.wf_issue _ ?_)
    split
    · exact after
    · exact wf

/-! ## The bodies of the scalar, float, predicate, branch and span classes -/

theorem keepsForm_raiseWord (c : Nat) : KeepsForm (raiseWord c : M Flow) := fun _ wf => wf

theorem keepsForm_jumpTo (t : DWord) : KeepsForm (jumpTo t) := by
  rw [jumpTo]
  split <;> exact fun _ wf => wf

theorem keepsForm_nopBody : KeepsForm nopBody := KeepsForm.pure _

theorem keepsForm_intBody (f : Alu → DWord → DWord → DWord) (x : Alu) : KeepsForm (intBody f x) :=
  KeepsForm.bind (KeepsForm.operandsAB _ _ _) fun _ => KeepsForm.bind (KeepsForm.writeDst _ _) fun _ => KeepsForm.pure _

theorem keepsForm_unaryBody (f : Alu → DWord → DWord → DWord) (x : Alu) : KeepsForm (unaryBody f x) :=
  KeepsForm.bind (KeepsForm.operands _ _) fun _ => KeepsForm.bind (KeepsForm.writeDst _ _) fun _ => KeepsForm.pure _

theorem keepsForm_bfiBody (x : Alu) : KeepsForm (bfiBody x) :=
  KeepsForm.bind (KeepsForm.operands _ _) fun _ => KeepsForm.bind (KeepsForm.writeDst _ _) fun _ => KeepsForm.pure _

theorem keepsForm_selBody (x : Alu) : KeepsForm (selBody x) :=
  KeepsForm.bind (KeepsForm.operandsAB _ _ _) fun _ => KeepsForm.bind KeepsForm.get fun _ =>
    KeepsForm.bind (KeepsForm.writeDst _ _) fun _ => KeepsForm.pure _

theorem keepsForm_moviBody (x : Alu) : KeepsForm (moviBody x) :=
  KeepsForm.bind (KeepsForm.operands _ _) fun _ => KeepsForm.bind (KeepsForm.writeDst _ _) fun _ => KeepsForm.pure _

theorem keepsForm_moviHiBody (x : Alu) : KeepsForm (moviHiBody x) :=
  KeepsForm.bind (KeepsForm.operands _ _) fun _ => KeepsForm.bind (KeepsForm.writeDst _ _) fun _ => KeepsForm.pure _

theorem keepsForm_cmpBody (x : Alu) : KeepsForm (cmpBody x) :=
  KeepsForm.bind (KeepsForm.operandsAB _ _ _) fun _ => KeepsForm.bind (KeepsForm.modifyCur _) fun _ => KeepsForm.pure _

theorem keepsForm_floatBody (f : FpMode → Nat → Val → Val → Nat × Flags) (x : Alu) : KeepsForm (floatBody f x) :=
  KeepsForm.bind (KeepsForm.captured _) fun _ => KeepsForm.bind (KeepsForm.operands _ _) fun _ =>
    KeepsForm.bind (KeepsForm.writeFloat _ _) fun _ => KeepsForm.pure _

theorem keepsForm_ffmaBody (x : Alu) : KeepsForm (ffmaBody x) :=
  KeepsForm.bind (KeepsForm.captured _) fun _ => KeepsForm.bind (KeepsForm.operands _ _) fun _ =>
    KeepsForm.bind (KeepsForm.writeFloat _ _) fun _ => KeepsForm.pure _

theorem keepsForm_fcmpBody (x : Alu) : KeepsForm (fcmpBody x) :=
  KeepsForm.bind (KeepsForm.captured _) fun _ => KeepsForm.bind (KeepsForm.operands _ _) fun _ =>
    KeepsForm.bind (KeepsForm.modifyCur _) fun _ => KeepsForm.bind (KeepsForm.modifyCur _) fun _ => KeepsForm.pure _

theorem keepsForm_fcvtBody (x : Alu) : KeepsForm (fcvtBody x) :=
  KeepsForm.bind (KeepsForm.captured _) fun _ => KeepsForm.bind (KeepsForm.operands _ _) fun _ =>
    KeepsForm.bind (KeepsForm.writeFloat _ _) fun _ => KeepsForm.pure _

theorem keepsForm_fsqrtBody (x : Alu) : KeepsForm (fsqrtBody x) :=
  KeepsForm.bind (KeepsForm.captured _) fun _ => KeepsForm.bind (KeepsForm.operands _ _) fun _ =>
    KeepsForm.bind (KeepsForm.writeFloat _ _) fun _ => KeepsForm.pure _

theorem keepsForm_fnegBody (x : Alu) : KeepsForm (fnegBody x) :=
  KeepsForm.bind (KeepsForm.captured _) fun _ => KeepsForm.bind (KeepsForm.operands _ _) fun _ =>
    KeepsForm.bind (KeepsForm.writeDst _ _) fun _ => KeepsForm.pure _

theorem keepsForm_fclassBody (x : Alu) : KeepsForm (fclassBody x) :=
  KeepsForm.bind (KeepsForm.operands _ _) fun _ => KeepsForm.bind (KeepsForm.modifyCur _) fun _ => KeepsForm.pure _

theorem keepsForm_predBody (f : Bool → Bool → Bool) (x : Alu) : KeepsForm (predBody f x) :=
  KeepsForm.bind (KeepsForm.modifyCur _) fun _ => KeepsForm.pure _

theorem keepsForm_pnotBody (x : Alu) : KeepsForm (pnotBody x) :=
  KeepsForm.bind (KeepsForm.modifyCur _) fun _ => KeepsForm.pure _

theorem keepsForm_pmovBody (x : Alu) : KeepsForm (pmovBody x) := by
  rw [pmovBody]
  split
  · exact KeepsForm.bind (KeepsForm.modifyCur _) fun _ => KeepsForm.pure _
  · split
    · exact KeepsForm.bind (KeepsForm.operands _ _) fun _ => KeepsForm.bind (KeepsForm.modifyCur _) fun _ => KeepsForm.pure _
    · exact KeepsForm.bind (KeepsForm.operands _ _) fun _ => KeepsForm.bind KeepsForm.get fun _ =>
        KeepsForm.bind (KeepsForm.writeDst _ _) fun _ => KeepsForm.pure _

theorem keepsForm_psetBody (x : Alu) : KeepsForm (psetBody x) := by
  rw [psetBody]
  split
  · exact KeepsForm.bind (KeepsForm.operands _ _) fun _ => KeepsForm.bind (KeepsForm.modifyCur _) fun _ => KeepsForm.pure _
  · exact KeepsForm.bind (KeepsForm.modifyCur _) fun _ => KeepsForm.pure _

theorem keepsForm_branchBody {n : Nat} (disp : BitVec n) : KeepsForm (branchBody disp) :=
  KeepsForm.bind KeepsForm.get fun _ => KeepsForm.pure _

theorem keepsForm_callBody {n : Nat} (link : Nat) (disp : BitVec n) (size : Nat) : KeepsForm (callBody link disp size) :=
  KeepsForm.bind KeepsForm.get fun _ => KeepsForm.bind (KeepsForm.operands _ _) fun _ =>
    KeepsForm.bind (KeepsForm.writeDst _ _) fun _ => KeepsForm.pure _

theorem keepsForm_brrBody (x : Gen) : KeepsForm (brrBody x) :=
  KeepsForm.bind KeepsForm.get fun _ => KeepsForm.bind (KeepsForm.operands _ _) fun _ =>
    KeepsForm.bind (KeepsForm.writeDst _ _) fun _ => keepsForm_jumpTo _

theorem keepsForm_retBody (x : Gen) : KeepsForm (retBody x) := KeepsForm.bind (KeepsForm.operands _ _) fun _ => keepsForm_jumpTo _

theorem keepsForm_loopBody (x : Br) : KeepsForm (loopBody x) := by
  refine KeepsForm.bind (KeepsForm.operands _ _) fun vs => KeepsForm.bind KeepsForm.get fun s => ?_
  dsimp only
  split
  · exact KeepsForm.pure _
  · split
    · exact keepsForm_raiseWord 8
    · exact KeepsForm.bind (KeepsForm.modifyCur _) fun _ => KeepsForm.pure _

theorem keepsForm_bloopBody {n : Nat} (disp : BitVec n) : KeepsForm (bloopBody disp) := by
  refine KeepsForm.bind KeepsForm.get fun s => ?_
  dsimp only
  split
  · exact keepsForm_raiseWord 8
  · split
    · exact KeepsForm.bind (KeepsForm.modifyCur _) fun _ => KeepsForm.pure _
    · exact KeepsForm.bind (KeepsForm.modifyCur _) fun _ => KeepsForm.pure _

theorem keepsForm_lbrkBody (x : Br) : KeepsForm (lbrkBody x) := by
  refine KeepsForm.bind KeepsForm.get fun s => ?_
  dsimp only
  split
  · exact keepsForm_raiseWord 8
  · exact KeepsForm.bind (KeepsForm.modifyCur _) fun _ => KeepsForm.pure _

theorem keepsForm_rbsetBody (x : Gen) : KeepsForm (rbsetBody x) :=
  KeepsForm.bind (KeepsForm.operandB _ _) fun _ => KeepsForm.bind (KeepsForm.modifyCur _) fun _ => KeepsForm.pure _

/-! ## Spans -/

theorem keepsForm_sdefBody (x : Gen) : KeepsForm (sdefBody x) :=
  KeepsForm.bind (KeepsForm.operands _ _) fun _ => KeepsForm.bind (KeepsForm.modify fun _ => rfl) fun _ => KeepsForm.pure _

theorem keepsForm_ssetBody (x : Gen) : KeepsForm (ssetBody x) :=
  KeepsForm.bind (KeepsForm.operandB _ _) fun _ => KeepsForm.bind (KeepsForm.modify fun _ => rfl) fun _ => KeepsForm.pure _

theorem keepsForm_sgetBody (x : Gen) : KeepsForm (sgetBody x) :=
  KeepsForm.bind (KeepsForm.operands _ _) fun _ => KeepsForm.bind KeepsForm.get fun _ =>
    KeepsForm.bind (KeepsForm.writeDst _ _) fun _ => KeepsForm.pure _

/-- A body that reads the state goes on from that state. -/
theorem KeepsForm.getThen {α : Type} {f : State → M α} (h : ∀ s : State, s.mem.wf = true → (endState (f s s)).mem.wf = true) :
    KeepsForm (MonadState.get >>= f) := h

/-- The end of `sadv` and `sfmt`: a span register written. -/
theorem keepsForm_putSpan (n : Nat) (v : DWord) :
    KeepsForm (do modify fun s => s.writeSpan n v; pure .next : M Flow) :=
  KeepsForm.bind (KeepsForm.modify fun _ => rfl) fun _ => KeepsForm.pure _

theorem keepsForm_sadvBody (x : Gen) : KeepsForm (sadvBody x) := by
  refine KeepsForm.bind (KeepsForm.operandB _ _) fun v => KeepsForm.getThen fun s wf => ?_
  dsimp only
  split
  · exact keepsForm_putSpan _ _ s wf
  · split
    · exact keepsForm_putSpan _ _ s.fresh.2 wf
    · split
      · exact keepsForm_raiseWord 25 s wf
      · exact keepsForm_putSpan _ _ s wf

theorem keepsForm_sfmtBody (x : Gen) : KeepsForm (sfmtBody x) := by
  refine KeepsForm.getThen fun s wf => ?_
  dsimp only
  split
  · exact keepsForm_raiseWord 25 s wf
  · split
    · exact keepsForm_putSpan _ _ s.fresh.2 wf
    · split
      · exact keepsForm_raiseWord 25 s wf
      · exact keepsForm_putSpan _ _ s wf

/-! ## O49 -/

/-- The opcodes of the scalar, float, predicate, branch and span classes. -/
def scalarClass (v : View) : Bool := v.op?.any fun op => op ≤ 0x3F || (0xB8 ≤ op && op ≤ 0xBC)

/-- An instruction of these classes runs one body, which keeps the memory canonical. -/
theorem scalar_keepsForm (i : Instr) (h : scalarClass i.view = true) :
    ∃ body, (∀ s, exec i s = runStrand i.view body s) ∧ KeepsForm body := by
  cases i
  case nop | nopLong => exact ⟨_, fun _ => rfl, keepsForm_nopBody⟩
  case add | addLong | sub | subLong | mul | mulLong | mulh | mulhLong | div | divLong | rem | remLong | and | andLong | or | orLong
      | xor | xorLong | andn | andnLong | shl | shlLong | shr | shrLong | sar | sarLong | rot | rotLong | min | minLong | max | maxLong
      | bfx | bfxLong | lea | leaLong => exact ⟨_, fun _ => rfl, keepsForm_intBody _ _⟩
  case abs | absLong | clz | clzLong | ctz | ctzLong | popc | popcLong | mov | movLong =>
    exact ⟨_, fun _ => rfl, keepsForm_unaryBody _ _⟩
  case bfi | bfiLong => exact ⟨_, fun _ => rfl, keepsForm_bfiBody _⟩
  case sel | selLong => exact ⟨_, fun _ => rfl, keepsForm_selBody _⟩
  case movi => exact ⟨_, fun _ => rfl, keepsForm_moviBody _⟩
  case moviHi => exact ⟨_, fun _ => rfl, keepsForm_moviHiBody _⟩
  case cmp | cmpLong => exact ⟨_, fun _ => rfl, keepsForm_cmpBody _⟩
  case fadd | faddLong | fsub | fsubLong | fmul | fmulLong | fmin | fminLong | fmax | fmaxLong | fdiv | fdivLong =>
    exact ⟨_, fun _ => rfl, keepsForm_floatBody _ _⟩
  case ffma | ffmaLong => exact ⟨_, fun _ => rfl, keepsForm_ffmaBody _⟩
  case fcmp | fcmpLong => exact ⟨_, fun _ => rfl, keepsForm_fcmpBody _⟩
  case fcvt | fcvtLong => exact ⟨_, fun _ => rfl, keepsForm_fcvtBody _⟩
  case fsqrt | fsqrtLong => exact ⟨_, fun _ => rfl, keepsForm_fsqrtBody _⟩
  case fneg | fnegLong => exact ⟨_, fun _ => rfl, keepsForm_fnegBody _⟩
  case fclass | fclassLong => exact ⟨_, fun _ => rfl, keepsForm_fclassBody _⟩
  case pand | pandLong | por | porLong | pxor | pxorLong => exact ⟨_, fun _ => rfl, keepsForm_predBody _ _⟩
  case pnot | pnotLong => exact ⟨_, fun _ => rfl, keepsForm_pnotBody _⟩
  case pmov | pmovLong => exact ⟨_, fun _ => rfl, keepsForm_pmovBody _⟩
  case pset | psetLong => exact ⟨_, fun _ => rfl, keepsForm_psetBody _⟩
  case br | brLong => exact ⟨_, fun _ => rfl, keepsForm_branchBody _⟩
  case call | callLong => exact ⟨_, fun _ => rfl, keepsForm_callBody _ _ _⟩
  case brr => exact ⟨_, fun _ => rfl, keepsForm_brrBody _⟩
  case ret | retLong => exact ⟨_, fun _ => rfl, keepsForm_retBody _⟩
  case loop => exact ⟨_, fun _ => rfl, keepsForm_loopBody _⟩
  case bloop | bloopLong => exact ⟨_, fun _ => rfl, keepsForm_bloopBody _⟩
  case lbrk => exact ⟨_, fun _ => rfl, keepsForm_lbrkBody _⟩
  case rbset => exact ⟨_, fun _ => rfl, keepsForm_rbsetBody _⟩
  case sdef => exact ⟨_, fun _ => rfl, keepsForm_sdefBody _⟩
  case sset => exact ⟨_, fun _ => rfl, keepsForm_ssetBody _⟩
  case sget => exact ⟨_, fun _ => rfl, keepsForm_sgetBody _⟩
  case sadv => exact ⟨_, fun _ => rfl, keepsForm_sadvBody _⟩
  case sfmt => exact ⟨_, fun _ => rfl, keepsForm_sfmtBody _⟩
  all_goals cases h

/-- Settles O49: each instruction of these classes runs a body that writes no memory, and what the end of an instruction, a wait, a
trap or a task fault writes keeps the memory canonical. -/
theorem scalarKeepsMemoryForm : Obligations.ScalarKeepsMemoryForm := by
  intro s t i op ho hop wf run
  have scalar : scalarClass i.view = true := by
    rw [scalarClass, ho]
    simpa using hop
  obtain ⟨body, runs, keeps⟩ := scalar_keepsForm i scalar
  rw [runs] at run
  exact keeps.runStrand wf run

end Sys2Proof.Machine
end

section
/-! SUPPORT. What loads and stores leave unchanged (R122 to R127, R131, R137 to R139): pops, results, markers and reads change no
byte of a scratchpad or of the device memory. -/

namespace Sys2Proof.Machine

/-! ## States with the same bytes -/

/-- The same strand executes, a quiet strand stays quiet, and no byte of device memory or of a scratchpad differs. -/
def State.sameBytes (s t : State) : Prop :=
  t.cur = s.cur ∧ (s.quiet s.cur = true → t.quiet s.cur = true) ∧ t.mem = s.mem ∧ ∀ c, (t.core c).pad = (s.core c).pad

section
variable {s t u : State}

theorem State.sameBytes_refl : s.sameBytes s := ⟨rfl, id, rfl, fun _ => rfl⟩

theorem State.sameBytes.trans (h : s.sameBytes t) (k : t.sameBytes u) : s.sameBytes u := by
  obtain ⟨cur, quiet, mem, pad⟩ := h
  obtain ⟨cur', quiet', mem', pad'⟩ := k
  rw [cur] at cur' quiet'
  exact ⟨cur', fun q => quiet' (quiet q), mem'.trans mem, fun c => (pad' c).trans (pad c)⟩

theorem State.quiet_of_tasks {r : StrandRef} (h : t.tasks = s.tasks) : t.quiet r = s.quiet r := by
  simp only [State.quiet, State.strand, State.task, h]

/-- Only the tasks differ, and of the strand's wait nothing. -/
theorem State.framed.sameBytes {Q : Nat → Prop} (h : s.framed t Q) (wait : (t.strand s.cur).wait = s.curStrand.wait)
    (fresh : (t.strand s.cur).fresh = s.curStrand.fresh) : s.sameBytes t := by
  have outside := h.1
  exact ⟨h.cur_eq, fun q => h.quiet q wait fresh, by rw [outside], fun c => by rw [outside]; rfl⟩

theorem State.sameBytes_popCodes (codes : List Nat) : s.sameBytes (s.popCodes codes) :=
  (State.framed_popCodes codes).sameBytes (by rw [popCodes_strand]; rfl) (by rw [popCodes_strand]; rfl)

theorem State.sameBytes_setStrand {r : StrandRef} {d : Strand} (hr : r = s.cur) (wait : d.wait = (s.strand r).wait)
    (fresh : d.fresh = (s.strand r).fresh) : s.sameBytes (s.setStrand r d) := by
  subst hr
  exact (State.framed_setStrand (Q := fun _ => False) d).sameBytes (by rwa [State.strand_setStrand]) (by rwa [State.strand_setStrand])

/-- Of a strand a scalar result changes g registers alone. -/
theorem State.strand_writeDst_g (s : State) (c : Nat) (v : DWord) :
    ∃ g, (s.writeDst c v).strand s.cur = { s.curStrand with g := g } := by
  rw [State.writeDst]
  split
  · refine ⟨s.curStrand.g, ?_⟩
    rw [State.strand, State.task_setTask, State.curStrand, State.strand]
    cases s.cur.unit <;> rfl
  · exact ⟨_, (State.strand_setStrand ..).trans (Strand.writeG_sameButG ..)⟩

theorem State.sameBytes_writeDst (c : Nat) (v : DWord) : s.sameBytes (s.writeDst c v) := by
  obtain ⟨g, strand⟩ := s.strand_writeDst_g c v
  exact (State.framed_writeDst c v).sameBytes (by rw [strand]) (by rw [strand])

/-! ## Caches -/

theorem State.pad_setCore (s : State) (k : Nat) {x : Core} (h : x.pad = (s.core k).pad) (c : Nat) :
    ((s.setCore k x).core c).pad = (s.core c).pad := by
  by_cases same : c = k
  · rw [same, State.core_setCore, h]
  · rw [State.core_setCore_ne _ _ same]

theorem State.pad_dieSector (s : State) (ctx d a c : Nat) : ((s.dieSector ctx d a).2.core c).pad = (s.core c).pad := by
  simp only [State.dieSector]
  split
  · rfl
  · split <;> rfl

theorem State.pad_coreSector (s : State) (ctx k a c : Nat) : ((s.coreSector ctx k a).2.core c).pad = (s.core c).pad := by
  simp only [State.coreSector]
  split
  · rfl
  · refine Eq.trans (State.pad_setCore _ k ?_ c) (s.pad_dieSector ctx (dieOf k) a c)
    rfl

theorem State.pad_loadG (s : State) (ctx k a n : Nat) (uc : Bool) (c : Nat) :
    ((s.loadG ctx k a n uc).2.core c).pad = (s.core c).pad := by
  cases uc
  · exact s.pad_coreSector ctx k a c
  · refine Eq.trans (State.pad_setCore _ k ?_ c) (s.pad_dieSector ctx (dieOf k) a c)
    rfl

theorem State.sameBytes_readAt (r : StrandRef) (l : Loc) (n : Nat) : s.sameBytes (s.readAt r l n).2 := by
  obtain ⟨tasks, cur, mem⟩ := s.readAt_frame r l n
  refine ⟨cur, fun q => (State.quiet_of_tasks tasks).trans q, mem, fun c => ?_⟩
  cases l with
  | pad _ _ _ => rfl
  | home pa pte => exact State.pad_loadG ..
  | link _ _ _ => rfl

theorem State.sameBytes_acquire (ctx k : Nat) (sc : Scope) : s.sameBytes (s.acquire ctx k sc) := by
  have tasks : (s.acquire ctx k sc).tasks = s.tasks := by cases sc <;> rfl
  have mem : (s.acquire ctx k sc).mem = s.mem := by cases sc <;> rfl
  refine ⟨State.cur_acquire .., fun q => (State.quiet_of_tasks tasks).trans q, mem, fun c => ?_⟩
  cases sc with
  | core | group => rfl
  | die | dev | sys =>
    refine State.pad_setCore s k ?_ c
    rfl

/-! ## Reads that are late, and markers -/

theorem State.sameBytes_readLate (id : Nat) : s.sameBytes (s.readLate s.cur id) := by
  simp only [State.readLate]
  split
  · split
    · next l n _ =>
      have read : s.sameBytes (s.forward s.cur id l n).2 := State.sameBytes_readAt s.cur l n
      exact read.trans (State.sameBytes_setStrand read.1.symm rfl rfl)
    · exact State.sameBytes_refl
  · exact State.sameBytes_refl

theorem State.sameBytes_readsLate (l : List (Nat × Loc × Nat)) :
    s.sameBytes (l.foldl (fun t e => t.readLate s.cur e.1) s) := by
  refine List.foldlRecOn (motive := fun t : State => s.sameBytes t) _ _ State.sameBytes_refl fun t ht e _ => ht.trans ?_
  rw [← ht.1]
  exact State.sameBytes_readLate e.1

/-- A strand without stores to perform has only reads to perform. -/
theorem State.sameBytes_drain (h : s.curStrand.stores = []) : s.sameBytes (s.drain s.cur) := by
  have reads := State.sameBytes_readsLate (s := s) (s.curStrand.lateLoads.filter fun _ => true)
  have stores : ((((s.strand s.cur).lateLoads.filter fun _ => true).foldl (fun t e => t.readLate s.cur e.1) s).strand s.cur).stores = [] :=
    List.foldlRecOn (motive := fun t : State => (t.strand s.cur).stores = []) _ _ h fun t ht e _ => by
      rw [(t.readLate_frame s.cur e.1).2]
      exact ht
  simp only [State.drain, State.drainIf]
  rw [stores]
  exact reads

theorem State.sameBytes_ordered (h : s.curStrand.stores = []) (yes : Bool) (k : Nat) : s.sameBytes (s.ordered yes k) := by
  cases yes
  · exact State.sameBytes_refl
  · exact (State.sameBytes_drain h).trans (State.sameBytes_acquire ..)

/-! ## Loads -/

theorem State.loadNow_frame (h : s.curStrand.calm = true) (l : Loc) (n : Nat) :
    s.sameBytes (s.loadNow l n).2 ∧ ((s.loadNow l n).2.strand s.cur) = s.curStrand := by
  rw [State.loadNow_calm h]
  refine ⟨State.sameBytes_readAt s.cur l n, ?_⟩
  simp only [State.strand, State.task, (s.readAt_frame s.cur l n).1, State.curStrand]

theorem State.sameBytes_nextLoad (n : Nat) : s.sameBytes { s with nextLoad := n } := ⟨rfl, id, rfl, fun _ => rfl⟩

/-- A load of a strand with nothing pending changes no byte, and leaves it without stores. -/
theorem State.sameBytes_loadIn (h : s.curStrand.calm = true) (d : Nat) (l : Loc) (n : Nat) :
    s.sameBytes (s.loadIn d l n) ∧ ((s.loadIn d l n).strand s.cur).stores = [] := by
  obtain ⟨-, stores⟩ := Strand.calm_iff.mp h
  obtain ⟨bytes, strand⟩ := State.loadNow_frame h l n
  have pends (e : Nat × State) (x : PendLoad) (k : Nat) (bytes : s.sameBytes e.2) (strand : e.2.strand s.cur = s.curStrand) :
      let t : State := { e.2.setStrand s.cur { e.2.curStrand with loads := e.2.curStrand.loads ++ [x] } with nextLoad := k }
      s.sameBytes t ∧ (t.strand s.cur).stores = [] := by
    have same : e.2.curStrand = s.curStrand := by rw [State.curStrand, bytes.1, strand]
    refine ⟨(bytes.trans (State.sameBytes_setStrand bytes.1.symm ?_ ?_)).trans (State.sameBytes_nextLoad k), ?_⟩
    · change e.2.curStrand.wait = _
      rw [same, strand]
    · change e.2.curStrand.fresh = _
      rw [same, strand]
    · refine (congrArg Strand.stores (State.strand_setStrand ..)).trans ?_
      rw [same]
      exact stores
  rw [State.loadIn]
  split
  · split
    · exact pends (0, s) _ _ State.sameBytes_refl rfl
    · exact pends (s.loadNow l n) _ _ bytes strand
  · refine ⟨bytes.trans (State.sameBytes_writeDst ..), ?_⟩
    obtain ⟨g, result⟩ := (s.loadNow l n).2.strand_writeDst_g d (BitVec.ofNat 64 (s.loadNow l n).1)
    rw [State.curStrand, bytes.1, strand] at result
    rw [result]
    exact stores

/-- The end of an instruction in a quiet state changes no byte. -/
theorem State.bytes_retire {v : View} (h : t.quiet s.cur = true) :
    (s.retire t v .next).mem = t.mem ∧ ∀ c, (s.retire t v .next).core c = t.core c := by
  rw [State.retire_quiet v h]
  exact ⟨rfl, fun _ => rfl⟩

/-- A load that completes: its pops, its value, its marker. -/
theorem State.sameBytes_load (h : s.curStrand.calm = true) (codes : List Nat) (d : Nat) (l : Loc) (n : Nat) (yes : Bool) (k : Nat) :
    s.sameBytes (((s.popCodes codes).loadIn d l n).ordered yes k) := by
  have pops := State.sameBytes_popCodes (s := s) codes
  obtain ⟨bytes, stores⟩ := State.sameBytes_loadIn (s := s.popCodes codes) (by rwa [popCodes_curStrand]) d l n
  exact (pops.trans bytes).trans (State.sameBytes_ordered (by rw [State.curStrand, bytes.1]; exact stores) yes k)

theorem State.load_bytes {s0 : State} (cur : s.cur = s0.cur) (quiet : s.quiet s.cur = true) (h : s.sameBytes t) (v : View) :
    (s0.retire t v .next).mem = s.mem ∧ ∀ c, ((s0.retire t v .next).core c).pad = (s.core c).pad := by
  obtain ⟨-, quiet', mem, pad⟩ := h
  obtain ⟨mem', core'⟩ := State.bytes_retire (s := s0) (v := v) (cur ▸ quiet' quiet)
  exact ⟨mem'.trans mem, fun c => (congrArg Core.pad (core' c)).trans (pad c)⟩

/-! ## Stores -/

theorem State.storeIssue_frame {codes : List Nat} {d : Nat} {v : DWord} (h : s.storeIssue codes d = some (v, t)) :
    s.sameBytes t ∧ (s.curStrand.calm = true → t.curStrand.calm = true) ∧ t.late = s.late := by
  rw [State.storeIssue] at h
  split at h
  · cases h
    exact ⟨State.sameBytes_setStrand rfl rfl rfl, fun calm => (congrArg Strand.calm (State.strand_setStrand ..)).trans calm, rfl⟩
  · split at h
    · cases h
      exact ⟨State.sameBytes_popCodes _, fun calm => by rwa [popCodes_curStrand], popCodes_late ..⟩
    · cases h

theorem State.ordered_calm (h : s.curStrand.calm = true) (yes : Bool) (k : Nat) :
    (s.ordered yes k).curStrand.calm = true ∧ (s.ordered yes k).late = s.late := by
  cases yes
  · exact ⟨h, rfl⟩
  · obtain ⟨loads, stores⟩ := Strand.calm_iff.mp h
    have marked : s.ordered true k = s.acquire s.curTask.ctx s.curTask.core (scopeOf k) := State.mark_nothing _ loads stores
    rw [marked]
    have tasks (sc : Scope) : (s.acquire s.curTask.ctx s.curTask.core sc).curStrand = s.curStrand := by cases sc <;> rfl
    have late (sc : Scope) : (s.acquire s.curTask.ctx s.curTask.core sc).late = s.late := by cases sc <;> rfl
    exact ⟨by rwa [tasks], late _⟩

theorem State.sameBytes_storeOut_late (h : s.late = true) (l : Loc) (n v : Nat) : s.sameBytes (s.storeOut l n v) := by
  rw [State.storeOut_queued h]
  have queued : s.sameBytes (s.updCur fun x =>
      { x with stores := x.stores ++ [{ id := s.nextLoad, loc := l, size := n, value := v }] }) :=
    State.sameBytes_setStrand rfl rfl rfl
  exact queued.trans (State.sameBytes_nextLoad _)

/-- A store that performs in a scratchpad changes its bytes alone. -/
theorem State.storePad_frame (p : PadPlace) (n v : Nat) :
    let u := s.storePad p n v
    u.cur = s.cur ∧ (s.quiet s.cur = true → u.quiet s.cur = true) ∧ u.mem = s.mem ∧
      (u.core p.core).pad = (s.core p.core).pad.setNat p.lo n v ∧ ∀ c, c ≠ p.core → (u.core c).pad = (s.core c).pad := by
  have write : (s.writePad p.core p.lo (leBytes v n)).sameBytes (s.storePad p n v) := by
    rw [State.storePad]
    split
    · rw [State.dropResidency]
      split
      · exact State.sameBytes_refl
      · refine ⟨rfl, id, rfl, fun c => State.pad_setCore _ _ ?_ c⟩
        rfl
    · exact State.sameBytes_refl
  obtain ⟨cur, quiet, mem, pad⟩ := write
  refine ⟨cur, quiet, mem, (pad p.core).trans ?_, fun c other => (pad c).trans ?_⟩
  · exact congrArg Core.pad (State.core_setCore ..)
  · exact congrArg Core.pad (State.core_setCore_ne _ _ other)

theorem State.writeAt_home (r : StrandRef) (pa : Nat) (pte : DWord) (n v : Nat) :
    s.writeAt r (.home pa pte) n v = s.storeG (s.task r.task).core pa (leBytes v n) (s.strandParty r) := rfl

/-- A store that performs in the device memory changes its bytes alone. -/
theorem State.storeG_frame (k a : Nat) (bs : List Byte) (who : Party) :
    let u := s.storeG k a bs who
    u.cur = s.cur ∧ (s.quiet s.cur = true → u.quiet s.cur = true) ∧ u.mem = s.mem.write a bs ∧
      ∀ c, (u.core c).pad = (s.core c).pad := by
  refine ⟨rfl, id, rfl, fun c => Eq.trans (State.pad_setCore (s.writeHome a bs who) k ?_ c) rfl⟩
  rfl

end

/-! ## The strand that executes stays through a translation -/

theorem State.cur_postFault (s : State) (x : Access) (va : DWord) (level : Nat) : (s.postFault x va level).cur = s.cur := by
  rw [State.postFault]
  dsimp only
  split
  · split <;> rfl
  · split
    · rfl
    · rw [State.setCtx_cur]
      rfl

theorem State.cur_fillTlb (s : State) (x : Access) (e : TlbEntry) : (s.fillTlb x e).cur = s.cur := by
  rw [State.fillTlb]
  dsimp only
  split <;> rfl

theorem State.cur_dropTlb (s : State) (x : Access) (vpn : Nat) : (s.dropTlb x vpn).cur = s.cur := by
  rw [State.dropTlb]
  dsimp only
  split <;> rfl

theorem State.cur_claim (s : State) (x : Access) (va pte : DWord) (shift : Nat) : (s.claim x va pte shift).2.cur = s.cur := by
  rw [State.claim]
  split
  · rfl
  · dsimp only
    split
    · split <;> rfl
    · split
      · rfl
      · rw [State.cur_fillTlb]
        split
        · rw [State.noteZf]
          split <;> rfl
        · rfl

theorem State.cur_walkAccess (s : State) (x : Access) (va : DWord) : (s.walkAccess x va).2.cur = s.cur := by
  rw [State.walkAccess]
  split
  · rfl
  · split
    · exact State.cur_claim ..
    · exact State.cur_postFault ..
    · rfl
    · rfl

theorem State.cur_translate (s : State) (x : Access) (va : DWord) : (s.translate x va).2.cur = s.cur := by
  rw [State.translate]
  split
  · rfl
  · split
    · next failed =>
      rw [State.takeFailed] at failed
      split at failed
      · cases failed
        rfl
      · cases failed
    · split
      · split
        · exact (State.cur_walkAccess ..).trans (State.cur_dropTlb ..)
        · split
          · exact State.cur_claim ..
          · rfl
      · exact State.cur_walkAccess ..

theorem State.cur_of_translate {s t : State} {x : Access} {va : DWord} {y : Xlat} (h : s.translate x va = (y, t)) : t.cur = s.cur := by
  rw [← s.cur_translate x va, h]

/-! ## O48 -/

section
variable {s q : State} {v : View}

/-- What a store to a scratchpad leaves, from the state that it is issued in. -/
theorem State.storePad_bytes {s0 : State} (cur : s.cur = s0.cur) (quiet : s.quiet s.cur = true) (calm : s.curStrand.calm = true)
    (p : PadPlace) (n d : Nat) (yes : Bool) (k : Nat) (wf : (s.core p.core).pad.wf = true) (fits : d < 2 ^ (8 * n)) :
    let t := s0.retire ((s.ordered yes k).storeOut p.loc n d) v .next
    t.mem = s.mem ∧ (t.core p.core).pad.wf = true ∧ (∀ c, c ≠ p.core → (t.core c).pad = (s.core c).pad) ∧
      (∀ b, b < p.lo ∨ p.lo + n ≤ b → (t.core p.core).pad.byte b = (s.core p.core).pad.byte b) ∧
      (s.late = false → (t.core p.core).pad.nat p.lo n = d) ∧ (s.late = true → (t.core p.core).pad = (s.core p.core).pad) := by
  obtain ⟨-, stores⟩ := Strand.calm_iff.mp calm
  have marked := State.sameBytes_ordered stores yes k
  obtain ⟨calm', late⟩ := State.ordered_calm calm yes k
  cases hl : s.late with
  | true =>
    have kept := marked.trans (State.sameBytes_storeOut_late (late.trans hl) p.loc n d)
    obtain ⟨mem, pad⟩ := State.load_bytes cur quiet kept v
    exact ⟨mem, by rwa [pad], fun c _ => pad c, fun b _ => by rw [pad], nofun, fun _ => pad _⟩
  | false =>
    obtain ⟨cur1, quiet1, mem1, pad1⟩ := marked
    obtain ⟨cur2, quiet2, mem2, own, others⟩ := (s.ordered yes k).storePad_frame p n d
    rw [State.storeOut_pad calm' (late.trans hl)]
    rw [cur1] at quiet2
    rw [pad1] at own
    obtain ⟨mem, core⟩ := State.bytes_retire (s := s0) (v := v) (cur ▸ quiet2 (quiet1 quiet))
    intro t
    have written : (t.core p.core).pad = (s.core p.core).pad.setNat p.lo n d := (congrArg Core.pad (core p.core)).trans own
    rw [written]
    refine ⟨mem.trans (mem2.trans mem1), Memory.wf_setNat _ _ _ wf, fun c other => ?_, fun b outside => ?_, fun _ => ?_, nofun⟩
    · exact (congrArg Core.pad (core c)).trans ((others c other).trans (pad1 c))
    · exact Memory.byte_write_outside _ _ _ wf (by rwa [leBytes_length])
    · rw [Memory.nat_setNat _ _ _ wf, Nat.mod_eq_of_lt fits]

/-- What a store to the device memory leaves, from the state that it is issued in. -/
theorem State.storeHome_bytes {s0 : State} (cur : s.cur = s0.cur) (quiet : s.quiet s.cur = true) (calm : s.curStrand.calm = true)
    (pa : Nat) (pte : DWord) (n d : Nat) (yes : Bool) (k : Nat) (wf : s.mem.wf = true) (fits : d < 2 ^ (8 * n)) :
    let t := s0.retire ((s.ordered yes k).storeOut (.home pa pte) n d) v .next
    (∀ c, (t.core c).pad = (s.core c).pad) ∧ t.mem.wf = true ∧ (∀ b, b < pa ∨ pa + n ≤ b → t.mem.byte b = s.mem.byte b) ∧
      (s.late = false → t.mem.nat pa n = d) ∧ (s.late = true → t.mem = s.mem) := by
  obtain ⟨-, stores⟩ := Strand.calm_iff.mp calm
  have marked := State.sameBytes_ordered stores yes k
  obtain ⟨calm', late⟩ := State.ordered_calm calm yes k
  cases hl : s.late with
  | true =>
    have kept := marked.trans (State.sameBytes_storeOut_late (late.trans hl) (.home pa pte) n d)
    obtain ⟨mem, pad⟩ := State.load_bytes cur quiet kept v
    exact ⟨pad, by rwa [mem], fun b _ => by rw [mem], nofun, fun _ => mem⟩
  | false =>
    obtain ⟨cur1, quiet1, mem1, pad1⟩ := marked
    rw [State.storeOut_now calm' (late.trans hl), State.writeAt_home]
    have frame := (s.ordered yes k).storeG_frame ((s.ordered yes k).task (s.ordered yes k).cur.task).core pa (leBytes d n)
      ((s.ordered yes k).strandParty (s.ordered yes k).cur)
    generalize (s.ordered yes k).storeG _ pa (leBytes d n) _ = u at frame ⊢
    obtain ⟨-, quiet2, mem2, pad2⟩ := frame
    rw [cur1] at quiet2
    rw [mem1] at mem2
    obtain ⟨mem, core⟩ := State.bytes_retire (s := s0) (v := v) (cur ▸ quiet2 (quiet1 quiet))
    intro t
    have written : t.mem = s.mem.setNat pa n d := by
      rw [Memory.setNat]
      exact mem.trans mem2
    rw [written]
    refine ⟨fun c => ?_, Memory.wf_setNat _ _ _ wf, ?_, ?_, nofun⟩
    · exact (congrArg Core.pad (core c)).trans ((pad2 c).trans (pad1 c))
    · intro b outside
      exact Memory.byte_write_outside _ _ _ wf (by rwa [leBytes_length])
    · intro _
      rw [Memory.nat_setNat _ _ _ wf, Nat.mod_eq_of_lt fits]

end

theorem storeData_lt (n : Nat) (v : DWord) : storeData n v < 2 ^ (8 * n) := Nat.mod_lt _ (by positivity)

/-- Settles O48: a load changes no byte; a store that performs at once writes its bytes at its place, one in the queue none. -/
theorem memoryFrames : Obligations.MemoryFrames := by
  intro s q x v size off a data k
  refine ⟨fun p e he quiet calm ha issues hf wf hp => ?_, fun va pa pte s1 e he ha issues aligned hv ht hb hf quiet calm wf => ?_,
    fun p e he quiet calm ha hr hf hp => ?_, fun va pa pte s1 e he ha hr aligned hv ht hb hf quiet calm => ?_⟩
  · obtain ⟨⟨cur, quiet', mem, pad⟩, calm', late⟩ := State.storeIssue_frame issues
    have run := (scratchpadStores.1 s q x p v issues hf e he ha hp).1
    have left := State.storePad_bytes (v := e.1.view) cur (cur.symm ▸ quiet' quiet) (calm' calm) p size data (x.ord == 2)
      x.scope.toNat (by rwa [pad]) (storeData_lt size v)
    rw [mem, pad, late] at left
    obtain ⟨mem2, wf2, others, outside, now, queued⟩ := left
    exact ⟨_, run, mem2, wf2, fun c other => (others c other).trans (pad c), outside, now, queued⟩
  · obtain ⟨⟨cur, -, -, -⟩, -, -⟩ := State.storeIssue_frame issues
    have cur1 : s1.cur = s.cur := (State.cur_of_translate ht).trans cur
    have run := (deviceStores s q s1 x v va pte pa issues e he ha aligned hv ht hb hf).1
    exact ⟨_, run, State.storeHome_bytes cur1 (cur1.symm ▸ quiet) calm pa pte size data (x.ord == 2) x.scope.toNat wf
      (storeData_lt size v)⟩
  · have run := (scratchpadLoads.1 s x p hr hf e he ha hp).1
    exact ⟨_, run, State.load_bytes rfl quiet (State.sameBytes_load calm _ _ _ _ _ _) _⟩
  · have cur1 : s1.cur = s.cur := State.cur_of_translate ht
    have run := (deviceLoads s s1 x va pte pa hr e he ha aligned hv ht hb hf).1
    exact ⟨_, run, State.load_bytes cur1 (cur1.symm ▸ quiet) (State.sameBytes_load calm _ _ _ _ _ _) _⟩

end Sys2Proof.Machine
end

section
/-! SUPPORT. The events that bring an answer (R138, R143, R254, R376, R378): the return of a load, the completion of a request and
its end after 1,200,000 cycles; and the zeroing of buffers and frames (R140, R149, R362). -/

namespace Sys2Proof.Machine

/-! ## Loads -/

section
variable {s : State} {r : StrandRef} {id : Nat} {l : PendLoad}
  (found : ((s.readLate r id).strand r).loads.find? (fun o => o.id == id) = some l)
  (placed : ((s.readLate r id).task r.task).frozenBy = none)
  (life : ((s.readLate r id).task r.task).life = .running ∨ ((s.readLate r id).task r.task).life = .stopping)
include found placed life

theorem State.returnLoad_eq :
    s.returnLoad r id = (s.readLate r id).setTask r.task (((s.readLate r id).task r.task).returnLoad r.unit l) := by
  have runs : (((s.readLate r id).task r.task).frozenBy.isNone &&
      (((s.readLate r id).task r.task).life == .running || ((s.readLate r id).task r.task).life == .stopping)) = true := by
    rw [placed]
    rcases life with h | h <;> rw [h] <;> rfl
  rw [State.returnLoad, found]
  exact if_pos runs

end

theorem Task.returnLoad_reg (x : Task) (u : UnitId) {l : PendLoad} {n : Nat} (h : l.dest = .reg n) :
    x.returnLoad u l = x.setStrand u { x.strand u with
      loads := (x.strand u).loads.filter fun o => o.id != l.id, g := Assoc.set (x.strand u).g n l.value } := by
  rw [Task.returnLoad, h]

theorem Task.returnLoad_queue (x : Task) (u : UnitId) {l : PendLoad} {q : Nat} (h : l.dest = .queue q) :
    x.returnLoad u l = (x.setStrand u { x.strand u with loads := (x.strand u).loads.filter fun o => o.id != l.id }).setQueueReg q
      ((x.queueReg q).push l.value) := by
  rw [Task.returnLoad, h]

/-! ## Completions -/

/-- The state in which a request is outstanding no more and its strand holds the answer. -/
def State.answered (s : State) (k : Nat) (q : LinkReq) (h : Held) (m : Memory) (posted : Nat → Nat) : State :=
  let u := { s with host := m, reqs := Assoc.erase s.reqs k }
  let w := u.setCtx q.ctx { u.ctx q.ctx with posted := posted (u.ctx q.ctx).posted }
  w.setStrand q.strand { w.strand q.strand with held := some h }

section
variable {s : State} {k : Nat} {q : LinkReq} {a : LinkAnswer} (known : (Assoc.get? s.tasks q.strand.task).isSome = true)
include known

theorem State.answerLink_eq {h : Held} {m : Memory} {posted : Nat → Nat} (answer : q.complete s.host a = (h, m))
    (after : ∀ n, q.postedAfter h n = posted n) : s.answerLink k q a = s.answered k q h m posted := by
  rw [State.answerLink, answer]
  dsimp only
  rw [after, State.holdAnswer]
  exact if_pos known

variable (outstanding : Assoc.get? s.reqs k = some q) (port : (s.port q.port).state = .up ∨ (s.port q.port).state = .degraded)
  (life : (s.task q.strand.task).life ≠ .saved)
include outstanding

include port life in
theorem State.completeLink_eq {h : Held} {m : Memory} {posted : Nat → Nat} (answers : q.answers a = true)
    (answer : q.complete s.host a = (h, m)) (after : ∀ n, q.postedAfter h n = posted n) :
    s.completeLink k a =
      let t := s.answered k q h m posted
      if t.canResume q.strand then t.wake q.strand else t := by
  have opened : s.portOpen q.port = true := by
    rw [State.portOpen]
    rcases port with h | h <;> rw [h]
  have goes : ¬(!s.portOpen q.port || !q.answers a || (s.task q.strand.task).life == .saved) = true := by
    rw [opened, answers, beq_eq_false_iff_ne.2 life]
    decide
  rw [State.completeLink, outstanding]
  dsimp only
  rw [if_neg goes, State.answerLink_eq known answer after]

omit known in
theorem State.completeLink_unanswered (answers : q.answers a = false) : s.completeLink k a = s := by
  rw [State.completeLink, outstanding]
  dsimp only
  rw [answers]
  exact if_pos (by simp)

end

theorem LinkReq.result_bytes {q : LinkReq} {v : Nat} (h : q.size ≠ 0) : q.result v = .value (BitVec.ofNat 64 (v % 2 ^ (8 * q.size))) :=
  if_neg h

theorem LinkReq.result_flush {q : LinkReq} {v : Nat} (h : q.size = 0) : q.result v = .flushed := if_pos h

/-! ## Zeroing -/

/-- A cleared range reads 0, whatever the memory's form. -/
theorem Memory.byte_clear_inside (m : Memory) {a n b : Nat} (h : a ≤ b ∧ b < a + n) : (m.clear a n).byte b = 0 := by
  refine Memory.byte_of_not_mem fun v listed => ?_
  have outside := (List.mem_filter.1 listed).2
  simp only [Bool.or_eq_true, decide_eq_true_eq] at outside
  omega

theorem State.zeroFrame_some {s : State} {k c : Nat} (h : Assoc.get? s.zeroing k = some c) :
    let t := s.zeroFrame k
    t.mem = s.mem.clear (k * 65536) 65536 ∧ t.bad = (s.bad.filter fun b => b / 2048 != k) ∧
      t.owners = Assoc.set s.owners k (.ctx c) ∧ t.zeroing = Assoc.erase s.zeroing k ∧ t.tasks = s.tasks := by
  rw [State.zeroFrame, h]
  exact ⟨rfl, rfl, rfl, rfl, rfl⟩

/-! ## What an answer brings -/

section
variable {q : LinkReq} (host : Memory)

theorem LinkReq.complete_read (kind : q.kind = .read) (port : q.port = 0) :
    q.complete host .served = (q.result (host.nat q.addr.toNat q.size), host) := by
  rw [LinkReq.complete, kind]
  dsimp only
  rw [if_pos port]

theorem LinkReq.complete_write (kind : q.kind = .write) (port : q.port = 0) :
    q.complete host .served = (.done, host.setNat q.addr.toNat q.size q.x.toNat) := by
  rw [LinkReq.complete, kind]
  dsimp only
  rw [if_pos port]

theorem LinkReq.complete_atomic {f : HostAtomic} (kind : q.kind = .atomic f) (port : q.port = 0) :
    q.complete host .served = (q.result (host.nat q.addr.toNat q.size),
      host.setNat q.addr.toNat q.size (hostAtomicNew f q.size (host.nat q.addr.toNat q.size) q.x.toNat q.y.toNat)) := by
  rw [LinkReq.complete, kind]
  dsimp only
  rw [if_pos port, if_pos port]

theorem LinkReq.complete_peerWrite (kind : q.kind = .write) (port : q.port ≠ 0) : q.complete host .served = (.done, host) := by
  rw [LinkReq.complete, kind]
  dsimp only
  rw [if_neg port]

theorem LinkReq.complete_writeData (kind : q.kind = .write) (v : DWord) : q.complete host (.data v) = (.done, host) := by
  rw [LinkReq.complete, kind]

theorem LinkReq.complete_data (kind : q.kind ≠ .write) (v : DWord) : q.complete host (.data v) = (q.result v.toNat, host) := by
  rw [LinkReq.complete]
  cases k : q.kind with
  | write => exact absurd k kind
  | read => rfl
  | atomic f => rfl

theorem LinkReq.answers_host (port : q.port = 0) (a : LinkAnswer) : q.answers a = true := by
  cases k : q.kind <;> cases a <;> simp [LinkReq.answers, k, port]

theorem LinkReq.answers_write (kind : q.kind = .write) (a : LinkAnswer) : q.answers a = true := by
  simp only [LinkReq.answers, kind]

theorem LinkReq.answers_of_ne {a : LinkAnswer} (h : a ≠ .served) : q.answers a = true := by
  cases k : q.kind <;> cases a <;> simp_all [LinkReq.answers]

theorem LinkReq.answers_peer (kind : q.kind ≠ .write) (port : q.port ≠ 0) : q.answers .served = false := by
  cases k : q.kind with
  | write => exact absurd k kind
  | read => simp [LinkReq.answers, k, port]
  | atomic f => simp [LinkReq.answers, k, port]

end

/-! ## The completion of a request -/

/-- LINK_COMPLETION ends request `q` with `h` for its strand, the host's memory `m`, and the context's count of H stores changed by
`posted`; the strand gets the next turn when it may issue. -/
def State.linkEnds (s : State) (q : LinkReq) (h : Held) (m : Memory) (posted : Nat → Nat) : Prop :=
  exec .linkCompletion s = .next (if (s.answered s.arg.k q h m posted).canResume q.strand then
    (s.answered s.arg.k q h m posted).wake q.strand else s.answered s.arg.k q h m posted)

section
variable {s : State} {q : LinkReq} (known : (Assoc.get? s.tasks q.strand.task).isSome = true)
  (outstanding : Assoc.get? s.reqs s.arg.k = some q) (port : (s.port q.port).state = .up ∨ (s.port q.port).state = .degraded)
  (life : (s.task q.strand.task).life ≠ .saved)
include known outstanding port life

theorem State.linkEnds_of {a : LinkAnswer} (ha : s.arg.answer = a) {h : Held} {m : Memory} {posted : Nat → Nat}
    (answers : q.answers a = true) (answer : q.complete s.host a = (h, m)) (after : ∀ n, q.postedAfter h n = posted n) :
    s.linkEnds q h m posted := by
  subst ha
  exact congrArg Host.Outcome.next (State.completeLink_eq known outstanding port life answers answer after)

theorem State.linkEnds_host (served : s.arg.answer = .served) (host : q.port = 0) :
    let old := s.host.nat q.addr.toNat q.size
    (q.kind = .read → q.size ≠ 0 → s.linkEnds q (.value (BitVec.ofNat 64 (old % 2 ^ (8 * q.size)))) s.host id) ∧
    (q.kind = .read → q.size = 0 → s.linkEnds q .flushed s.host fun c => c - q.x.toNat) ∧
    (q.kind = .write → s.linkEnds q .done (s.host.setNat q.addr.toNat q.size q.x.toNat) fun c => c + 1) ∧
    (∀ f, q.kind = .atomic f → q.size ≠ 0 → s.linkEnds q (.value (BitVec.ofNat 64 (old % 2 ^ (8 * q.size))))
      (s.host.setNat q.addr.toNat q.size (hostAtomicNew f q.size old q.x.toNat q.y.toNat)) id) := by
  have answers := LinkReq.answers_host host .served
  refine ⟨fun kind bytes => ?_, fun kind none => ?_, fun kind => ?_, fun f kind bytes => ?_⟩
  · exact State.linkEnds_of known outstanding port life served answers
      ((LinkReq.complete_read _ kind host).trans (by rw [LinkReq.result_bytes bytes])) fun _ => rfl
  · exact State.linkEnds_of known outstanding port life served answers
      ((LinkReq.complete_read _ kind host).trans (by rw [LinkReq.result_flush none])) fun _ => rfl
  · exact State.linkEnds_of known outstanding port life served answers (LinkReq.complete_write _ kind host) fun _ => if_pos host
  · exact State.linkEnds_of known outstanding port life served answers
      ((LinkReq.complete_atomic _ kind host).trans (by rw [LinkReq.result_bytes bytes])) fun _ => rfl

theorem State.linkEnds_peer (served : s.arg.answer = .served) (peer : q.port ≠ 0) :
    (q.kind = .write → s.linkEnds q .done s.host id) ∧ (q.kind ≠ .write → exec .linkCompletion s = .next s) := by
  refine ⟨fun kind => ?_, fun kind => ?_⟩
  · exact State.linkEnds_of known outstanding port life served (LinkReq.answers_write kind _) (LinkReq.complete_peerWrite _ kind peer)
      fun _ => if_neg peer
  · refine congrArg Host.Outcome.next ?_
    rw [served]
    exact State.completeLink_unanswered outstanding (LinkReq.answers_peer kind peer)

theorem State.linkEnds_data {v : DWord} (data : s.arg.answer = .data v) :
    (q.kind = .write → s.linkEnds q .done s.host fun c => if q.port = 0 then c + 1 else c) ∧
    (q.kind ≠ .write → q.size ≠ 0 → s.linkEnds q (.value (BitVec.ofNat 64 (v.toNat % 2 ^ (8 * q.size)))) s.host id) ∧
    (q.kind ≠ .write → q.size = 0 → s.linkEnds q .flushed s.host fun c => c - q.x.toNat) := by
  have answers : q.answers (.data v) = true := LinkReq.answers_of_ne nofun
  refine ⟨fun kind => ?_, fun kind bytes => ?_, fun kind none => ?_⟩
  · exact State.linkEnds_of known outstanding port life data answers (LinkReq.complete_writeData _ kind v) fun _ => rfl
  · exact State.linkEnds_of known outstanding port life data answers
      ((LinkReq.complete_data _ kind v).trans (by rw [LinkReq.result_bytes bytes])) fun _ => rfl
  · exact State.linkEnds_of known outstanding port life data answers
      ((LinkReq.complete_data _ kind v).trans (by rw [LinkReq.result_flush none])) fun _ => rfl

theorem State.linkEnds_abort (abort : s.arg.answer = .abort) : s.linkEnds q (.trap 22 q.tval) s.host id :=
  State.linkEnds_of known outstanding port life abort (LinkReq.answers_of_ne nofun) rfl fun _ => rfl

theorem State.linkEnds_unsupported (unsupported : s.arg.answer = .unsupported) :
    ((q.kind = .read ∨ q.kind = .write) → s.linkEnds q (.trap 22 q.tval) s.host id) ∧
    (∀ f, q.kind = .atomic f → s.linkEnds q (.trap 24 q.tval) s.host id) := by
  have answers : q.answers .unsupported = true := LinkReq.answers_of_ne nofun
  refine ⟨fun kind => ?_, fun f kind => ?_⟩
  · refine State.linkEnds_of known outstanding port life unsupported answers ?_ fun _ => rfl
    rw [LinkReq.complete]
    rcases kind with kind | kind <;> rw [kind]
  · refine State.linkEnds_of known outstanding port life unsupported answers ?_ fun _ => rfl
    rw [LinkReq.complete, kind]

end

/-- Settles O51: each event runs its operation, which the lemmas above give when its conditions hold. -/
theorem answerEvents : Obligations.AnswerEvents := by
  unfold Obligations.AnswerEvents
  constructor
  · intro s r
    constructor
    · intro m y l found placed life rest
      refine ⟨fun n dest => ?_, fun q dest => ?_⟩ <;>
        refine congrArg Host.Outcome.next ((State.returnLoad_eq found placed life).trans ?_)
      · rw [Task.returnLoad_reg _ _ dest]
        rfl
      · rw [Task.returnLoad_queue _ _ dest]
        rfl
    · intro q outstanding a n old opened
      refine ⟨fun known life port => ?_, fun late => ?_, fun early => ?_⟩
      · exact ⟨State.linkEnds_host known outstanding port life, State.linkEnds_peer known outstanding port life,
          fun v => State.linkEnds_data known outstanding port life, State.linkEnds_abort known outstanding port life,
          State.linkEnds_unsupported known outstanding port life⟩
      · refine congrArg Host.Outcome.next ?_
        rw [outstanding]
        exact if_pos late
      · refine congrArg Host.Outcome.next ?_
        rw [outstanding]
        exact if_neg (not_le.2 early)
  · intro s
    refine ⟨fun c n zero h => ?_, fun h n zero k => ?_, fun h n zero k => ?_, fun c h => ?_⟩
    · refine congrArg Host.Outcome.next ?_
      rw [zero]
      exact if_pos h
    · refine congrArg Host.Outcome.next ?_
      rw [zero]
      exact if_pos k
    · refine congrArg Host.Outcome.next ?_
      rw [zero]
      exact if_pos k
    · obtain ⟨mem, bad, owners, zeroing, tasks⟩ := State.zeroFrame_some h
      refine ⟨_, rfl, fun a ha => ?_, fun wf a ha => ?_, owners, zeroing, fun k hk => ?_, tasks⟩
      · rw [mem]
        exact Memory.byte_clear_inside _ (by omega)
      · rw [mem, Memory.byte_clear _ _ _ wf, if_neg (by omega)]
      · rw [bad] at hk
        obtain ⟨listed, other⟩ := List.mem_filter.1 hk
        exact ⟨listed, bne_iff_ne.1 other⟩

end Sys2Proof.Machine
end

section
/-! SUPPORT. What the host and other cards do to the card over its ports (R140, R369, R370, R372, R374, R377): the bytes that a host
write leaves, the two BARs, and a peer request to this card or to another. -/

namespace Sys2Proof.Machine

/-! ## The bytes of a host write -/

/-- Bytes as they lie in memory after a host write of them: the bits that the host can write are the written ones, the others stay. -/
def State.merged (s : State) (b : Nat) (bs : List Byte) : List Byte :=
  bs.zipIdx.map fun e => (s.mem.byte (b + e.2) &&& ~~~ s.hostMask (b + e.2)) ||| (e.1 &&& s.hostMask (b + e.2))

theorem State.merged_length (s : State) (b : Nat) (bs : List Byte) : (s.merged b bs).length = bs.length := by
  rw [State.merged, List.length_map, List.length_zipIdx]

theorem State.merged_getElem (s : State) (b : Nat) (bs : List Byte) {k : Nat} (h : k < (s.merged b bs).length) :
    (s.merged b bs)[k] = (s.mem.byte (b + k) &&& ~~~ s.hostMask (b + k)) |||
      (bs[k]'(s.merged_length b bs ▸ h) &&& s.hostMask (b + k)) := by
  simp only [State.merged, List.getElem_map, List.getElem_zipIdx, Nat.zero_add]

theorem maskedByte_all (old new : Byte) : (old &&& ~~~(255 : Byte)) ||| (new &&& 255) = new := by
  have none : ~~~(255 : Byte) = 0#8 := by decide
  have all : (255 : Byte) = BitVec.allOnes 8 := by decide
  rw [none, all, BitVec.and_zero, BitVec.and_allOnes, BitVec.zero_or]

theorem maskedByte_none (old new : Byte) : (old &&& ~~~(0 : Byte)) ||| (new &&& 0) = old := by
  have all : ~~~(0 : Byte) = BitVec.allOnes 8 := by decide
  have none : (0 : Byte) = 0#8 := by decide
  rw [all, none, BitVec.and_zero, BitVec.and_allOnes, BitVec.or_zero]

theorem State.merged_all {s : State} {b : Nat} {bs : List Byte} (h : ∀ k, k < bs.length → s.hostMask (b + k) = 255) :
    s.merged b bs = bs := by
  refine List.ext_getElem (s.merged_length b bs) fun k hk hk' => ?_
  rw [State.merged_getElem, h k hk', maskedByte_all]

/-- Bytes of which the host can write no bit stay. -/
theorem State.byte_merged_none {s : State} {b : Nat} {bs : List Byte} (wf : s.mem.wf = true)
    (h : ∀ k, k < bs.length → s.hostMask (b + k) = 0) (k : Nat) : (s.mem.write b (s.merged b bs)).byte k = s.mem.byte k := by
  by_cases inside : b ≤ k ∧ k < b + bs.length
  · obtain ⟨j, rfl⟩ := Nat.exists_eq_add_of_le inside.1
    have hj : j < bs.length := by omega
    have written : j < (s.merged b bs).length := by rwa [State.merged_length]
    rw [Memory.byte_write_inside _ _ _ wf written, State.merged_getElem, h j hj, maskedByte_none]
  · exact Memory.byte_write_outside _ _ _ wf (by rw [State.merged_length]; omega)

theorem State.mem_barWrite {s : State} {b : Nat} {bs : List Byte} (good : s.partBad b bs.length = false) :
    (s.barWrite true b bs).mem = s.mem.write b (s.merged b bs) := by
  rw [State.barWrite, if_pos rfl, State.hostWrite, good]
  rfl

/-! ## Bytes of the BARs -/

theorem State.hostByte_memory {s : State} {k : Nat} (ctx : s.ctxWordAt k = none) (queue : s.queueWordAt k = none) :
    s.barByte true k = s.mem.byte k := by
  rw [State.barByte, if_pos rfl, State.hostByte, ctx, queue]

theorem State.controlPage_length (s : State) : s.controlPage.length = 64 := by
  simp only [State.controlPage, List.length_append, leBytes_length]

theorem State.bar0Byte_above (s : State) {k : Nat} (h : 64 ≤ k) : s.barByte false k = 0 :=
  List.getD_eq_default _ _ (by rwa [State.controlPage_length])

/-! ## The host's requests -/

section
variable {s : State}

theorem State.hostRead_reads {bar2 : Bool} {a n : Nat} (fits : a + n ≤ barSize bar2) (short : n ≤ 4096)
    (good : bar2 = true → s.isBad a n = false) : s.hostRead bar2 a n = s.answerWith (.bytes (s.barBytes bar2 a n)) := by
  have whole : ¬(barSize bar2 < a + n || decide (4096 < n)) = true := by simp [fits, short]
  have sound : ¬(bar2 && s.isBad a n) = true := by
    cases bar2
    · exact Bool.false_ne_true
    · simp [good rfl]
  rw [State.hostRead, if_neg whole, if_neg sound]

theorem State.hostRead_unsupported {bar2 : Bool} {a n : Nat} (leaves : barSize bar2 < a + n ∨ 4096 < n) :
    s.hostRead bar2 a n = s.answerWith .unsupported := by
  rw [State.hostRead, if_pos (by simpa using leaves)]

theorem State.hostRead_abort {a n : Nat} (fits : a + n ≤ barSize true) (short : n ≤ 4096) (bad : s.isBad a n = true) :
    s.hostRead true a n = s.answerWith .abort := by
  have whole : ¬(barSize true < a + n || decide (4096 < n)) = true := by simp [fits, short]
  rw [State.hostRead, if_neg whole, if_pos (by rw [bad]; rfl)]

theorem State.hostAtomic_performs {bar2 : Bool} {a n x y : Nat} {f : HostAtomic} (width : n = 4 ∨ n = 8) (aligned : a % n = 0)
    (fits : a + n ≤ barSize bar2) (good : bar2 = true → s.isBad a n = false) :
    s.hostAtomic bar2 a n f x y =
      (s.barWrite bar2 a (leBytes (hostAtomicNew f n (leNat (s.barBytes bar2 a n)) x y) n)).answerWith
        (.bytes (s.barBytes bar2 a n)) := by
  have whole : ¬((n != 4 && n != 8) || a % n != 0 || decide (barSize bar2 < a + n)) = true := by
    rcases width with rfl | rfl <;> simp [aligned, fits]
  have sound : ¬(bar2 && s.isBad a n) = true := by
    cases bar2
    · exact Bool.false_ne_true
    · simp [good rfl]
  rw [State.hostAtomic, if_neg whole, if_neg sound]

/-- A write or an AtomicOp of the host meets no page under a migration lock. -/
theorem unlocked_of {bar2 locked : Bool} {p : Bool} (opened : p = true) (h : bar2 = true → locked = false) :
    (p && !(bar2 && locked)) = true := by
  rw [opened]
  cases bar2
  · rfl
  · rw [h rfl]
    rfl

end

/-! ## Peer requests -/

theorem Aperture.admits_iff (e : Aperture) (r : PeerReq) :
    e.admits r = true ↔ e.valid = true ∧ e.card = r.srcCard ∧ e.ctx = r.srcCtx ∧ e.tbase.toNat ≤ (peerVa r).toNat ∧
      (peerVa r).toNat + actBytes r.act ≤ e.tbase.toNat + e.size.toNat ∧ (e.w = true ∨ actWrites r.act = false) := by
  simp only [Aperture.admits, Bool.and_eq_true, beq_iff_eq, decide_eq_true_eq, Bool.or_eq_true, Bool.not_eq_eq_eq_not, Bool.not_true,
    and_assoc]

section
variable {s t : State} {p pa : Nat} {r : PeerReq}

theorem State.targetPeer_refused (h : ¬((s.ctx r.dstCtx.toNat).imports.any fun e => e.2.admits r) = true) :
    s.targetPeer p r = s.answerWith .abort := by
  rw [State.targetPeer]
  exact if_pos (by simp [h])

/-- The access of a peer's request: in the target context, from the die of its page tables, by the port. -/
def State.peerAccess (s : State) (p : Nat) (r : PeerReq) : Access :=
  { ctx := r.dstCtx.toNat, die := Config.homeDie (s.ctx r.dstCtx.toNat).ptroot.toNat, write := actWrites r.act, eng := true,
    party := partyOf s.cardUsed 0 6 p, joined := .link p }

theorem State.targetPeer_performs {pte : DWord} (h : ((s.ctx r.dstCtx.toNat).imports.any fun e => e.2.admits r) = true)
    (page : (peerVa r).toNat % 4096 + actBytes r.act ≤ 4096)
    (found : s.translate (s.peerAccess p r) (peerVa r) = (.ok pa pte, t)) :
    s.targetPeer p r = t.performPeer pa r.act (partyOf s.cardUsed 0 6 p) := by
  have goes : ¬(!((s.ctx r.dstCtx.toNat).imports.any fun e => e.2.admits r) ||
      decide (4096 < (peerVa r).toNat % 4096 + actBytes r.act)) = true := by
    rw [h, decide_eq_false (not_lt.2 page)]
    decide
  rw [State.peerAccess] at found
  rw [State.targetPeer]
  dsimp only
  rw [if_neg goes, found]

theorem State.forwardPeer_leaves (opened : (s.port (3 - p)).state = .up ∨ (s.port (3 - p)).state = .degraded)
    (other : (s.port (3 - p)).pcard ≠ r.srcCard) : s.forwardPeer p r = { s with sent := s.sent ++ [⟨3 - p, r⟩] } := by
  have ready : s.portTraining (3 - p) = false := by
    rw [State.portTraining]
    rcases opened with h | h <;> rw [h]
  have goes : ¬((s.port (3 - p)).state == .down || (s.port (3 - p)).pcard == r.srcCard) = true := by
    rw [beq_eq_false_iff_ne.2 other]
    rcases opened with h | h <;> rw [h] <;> decide
  rw [State.forwardPeer]
  rw [ready, if_neg Bool.false_ne_true, if_neg goes]

theorem exec_peerRequest (hp : s.arg.port.toNat = 1 ∨ s.arg.port.toNat = 2)
    (opened : (s.port s.arg.port.toNat).state = .up ∨ (s.port s.arg.port.toNat).state = .degraded) :
    exec .peerRequest s = .next (if s.arg.peer.dstCard == (s.port s.arg.port.toNat).card then
      s.targetPeer s.arg.port.toNat s.arg.peer else s.forwardPeer s.arg.port.toNat s.arg.peer) := by
  have peer : (1 ≤ s.arg.port.toNat && s.arg.port.toNat ≤ 2 && s.portOpen s.arg.port.toNat) = true := by
    rw [(s.portOpen_iff _).2 opened]
    rcases hp with h | h <;> rw [h] <;> decide
  exact congrArg Host.Outcome.next (if_pos peer)

theorem State.performPeer_read {n : Nat} {who : Party} (good : s.isBad pa n = false) :
    s.performPeer pa (.read n) who = s.answerWith (.bytes (s.mem.bytes pa n)) :=
  if_neg (by rw [good]; exact Bool.false_ne_true)

theorem State.performPeer_write {bs : List Byte} {who : Party} (good : s.partBad pa bs.length = false) :
    s.performPeer pa (.write bs) who = (s.writeHome pa bs who).answerWith .none :=
  if_neg (by rw [good]; exact Bool.false_ne_true)

theorem State.performPeer_atomic {f : HostAtomic} {n : Nat} {x y : DWord} {who : Party} (width : n = 4 ∨ n = 8) (aligned : pa % n = 0)
    (good : s.isBad pa n = false) : s.performPeer pa (.atomic f n x y) who =
      (s.setHome pa n (hostAtomicNew f n (s.mem.nat pa n) x.toNat y.toNat) who).answerWith (.bytes (s.mem.bytes pa n)) := by
  have whole : ¬((n != 4 && n != 8) || pa % n != 0) = true := by
    rcases width with rfl | rfl <;> simp [aligned]
  have sound : ¬s.isBad pa n = true := by
    rw [good]
    exact Bool.false_ne_true
  rw [State.performPeer, if_neg whole, if_neg sound]

end

end Sys2Proof.Machine
end

section
/-! R140, R369, R370, R372, R374, R377: the requests of the host and of other cards. -/

namespace Sys2Proof.Machine

/-- Settles O53: the host's reads, writes and AtomicOps by the size of the BAR and the state of its sectors, then the bytes of the
BARs and of a host write, then a peer's request by the card that it names. -/
theorem hostEvents : Obligations.HostEvents := by
  unfold Obligations.HostEvents
  intro s open_ a size read
  refine ⟨fun opened => ?_, fun k => ⟨State.hostByte_memory, s.bar0Byte_above⟩, ?_, ?_, ?_⟩
  · have port : s.portOpen 0 = true := (s.portOpen_iff 0).mpr opened
    have reads : exec .hostMrd s = .next (s.hostRead a.bar2 a.off a.len) := congrArg Host.Outcome.next (if_pos port)
    refine ⟨?_, ?_, ?_, ?_, ?_, ?_⟩
    · intro fits short good
      rw [reads, State.hostRead_reads fits short good]
      rfl
    · intro leaves
      rw [reads, State.hostRead_unsupported leaves]
      rfl
    · intro fits short bar bad
      have whole : a.off + a.len ≤ barSize a.bar2 := fits
      rw [bar] at reads whole
      rw [reads, State.hostRead_abort whole short bad]
      rfl
    · intro leaves unlocked
      refine congrArg Host.Outcome.next (Eq.trans (if_pos (unlocked_of port unlocked)) ?_)
      refine if_pos ?_
      rw [Bool.or_eq_true, decide_eq_true_eq, decide_eq_true_eq]
      exact leaves
    · intro fits short unlocked
      refine congrArg Host.Outcome.next (Eq.trans (if_pos (unlocked_of port unlocked)) ?_)
      exact if_neg (by simpa using ⟨fits, short⟩)
    · intro width aligned fits good
      refine congrArg Host.Outcome.next (Eq.trans (if_pos (unlocked_of port fun h => (good h).2)) ?_)
      exact State.hostAtomic_performs width aligned fits fun h => (good h).1
  · intro b bs wf good all
    rw [State.mem_barWrite good, State.merged_all all]
  · intro b bs wf good none k
    rw [State.mem_barWrite good, State.byte_merged_none wf none]
  · intro p q c bytes va admitted who access hp opened
    have runs := exec_peerRequest hp opened
    have admits : admitted ↔ ((s.ctx c).imports.any fun e => e.2.admits q) = true := by
      rw [List.any_eq_true]
      exact exists_congr fun e => and_congr_right' (Aperture.admits_iff e.2 q).symm
    refine ⟨?_, ?_, ?_⟩
    · intro here refused
      rw [runs, if_pos (beq_iff_eq.2 here), State.targetPeer_refused (fun h => refused (admits.2 h))]
      rfl
    · intro here granted page pa pte t found
      have performs : exec .peerRequest s = .next (t.performPeer pa q.act who) := by
        rw [runs, if_pos (beq_iff_eq.2 here), State.targetPeer_performs (admits.1 granted) page found]
      refine ⟨?_, ?_, ?_⟩
      · intro n act good
        rw [performs, act, State.performPeer_read good]
        rfl
      · intro bs act good
        rw [performs, act, State.performPeer_write good]
        rfl
      · intro f n u v act width aligned good
        rw [performs, act, State.performPeer_atomic width aligned good]
        rfl
    · intro there out other
      rw [runs, if_neg (fun h => there (beq_iff_eq.1 h)), State.forwardPeer_leaves out other]

end Sys2Proof.Machine
end

section
/-! SUPPORT. The values of scalar float instructions (R24, R26, R44, R105, R106): the results of NaN operands and of invalid operations,
exact sums, the order of numbers, elements decoded in a binary format, and conversions to integers. -/

namespace Sys2Proof.Machine

/-! ## Results of NaN operands and invalid operations -/

/-- The bits of the positive canonical NaN of a precision (Table 2-2). -/
def floatNan (dp : Bool) : Nat := if dp then 0x7FF8000000000000 else 0x7FC00000

/-- The widths of the exponent and of the mantissa of a precision (Table 2-1). -/
def expBits (dp : Bool) : Nat := if dp then 11 else 8
def manBits (dp : Bool) : Nat := if dp then 52 else 23

theorem kindOf_floatTag (dp : Bool) : kindOf (floatTag dp) = some (.bin (expBits dp) (manBits dp) 0 true true) := by
  cases dp <;> rfl

theorem convert_bin {tag ew mw low : Nat} {inf nan : Bool} (kind : kindOf tag = some (.bin ew mw low inf nan)) (md : FpMode) (v : Val) :
    convert md tag v = convertBin md tag ew mw low inf nan v := by
  rw [convert, kind]

theorem convert_nan (md : FpMode) (dp : Bool) : convert md (floatTag dp) (.nan false) = (floatNan dp, 0) := by
  cases dp <;> rfl

section
variable {md : FpMode} {dp : Bool} {tag : Nat} {ops : List Val} {r a b c : Val}

theorem arith_nan (h : ops.any Val.isNan = true) : arith md (floatTag dp) ops r = (floatNan dp, 0) := by
  rw [arith, if_pos h, convert_nan]

theorem arith_invalid (h : ops.any Val.isNan = false) (invalid : r.isNan = true) :
    arith md (floatTag dp) ops r = (floatNan dp, flagNV) := by
  rw [arith, if_neg (Bool.eq_false_iff.1 h), if_pos invalid, convert_nan]
  exact Prod.ext rfl BitVec.zero_or

theorem arith_valid (h : ops.any Val.isNan = false) (valid : r.isNan = false) : arith md tag ops r = convert md tag r := by
  rw [arith, if_neg (Bool.eq_false_iff.1 h), if_neg (Bool.eq_false_iff.1 valid)]

theorem any_isNan_pair (a b : Val) : [a, b].any Val.isNan = (a.isNan || b.isNan) := by
  simp only [List.any_cons, List.any_nil, Bool.or_false]

/-- A division with a NaN is no division by zero. -/
theorem fdiv_nan (h : (a.isNan || b.isNan) = true) : fdiv md tag a b = arith md tag [a, b] (a.div b) := by
  cases a with
  | nan s => rfl
  | inf s => rfl
  | num s n d =>
    cases b with
    | nan u => exact if_neg (by simp [Val.isZero])
    | inf u => exact absurd h Bool.false_ne_true
    | num u m e => exact absurd h Bool.false_ne_true

theorem float_nan {f : FpMode → Nat → Val → Val → Nat × Flags} (hf : f ∈ [fadd, fsub, fmul, fmin, fmax, fdiv])
    (h : (a.isNan || b.isNan) = true) : f md (floatTag dp) a b = (floatNan dp, 0) := by
  have operand : [a, b].any Val.isNan = true := (any_isNan_pair a b).trans h
  simp only [List.mem_cons, List.not_mem_nil, or_false] at hf
  rcases hf with rfl | rfl | rfl | rfl | rfl | rfl
  iterate 5 exact arith_nan operand
  exact (fdiv_nan h).trans (arith_nan operand)

theorem fadd_opposite_inf (s : Bool) : fadd md (floatTag dp) (.inf s) (.inf !s) = (floatNan dp, flagNV) :=
  arith_invalid rfl (by cases s <;> rfl)

theorem fsub_same_inf (s : Bool) : fsub md (floatTag dp) (.inf s) (.inf s) = (floatNan dp, flagNV) :=
  arith_invalid rfl (by cases s <;> rfl)

theorem fmul_zero_inf (h : zeroTimesInf a b = true) : fmul md (floatTag dp) a b = (floatNan dp, flagNV) := by
  have invalid : [a, b].any Val.isNan = false ∧ (a.mul b).isNan = true := by
    cases a <;> cases b <;> simp_all [zeroTimesInf, Val.isZero, Val.isInf, Val.isNan, Val.mul]
  exact arith_invalid invalid.1 invalid.2

theorem ffma_zero_inf (h : zeroTimesInf a b = true) : ffma md (floatTag dp) a b c = (floatNan dp, flagNV) := by
  rw [ffma, if_pos h, convert_nan]
  exact Prod.ext rfl BitVec.zero_or

end

/-! ## Exact sums -/

/-- A value is the number `total / den`; as a zero it has the sign `zs`. -/
def Val.IsRatio (v : Val) (total : Int) (den : Nat) (zs : Bool) : Prop :=
  ∃ w k f, v = .num w k f ∧ 0 < f ∧ signedOf w k * den = total * f ∧ (k = 0 → w = zs)

theorem signedOf_natAbs (i : Int) : signedOf (decide (i < 0)) i.natAbs = i := by
  by_cases h : i < 0
  · rw [signedOf, if_pos (decide_eq_true h)]
    omega
  · rw [signedOf, if_neg (by simpa using h)]
    omega

theorem signedOf_zero (s : Bool) : signedOf s 0 = 0 := by cases s <;> rfl

/-- A numerator over `d` is the number over `d * c` of `c` times the numerator. -/
theorem Val.isRatio_ofSigned {i total : Int} {d c den : Nat} {zs : Bool} (hd : 0 < d) (parts : den = d * c) (sum : i * c = total) :
    (Val.ofSigned i d zs).IsRatio total den zs := by
  subst parts sum
  by_cases h : i = 0
  · refine ⟨zs, 0, 1, if_pos h, Nat.one_pos, ?_, fun _ => rfl⟩
    rw [signedOf_zero, h]
    simp
  · refine ⟨decide (i < 0), i.natAbs, d, if_neg h, hd, ?_, fun zero => absurd (Int.natAbs_eq_zero.1 zero) h⟩
    rw [signedOf_natAbs]
    push_cast
    ring

theorem Val.isRatio_add (zs s u : Bool) {n d m e : Nat} (hd : 0 < d) (he : 0 < e) :
    ((Val.num s n d).add zs (.num u m e)).IsRatio (signedOf s n * e + signedOf u m * d) (d * e)
      (if n = 0 ∧ m = 0 ∧ s = u then s else zs) := by
  by_cases zeros : n = 0 ∧ m = 0
  · obtain ⟨rfl, rfl⟩ := zeros
    refine ⟨if s = u then s else zs, 0, 1, rfl, Nat.one_pos, ?_, fun _ => ?_⟩
    · simp only [signedOf_zero, Int.zero_mul, Int.add_zero]
    · simp only [true_and]
  · have sign : (if n = 0 ∧ m = 0 ∧ s = u then s else zs) = zs := if_neg fun h => zeros ⟨h.1, h.2.1⟩
    rw [sign, Val.add, if_neg zeros]
    by_cases same : d = e
    · rw [if_pos same]
      subst same
      exact isRatio_ofSigned hd rfl (by ring)
    rw [if_neg same]
    by_cases left : e % d = 0
    · obtain ⟨q, rfl⟩ := Nat.dvd_of_mod_eq_zero left
      rw [if_pos left, Nat.mul_div_cancel_left _ hd]
      exact isRatio_ofSigned he (Nat.mul_comm ..) (by push_cast; ring)
    rw [if_neg left]
    by_cases right : d % e = 0
    · obtain ⟨q, rfl⟩ := Nat.dvd_of_mod_eq_zero right
      rw [if_pos right, Nat.mul_div_cancel_left _ he]
      exact isRatio_ofSigned hd rfl (by push_cast; ring)
    rw [if_neg right]
    exact isRatio_ofSigned (Nat.mul_pos hd he) (Nat.mul_one _).symm (by simp)

/-! ## Numbers -/

section
variable {md : FpMode} {dp : Bool} {tag n d m e : Nat} {s u : Bool}

theorem fdiv_num (hm : m ≠ 0) : fdiv md tag (.num s n d) (.num u m e) = convert md tag (.num (s != u) (n * e) (d * m)) := by
  have quotient : (Val.num s n d).div (.num u m e) = .num (s != u) (n * e) (d * m) := if_neg hm
  refine (if_neg (by simp [Val.isZero, hm])).trans ?_
  rw [quotient]
  rfl

theorem fdiv_by_zero : fdiv md (floatTag dp) (.num s n d) (.num u 0 e) =
    if n = 0 then (floatNan dp, flagNV) else ((convert md (floatTag dp) (.inf (s != u))).1, flagDZ) := by
  by_cases hn : n = 0
  · subst hn
    exact arith_invalid (ops := [.num s 0 d, .num u 0 e]) (r := .nan false) rfl rfl
  · have quotient : (Val.num s n d).div (.num u 0 e) = .inf (s != u) := by
      rw [Val.div, if_pos rfl, if_neg hn]
    have noFlag : (convert md (floatTag dp) (.inf (s != u))).2 = 0 := by cases dp <;> rfl
    rw [if_neg hn]
    refine (if_pos (by simp [Val.isZero, hn])).trans ?_
    rw [quotient, arith_valid rfl rfl, noFlag]
    exact Prod.ext rfl BitVec.zero_or

theorem fsqrt_negative (hn : n ≠ 0) : fsqrt md (floatTag dp) (.num true n d) = (floatNan dp, flagNV) :=
  arith_invalid rfl (by rw [sqrtVal, if_neg hn]; rfl)

theorem Val.lt_num : (Val.num s n d).lt (.num u m e) = decide (signedOf s n * e < signedOf u m * d) := rfl

theorem convert_zero (w : Bool) : convert md (floatTag dp) (.num w 0 d) = convert md (floatTag dp) (.num w 0 1) := by
  rw [convert_bin (kindOf_floatTag dp), convert_bin (kindOf_floatTag dp), convertBin, convertBin, if_pos rfl, if_pos rfl]

theorem fmin_num : fmin md tag (.num s n d) (.num u m e) = convert md tag (valMin (.num s n d) (.num u m e)) := by
  refine arith_valid rfl ?_
  show (valMin _ _).isNan = false
  rw [valMin]
  split <;> rfl

theorem fmax_num : fmax md tag (.num s n d) (.num u m e) = convert md tag (valMax (.num s n d) (.num u m e)) := by
  refine arith_valid rfl ?_
  show (valMax _ _).isNan = false
  rw [valMax]
  split <;> rfl

theorem valMin_less (h : signedOf s n * e < signedOf u m * d) : valMin (.num s n d) (.num u m e) = .num s n d := by
  refine if_neg ?_
  rw [Val.lt_num, decide_eq_false (by omega), Bool.false_or]
  intro zeros
  simp only [Val.isZero, Bool.and_eq_true, beq_iff_eq] at zeros
  obtain ⟨⟨rfl, rfl⟩, -⟩ := zeros
  simp only [signedOf_zero, Int.zero_mul, lt_self_iff_false] at h

theorem valMin_more (h : signedOf u m * d < signedOf s n * e) : valMin (.num s n d) (.num u m e) = .num u m e :=
  if_pos (by rw [Val.lt_num, decide_eq_true h, Bool.true_or])

theorem valMax_less (h : signedOf s n * e < signedOf u m * d) : valMax (.num s n d) (.num u m e) = .num u m e :=
  if_pos (by rw [Val.lt_num, decide_eq_true h, Bool.true_or])

theorem valMax_more (h : signedOf u m * d < signedOf s n * e) : valMax (.num s n d) (.num u m e) = .num s n d := by
  refine if_neg ?_
  rw [Val.lt_num, decide_eq_false (by omega), Bool.false_or]
  intro zeros
  simp only [Val.isZero, Bool.and_eq_true, beq_iff_eq] at zeros
  obtain ⟨⟨rfl, rfl⟩, -⟩ := zeros
  simp only [signedOf_zero, Int.zero_mul, lt_self_iff_false] at h

theorem valMin_zeros : valMin (.num s 0 d) (.num u 0 e) = if u then .num u 0 e else .num s 0 d := by
  rw [valMin, Val.lt_num]
  simp only [signedOf_zero, Int.zero_mul, lt_self_iff_false, decide_false, Bool.false_or, Val.isZero, BEq.rfl, Bool.true_and]
  rfl

theorem valMax_zeros : valMax (.num s 0 d) (.num u 0 e) = if s then .num u 0 e else .num s 0 d := by
  rw [valMax, Val.lt_num]
  simp only [signedOf_zero, Int.zero_mul, lt_self_iff_false, decide_false, Bool.false_or, Val.isZero, BEq.rfl, Bool.true_and]
  rfl

theorem fmin_zeros : fmin md (floatTag dp) (.num s 0 d) (.num u 0 e) = convert md (floatTag dp) (.num (s || u) 0 1) := by
  rw [fmin_num, valMin_zeros]
  cases u
  · rw [Bool.or_false]
    exact convert_zero s
  · rw [Bool.or_true]
    exact convert_zero true

theorem fmax_zeros : fmax md (floatTag dp) (.num s 0 d) (.num u 0 e) = convert md (floatTag dp) (.num (s && u) 0 1) := by
  rw [fmax_num, valMax_zeros]
  cases s
  · exact convert_zero false
  · exact convert_zero u

end

theorem fcmpHolds_nan (k : Nat) {a b : Val} (h : (a.isNan || b.isNan) = true) :
    fcmpHolds k a b = (k == 1 || k == 6, if 2 ≤ k ∧ k ≤ 5 then flagNV else 0) := by
  unfold fcmpHolds
  rw [h]
  match k with
  | 0 | 1 | 2 | 3 | 4 | 5 | 6 => rfl
  | k + 7 =>
    have range : ¬(2 ≤ k + 7 ∧ k + 7 ≤ 5) := by omega
    rw [if_neg range]
    rfl

theorem fcmpHolds_num (k : Nat) {a b : Val} (h : (a.isNan || b.isNan) = false) :
    fcmpHolds k a b = (match k with
      | 0 => !(a.lt b || b.lt a) | 1 => a.lt b || b.lt a | 2 => a.lt b | 3 => !b.lt a | 4 => b.lt a | 5 => !a.lt b | 6 => false
      | _ => true, 0) := by
  unfold fcmpHolds
  rw [h, Val.eq]
  generalize a.lt b = less
  generalize b.lt a = more
  match k with
  | 0 | 1 | 2 | 3 | 4 | 5 | 6 => cases less <;> cases more <;> rfl
  | k + 7 => rfl

/-! ## Elements of a binary format -/

section
variable {ew mw x : Nat}

theorem Val.dyadic_parts (s : Bool) (n : Nat) (e : Int) : (Val.dyadic s n e).isNan = false ∧ (Val.dyadic s n e).isInf = false ∧
    (Val.dyadic s n e).isZero = (n == 0) ∧ (Val.dyadic s n e).neg = s ∧ ∀ t, (Val.dyadic s n e).withSign t = .dyadic t n e := by
  rw [Val.dyadic]
  have scaled : (n * 2 ^ e.toNat == 0) = (n == 0) := by
    rw [Bool.eq_iff_iff, beq_iff_eq, beq_iff_eq, Nat.mul_eq_zero]
    simp
  split
  · exact ⟨rfl, rfl, scaled, rfl, fun t => (if_pos ‹_›).symm⟩
  · exact ⟨rfl, rfl, rfl, rfl, fun t => (if_neg ‹_›).symm⟩

theorem field_sign (h : x < 2 * 2 ^ (ew + mw)) : (field x (ew + mw) 1 == 1) = decide (2 ^ (ew + mw) ≤ x) := by
  have pos := Nat.two_pow_pos (ew + mw)
  have small : x / 2 ^ (ew + mw) < 2 := (Nat.div_lt_iff_lt_mul pos).2 h
  have quotient : field x (ew + mw) 1 = x / 2 ^ (ew + mw) := Nat.mod_eq_of_lt small
  rw [quotient, Bool.eq_iff_iff, beq_iff_eq, decide_eq_true_eq, ← Nat.one_le_div_iff pos]
  omega

/-- An element by its sign, exponent and mantissa (R23), in a format with infinities and NaNs. -/
theorem decodeBin_cases (ew mw x : Nat) : decodeBin ew mw true true false x =
    if field x mw ew = 0 then .dyadic (field x (ew + mw) 1 == 1) (field x 0 mw) (1 - (biasOf ew : Int) - mw)
    else if field x mw ew = 2 ^ ew - 1 then
      (if field x 0 mw = 0 then .inf (field x (ew + mw) 1 == 1) else .nan (field x (ew + mw) 1 == 1))
    else .dyadic (field x (ew + mw) 1 == 1) (2 ^ mw + field x 0 mw) ((field x mw ew : Int) - 1 + (1 - (biasOf ew : Int)) - mw) := by
  rw [decodeBin]
  simp only [Bool.false_eq_true, if_false, Bool.true_and, beq_iff_eq, Bool.not_true, Bool.false_and]

/-- The kind and the sign of an element (R23, R106). -/
theorem decodeBin_kind (hw : 0 < ew) : let v := decodeBin ew mw true true false x
    v.isNan = (field x mw ew == 2 ^ ew - 1 && field x 0 mw != 0) ∧ v.isInf = (field x mw ew == 2 ^ ew - 1 && field x 0 mw == 0) ∧
    v.isZero = (field x mw ew == 0 && field x 0 mw == 0) ∧ v.neg = (field x (ew + mw) 1 == 1) := by
  have last : 0 ≠ 2 ^ ew - 1 := by
    have : 2 ^ 1 ≤ 2 ^ ew := Nat.pow_le_pow_right (by decide) hw
    omega
  dsimp only
  rw [decodeBin_cases]
  by_cases zero : field x mw ew = 0
  · obtain ⟨nan, inf, isZero, neg, -⟩ :=
      Val.dyadic_parts (field x (ew + mw) 1 == 1) (field x 0 mw) (1 - (biasOf ew : Int) - mw)
    rw [if_pos zero, nan, inf, isZero, neg, zero, beq_eq_false_iff_ne.2 last]
    exact ⟨rfl, rfl, rfl, rfl⟩
  rw [if_neg zero, beq_eq_false_iff_ne.2 zero]
  by_cases top : field x mw ew = 2 ^ ew - 1
  · rw [if_pos top, beq_iff_eq.2 top]
    by_cases whole : field x 0 mw = 0
    · rw [if_pos whole, whole]
      exact ⟨rfl, rfl, rfl, rfl⟩
    · rw [if_neg whole, bne_iff_ne.2 whole, beq_eq_false_iff_ne.2 whole]
      exact ⟨rfl, rfl, rfl, rfl⟩
  · obtain ⟨nan, inf, isZero, neg, -⟩ := Val.dyadic_parts (field x (ew + mw) 1 == 1) (2 ^ mw + field x 0 mw)
      ((field x mw ew : Int) - 1 + (1 - (biasOf ew : Int)) - mw)
    have pos := Nat.two_pow_pos mw
    have nonzero : (2 ^ mw + field x 0 mw == 0) = false := beq_eq_false_iff_ne.2 (by omega)
    rw [if_neg top, nan, inf, isZero, neg, beq_eq_false_iff_ne.2 top, nonzero]
    exact ⟨rfl, rfl, rfl, rfl⟩

theorem field_magnitude (ew mw x : Nat) : field (x % 2 ^ (ew + mw)) mw ew = field x mw ew := by
  rw [field, field, Nat.add_comm, Nat.pow_add, Nat.mod_mul_right_div_self, Nat.mod_mod]

theorem field_mantissa (ew mw x : Nat) : field (x % 2 ^ (ew + mw)) 0 mw = field x 0 mw := by
  rw [field_zero, field_zero, Nat.mod_mod_of_dvd _ (Nat.pow_dvd_pow 2 (Nat.le_add_left mw ew))]

/-- A code with its sign replaced. -/
def signed (ew mw : Nat) (t : Bool) (x : Nat) : Nat := x % 2 ^ (ew + mw) + if t then 2 ^ (ew + mw) else 0

theorem signed_mod (t : Bool) : signed ew mw t x % 2 ^ (ew + mw) = x % 2 ^ (ew + mw) := by
  cases t
  · exact Nat.mod_mod _ _
  · exact (Nat.add_mod_right _ _).trans (Nat.mod_mod _ _)

theorem signed_lt (t : Bool) : signed ew mw t x < 2 * 2 ^ (ew + mw) := by
  have := Nat.mod_lt x (Nat.two_pow_pos (ew + mw))
  rw [signed]
  split <;> omega

theorem signed_sign (t : Bool) : (field (signed ew mw t x) (ew + mw) 1 == 1) = t := by
  have := Nat.mod_lt x (Nat.two_pow_pos (ew + mw))
  rw [field_sign (signed_lt t), Bool.eq_iff_iff, decide_eq_true_eq, signed]
  cases t
  · simp only [Bool.false_eq_true, if_false, iff_false]
    omega
  · simp only [if_true, iff_true]
    omega

/-- A code with another sign in front of its magnitude is the value with that sign. -/
theorem decodeBin_signed (t : Bool) : decodeBin ew mw true true false (signed ew mw t x) =
    (decodeBin ew mw true true false x).withSign t := by
  have exponent : field (signed ew mw t x) mw ew = field x mw ew := by
    rw [← field_magnitude, signed_mod, field_magnitude]
  have mantissa : field (signed ew mw t x) 0 mw = field x 0 mw := by
    rw [← field_mantissa ew, signed_mod, field_mantissa]
  rw [decodeBin_cases, decodeBin_cases, exponent, mantissa, signed_sign]
  split
  · exact ((Val.dyadic_parts _ _ _).2.2.2.2 t).symm
  split
  · split <;> rfl
  · exact ((Val.dyadic_parts _ _ _).2.2.2.2 t).symm

end

/-! ## Conversions to elements, sign changes and classes -/

theorem kindOf_expBits {tag ew mw low : Nat} {inf nan : Bool} (kind : kindOf tag = some (.bin ew mw low inf nan)) : 2 ≤ ew := by
  unfold kindOf at kind
  split at kind <;> simp only [Option.some.injEq, Kind.bin.injEq, reduceCtorEq] at kind
  all_goals omega

theorem decodeVal_bin {tag ew mw low : Nat} {inf nan : Bool} (kind : kindOf tag = some (.bin ew mw low inf nan)) (x : Nat) :
    decodeVal tag false x = decodeBin ew mw inf nan false (x / 2 ^ low) := by
  rw [decodeVal, kind]
  rfl

/-- R23, R44: a finite code, decoded and converted in its own format, is itself and sets no flag. -/
theorem convert_decodeVal {md : FpMode} {tag ew mw low x : Nat} {inf nan : Bool} (kind : kindOf tag = some (.bin ew mw low inf nan))
    (flush : md.fz = false) (size : x < 2 ^ (ew + mw + 1)) (isNan : (decodeVal tag false (x * 2 ^ low)).isNan = false)
    (isInf : (decodeVal tag false (x * 2 ^ low)).isInf = false) :
    convert md tag (decodeVal tag false (x * 2 ^ low)) = (x * 2 ^ low, 0) := by
  rw [decodeVal_bin kind, Nat.mul_div_cancel _ (Nat.two_pow_pos low)] at isNan isInf ⊢
  rw [convert_bin kind]
  exact convertBin_decodeBin md tag ew mw low inf nan x (kindOf_expBits kind) size (by rw [flush]; rfl) isNan isInf

theorem decodeVal_float (dp : Bool) (x : Nat) :
    decodeVal (floatTag dp) false x = decodeBin (expBits dp) (manBits dp) true true false x := by
  rw [decodeVal_bin (kindOf_floatTag dp), Nat.pow_zero, Nat.div_one]

section
variable {dp : Bool} {x : Nat}

/-- The exponent, mantissa and sign of a pattern. -/
def expOf (dp : Bool) (x : Nat) : Nat := x / 2 ^ manBits dp % 2 ^ expBits dp
def manOf (dp : Bool) (x : Nat) : Nat := x % 2 ^ manBits dp
def signBit (dp : Bool) (x : Nat) : Bool := decide (2 ^ (expBits dp + manBits dp) ≤ x)

theorem decodeVal_kind (size : x < 2 * 2 ^ (expBits dp + manBits dp)) : let v := decodeVal (floatTag dp) false x
    v.isNan = (expOf dp x == 2 ^ expBits dp - 1 && manOf dp x != 0) ∧
    v.isInf = (expOf dp x == 2 ^ expBits dp - 1 && manOf dp x == 0) ∧
    v.isZero = (expOf dp x == 0 && manOf dp x == 0) ∧ v.neg = signBit dp x := by
  have kinds := decodeBin_kind (ew := expBits dp) (mw := manBits dp) (x := x) (by cases dp <;> decide)
  rw [field_sign size, field_zero] at kinds
  rw [decodeVal_float]
  exact kinds

/-- The sign that `fneg` gives. -/
def fnegSign (abs s : Bool) : Bool := !abs && !s

theorem fnegBits_eq {ovf : BitVec 128} {abs : Bool} (size : x < 2 * 2 ^ (expBits dp + manBits dp)) :
    fnegBits ovf dp abs x =
      (convert { ovf } (floatTag dp) ((decodeVal (floatTag dp) false x).withSign (fnegSign abs (signBit dp x)))).1 := by
  rw [fnegBits, (decodeVal_kind size).2.2.2]
  cases abs <;> rfl

theorem withSign_isNan (t : Bool) (v : Val) : (v.withSign t).isNan = v.isNan := by cases v <;> rfl
theorem withSign_isInf (t : Bool) (v : Val) : (v.withSign t).isInf = v.isInf := by cases v <;> rfl

theorem fnegBits_finite {ovf : BitVec 128} {abs : Bool} (size : x < 2 * 2 ^ (expBits dp + manBits dp))
    (finite : expOf dp x ≠ 2 ^ expBits dp - 1) :
    fnegBits ovf dp abs x = signed (expBits dp) (manBits dp) (fnegSign abs (signBit dp x)) x := by
  obtain ⟨nan, inf, -, -⟩ := decodeVal_kind size
  rw [beq_eq_false_iff_ne.2 finite] at nan inf
  have code : (decodeVal (floatTag dp) false x).withSign (fnegSign abs (signBit dp x)) =
      decodeVal (floatTag dp) false (signed (expBits dp) (manBits dp) (fnegSign abs (signBit dp x)) x * 2 ^ 0) := by
    rw [Nat.pow_zero, Nat.mul_one, decodeVal_float, decodeVal_float, decodeBin_signed]
  rw [fnegBits_eq size, code, convert_decodeVal (kindOf_floatTag dp) rfl]
  · exact Nat.mul_one _
  · rw [Nat.pow_succ, Nat.mul_comm]
    exact signed_lt _
  · rw [← code, withSign_isNan, nan]
    rfl
  · rw [← code, withSign_isInf, inf]
    rfl

theorem fnegBits_nan {ovf : BitVec 128} {abs : Bool} (size : x < 2 * 2 ^ (expBits dp + manBits dp))
    (last : expOf dp x = 2 ^ expBits dp - 1) (mantissa : manOf dp x ≠ 0) :
    fnegBits ovf dp abs x = nanCode (expBits dp) (manBits dp) 0 true (fnegSign abs (signBit dp x)) := by
  obtain ⟨nan, -, -, -⟩ := decodeVal_kind size
  rw [beq_iff_eq.2 last, bne_iff_ne.2 mantissa] at nan
  rw [fnegBits_eq size, convert_bin (kindOf_floatTag dp)]
  cases h : decodeVal (floatTag dp) false x with
  | nan s => rfl
  | inf s => rw [h] at nan; exact absurd nan Bool.false_ne_true
  | num s n d => rw [h] at nan; exact absurd nan Bool.false_ne_true

theorem fnegBits_inf {ovf : BitVec 128} {abs : Bool} (size : x < 2 * 2 ^ (expBits dp + manBits dp))
    (last : expOf dp x = 2 ^ expBits dp - 1) (mantissa : manOf dp x = 0) :
    fnegBits ovf dp abs x = (convert { ovf } (floatTag dp) (.inf (fnegSign abs (signBit dp x)))).1 := by
  obtain ⟨-, inf, -, -⟩ := decodeVal_kind size
  rw [beq_iff_eq.2 last, beq_iff_eq.2 mantissa] at inf
  rw [fnegBits_eq size]
  cases h : decodeVal (floatTag dp) false x with
  | nan s => rw [h] at inf; exact absurd inf Bool.false_ne_true
  | inf s => rfl
  | num s n d => rw [h] at inf; exact absurd inf Bool.false_ne_true

theorem fnegSign_eq (abs s : Bool) : fnegSign abs s = !(abs || s) := by
  rw [fnegSign, Bool.not_or]

/-- The code that `fneg` gives a number: the sign bit cleared, or set where it was clear. -/
theorem signed_fnegSign {abs : Bool} :
    signed (expBits dp) (manBits dp) (fnegSign abs (signBit dp x)) x =
      if abs || signBit dp x then x % 2 ^ (expBits dp + manBits dp) else x + 2 ^ (expBits dp + manBits dp) := by
  rw [signed, fnegSign_eq]
  by_cases clears : (abs || signBit dp x) = true
  · rw [clears]
    exact Nat.add_zero _
  · have positive : x < 2 ^ (expBits dp + manBits dp) := by
      simp only [Bool.or_eq_true, not_or, signBit, decide_eq_true_eq, not_le] at clears
      exact clears.2
    rw [Bool.eq_false_iff.2 clears, Nat.mod_eq_of_lt positive]
    rfl

theorem nanCode_fnegSign {abs s : Bool} : nanCode (expBits dp) (manBits dp) 0 true (fnegSign abs s) =
    (2 ^ expBits dp - 1) * 2 ^ manBits dp + 2 ^ (manBits dp - 1) + if abs || s then 0 else 2 ^ (expBits dp + manBits dp) := by
  rw [nanCode, signCode, fnegSign_eq, if_pos rfl, Nat.pow_zero, Nat.mul_one, Nat.add_comm]
  cases abs || s <;> rfl

/-- The class tests by the parts of the value: a zero exponent, the last exponent, a zero mantissa, the sign (R106). -/
def classOf (k : Nat) (zero last whole s : Bool) : Bool :=
  match k with
  | 0 => last && whole && s
  | 1 => !zero && !last && s
  | 2 => zero && !whole && s
  | 3 => zero && whole && s
  | 4 => zero && whole && !s
  | 5 => zero && !whole && !s
  | 6 => !zero && !last && !s
  | 7 => last && whole && !s
  | 8 => last && !whole
  | 9 => zero && whole
  | 10 => last && whole
  | 11 => zero && !whole
  | _ => !last

theorem fclassHolds_eq (k : Nat) (size : x < 2 * 2 ^ (expBits dp + manBits dp)) :
    fclassHolds k dp x =
      classOf k (expOf dp x == 0) (expOf dp x == 2 ^ expBits dp - 1) (manOf dp x == 0) (signBit dp x) := by
  obtain ⟨nan, inf, isZero, neg⟩ := decodeVal_kind size
  have apart : ((expOf dp x == 0) && (expOf dp x == 2 ^ expBits dp - 1)) = false := by
    have last : 0 ≠ 2 ^ expBits dp - 1 := by cases dp <;> decide
    rw [Bool.and_eq_false_iff, beq_eq_false_iff_ne, beq_eq_false_iff_ne]
    omega
  have exponent : (field x (if dp then 52 else 23) (if dp then 11 else 8) == 0) = (expOf dp x == 0) := rfl
  have nonzero : (manOf dp x != 0) = !(manOf dp x == 0) := rfl
  unfold fclassHolds classOf
  dsimp only
  rw [nan, inf, isZero, neg, exponent, nonzero]
  generalize (expOf dp x == 0) = zero at apart ⊢
  generalize (expOf dp x == 2 ^ expBits dp - 1) = last at apart ⊢
  generalize (manOf dp x == 0) = whole
  generalize signBit dp x = s
  match k with
  | 0 | 1 | 2 | 3 | 4 | 5 | 6 | 7 | 8 | 9 | 10 | 11 =>
    revert zero last whole s
    decide
  | k + 12 =>
    change (!(last && !whole) && !(last && whole)) = !last
    cases last <;> cases whole <;> rfl

end

/-! ## Conversions to integers -/

/-- The integer that a value is in a range, in the mode, with its flags: saturated with NV, 0 for a NaN (R26). -/
def saturated (rm : Nat) (lo hi : Int) (out : Int → Nat) : Val → Nat × Flags
  | .nan _ => (0, flagNV)
  | .inf s => (out (if s then lo else hi), flagNV)
  | .num s n d =>
    let i := signedOf s (roundQuot rm s (n / d) (n % d) d)
    if i < lo then (out lo, flagNV) else if hi < i then (out hi, flagNV) else (out i, if n % d = 0 then 0 else flagNX)

/-- The bits of a converted integer, passed on by `g`, are those that `out` gives in the range. -/
theorem convertInt_saturated {rm b : Nat} {sg : Bool} {lo hi : Int} {out : Int → Nat} {g : Nat → Nat}
    (hlo : (if sg then -(2 ^ (b - 1) : Nat) else 0 : Int) = lo)
    (hhi : (if sg then (2 ^ (b - 1) : Nat) - 1 else (2 ^ b : Nat) - 1 : Int) = hi)
    (range : lo ≤ hi) (zero : g 0 = 0) (bits : ∀ i : Int, lo ≤ i → i ≤ hi → g (i % (2 ^ b : Nat)).toNat = out i) (v : Val) :
    (g (convertInt rm sg b v).1, (convertInt rm sg b v).2) = saturated rm lo hi out v := by
  unfold convertInt
  rw [hlo, hhi]
  cases v with
  | nan s => exact Prod.ext zero rfl
  | inf s =>
    refine Prod.ext ?_ rfl
    cases s
    · exact bits hi range le_rfl
    · exact bits lo le_rfl range
  | num s n d =>
    rw [saturated]
    dsimp only [roundInt]
    generalize signedOf s (roundQuot rm s (n / d) (n % d) d) = i
    by_cases below : i < lo
    · rw [if_pos below, if_pos below]
      exact Prod.ext (bits lo le_rfl range) rfl
    rw [if_neg below, if_neg below]
    by_cases above : hi < i
    · rw [if_pos above, if_pos above]
      exact Prod.ext (bits hi range le_rfl) rfl
    · rw [if_neg above, if_neg above]
      exact Prod.ext (bits i (not_lt.1 below) (not_lt.1 above)) rfl

/-- The 64 bits of an integer. -/
def dwordBits (i : Int) : Nat := (BitVec.ofInt 64 i).toNat

theorem dwordBits_eq (i : Int) : dwordBits i = (i % (2 ^ 64 : Nat)).toNat := BitVec.toNat_ofInt i

theorem fcvtValue_saturated (md : FpMode) (dp : Bool) (v : DWord) {k : Nat} {lo hi : Int}
    (h : (k, lo, hi) ∈ ([(1, -2 ^ 63, 2 ^ 63 - 1), (2, 0, 2 ^ 64 - 1), (5, -2 ^ 31, 2 ^ 31 - 1), (6, 0, 2 ^ 32 - 1)] :
      List (Nat × Int × Int))) :
    fcvtValue md k dp v = saturated md.rm lo hi dwordBits (floatVal md dp v) := by
  simp only [List.mem_cons, Prod.mk.injEq, List.not_mem_nil, or_false] at h
  rcases h with ⟨rfl, rfl, rfl⟩ | ⟨rfl, rfl, rfl⟩ | ⟨rfl, rfl, rfl⟩ | ⟨rfl, rfl, rfl⟩
  · exact convertInt_saturated (g := id) (sg := true) (b := 64) (by decide) (by decide) (by decide) rfl
      (fun i _ _ => (dwordBits_eq i).symm) _
  · exact convertInt_saturated (g := id) (sg := false) (b := 64) (by decide) (by decide) (by decide) rfl
      (fun i _ _ => (dwordBits_eq i).symm) _
  · refine convertInt_saturated (g := fun n => ((BitVec.ofNat 32 n).signExtend 64).toNat) (sg := true) (b := 32) (by decide) (by decide)
      (by decide) rfl (fun i hlo hhi => ?_) _
    have narrow : BitVec.ofNat 32 (i % (2 ^ 32 : Nat)).toNat = BitVec.ofInt 32 i :=
      BitVec.eq_of_toNat_eq (by rw [BitVec.toNat_ofNat, BitVec.toNat_ofInt]; omega)
    have value : (BitVec.ofInt 32 i).toInt = i := by
      rw [BitVec.toInt_ofInt, Int.bmod_def]
      omega
    rw [narrow, BitVec.signExtend, value]
    rfl
  · refine convertInt_saturated (g := id) (sg := false) (b := 32) (by decide) (by decide) (by decide) rfl (fun i hlo hhi => ?_) _
    rw [dwordBits_eq]
    simp only [id]
    omega

end Sys2Proof.Machine
end

section
/-! R104 to R106, Tables 4-5 to 4-7: the scalar float instructions and their values. -/

namespace Sys2Proof.Machine

section
variable {md : FpMode} {dp : Bool}

/-- The exact sum of two numbers is converted (R24, Table 4-6). -/
theorem fadd_num (s u : Bool) {n d m e : Nat} (hd : 0 < d) (he : 0 < e) : ∃ w k f,
    fadd md (floatTag dp) (.num s n d) (.num u m e) = convert md (floatTag dp) (.num w k f) ∧ 0 < f ∧
      signedOf w k * (d * e : Nat) = (signedOf s n * e + signedOf u m * d) * f ∧
      (k = 0 → w = if n = 0 ∧ m = 0 ∧ s = u then s else md.rm == 3) := by
  obtain ⟨w, k, f, sum, hf, exact, sign⟩ := Val.isRatio_add (md.rm == 3) s u (n := n) (m := m) hd he
  refine ⟨w, k, f, ?_, hf, exact, sign⟩
  rw [fadd, zeroSign, sum]
  rfl

theorem fmin_either (s u : Bool) (n d m e : Nat) :
    fmin md (floatTag dp) (.num s n d) (.num u m e) = convert md (floatTag dp) (.num s n d) ∨
    fmin md (floatTag dp) (.num s n d) (.num u m e) = convert md (floatTag dp) (.num u m e) := by
  rw [fmin_num, valMin]
  split
  · exact .inr rfl
  · exact .inl rfl

theorem fmax_either (s u : Bool) (n d m e : Nat) :
    fmax md (floatTag dp) (.num s n d) (.num u m e) = convert md (floatTag dp) (.num s n d) ∨
    fmax md (floatTag dp) (.num s n d) (.num u m e) = convert md (floatTag dp) (.num u m e) := by
  rw [fmax_num, valMax]
  split
  · exact .inr rfl
  · exact .inl rfl

end

/-- Settles O6: each instruction runs its body, whose lemma gives what it leaves; the values follow from the exact results, from
`roundQuot_spec` and from `convertBin_decodeBin`. -/
theorem floatArithmetic : Obligations.FloatArithmetic := by
  unfold Obligations.FloatArithmetic
  refine ⟨fun s x y => ⟨?two, ?ffma, ?one⟩, fun s x y => ⟨?fcmp, ?fneg, ?fclass⟩, fun md dp a b c => ?values, roundQuot_spec,
    fun md tag ew mw low x inf nan kind flush size hn hi => convert_decodeVal kind flush size hn hi, ?signs, ?ints⟩
  case two =>
    intro e he ha hr
    have run : exec e.1 s = runStrand e.1.view (floatBody e.2.2 e.2.1) s := by fin_cases he <;> rfl
    rw [run]
    exact runStrand_next ha (floatBody_ok e.2.2 hr)
  case ffma =>
    intro e he ha hr
    have run : exec e.1 s = runStrand e.1.view (ffmaBody e.2) s := by fin_cases he <;> rfl
    rw [run]
    exact runStrand_next ha (ffmaBody_ok hr)
  case one =>
    intro e he ha hr
    fin_cases he
    · exact runStrand_next ha (fcvtBody_ok hr)
    · exact runStrand_next ha (fcvtBody_ok hr)
    · exact runStrand_next ha (fsqrtBody_ok hr)
    · exact runStrand_next ha (fsqrtBody_ok hr)
  case fcmp =>
    intro e he ha hr
    have run : exec e.1 s = runStrand e.1.view (fcmpBody e.2) s := by fin_cases he <;> rfl
    rw [run]
    exact runStrand_next ha (fcmpBody_ok hr)
  case fneg =>
    intro e he ha hr
    have run : exec e.1 s = runStrand e.1.view (fnegBody e.2) s := by fin_cases he <;> rfl
    rw [run]
    exact runStrand_next ha (fnegBody_ok hr)
  case fclass =>
    intro e he ha hr
    have run : exec e.1 s = runStrand e.1.view (fclassBody e.2) s := by fin_cases he <;> rfl
    rw [run]
    exact runStrand_next ha (fclassBody_ok hr)
  case values =>
    refine ⟨fun f hf h => float_nan hf h, fun s => ⟨fadd_opposite_inf s, fsub_same_inf s⟩,
      fun h => ⟨fmul_zero_inf h, ffma_zero_inf h⟩, ?_, fun k h => fcmpHolds_nan k h⟩
    intro s u n d m e hd he x y
    refine ⟨fadd_num s u hd he, rfl, rfl, fun hm => fdiv_num hm, ?_, ?_,
      fmin_either s u n d m e, fmax_either s u n d m e, ?_, ?_, ?_, ?_⟩
    · rintro rfl
      exact fdiv_by_zero
    · rintro rfl hn
      exact fsqrt_negative hn
    · intro less
      rw [fmin_num, fmax_num, valMin_less less, valMax_less less]
      exact ⟨rfl, rfl⟩
    · intro more
      rw [fmin_num, fmax_num, valMin_more more, valMax_more more]
      exact ⟨rfl, rfl⟩
    · rintro rfl rfl
      exact ⟨fmin_zeros, fmax_zeros⟩
    · intro k
      refine (fcmpHolds_num k rfl).trans ?_
      match k with
      | 0 | 1 | 2 | 3 | 4 | 5 | 6 => rfl
      | k + 7 => rfl
  case signs =>
    intro dp ovf x ew mw top e m s last size
    refine ⟨fun abs => ?_, fun k => ?_⟩
    · by_cases finite : e ≠ last
      · rw [if_pos finite, fnegBits_finite size finite]
        exact signed_fnegSign
      rw [if_neg finite]
      by_cases mantissa : m ≠ 0
      · rw [if_pos mantissa, fnegBits_nan size (not_not.1 finite) mantissa]
        exact nanCode_fnegSign
      · rw [if_neg mantissa]
        exact fnegBits_inf size (not_not.1 finite) (not_not.1 mantissa)
    · rw [fclassHolds_eq k size]
      match k with
      | 0 | 1 | 2 | 3 | 4 | 5 | 6 | 7 | 8 | 9 | 10 | 11 => rfl
      | k + 12 => rfl
  case ints =>
    intro md dp v a out
    refine ⟨rfl, rfl, rfl, ?_⟩
    intro e he
    rw [fcvtValue_saturated md dp v he]
    change saturated md.rm e.2.1 e.2.2 dwordBits a = _
    clear_value a
    cases a <;> rfl

end Sys2Proof.Machine
end
